-- ==== Sys2Proof/Word.lean ====
section
/-! DEFINITION. The words of the block and the sparse table that every map of the state is. -/

namespace Sys2Proof

/-- A register of BAR0 (R10). -/
abbrev Word := BitVec 32

/-- A byte. -/
abbrev Byte := BitVec 8

/-- A word of a frame, a descriptor or a memory (R7). -/
abbrev W64 := BitVec 64

/-- A sparse table: pairs of a key and a value, keys strictly rising, and no pair whose value is the table's default.
An unlisted key reads as the default. Equal tables are equal lists. -/
abbrev Tab (α : Type) := List (Nat × α)

end Sys2Proof
end

