-- ==== Sys2Proof/Syntax.lean ====
section
/-! DEFINITION. The commands of the FX6400 block: one constructor per row of spec/opcode_table.json, with the row's
operands. What comes from outside the block (a party's value, a frame's words, a sample, a read's data) is an operand. -/

namespace Sys2Proof

/-- A search pipeline (Table 0.11). -/
inductive Pipe where
  | a
  | b
  deriving DecidableEq, Repr

/-- The party that makes a register access (Table 10.10, SOURCE). -/
inductive Party where
  /-- A PCI Express function: 0 the PF, 1 to 63 a VF (R268). -/
  | pcie (fn : Fin 64)
  /-- The cascade manager, through a CTRL frame or its own copy of a window (R227, R412). -/
  | manager
  /-- The board controller, over SMBus (R281). -/
  | smbus
  /-- The management processor. -/
  | mp
  deriving DecidableEq, Repr

/-- A link that trains: a lane group of the lookup link, or the receiver of the cascade link (R98, R208). -/
inductive LinkId where
  | fll (g : Fin 4)
  | fcl
  deriving DecidableEq, Repr

/-- A block of 257 bits on one lane: H and the body (R94). -/
structure LaneBlock where
  h : Bool
  body : BitVec 256
  deriving DecidableEq, Repr

/-- What takes an UP link to DOWN (R101). -/
inductive FaultCause where
  /-- Loss of signal on a lane, by its place in the link. -/
  | signal (i : Fin 16)
  | alignment
  | identity
  | farEnd
  /-- A link of a manager's ring other than its own receiver has left UP (R209). -/
  | ringLink
  deriving DecidableEq, Repr

/-- What the manager of a ring has learned of a worker: running, in reset, or back from a warm or a cold reset (R217, R225). -/
inductive WorkerState where
  | running
  | inReset
  | warm
  | cold
  | asleep
  deriving DecidableEq, Repr

/-- A worker as its manager sees it: its state, its time-of-day offset in 0.1 ns, and whether it reaches the slots of its searches
(Table 8.17). The spec gives no frame that tells it. -/
structure WorkerSeen where
  dev : Fin 16
  state : WorkerState
  ofs : Int
  slotOk : Bool
  deriving DecidableEq, Repr

/-- A profile or a table descriptor, as what a parity failure names (R233). -/
inductive DescWord where
  | profile (n : Fin 256) (w : Fin 73)
  | table (t : Fin 128)
  deriving DecidableEq, Repr

/-- A request that the DRAM controller accepts: 1 to 4 consecutive lines of 64 bytes (R303). -/
structure DramBurst where
  line : Nat
  lines : Fin 4
  deriving DecidableEq, Repr

/-- A row activation of the DRAM controller since the last decision: a line that the row holds, the bank and row as one number
(their place in an address is not visible, R302), and the requester whose request caused it (R307). -/
structure RowAct where
  line : Nat
  row : Nat
  req : Fin 8
  deriving DecidableEq, Repr

/-- The master of an access to the on-die memories and the DRAM: a PCI Express function through BAR4, or the MP in a space of
Table 10.18. -/
inductive MemMaster where
  | host (fn : Fin 64)
  | mp (space : Fin 4)
  deriving DecidableEq, Repr

/-- What the Scourer compares: a row of a logical pan with its rank words, or a Pantry word (R236). -/
inductive ScrubItem where
  | row (pan : Fin 256) (row : Fin 4096)
  | word (w : Fin 2097152)
  deriving DecidableEq, Repr

/-- The PLLs (Table 12.1). -/
inductive Pll where
  | array
  | system
  | dram
  | time
  | fll (g : Fin 4)
  | fcl
  | pcie
  deriving DecidableEq, Repr

/-- What an access names: the registers, the doorbells (Table 10.3), or the configuration space of a function (R259). -/
inductive AccessSpace where
  | bar0
  | bar2
  | config
  deriving DecidableEq, Repr

/-- What software writes into a function's configuration space: Bus Master Enable, D3hot, MSI-X Enable, Function Mask, the codes
of Max Payload Size and Max Read Request Size, and the error status bits it clears (R258, R261, R274). -/
structure FnControl where
  bme : Bool
  d3 : Bool
  msixEn : Bool
  fnMask : Bool
  mps : Fin 3
  mrrs : Fin 6
  clearErr : Word
  deriving DecidableEq, Repr

/-- An access of a party's registers or doorbells: its source, space, byte offset, length in bytes, whether every byte enable is
set (R265), and whether a write arrives with poisoned data (R262). -/
structure Access where
  src : Party
  space : AccessSpace
  off : Nat
  len : Nat
  full : Bool
  poisoned : Bool
  deriving DecidableEq, Repr

/-- What a start-up phase finds outside the block (R335, R357, R362): the banks that fail BIST after repair, DRAM trained, area
5 clean out of self-refresh, a flash that meets R362, a host or manager that delivers its image and is silent for 10 s, microcode that
reads back, and regulators that answer in the linear format. -/
structure StartEnv where
  badBanks : List (Fin 72)
  trained : Bool
  clean : Bool
  flash : Bool
  silent : Bool
  microcode : Bool
  regulator : Bool
  deriving DecidableEq, Repr


/-- The commands of the block: one constructor per row of spec/opcode_table.json, in its order. -/
inductive Instr where
  /-- DISPATCH (R20): In each PCLK cycle a pipeline's dispatch makes its one decision on the first visible
      search: it accepts it, accepts it for a REJECT, or discards it, and holds every other visible search. -/
  | dispatch (p : Pipe)
  /-- ARRAY_SEARCH (R23): In the search's issue slot, every pan activated by its lookups searches its subkey
      in one array cycle and reports its best row and rank. -/
  | arraySearch (p : Pipe) (badPans : List (Fin 256))
  /-- VERIFY (R24): The verify stage re-reads each winner's row and rank word through the verify port while
      the Pantry stage reads and corrects the record, and the lookup status is set. -/
  | verify (p : Pipe)
  /-- RESPONSE_LEAVE (R116): At PIP_LAT after dispatch, plus any hold, the response is handed to the group's
      transmit clock and its tag leaves flight. -/
  | responseLeave (p : Pipe)
  /-- SIEVE_WORD_REWRITE (R59): The Spatula rewrites a Sieve mask word that failed parity from its copy in the
      entry directory. -/
  | sieveWordRewrite (t : Fin 128) (bucket : Option (Fin 1024))
  /-- DESCRIPTOR_WORD_REWRITE (R233): The MP rewrites a profile or descriptor word that failed parity from its
      copy in DRAM. -/
  | descriptorWordRewrite (w : DescWord)
  /-- MAINT_SLOT (R31): In an M slot each hob grants at most one maintenance access to the first waiting
      requester in the order of Table 1.5. -/
  | maintSlot (h : Fin 16) (stuck : Bool)
  /-- SCRUB_COMPARE (R236): A scrubbed row, rank word or Pantry word is compared with its golden copy, and a
      difference is recorded and queued for repair. -/
  | scrubCompare (item : ScrubItem)
  /-- REPAIR (R238): A queued repair starts once the item's golden copy is written: it reads the golden data
      and rewrites the row, rank words and records. -/
  | repair (h : Fin 16)
  /-- DIVERGENCE_CHECK (R242): The Scourer compares the four rows of a divergence with the golden copy and
      repairs any that differ. -/
  | divergenceCheck
  /-- REUSE_HOLD_END (R29): 160 PCLK after a row is made not live, the slot, record and rank become reusable
      and uncovered Sieve bits may be cleared. -/
  | reuseHoldEnd
  /-- SPATULA_MOVE (R166): One move of an entry copies its record and rank, writes the new slot, then makes
      the old slot not live. -/
  | spatulaMove (n : Nat)
  /-- REBALANCE (R169): When no intent waits, the Spatula starts shifts that spread slack in pans with long
      occupied runs. -/
  | rebalance (pan : Fin 256)
  /-- GOLDEN_WRITE_DONE (R27): The golden-copy write of an update completes, so its completion with status OK
      can be written. -/
  | goldenWriteDone
  /-- INT_REMAP_GO (R244): A write of 1 to INT_REMAP_CTL.GO requests a remap of the selected logical pan. -/
  | intRemapGo (src : Party) (v : Word)
  /-- REMAP_START (R245): A waiting remap request starts once its hob has no remap in progress: it is recorded
      and the copy to the spare begins. -/
  | remapStart (pan : Fin 256)
  /-- REMAP_COPY_DONE (R245): The remap copier finishes copying the pan into the spare, and phase 2
      verification starts. -/
  | remapCopyDone (h : Fin 16)
  /-- REMAP_VERIFY_DONE (R245): The Scourer finishes comparing the spare with the golden copy, and the remap
      either proceeds to the settings write or aborts into a migration. -/
  | remapVerifyDone (h : Fin 16)
  /-- REMAP_RECORD_WRITTEN (R245): The settings record with the new PHYS is written, and the switch is
      scheduled for the next frame boundary. -/
  | remapRecordWritten (h : Fin 16)
  /-- REMAP_SWITCH (R51): At a frame boundary, HOB_LMAP_p.PHYS switches to the new physical pan for the next
      slot. -/
  | remapSwitch (h : Fin 16)
  /-- REMAP_RETIRE (R245): 160 PCLK after the switch, the old pan is retired, SPARE_PHYS becomes 0x1F, and the
      done record is written. -/
  | remapRetire (h : Fin 16)
  /-- MIGRATION_START (R247): A remap request in a hob with no spare starts migrating the pan's entries to
      other pans of its table. -/
  | migrationStart (pan : Fin 256)
  /-- MIGRATE_ENTRY (R247): One entry of a migrating pan is placed elsewhere from the golden copy, and its old
      slot is made not live. -/
  | migrateEntry (pan : Fin 256)
  /-- STRANDED_RETRY (R248): After positions are freed, and at least every 100 ms, the Spatula retries placing
      stranded entries. -/
  | strandedRetry (pan : Fin 256)
  /-- AGING_SAMPLE (R250): Every second, every aging monitor is sampled against its WARN and REMAP thresholds.
      -/
  | agingSample (margins : List Byte)
  /-- LIFE_MINUTE (R251): Each minute in RUN, IDLE or SLEEP advances the equivalent-age counter by a
      temperature-weighted amount. -/
  | lifeMinute (temp : Int) (hot : BitVec 10)
  /-- LIFE_SAVE (R251): Every hour, and at orderly power-down, the equivalent-age counter is written to VBAT.
      -/
  | lifeSave
  /-- DRAM_UNCORRECTABLE (R252): An uncorrectable DRAM error is handled according to the region it falls in.
      -/
  | dramUncorrectable (line : Nat) (item : Option ScrubItem)
  /-- INT_ERR_HEAD_WRITE (R253): Host software reports consumed error records by writing INT_ERR_HEAD. -/
  | intErrHeadWrite (src : Party) (v : Word)
  /-- INT_ERR_CFG_WRITE (R253): A write to INT_ERR_CFG configures the error ring, and setting EN flushes held
      records and the dropped-record record. -/
  | intErrCfgWrite (src : Party) (v : Word)
  /-- INT_SUM_MESSAGE (R255): A rising enabled interrupt bit writes a BLOCK record and sends the summary
      MSI-X, coalesced over 1 µs. -/
  | intSumMessage
  /-- GROUP_ENABLE (R98): A write of EN = 1 to a bound group in DOWN moves it to ADAPT. -/
  | groupEnable (src : Party) (g : Fin 4) (v : Word)
  /-- ADAPT_DONE (R98): Every lane of a group has signal, CDR lock and adapted equalisers, so the group enters
      LOCK. -/
  | adaptDone (l : LinkId)
  /-- CODEWORD_LOCK (R98): Every lane has found alignment blocks at one codeword offset in 3 consecutive
      intervals, so the group enters DESKEW. -/
  | codewordLock (l : LinkId)
  /-- DESKEW (R100): The group checks GROUP, LANE and skew of its lanes and either aligns them into READY or
      returns to DOWN with a fault. -/
  | deskew (l : LinkId) (skews : List Nat)
  /-- GROUP_UP (R98): RX_READY arrives twice on every lane, so the group enters UP, measures its path delays
      and sends CREDIT with EMPTY = 1. -/
  | groupUp (l : LinkId) (paths : Nat)
  /-- TRAINING_TIMEOUT (R99): The 30 ms training limit expires before READY, and the group returns to DOWN
      with FAULT 1 or 2. -/
  | trainingTimeout (l : LinkId)
  /-- LINK_FAULT (R101): Loss of signal, of alignment, of the identity or of far-end readiness takes an UP
      group to DOWN. -/
  | linkFault (l : LinkId) (why : FaultCause)
  /-- RETRAIN (R101): A write of 1 to LNK_GRP_CTL_g.RETRAIN sends the group to DOWN and then into ADAPT. -/
  | retrain (src : Party) (g : Fin 4) (v : Word)
  /-- GROUP_DISABLE (R101): A write of EN = 0 moves an UP group to DRAIN and a training group to DOWN. -/
  | groupDisable (src : Party) (g : Fin 4) (v : Word)
  /-- DRAIN_DONE (R98): The last response due on a DRAIN group has left, so the group enters DOWN. -/
  | drainDone (g : Fin 4)
  /-- AUTO_RETRAIN (R98): 1 ms after a fault, a group with AUTO = 1 leaves DOWN for ADAPT. -/
  | autoRetrain (l : LinkId)
  /-- ALIGNMENT_BLOCK (R97): A lane receives an alignment block that carries lock, lane identity and RX_READY.
      -/
  | alignmentBlock (n : Fin 48) (body : BitVec 256) (placed : Bool)
  /-- FRAME_RECEIVE (R109): A trailer closes a frame on a group, and the checks of Table 4.16 commit it, drop
      it or raise a wake event. -/
  | frameReceive (l : LinkId) (blocks : List LaneBlock) (corrected : List Nat)
  /-- CODEWORD_UNCORRECTABLE (R110): An uncorrectable codeword on an UP group poisons the open frame and any
      frame that opens in it. -/
  | codewordUncorrectable (g : Fin 4) (lane : Fin 8)
  /-- POISON_BOUNDARY_DROP (R110): At the next codeword boundary, a still-open poisoned frame is dropped, its
      credits freed, and framing returns to OUT. -/
  | poisonBoundaryDrop (g : Fin 4)
  /-- FIFO_PTR_RESET (R115): A pointer-copy mismatch resets the ingress FIFO, discarding its frames and
      freeing their credits. -/
  | fifoPtrReset (g : Fin 4)
  /-- CREDIT_FRAME (R120): A CREDIT frame leaves on each UP group when CUM has changed and a position is free,
      and at least every 1 µs. -/
  | creditFrame (g : Fin 4)
  /-- LNK_GRP_MAP_WRITE (R92): A write to LNK_GRP_MAP rebinds groups, or is refused whole if it changes a
      group that is not DOWN. -/
  | lnkGrpMapWrite (src : Party) (v : Word)
  /-- SCHED_SWITCH (R135): A write of 1 to PIP_SCHED_CTL.SWITCH validates the shadow schedule and either
      records a failure or waits for the switch boundary. -/
  | schedSwitch (src : Party) (v : Word)
  /-- SCHED_SWITCH_BOUNDARY (R136): At the allowed frame boundary, the validated shadow schedule becomes
      active in every hob and pipeline. -/
  | schedSwitchBoundary (elsewhere : Bool)
  /-- PRF_INSTALL (R83): A write of PRF_CTL with OP INSTALL validates the staged profile against Table 3.14.
      -/
  | prfInstall (src : Party) (v : Word)
  /-- PRF_FETCH (R83): A write of PRF_CTL with OP FETCH copies an installed profile into the staging area. -/
  | prfFetch (src : Party) (v : Word)
  /-- PRF_INVALIDATE (R83): A write of PRF_CTL with OP INVALIDATE makes a profile invalid at one PCLK
      boundary. -/
  | prfInvalidate (src : Party) (v : Word)
  /-- PROFILE_SWITCH (R83): Validation ends, the profile changes at one PCLK boundary or stays, and PRF_STAT
      records the outcome as BUSY clears. -/
  | profileSwitch (elsewhere : Bool)
  /-- TBL_SEL_WRITE (R72): A write to TBL_SEL latches a snapshot of the selected table descriptor and its
      live-entry count. -/
  | tblSelWrite (src : Party) (v : Word)
  /-- SVE_MAP_SEL_WRITE (R59): A write to SVE_MAP_SEL latches the selected bucket or broad mask into
      SVE_MAP_DATA as one snapshot. -/
  | sveMapSelWrite (src : Party) (v : Word)
  /-- DOORBELL_SQ_TAIL (R145): A submission-tail doorbell write sets a ring's tail, or is refused and may send
      the ring to FAULT. -/
  | doorbellSqTail (fn : Fin 64) (off : Nat) (size : Nat) (full : Bool) (v : W64) (poisoned : Bool)
  /-- DOORBELL_CQ_HEAD (R145): A completion-head doorbell write marks completion entries consumed, or is
      refused and may send the ring to FAULT. -/
  | doorbellCqHead (fn : Fin 64) (off : Nat) (size : Nat) (full : Bool) (v : W64) (poisoned : Bool)
  /-- UPD_RING_SEL_WRITE (R177): A write to UPD_RING_SEL latches the selected ring's context into the window.
      -/
  | updRingSelWrite (src : Party) (v : Word)
  /-- RING_APPLY (R177): A write of 1 to UPD_RING_CTL.APPLY writes the staging copy into the ring context. -/
  | ringApply (src : Party) (v : Word)
  /-- RING_START (R146): A write of 1 to UPD_RING_CTL.START applies the configuration and moves an OFF ring to
      RUN with its pointers reset. -/
  | ringStart (src : Party) (v : Word)
  /-- RING_STOP (R147): A write of 1 to UPD_RING_CTL.STOP moves the ring to STOP and aborts fetched commands
      that have not begun. -/
  | ringStop (src : Party) (v : Word)
  /-- RING_STOP_DONE (R146): Every completion due on a stopping ring has been written, so it enters OFF and
      its batches are discarded. -/
  | ringStopDone (r : Fin 16384)
  /-- INTENT_SCHEDULE (R149): The intent engine serves the eligible ring of highest priority and issues reads
      for up to 8 slots of whole commands. -/
  | intentSchedule (heads : List (Fin 16384 × List W64))
  /-- DESCRIPTOR_ARRIVE (R155): A descriptor read completes, and the command is parsed and checked in order
      before it is executed. -/
  | descriptorArrive (n : Nat) (data : Option (List W64))
  /-- RING_INTERRUPT (R175): A ring sends its MSI-X when the completion count is reached, the wait time
      expires, NOTIFY is set or a notice sets. -/
  | ringInterrupt (r : Fin 16384)
  /-- HELD_COMMAND_RELEASE (R162): Immediate commands held while RECON = 1 proceed in parse order once
      reconciliation ends. -/
  | heldCommandRelease (d : Fin 8)
  /-- TABLE_CREATE (R70): The command checks and creates a logical table, freeing its pans, masks and data
      regions. -/
  | tableCreate (n : Nat)
  /-- TABLE_DESTROY (R71): The command checks that the table can be destroyed, drains its commands, and frees
      its slots and masks. -/
  | tableDestroy (n : Nat)
  /-- TABLE_RELEASE (R71): After the hold, a destroyed table's pans and data regions are released and its
      completion is written. -/
  | tableRelease (t : Fin 128)
  /-- INSERT (R164): The command places a new entry by pan choice and in-pan placement, shifting entries as
      needed. -/
  | insert (n : Nat)
  /-- DELETE (R163): The command clears the E bits of an entry's slot in the current or next epoch. -/
  | delete (n : Nat)
  /-- MODIFY_DATA (R163): The command rewrites an entry's record in place, or places a new slot in a batch. -/
  | modifyData (n : Nat)
  /-- MODIFY_RANK (R167): The command rewrites an entry's rank in place, or moves it within its pan or to
      another pan. -/
  | modifyRank (n : Nat)
  /-- READ (R157): The command finds an entry by key or index and writes its entry image to host memory. -/
  | read (n : Nat)
  /-- BATCH_BEGIN (R180): The command opens a batch in an IDLE domain, owned by the command's ring. -/
  | batchBegin (n : Nat)
  /-- BATCH_END (R180): The command closes the ring's open batch, or discards it with DISCARD. -/
  | batchEnd (n : Nat)
  /-- COMMIT (R183): The command flips a closed batch's domain now, advancing the counter and setting RECON.
      -/
  | commit (n : Nat)
  /-- COMMIT_AT (R184): The command records a flip of a closed batch's domain at time T, or completes LATE or
      MALFORMED. -/
  | commitAt (n : Nat)
  /-- FENCE (R172): The command waits for earlier commands, of its ring or globally, and optionally for
      drained searches. -/
  | fence (n : Nat)
  /-- FENCE_COMPLETE (R172): A FENCE's conditions are all met, so it completes with status OK. -/
  | fenceComplete (n : Nat)
  /-- SNAPSHOT (R173): The command writes an image of every live entry of a table to host memory as of one
      instant. -/
  | snapshot (n : Nat)
  /-- FW_BLOCK (R368): The command delivers one block of a firmware image into the image session. -/
  | fwBlock (n : Nat) (data : Option (List Byte))
  /-- FW_CONFIRM (R376): The command confirms the running unconfirmed image and advances the anti-rollback
      index. -/
  | fwConfirm (n : Nat)
  /-- SCHEDULED_FLIP (R184): At the first time tick at or after T, a PENDING domain advances its counter and
      enters IDLE with RECON = 1. -/
  | scheduledFlip (d : Fin 8)
  /-- EPOCH_RETIRE (R33): No search stamped before T remains, so the domain retires the old epoch, clears T
      and starts reconciliation. -/
  | epochRetire (d : Fin 8)
  /-- RECONCILIATION_DONE (R187): Reconciliation of the committed batch completes, RECON clears and held batch
      writes may proceed. -/
  | reconciliationDone (d : Fin 8)
  /-- DISCARD_DONE (R182): The last restoring write of a discarded batch completes, so the domain goes to IDLE
      and DISCARD sets. -/
  | discardDone (d : Fin 8)
  /-- TOD_SET (R195): A write of 1 to TOD_CTL.SET requests a load of TOD_SET_* at a tick. -/
  | todSet (src : Party) (v : Word)
  /-- TOD_STEP (R195): A write of 1 to TOD_CTL.STEP requests the addition of TOD_STEP at a tick. -/
  | todStep (src : Party) (v : Word)
  /-- TOD_ADJUST_APPLY (R195): At its tick, or after a backward hold ends, a requested SET or STEP is applied
      and its W1S bit clears. -/
  | todAdjustApply
  /-- TOD_SLEW (R196): A write of 1 to TOD_CTL.SLEW moves the staged amount into a new running slew at the
      latched rate. -/
  | todSlew (src : Party) (v : Word)
  /-- SLEW_DONE (R196): A running slew's remainder reaches 0, and SLEWING clears. -/
  | slewDone
  /-- PPS_OUT_RISE (R198): PPS_OUT rises when time-of-day counts through the configured nanosecond offset. -/
  | ppsOutRise
  /-- PPS_OUT_FALL (R198): PPS_OUT falls after WIDTH µs. -/
  | ppsOutFall
  /-- PULSE_EDGE (R200): An active edge on a pulse input is timestamped, or is counted as missed in an
      acknowledge phase. -/
  | pulseEdge (n : Fin 3)
  /-- PULSE_REARM (R200): The acknowledge returns to a pulse front end, which re-arms and closes its
      acknowledge phase. -/
  | pulseRearm (n : Fin 3)
  /-- STAMP_REALIGN (R189): Every 1 µs the time island re-aligns each deframer's local time copy through a
      held snapshot. -/
  | stampRealign
  /-- TOD_SNAP_SEL_WRITE (R201): A write to TOD_SNAP_SEL latches live time-of-day or a pulse capture into the
      snapshot registers. -/
  | todSnapSelWrite (src : Party) (v : Word)
  /-- EPC_SEL_WRITE (R201): A write to EPC_SEL latches a domain's counter, state, owner, batch size and T. -/
  | epcSelWrite (src : Party) (v : Word)
  /-- CAS_ENABLE (R209): A write of CAS_CFG with EN on a manager starts ring formation, or with EN = 0 returns
      the ring to DOWN. -/
  | casEnable (src : Party) (v : Word)
  /-- RING_LINKS_UP (R209): Every link of the ring is UP, so the manager starts discovery. -/
  | ringLinksUp
  /-- DISCOVER_FRAME (R210): A worker appends its DEV_ID to a DISCOVER frame and forwards it. -/
  | discoverFrame (words : List W64)
  /-- DISCOVER_RETURN (R210): The DISCOVER frame returns to the manager, which passes to LOAD or enters FAULT.
      -/
  | discoverReturn (words : List W64)
  /-- DISCOVER_TIMEOUT (R210): The DISCOVER frame does not return within 100 µs, so the manager enters FAULT
      with code 3. -/
  | discoverTimeout
  /-- RING_LOAD_DONE (R209): Every worker runs firmware or has refused it, so the ring enters ALIGN. -/
  | ringLoadDone
  /-- RING_ALIGN_DONE (R209): Every worker is aligned and replayed or withheld, so the ring enters FORMED. -/
  | ringAlignDone
  /-- CAS_REFORM (R209): A write of 1 to CAS_CTL.REFORM takes the ring from FAULT to DOWN. -/
  | casReform (src : Party) (v : Word)
  /-- CAS_ADMIT (R225): A write of 1 to CAS_CTL.ADMIT clears the tables-not-ready cause of the chosen worker.
      -/
  | casAdmit (src : Party) (v : Word)
  /-- WORKER_ADMIT (R225): A worker meets every admission condition and is admitted to search. -/
  | workerAdmit (k : Fin 16) (reload : Bool)
  /-- CSEARCH (R214): A worker receives a CSEARCH, dispatches the search with the manager's stamp and slot,
      and forwards it. -/
  | csearch (words : List W64)
  /-- CAND (R215): A device merges the incoming candidate with its own and sends the result on COUT. -/
  | cand (words : List W64)
  /-- CAS_PREPARE (R223): A worker checks a PREPARE against its domain, enters PREPARED or refuses, and
      answers ACK. -/
  | casPrepare (words : List W64)
  /-- CAS_ACK (R223): The manager receives a worker's ACK, and records T and sends GO when all workers have
      agreed, or aborts. -/
  | casAck (words : List W64)
  /-- CAS_DECIDE (R224): A PREPARED worker receives DECIDE and enters PENDING on GO or returns to its prior
      state on abort. -/
  | casDecide (words : List W64)
  /-- PREPARE_TIMEOUT (R224): An ACK is missing TIMEOUT after PREPARE, so the manager aborts the cascade
      commit. -/
  | prepareTimeout
  /-- TIME_FRAME_SEND (R221): In ALIGN and every 125 µs after, the manager sends a TIME frame. -/
  | timeFrameSend (seen : List WorkerSeen)
  /-- TIME_FRAME (R222): A worker aligns its frame counter and disciplines its time-of-day from a TIME frame,
      and may be withheld. -/
  | timeFrame (words : List W64)
  /-- STATE_FRAME (R225): A worker returning from reset applies a domain's counter, state and T from a STATE
      frame. -/
  | stateFrame (words : List W64)
  /-- CTRL_FRAME (R227): A worker performs the register read or write carried by a CTRL frame and answers ACK.
      -/
  | ctrlFrame (words : List W64) (order : Option (Fin 5))
  /-- RELAY_FRAME (R228): A relayed command reaches a worker's relay ring, or a relayed completion reaches the
      manager's ring. -/
  | relayFrame (words : List W64)
  /-- IMG_FRAME (R229): A loading worker receives and checks one 512-byte portion of its firmware image. -/
  | imgFrame (words : List W64)
  /-- CAS_RA_READ (R227): A write of CAS_RA_CTL with OP read sends a CTRL read to the selected worker and sets
      BUSY. -/
  | casRaRead (src : Party) (v : Word)
  /-- CAS_RA_WRITE (R227): A write of CAS_RA_CTL with OP write sends a CTRL write to the selected worker and
      sets BUSY. -/
  | casRaWrite (src : Party) (v : Word)
  /-- CAS_RA_DONE (R227): The worker's ACK returns, and the remote access records its RESULT and data and
      clears BUSY. -/
  | casRaDone (words : List W64)
  /-- BAR4_READ (R267): A host read through BAR4 returns Pantry, scratchpad, activity or DRAM data, subject to
      regions. -/
  | bar4Read (m : MemMaster) (off : Nat) (be : List Bool) (rivals : List (List (Fin 5)))
  /-- BAR4_WRITE (R267): A host write through BAR4 is performed, with read-modify-write of partial words, or
      refused. -/
  | bar4Write (m : MemMaster) (off : Nat) (data : List (Option Byte)) (poisoned : Bool) (rivals : List (List (Fin 5)))
  /-- ALIAS_SET_WRITE (R293): A write to the set alias ORs the value into the word. -/
  | aliasSetWrite (m : MemMaster) (off : Nat) (data : List (Option Byte)) (poisoned : Bool) (rivals : List (List (Fin 5)))
  /-- ALIAS_CLEAR_WRITE (R293): A write to the clear alias clears the written bits in the word. -/
  | aliasClearWrite (m : MemMaster) (off : Nat) (data : List (Option Byte)) (poisoned : Bool) (rivals : List (List (Fin 5)))
  /-- ACTIVITY_CLEAR (R65): A host write to the activity clear alias clears the activity bits written as 1. -/
  | activityClear (fn : Fin 64) (off : Nat) (data : List (Option Byte)) (poisoned : Bool)
  /-- VF_FLR (R262): A function-level reset of a VF stops its rings, masks its vectors and resets its
      configuration. -/
  | vfFlr (f : Fin 64)
  /-- PF_FLR (R262): A function-level reset of the PF resets every VF and PF ring, clears error reporting and
      discards any proposal. -/
  | pfFlr
  /-- VF_DISABLE (R262): Clearing VF Enable or lowering NumVFs acts as an FLR of every VF that ceases to
      exist. -/
  | vfDisable (vfEnable : Bool) (numVFs : Nat)
  /-- BUS_MASTER_ENABLE (R261): A change of a function's Bus Master Enable or power state stops or resumes its
      requests. -/
  | busMasterEnable (f : Fin 64) (c : FnControl)
  /-- MSIX_PENDING_SEND (R274): A pending MSI-X vector is sent once its function and entry are unmasked and
      enabled. -/
  | msixPendingSend (vec : Fin 2048)
  /-- PROPOSAL_STAGE (R279): A PF write to a protection-group register appends an entry to the proposal
      buffer. -/
  | proposalStage (src : Party) (off : Nat) (v : Word)
  /-- PROP_SUBMIT (R279): A write of 1 to PRT_PROP_CTL.SUBMIT checks the buffer and either refuses it or
      starts the wait for confirmation. -/
  | propSubmit (src : Party) (v : Word)
  /-- PROP_CANCEL (R279): A write of 1 to PRT_PROP_CTL.CANCEL empties the buffer and ends any wait. -/
  | propCancel (src : Party) (v : Word)
  /-- PROP_READ (R281): The SMBus PROP_READ command returns the waiting proposal's header and entries. -/
  | propRead
  /-- CONFIRM (R282): The SMBus CONFIRM command applies a waiting proposal when SEQ and DIGEST match. -/
  | confirm (seq : BitVec 16) (digest : Word)
  /-- REJECT (R282): The SMBus REJECT command ends a waiting proposal without writing it. -/
  | reject (seq : BitVec 16)
  /-- PROP_EXPIRE (R282): 100 ms after SUBMIT with no answer, the proposal expires with RESULT 5. -/
  | propExpire
  /-- STATUS (R281): The SMBus STATUS command returns PRT_PROP_STAT. -/
  | status
  /-- REG_READ (R281): The SMBus REG_READ command reads any BAR0 register. -/
  | regRead (off : BitVec 24)
  /-- REG_WRITE (R281): The SMBus REG_WRITE command writes a FWU_ register, or is refused. -/
  | regWrite (off : BitVec 24) (v : Word)
  /-- REF_READ (R281): The SMBus REF_READ command returns the 8 newest refusal-log entries. -/
  | refRead
  /-- ALERT_RESPONSE (R281): An Alert Response Address read is answered with the device address and SMBALERT_N
      is released. -/
  | alertResponse
  /-- SMB_PEC_ERROR (R281): An SMBus command with a wrong PEC byte is NACKed, counted and discarded. -/
  | smbPecError (code : Byte)
  /-- SMB_SCL_TIMEOUT (R399): After SMB_SCL has been low for 25 ms, the target abandons the transaction and
      releases both lines. -/
  | smbSclTimeout
  /-- PRT_REF_SEL_WRITE (R286): A write to PRT_REF_SEL latches the selected refusal-log entry. -/
  | prtRefSelWrite (src : Party) (v : Word)
  /-- SETTINGS_WRITE (R378): The MP writes changed settings into the older settings-record copy, updating the
      VBAT digests. -/
  | settingsWrite
  /-- GLB_MEM_MODE_WRITE (R296): The MP changes memory mode among START, SERVICE and RECOVERY, or is refused.
      -/
  | glbMemModeWrite (src : Party) (v : Word)
  /-- BANK_OWN_WRITE (R297): A write to GLB_BANK_OWN_n.OWNER starts handing a bank to a new owner. -/
  | bankOwnWrite (src : Party) (n : Fin 72) (v : Word)
  /-- BANK_HANDOVER_DONE (R297): The old owner's last access completes, OWNER takes its new value and BUSY
      clears. -/
  | bankHandoverDone (n : Fin 72)
  /-- BIST_DONE (R298): The march test of a bank ends, and the bank returns to its RET owner. -/
  | bistDone (n : Fin 72) (bad : Nat)
  /-- LOADER_DONE (R298): The loader finishes filling a bank and hands it back to its RET owner. -/
  | loaderDone (n : Fin 72)
  /-- REFRESH_TICK (R305): A subchannel's refresh interval elapses, adding to its debt and forcing refreshes
      above LIMIT. -/
  | refreshTick (sc : Fin 4)
  /-- REFRESH_POLL (R304): The mode-register reading of a subchannel switches it between normal and hot
      refresh. -/
  | refreshPoll (sc : Fin 4) (hot : Bool) (hotter : Bool)
  /-- REFRESH_OPPORTUNISTIC (R305): A subchannel with debt and an empty queue issues one all-bank refresh. -/
  | refreshOpportunistic (sc : Fin 4)
  /-- RAT_WINDOW_RESET (R307): At the end of each window, all row-activation counts reset and throttling ends.
      -/
  | ratWindowReset
  /-- ARB_DECISION (R310): When the DRAM port will have no owner, the arbiter grants it to the highest-
      priority unmasked requester. -/
  | arbDecision (req : List (Fin 8)) (taken : List DramBurst) (done : Nat) (acts : List RowAct)
  /-- ARB_PRIO_WRITE (R314): A write to ARB_PRIO changes requester priorities, taking effect at later
      decisions. -/
  | arbPrioWrite (src : Party) (v : Word)
  /-- STATS_FLUSH (R309): Every 1 ms the statistics flush writes counter snapshots to DRAM area 4. -/
  | statsFlush
  /-- PLL_UNLOCK (R317): A PLL loses lock, and the device acts as its row of Table 12.1 states. -/
  | pllUnlock (pll : Pll)
  /-- PLL_RELOCK (R317): A PLL that lost lock locks again, and held islands and time keeping resume. -/
  | pllRelock (pll : Pll)
  /-- CDC_TIMEOUT (R324): A crossing's far clock shows no change for the limit, so outstanding transfers end
      and the crossing is marked dead. -/
  | cdcTimeout (x : Fin 59)
  /-- CROSSING_RESET (R327): The reset controller parks, resets and releases both sides of a crossing, re-
      arming it. -/
  | crossingReset (x : Fin 59)
  /-- COLD_RESET (R328): Power-on, RESET_N low or system PLL loss resets everything except the VBAT domain and
      the retention flag. -/
  | coldReset (cause : Nat)
  /-- WARM_RESET (R329): A warm reset stops the device, resets the islands, restarts the MP and returns to
      SERVICE. -/
  | warmReset (cause : Nat)
  /-- PCIE_RESET (R328): PERST_N, a hot reset or link down resets the PCIe island and the listed host-
      interface state. -/
  | pcieReset
  /-- ISLAND_RESET (R328): A write of 1 to GLB_RST_CTL.ISL_GO, or an automatic cause, resets one island. -/
  | islandReset (src : Party) (v : Word)
  /-- MP_WATCHDOG (R328): The MP watchdog goes unserviced for 100 ms, so the MP island is reset. -/
  | mpWatchdog
  /-- START_UP_PHASE (R335): A start-up phase completes and the next begins, or start-up stops with FAIL. -/
  | startUpPhase (env : StartEnv)
  /-- GOLDEN_RELOAD (R333): Golden reload restores descriptors, profiles, Sieve maps and every entry from the
      golden copy. -/
  | goldenReload
  /-- RELOAD_DONE (R333): Golden reload completes every table, and RELOADED sets. -/
  | reloadDone
  /-- VDD_AUX_RISE (R391): VDD_AUX rises through 1.62 V, starting a cold reset of cause 1. -/
  | vddAuxRise
  /-- SUPPLY_FALL (R391): VDD_AUX or VDDQ falls below its threshold, clearing the retention flag or asserting
      reset. -/
  | supplyFall (vddq : Bool)
  /-- POWER_TIMER_EXPIRE (R342): An idle timer expires, and the power controller chooses the deepest allowed
      state and starts its entry. -/
  | powerTimerExpire (st : Nat) (lanesIdle : Bool)
  /-- UNIT_REFUSE (R344): A unit refuses or withdraws its agreement, so the entry rolls back and the timer's
      backoff doubles. -/
  | unitRefuse (unit : Nat)
  /-- ENTRY_COMMIT (R343): Every unit has agreed, so signatures and the state image are taken, clamps set and
      clocks or rails stopped. -/
  | entryCommit (workers : List (Fin 16))
  /-- WAKE_N (R345): WAKE_N held low takes the device to RUN. -/
  | wakeN
  /-- PWR_WAKE (R345): A write of 1 to PWR_CTL.WAKE, or a doorbell while asleep, drives the internal wake
      line. -/
  | pwrWake (src : Party) (v : Word)
  /-- LANE_ACTIVITY (R345): Activity on an idle FLL or FCL lane wakes the device. -/
  | laneActivity (l : LinkId)
  /-- KNOWN_EVENT_WAKE (R342): The power controller wakes the device from SLEEP in time for the next known
      event. -/
  | knownEventWake
  /-- WAKE_DONE (R347): The wake sequence completes and dispatch accepts searches again. -/
  | wakeDone (badPans : List (Fin 256)) (badBanks : List (Fin 64))
  /-- LANE_RESUME (R348): A parked group relocks on alignment blocks, remeasures its paths and returns to
      normal operation. -/
  | laneResume (l : LinkId) (path : Nat) (skews : List Nat)
  /-- RESUME_TIMEOUT (R348): A lane not locked 20 µs after resume sends its group to DOWN with FAULT 5. -/
  | resumeTimeout (l : LinkId)
  /-- OPP_GO (R355): A write of 1 to PWR_OPP_CTL.GO starts an operating-point change to TARGET. -/
  | oppGo (src : Party) (v : Word)
  /-- OPP_VOLTAGE_CONFIRM (R357): After SETTLE, READ_VOUT confirms the new rail voltages, or the rail fails
      with VFAIL. -/
  | oppVoltageConfirm (volts : Option (Nat × Nat))
  /-- OPP_PLL_LOCK (R355): The array PLL locks at the new frequency, and credits are withheld and dispatch
      stops. -/
  | oppPllLock
  /-- OPP_SWITCH (R356): At a frame boundary ACLK and PCLK switch, PIP_LAT changes, and dispatch and credits
      resume. -/
  | oppSwitch
  /-- PWR_QUIESCE (R359): An MP write to PWR_CTL.QUIESCE holds or releases both pipelines quiesced. -/
  | pwrQuiesce (src : Party) (v : Word)
  /-- PMB_ALERT (R400): PMB_ALERT_N low makes the PMBus master read STATUS_WORD from every addressed
      regulator. -/
  | pmbAlert (fault : Bool)
  /-- THERMAL_TRIP (R405): A sensor at 125 °C for 1 ms drives THERMTRIP_N low, switches rails off and holds
      cold reset. -/
  | thermalTrip
  /-- FWU_WIN_OFS_WRITE (R372): A write to FWU_WIN_OFS claims the FWU window and empties its buffer. -/
  | fwuWinOfsWrite (src : Party) (v : Word)
  /-- FWU_WIN_DATA_WRITE (R372): A write to FWU_WIN_DATA appends 4 image bytes to the window buffer. -/
  | fwuWinDataWrite (src : Party) (v : Word)
  /-- FWU_PUSH (R372): A write of 1 to FWU_CTL.PUSH delivers the window buffer as one image block. -/
  | fwuPush (src : Party) (v : Word)
  /-- FWU_ABORT (R370): A write of 1 to FWU_CTL.ABORT ends the image session. -/
  | fwuAbort (src : Party) (v : Word)
  /-- FWU_ACTIVATE (R374): A write of 1 to FWU_CTL.ACTIVATE starts the waiting trial by a warm reset. -/
  | fwuActivate (src : Party) (v : Word)
  /-- FWU_CONFIRM (R376): A write of 1 to FWU_CTL.CONFIRM confirms the running unconfirmed image. -/
  | fwuConfirm (src : Party) (v : Word)
  /-- SESSION_IDLE_TIMEOUT (R370): No block arrives for FWU_CFG.IDLE seconds, so the receiving session ends.
      -/
  | sessionIdleTimeout
  /-- IMAGE_VERIFY_DONE (R369): All blocks are present and check 7 runs, ending the session or starting
      programming. -/
  | imageVerifyDone
  /-- PROGRAMMING_DONE (R369): The target slot is programmed and read back, and the trial is set up and DONE
      sets. -/
  | programmingDone (ok : Bool)
  /-- SCHEMA_FALLBACK (R375): An unconfirmed image that cannot read the settings schema rejects itself and
      warm-resets to the confirmed slot. -/
  | schemaFallback
  /-- VBAT_MEASURE (R383): Every second the MP measures VBAT and updates LOW. -/
  | vbatMeasure (volt : Nat)
  /-- TOD_SAVE (R382): Every 10 s and at SET, STEP and power-down, the MP saves time-of-day and the RTC count
      to VBAT. -/
  | todSave
  /-- VBT_WORD_WRITE (R380): A write to a board VBAT word is written atomically, or refused while WBUSY = 1.
      -/
  | vbtWordWrite (src : Party) (n : Fin 64) (v : Word)
  /-- REGISTER_WRITE (R12): A write to a register without behaviour of its own updates its fields by their
      access codes, or is refused. -/
  | registerWrite (a : Access) (v : W64)
  /-- REGISTER_READ (R12): A PCI Express read of a BAR0 or VF BAR0 register returns its fields, clears RC
      fields, or is refused for width or for an empty offset. -/
  | registerRead (a : Access)
  /-- RESET_N_RELEASE (R334): At the rising edge of RESET_N the straps are sampled and start-up begins. -/
  | resetNRelease (role : BitVec 2) (devId : BitVec 4) (bootSel : BitVec 2)
  /-- COMPLETION_TIMEOUT (R261): A device read to host memory that receives no completion within the
      completion-timeout range ends with an error and sends its ring to FAULT with code 2. -/
  | completionTimeout (n : Nat)
  /-- COMPLETION_WRITE_REFUSED (R147): The host refuses a completion or result write with an unsupported
      request or completer abort, and the ring enters FAULT with code 3. -/
  | completionWriteRefused (r : Fin 16384)
  /-- SNAPSHOT_DONE (R173): A SNAPSHOT finishes writing its entry images, completes with OK or FULL, and the
      table commands held behind it are released. -/
  | snapshotDone (n : Nat)
  /-- VBAT_DOMAIN_POWER_UP (R380): The VBAT domain powers up from below its retention voltage, every word
      reads 0, and MAGIC fails. -/
  | vbatDomainPowerUp
  deriving DecidableEq, Repr

end Sys2Proof
end

