-- ==== Sys2Proof/Config.lean ====
section
/-! DEFINITION. What the spec leaves open, as constants without a body: a statement about the model holds for every
value of them. Each is named in the assumption log. -/

namespace Sys2Proof.Config

/-- A free bit, applied to the counter of free values (log entry 4). -/
opaque freeBit : Nat → Bool

/-- A free byte, applied to an address (log entry 15). -/
opaque freeByte : Nat → Byte

/-- A free 64-bit word, applied to the counter of free values (log entry 4). -/
opaque freeWord : Nat → W64

/-- The bit of a 72-bit SECDED word that a nonzero syndrome names: 0 to 63 a data bit, 64 to 71 a check bit, none for a
syndrome that names no single bit. The spec gives the strength of the code and not its matrix (log entry 13). -/
opaque secdedBit : Byte → Option (Fin 72)

/-- SHA-384 of a string of bytes (R365; log entry 14). -/
opaque sha384 : List Byte → BitVec 384

/-- ECDSA P-384 verification of a signature under a public key (R365; log entry 14). -/
opaque ecdsaVerify : List Byte → BitVec 384 → List Byte → Bool

/-- The SHA-384 hash that the fuses hold for a key slot, and whether its revocation fuse is blown (R365; log entry 14). -/
opaque keyHash : Nat → BitVec 384
opaque keyRevoked : Nat → Bool

/-- The Vendor ID, and the redundant columns in use of a Pantry bank (of 4) and of a scratchpad bank (of 2), as the fuses hold them
(R259, R299; log entry 12). -/
opaque vendorId : BitVec 16
opaque pantryCols : Nat → Fin 5
opaque scratchCols : Nat → Fin 3

/-- GiB of DRAM fitted to a channel, and MiB that the golden copy of the fitted array takes (Tables 11.11 and 16.16; log
entry 15). -/
opaque dramGiB : Nat → Fin 17
opaque goldMiB : BitVec 16

/-- A 32-bit unit of a word whose other half is written while the word is uncorrectable, where no data region and so no golden
copy holds the unit (R294; log entry 65). -/
opaque lostUnit : Nat → Word

/-- Worker k's share of the calibrated flight of the ring, in 2^-32 ns (R222; log entry 24). -/
opaque ringFlight : Nat → Nat

/-- How long the MP takes from a reset of its island to running firmware, in ns: 5 ms or less (Table 12.8; log entry 91). -/
opaque mpRestart : Fin 5000001

end Sys2Proof.Config
end

