-- ==== Sys2Proof/Machine/RegMap.lean ====
section
/-! DEFINITION. The BAR0 register map (R408, R409, Tables 16.2 to 16.15): the offset of every register under its name, and one
descriptor for each register family with the masks of its access codes (R12) and its reset value (R11). -/

namespace Sys2Proof.Machine

open Sys2Proof

/-- A register family: `count` registers `stride` apart from `base`. A bit is in at most one access mask; a bit in none is RO, RW2P,
WO or reserved. `live` marks every bit that is not reserved. `m` marks the fields of reset form M (R413). -/
structure RegDesc where
  base : Nat
  count : Nat
  stride : Nat
  live : Word
  rw : Word
  w1c : Word
  w1s : Word
  rc : Word
  m : Word
  reset : Word
  deriving DecidableEq, Repr

/-- GLB_ID (Table 0.1). -/
def Reg.glbId : Nat := 0x000000
/-- GLB_RST_CTL (Table 12.18). -/
def Reg.glbRstCtl : Nat := 0x000010
/-- GLB_RST_CAUSE (Table 12.19). -/
def Reg.glbRstCause : Nat := 0x000014
/-- GLB_BOOT_STAT (Table 12.20). -/
def Reg.glbBootStat : Nat := 0x000018
/-- GLB_MEM_MODE (Table 11.6). -/
def Reg.glbMemMode : Nat := 0x000020
/-- GLB_MP_FAULT (Table 11.8). -/
def Reg.glbMpFault : Nat := 0x000024
/-- GLB_MP_FAULT_ADDR (Table 11.8). -/
def Reg.glbMpFaultAddr : Nat := 0x000028
/-- GLB_TEMP (Table 15.12). -/
def Reg.glbTemp : Nat := 0x000030
/-- GLB_BANK_OWN, 72 of them, the first of index 0 (Table 11.7). -/
def Reg.glbBankOwn (i : Nat) : Nat := 0x000100 + 4 * i
/-- LNK_GRP_MAP (Table 4.2). -/
def Reg.lnkGrpMap : Nat := 0x010000
/-- LNK_GRP_CTL, 4 of them, the first of index 0 (Table 4.18). -/
def Reg.lnkGrpCtl (i : Nat) : Nat := 0x010010 + 4 * i
/-- LNK_GRP_STAT, 4 of them, the first of index 0 (Table 4.19). -/
def Reg.lnkGrpStat (i : Nat) : Nat := 0x010020 + 4 * i
/-- LNK_CRD, 2 of them, the first of index 0 (Table 4.23). -/
def Reg.lnkCrd (i : Nat) : Nat := 0x010030 + 4 * i
/-- LNK_FIFO_STAT, 4 of them, the first of index 0 (Table 4.24). -/
def Reg.lnkFifoStat (i : Nat) : Nat := 0x010040 + 4 * i
/-- LNK_INT_STAT (Table 4.26). -/
def Reg.lnkIntStat : Nat := 0x010050
/-- LNK_INT_EN (Table 4.26). -/
def Reg.lnkIntEn : Nat := 0x010054
/-- LNK_LANE_CFG, 32 of them, the first of index 0 (Table 4.20). -/
def Reg.lnkLaneCfg (i : Nat) : Nat := 0x010100 + 4 * i
/-- LNK_LANE_STAT, 32 of them, the first of index 0 (Table 4.21). -/
def Reg.lnkLaneStat (i : Nat) : Nat := 0x010180 + 4 * i
/-- LNK_FEC_CORR, 32 of them, the first of index 0 (Table 4.22). -/
def Reg.lnkFecCorr (i : Nat) : Nat := 0x010200 + 4 * i
/-- LNK_FEC_UNC, 32 of them, the first of index 0 (Table 4.22). -/
def Reg.lnkFecUnc (i : Nat) : Nat := 0x010280 + 4 * i
/-- LNK_CNT, 64 of them, the first of index 0 (Table 4.25). -/
def Reg.lnkCnt (i : Nat) : Nat := 0x010400 + 4 * i
/-- PIP_SCHED_CTL (Table 5.9). -/
def Reg.pipSchedCtl : Nat := 0x020000
/-- PIP_SCHED_STAT (Table 5.10). -/
def Reg.pipSchedStat : Nat := 0x020004
/-- PIP_LAT, 2 of them, the first of index 0 (Table 5.11). -/
def Reg.pipLat (i : Nat) : Nat := 0x020010 + 4 * i
/-- PIP_QWAIT, 2 of them, the first of index 0 (Table 5.12). -/
def Reg.pipQwait (i : Nat) : Nat := 0x020020 + 4 * i
/-- PIP_QWAIT_MAX, 2 of them, the first of index 0 (Table 5.13). -/
def Reg.pipQwaitMax (i : Nat) : Nat := 0x020028 + 4 * i
/-- PIP_MASK, 4 of them, the first of index 0 (Table 5.8). -/
def Reg.pipMask (i : Nat) : Nat := 0x020040 + 4 * i
/-- HOB_STAT, 16 of them, the first of index 0 (Table 2.8). -/
def Reg.hobStat (i : Nat) : Nat := 0x030000 + 4 * i
/-- HOB_SLOT, 64 of them, the first of index 0 (Table 5.7). -/
def Reg.hobSlot (i : Nat) : Nat := 0x030100 + 4 * i
/-- HOB_LMAP, 256 of them, the first of index 0 (Table 2.7). -/
def Reg.hobLmap (i : Nat) : Nat := 0x030400 + 4 * i
/-- SVE_MAP_SEL (Table 2.11). -/
def Reg.sveMapSel : Nat := 0x040000
/-- SVE_MAP_DATA_LO (Table 2.12). -/
def Reg.sveMapDataLo : Nat := 0x040008
/-- SVE_MAP_DATA_HI (Table 2.12). -/
def Reg.sveMapDataHi : Nat := 0x04000c
/-- SVE_TCFG, 128 of them, the first of index 0 (Table 2.9). -/
def Reg.sveTcfg (i : Nat) : Nat := 0x040200 + 4 * i
/-- SVE_TPOS_0, 128 of them, the first of index 0 (Table 2.10). -/
def Reg.sveTpos0 (i : Nat) : Nat := 0x040800 + 32 * i
/-- SVE_TPOS_1, 128 of them, the first of index 0 (Table 2.10). -/
def Reg.sveTpos1 (i : Nat) : Nat := 0x040804 + 32 * i
/-- SVE_TPOS_2, 128 of them, the first of index 0 (Table 2.10). -/
def Reg.sveTpos2 (i : Nat) : Nat := 0x040808 + 32 * i
/-- SVE_TPOS_3, 128 of them, the first of index 0 (Table 2.10). -/
def Reg.sveTpos3 (i : Nat) : Nat := 0x04080c + 32 * i
/-- SVE_TPOS_4, 128 of them, the first of index 0 (Table 2.10). -/
def Reg.sveTpos4 (i : Nat) : Nat := 0x040810 + 32 * i
/-- TBL_SEL (Table 3.3). -/
def Reg.tblSel : Nat := 0x050000
/-- TBL_CFG (Table 3.4). -/
def Reg.tblCfg : Nat := 0x050004
/-- TBL_PTY (Table 3.5). -/
def Reg.tblPty : Nat := 0x050008
/-- TBL_MPTY (Table 3.5). -/
def Reg.tblMpty : Nat := 0x05000c
/-- TBL_LIVE (Table 3.7). -/
def Reg.tblLive : Nat := 0x050010
/-- TBL_PANSET, 8 of them, the first of index 0 (Table 3.6). -/
def Reg.tblPanset (i : Nat) : Nat := 0x050020 + 4 * i
/-- TBL_MIRSET, 8 of them, the first of index 0 (Table 3.6). -/
def Reg.tblMirset (i : Nat) : Nat := 0x050040 + 4 * i
/-- PRF_CTL (Table 3.15). -/
def Reg.prfCtl : Nat := 0x060000
/-- PRF_STAT (Table 3.16). -/
def Reg.prfStat : Nat := 0x060004
/-- PRF_VALID, 8 of them, the first of index 0 (Table 3.17). -/
def Reg.prfValid (i : Nat) : Nat := 0x060010 + 4 * i
/-- PRF_STG_HDR (Table 3.11). -/
def Reg.prfStgHdr : Nat := 0x060040
/-- PRF_STG_LK, 8 of them, the first of index 0 (Table 3.12). -/
def Reg.prfStgLk (i : Nat) : Nat := 0x060060 + 4 * i
/-- PRF_STG_SEG, 64 of them, the first of index 0 (Table 3.13). -/
def Reg.prfStgSeg (i : Nat) : Nat := 0x060100 + 4 * i
/-- PTY_CONF, 5 of them, the first of index 0 (Table 11.9). -/
def Reg.ptyConf (i : Nat) : Nat := 0x070000 + 4 * i
/-- UPD_RING_SEL (Table 6.15). -/
def Reg.updRingSel : Nat := 0x080000
/-- UPD_RING_SQB_LO (Table 6.16). -/
def Reg.updRingSqbLo : Nat := 0x080008
/-- UPD_RING_SQB_HI (Table 6.16). -/
def Reg.updRingSqbHi : Nat := 0x08000c
/-- UPD_RING_CQB_LO (Table 6.16). -/
def Reg.updRingCqbLo : Nat := 0x080010
/-- UPD_RING_CQB_HI (Table 6.16). -/
def Reg.updRingCqbHi : Nat := 0x080014
/-- UPD_RING_CFG (Table 6.17). -/
def Reg.updRingCfg : Nat := 0x080018
/-- UPD_RING_WM (Table 6.18). -/
def Reg.updRingWm : Nat := 0x08001c
/-- UPD_RING_COAL (Table 6.19). -/
def Reg.updRingCoal : Nat := 0x080020
/-- UPD_RING_CTL (Table 6.20). -/
def Reg.updRingCtl : Nat := 0x080024
/-- UPD_RING_STAT (Table 6.21). -/
def Reg.updRingStat : Nat := 0x080028
/-- UPD_RING_PTR (Table 6.22). -/
def Reg.updRingPtr : Nat := 0x08002c
/-- UPD_RING_DB (Table 6.22). -/
def Reg.updRingDb : Nat := 0x080030
/-- UPD_INFLIGHT (Table 6.24). -/
def Reg.updInflight : Nat := 0x080040
/-- UPD_SLACK (Table 6.27). -/
def Reg.updSlack : Nat := 0x080044
/-- UPD_NOTE_SUM, 16 of them, the first of index 0 (Table 6.23). -/
def Reg.updNoteSum (i : Nat) : Nat := 0x080100 + 4 * i
/-- UPD_PRIO_WAIT, 8 of them, the first of index 0 (Table 6.25). -/
def Reg.updPrioWait (i : Nat) : Nat := 0x080140 + 4 * i
/-- UPD_CNT, 12 of them, the first of index 0 (Table 6.26). -/
def Reg.updCnt (i : Nat) : Nat := 0x080180 + 4 * i
/-- EPC_SEL (Table 7.7). -/
def Reg.epcSel : Nat := 0x090000
/-- EPC_CNT (Table 7.8). -/
def Reg.epcCnt : Nat := 0x090004
/-- EPC_BATCH (Table 7.8). -/
def Reg.epcBatch : Nat := 0x090008
/-- EPC_STAT (Table 7.9). -/
def Reg.epcStat : Nat := 0x09000c
/-- EPC_T_SEC_LO (Table 7.10). -/
def Reg.epcTSecLo : Nat := 0x090010
/-- EPC_T_SEC_HI (Table 7.10). -/
def Reg.epcTSecHi : Nat := 0x090014
/-- EPC_T_NS (Table 7.10). -/
def Reg.epcTNs : Nat := 0x090018
/-- EPC_INT_STAT (Table 7.11). -/
def Reg.epcIntStat : Nat := 0x090020
/-- EPC_INT_EN (Table 7.11). -/
def Reg.epcIntEn : Nat := 0x090024
/-- TOD_CTL (Table 7.12). -/
def Reg.todCtl : Nat := 0x0a0000
/-- TOD_STAT (Table 7.13). -/
def Reg.todStat : Nat := 0x0a0004
/-- TOD_SET_SEC_LO (Table 7.14). -/
def Reg.todSetSecLo : Nat := 0x0a0010
/-- TOD_SET_SEC_HI (Table 7.14). -/
def Reg.todSetSecHi : Nat := 0x0a0014
/-- TOD_SET_NS (Table 7.14). -/
def Reg.todSetNs : Nat := 0x0a0018
/-- TOD_STEP_LO (Table 7.15). -/
def Reg.todStepLo : Nat := 0x0a0020
/-- TOD_STEP_HI (Table 7.15). -/
def Reg.todStepHi : Nat := 0x0a0024
/-- TOD_TRIM (Table 7.15). -/
def Reg.todTrim : Nat := 0x0a0028
/-- TOD_SLEW_AMT (Table 7.16). -/
def Reg.todSlewAmt : Nat := 0x0a0030
/-- TOD_SLEW_RATE (Table 7.16). -/
def Reg.todSlewRate : Nat := 0x0a0034
/-- TOD_PATH, 4 of them, the first of index 0 (Table 7.17). -/
def Reg.todPath (i : Nat) : Nat := 0x0a0040 + 4 * i
/-- TOD_PATH_ADJ, 4 of them, the first of index 0 (Table 7.17). -/
def Reg.todPathAdj (i : Nat) : Nat := 0x0a0050 + 4 * i
/-- TOD_PULSE_CFG (Table 7.18). -/
def Reg.todPulseCfg : Nat := 0x0a0060
/-- TOD_PULSE_STAT (Table 7.19). -/
def Reg.todPulseStat : Nat := 0x0a0064
/-- TOD_INT_EN (Table 7.19). -/
def Reg.todIntEn : Nat := 0x0a0068
/-- TOD_PPS_OUT_CFG (Table 7.20). -/
def Reg.todPpsOutCfg : Nat := 0x0a0070
/-- TOD_PPS_OUT_OFS (Table 7.20). -/
def Reg.todPpsOutOfs : Nat := 0x0a0074
/-- TOD_SNAP_SEL (Table 7.21). -/
def Reg.todSnapSel : Nat := 0x0a0080
/-- TOD_SNAP_SEC_LO (Table 7.22). -/
def Reg.todSnapSecLo : Nat := 0x0a0088
/-- TOD_SNAP_SEC_HI (Table 7.22). -/
def Reg.todSnapSecHi : Nat := 0x0a008c
/-- TOD_SNAP_NS (Table 7.22). -/
def Reg.todSnapNs : Nat := 0x0a0090
/-- TOD_SNAP_SEQ (Table 7.22). -/
def Reg.todSnapSeq : Nat := 0x0a0094
/-- CAS_CFG (Table 8.15). -/
def Reg.casCfg : Nat := 0x0b0000
/-- CAS_STAT (Table 8.16). -/
def Reg.casStat : Nat := 0x0b0004
/-- CAS_CTL (Table 8.20). -/
def Reg.casCtl : Nat := 0x0b0008
/-- CAS_CMT (Table 8.18). -/
def Reg.casCmt : Nat := 0x0b0010
/-- CAS_CMT_STAT (Table 8.18). -/
def Reg.casCmtStat : Nat := 0x0b0014
/-- CAS_LAT, 2 of them, the first of index 0 (Table 8.19). -/
def Reg.casLat (i : Nat) : Nat := 0x0b0018 + 4 * i
/-- CAS_LINK_STAT (Table 8.22). -/
def Reg.casLinkStat : Nat := 0x0b0020
/-- CAS_RA_SEL (Table 8.21). -/
def Reg.casRaSel : Nat := 0x0b0030
/-- CAS_RA_DATA (Table 8.21). -/
def Reg.casRaData : Nat := 0x0b0034
/-- CAS_RA_CTL (Table 8.21). -/
def Reg.casRaCtl : Nat := 0x0b0038
/-- CAS_INT_STAT (Table 8.23). -/
def Reg.casIntStat : Nat := 0x0b0040
/-- CAS_INT_EN (Table 8.23). -/
def Reg.casIntEn : Nat := 0x0b0044
/-- CAS_WK, 15 of them, the first of index 1 (Table 8.17). -/
def Reg.casWk (i : Nat) : Nat := 0x0b0080 + 4 * i
/-- CAS_RELAY, 15 of them, the first of index 1 (Table 8.20). -/
def Reg.casRelay (i : Nat) : Nat := 0x0b00c0 + 4 * i
/-- CAS_CNT, 12 of them, the first of index 0 (Table 8.23). -/
def Reg.casCnt (i : Nat) : Nat := 0x0b0100 + 4 * i
/-- CAS_LANE_CFG, 16 of them, the first of index 0 (Table 4.20). -/
def Reg.casLaneCfg (i : Nat) : Nat := 0x0b0200 + 4 * i
/-- CAS_LANE_STAT, 16 of them, the first of index 0 (Table 4.21). -/
def Reg.casLaneStat (i : Nat) : Nat := 0x0b0240 + 4 * i
/-- INT_SUM (Table 9.17). -/
def Reg.intSum : Nat := 0x0c0000
/-- INT_SUM_CFG (Table 9.17). -/
def Reg.intSumCfg : Nat := 0x0c0004
/-- INT_INT_STAT (Table 9.18). -/
def Reg.intIntStat : Nat := 0x0c0008
/-- INT_INT_EN (Table 9.18). -/
def Reg.intIntEn : Nat := 0x0c000c
/-- INT_SCRUB_CFG (Table 9.10). -/
def Reg.intScrubCfg : Nat := 0x0c0010
/-- INT_SCRUB_STAT (Table 9.10). -/
def Reg.intScrubStat : Nat := 0x0c0014
/-- INT_REMAP_CFG (Table 9.11). -/
def Reg.intRemapCfg : Nat := 0x0c0018
/-- INT_REMAP_CTL (Table 9.11). -/
def Reg.intRemapCtl : Nat := 0x0c001c
/-- INT_MIG (Table 9.11). -/
def Reg.intMig : Nat := 0x0c0020
/-- INT_AGE_CFG (Table 9.12). -/
def Reg.intAgeCfg : Nat := 0x0c0024
/-- INT_LIFE_LO (Table 9.13). -/
def Reg.intLifeLo : Nat := 0x0c0028
/-- INT_LIFE_HI (Table 9.13). -/
def Reg.intLifeHi : Nat := 0x0c002c
/-- INT_CAP (Table 9.13). -/
def Reg.intCap : Nat := 0x0c0030
/-- INT_ERR_BASE_LO (Table 9.14). -/
def Reg.intErrBaseLo : Nat := 0x0c0038
/-- INT_ERR_BASE_HI (Table 9.14). -/
def Reg.intErrBaseHi : Nat := 0x0c003c
/-- INT_ERR_CFG (Table 9.15). -/
def Reg.intErrCfg : Nat := 0x0c0040
/-- INT_ERR_PTR (Table 9.16). -/
def Reg.intErrPtr : Nat := 0x0c0044
/-- INT_ERR_HEAD (Table 9.16). -/
def Reg.intErrHead : Nat := 0x0c0048
/-- INT_ERR_LOST (Table 9.16). -/
def Reg.intErrLost : Nat := 0x0c004c
/-- INT_CNT, 22 of them, the first of index 0 (Table 9.18). -/
def Reg.intCnt (i : Nat) : Nat := 0x0c0100 + 4 * i
/-- INT_AGE, 272 of them, the first of index 0 (Table 9.12). -/
def Reg.intAge (i : Nat) : Nat := 0x0c0400 + 4 * i
/-- HIF_PCI_ID (Table 10.11). -/
def Reg.hifPciId : Nat := 0x0d0000
/-- HIF_DRAM_WIN (Table 10.12). -/
def Reg.hifDramWin : Nat := 0x0d0004
/-- HIF_VF_VEC, 63 of them, the first of index 1 (Table 10.13). -/
def Reg.hifVfVec (i : Nat) : Nat := 0x0d0100 + 4 * i
/-- DRC_STAT (Table 11.11). -/
def Reg.drcStat : Nat := 0x0e0000
/-- DRC_REF_CFG (Table 11.13). -/
def Reg.drcRefCfg : Nat := 0x0e0004
/-- DRC_RAT_CFG (Table 11.15). -/
def Reg.drcRatCfg : Nat := 0x0e0008
/-- DRC_RAT_STAT (Table 11.15). -/
def Reg.drcRatStat : Nat := 0x0e000c
/-- DRC_INT_STAT (Table 11.17). -/
def Reg.drcIntStat : Nat := 0x0e0010
/-- DRC_INT_EN (Table 11.17). -/
def Reg.drcIntEn : Nat := 0x0e0014
/-- DRC_REF_STAT, 4 of them, the first of index 0 (Table 11.14). -/
def Reg.drcRefStat (i : Nat) : Nat := 0x0e0020 + 4 * i
/-- DRC_AREA, 6 of them, the first of index 0 (Table 11.12). -/
def Reg.drcArea (i : Nat) : Nat := 0x0e0040 + 4 * i
/-- DRC_CNT, 10 of them, the first of index 0 (Table 11.16). -/
def Reg.drcCnt (i : Nat) : Nat := 0x0e0080 + 4 * i
/-- ARB_PRIO (Table 11.18). -/
def Reg.arbPrio : Nat := 0x0f0000
/-- ARB_BURST, 2 of them, the first of index 0 (Table 11.19). -/
def Reg.arbBurst (i : Nat) : Nat := 0x0f0004 + 4 * i
/-- ARB_CTL (Table 11.20). -/
def Reg.arbCtl : Nat := 0x0f000c
/-- ARB_WAIT_LIM (Table 11.20). -/
def Reg.arbWaitLim : Nat := 0x0f0010
/-- ARB_STAT (Table 11.21). -/
def Reg.arbStat : Nat := 0x0f0014
/-- ARB_INT_STAT (Table 11.22). -/
def Reg.arbIntStat : Nat := 0x0f0018
/-- ARB_INT_EN (Table 11.22). -/
def Reg.arbIntEn : Nat := 0x0f001c
/-- ARB_GRANT, 8 of them, the first of index 0 (Table 11.22). -/
def Reg.arbGrant (i : Nat) : Nat := 0x0f0040 + 4 * i
/-- ARB_WAIT, 8 of them, the first of index 0 (Table 11.22). -/
def Reg.arbWait (i : Nat) : Nat := 0x0f0060 + 4 * i
/-- ARB_MAXWAIT, 8 of them, the first of index 0 (Table 11.22). -/
def Reg.arbMaxwait (i : Nat) : Nat := 0x0f0080 + 4 * i
/-- CLK_STAT (Table 12.13). -/
def Reg.clkStat : Nat := 0x100000
/-- CLK_XING_MODE (Table 12.14). -/
def Reg.clkXingMode : Nat := 0x100004
/-- CLK_XING_TO (Table 12.15). -/
def Reg.clkXingTo : Nat := 0x100008
/-- CLK_INT_STAT (Table 12.17). -/
def Reg.clkIntStat : Nat := 0x100010
/-- CLK_INT_EN (Table 12.17). -/
def Reg.clkIntEn : Nat := 0x100014
/-- CLK_XING_DEAD, 2 of them, the first of index 0 (Table 12.16). -/
def Reg.clkXingDead (i : Nat) : Nat := 0x100020 + 4 * i
/-- PWR_CTL (Table 13.9). -/
def Reg.pwrCtl : Nat := 0x110000
/-- PWR_CFG (Table 13.10). -/
def Reg.pwrCfg : Nat := 0x110004
/-- PWR_STAT (Table 13.11). -/
def Reg.pwrStat : Nat := 0x110008
/-- PWR_NEXT (Table 13.12). -/
def Reg.pwrNext : Nat := 0x11000c
/-- PWR_REFUSE (Table 13.13). -/
def Reg.pwrRefuse : Nat := 0x110010
/-- PWR_OPP_CTL (Table 13.15). -/
def Reg.pwrOppCtl : Nat := 0x110014
/-- PWR_OPP_STAT (Table 13.15). -/
def Reg.pwrOppStat : Nat := 0x110018
/-- PWR_PMB_ADDR (Table 13.16). -/
def Reg.pwrPmbAddr : Nat := 0x11001c
/-- PWR_PMB_CFG (Table 13.16). -/
def Reg.pwrPmbCfg : Nat := 0x110020
/-- PWR_INT_STAT (Table 13.17). -/
def Reg.pwrIntStat : Nat := 0x110024
/-- PWR_INT_EN (Table 13.17). -/
def Reg.pwrIntEn : Nat := 0x110028
/-- PWR_TMR, 4 of them, the first of index 1 (Table 13.12). -/
def Reg.pwrTmr (i : Nat) : Nat := 0x110030 + 4 * i
/-- PWR_CNT, 7 of them, the first of index 0 (Table 13.18). -/
def Reg.pwrCnt (i : Nat) : Nat := 0x110050 + 4 * i
/-- PWR_RET_PAN, 8 of them, the first of index 0 (Table 13.14). -/
def Reg.pwrRetPan (i : Nat) : Nat := 0x110080 + 4 * i
/-- PWR_SIG_FAIL_PAN, 8 of them, the first of index 0 (Table 13.14). -/
def Reg.pwrSigFailPan (i : Nat) : Nat := 0x1100a0 + 4 * i
/-- PWR_RET_PTY, 2 of them, the first of index 0 (Table 13.14). -/
def Reg.pwrRetPty (i : Nat) : Nat := 0x1100c0 + 4 * i
/-- PWR_SIG_FAIL_PTY, 2 of them, the first of index 0 (Table 13.14). -/
def Reg.pwrSigFailPty (i : Nat) : Nat := 0x1100c8 + 4 * i
/-- FWU_CTL (Table 14.9). -/
def Reg.fwuCtl : Nat := 0x120000
/-- FWU_STAT (Table 14.11). -/
def Reg.fwuStat : Nat := 0x120004
/-- FWU_CFG (Table 14.14). -/
def Reg.fwuCfg : Nat := 0x120008
/-- FWU_BOOT (Table 14.13). -/
def Reg.fwuBoot : Nat := 0x12000c
/-- FWU_PROG (Table 14.12). -/
def Reg.fwuProg : Nat := 0x120010
/-- FWU_RUN_ARB (Table 14.12). -/
def Reg.fwuRunArb : Nat := 0x120014
/-- FWU_VER, 3 of them, the first of index 0 (Table 14.12). -/
def Reg.fwuVer (i : Nat) : Nat := 0x120020 + 4 * i
/-- FWU_WIN_OFS (Table 14.10). -/
def Reg.fwuWinOfs : Nat := 0x120030
/-- FWU_WIN_LEN (Table 14.10). -/
def Reg.fwuWinLen : Nat := 0x120034
/-- FWU_WIN_DATA (Table 14.10). -/
def Reg.fwuWinData : Nat := 0x120038
/-- FWU_INT_STAT (Table 14.15). -/
def Reg.fwuIntStat : Nat := 0x120040
/-- FWU_INT_EN (Table 14.15). -/
def Reg.fwuIntEn : Nat := 0x120044
/-- VBT_STAT (Table 14.16). -/
def Reg.vbtStat : Nat := 0x130000
/-- VBT_RTC_LO (Table 14.16). -/
def Reg.vbtRtcLo : Nat := 0x130008
/-- VBT_RTC_HI (Table 14.16). -/
def Reg.vbtRtcHi : Nat := 0x13000c
/-- VBT_INT_STAT (Table 14.17). -/
def Reg.vbtIntStat : Nat := 0x130010
/-- VBT_INT_EN (Table 14.17). -/
def Reg.vbtIntEn : Nat := 0x130014
/-- VBT_WORD, 64 of them, the first of index 0 (Table 14.17). -/
def Reg.vbtWord (i : Nat) : Nat := 0x130100 + 4 * i
/-- PRT_LOCK (Table 10.15). -/
def Reg.prtLock : Nat := 0x140000
/-- PRT_PROP_CTL (Table 10.19). -/
def Reg.prtPropCtl : Nat := 0x140010
/-- PRT_PROP_STAT (Table 10.20). -/
def Reg.prtPropStat : Nat := 0x140014
/-- PRT_PROP_DIGEST (Table 10.20). -/
def Reg.prtPropDigest : Nat := 0x140018
/-- PRT_REF_SEL (Table 10.21). -/
def Reg.prtRefSel : Nat := 0x140020
/-- PRT_REF_TOTAL (Table 10.21). -/
def Reg.prtRefTotal : Nat := 0x140024
/-- PRT_REF_A_LO (Table 10.10). -/
def Reg.prtRefALo : Nat := 0x140028
/-- PRT_REF_A_HI (Table 10.10). -/
def Reg.prtRefAHi : Nat := 0x14002c
/-- PRT_REF_B_LO (Table 10.10). -/
def Reg.prtRefBLo : Nat := 0x140030
/-- PRT_REF_B_HI (Table 10.10). -/
def Reg.prtRefBHi : Nat := 0x140034
/-- PRT_INT_STAT (Table 10.22). -/
def Reg.prtIntStat : Nat := 0x140038
/-- PRT_INT_EN (Table 10.22). -/
def Reg.prtIntEn : Nat := 0x14003c
/-- PRT_REF_CNT, 13 of them, the first of index 1 (Table 10.21). -/
def Reg.prtRefCnt (i : Nat) : Nat := 0x140040 + 4 * i
/-- PRT_BANK_OWN, 5 of them, the first of index 0 (Table 11.10). -/
def Reg.prtBankOwn (i : Nat) : Nat := 0x140080 + 4 * i
/-- PRT_FN_RIGHTS, 63 of them, the first of index 1 (Table 10.16). -/
def Reg.prtFnRights (i : Nat) : Nat := 0x140100 + 4 * i
/-- PRT_RGN_A, 16 of them, the first of index 0 (Table 10.18). -/
def Reg.prtRgnA (i : Nat) : Nat := 0x140200 + 8 * i
/-- PRT_RGN_B, 16 of them, the first of index 0 (Table 10.18). -/
def Reg.prtRgnB (i : Nat) : Nat := 0x140204 + 8 * i
/-- PRT_TGRANT, 252 of them, the first of index 4 (Table 10.17). -/
def Reg.prtTgrant (i : Nat) : Nat := 0x140400 + 4 * i

/-- The register families of the GLB_ block. -/
def regsGlb : List RegDesc := [
  ⟨0x000000, 1, 4, 0xffffff00, 0x00000000, 0x00000000, 0x00000000, 0x00000000, 0x00000000, 0x64000200⟩,
  ⟨0x000010, 1, 4, 0x0000019f, 0x0000001f, 0x00000000, 0x00000180, 0x00000000, 0x00000000, 0x00000000⟩,
  ⟨0x000014, 1, 4, 0xf07fffff, 0x00000000, 0x007fffff, 0x00000000, 0x00000000, 0x00000000, 0x10000000⟩,
  ⟨0x000018, 1, 4, 0xffe00000, 0x00000000, 0x00000000, 0x00000000, 0x00000000, 0x00000000, 0x00000000⟩,
  ⟨0x000020, 1, 4, 0x00000003, 0x00000003, 0x00000000, 0x00000000, 0x00000000, 0x00000000, 0x00000000⟩,
  ⟨0x000024, 1, 4, 0x870f0000, 0x00000000, 0x80000000, 0x00000000, 0x00000000, 0x00000000, 0x00000000⟩,
  ⟨0x000028, 1, 4, 0xffffffff, 0x00000000, 0x00000000, 0x00000000, 0x00000000, 0x00000000, 0x00000000⟩,
  ⟨0x000030, 1, 4, 0x03ff03ff, 0x00000000, 0x00000000, 0x00000000, 0x03ff0000, 0x00000000, 0x00000000⟩,
  ⟨0x000100, 72, 4, 0xc707000f, 0x07070000, 0x00000000, 0x00000000, 0x00000000, 0x00000000, 0x01000000⟩]

/-- The register families of the LNK_ block. -/
def regsLnk : List RegDesc := [
  ⟨0x010000, 1, 4, 0x000000ff, 0x000000ff, 0x00000000, 0x00000000, 0x00000000, 0x00000000, 0x00000050⟩,
  ⟨0x010010, 4, 4, 0x00000007, 0x00000003, 0x00000000, 0x00000004, 0x00000000, 0x00000001, 0x00000002⟩,
  ⟨0x010020, 4, 4, 0xf70000ff, 0x00000000, 0x00000000, 0x00000000, 0x00000000, 0x00000000, 0x00000000⟩,
  ⟨0x010030, 2, 4, 0xffff87ff, 0x00000000, 0x00000000, 0x00000000, 0x00000000, 0x00000000, 0x00008000⟩,
  ⟨0x010040, 4, 4, 0x07ff07ff, 0x00000000, 0x00000000, 0x00000000, 0x00000000, 0x00000000, 0x00000000⟩,
  ⟨0x010050, 1, 4, 0xffffffff, 0x00000000, 0xffffffff, 0x00000000, 0x00000000, 0x00000000, 0x00000000⟩,
  ⟨0x010054, 1, 4, 0xffffffff, 0xffffffff, 0x00000000, 0x00000000, 0x00000000, 0x00000000, 0x00000000⟩,
  ⟨0x010100, 32, 4, 0x3cffff00, 0x3cffff00, 0x00000000, 0x00000000, 0x00000000, 0x3cffff00, 0x00000000⟩,
  ⟨0x010180, 32, 4, 0xff0000ff, 0x00000000, 0x00000000, 0x00000000, 0x00000000, 0x00000000, 0x00000000⟩,
  ⟨0x010200, 32, 4, 0xffffffff, 0x00000000, 0x00000000, 0x00000000, 0xffffffff, 0x00000000, 0x00000000⟩,
  ⟨0x010280, 32, 4, 0xffffffff, 0x00000000, 0x00000000, 0x00000000, 0xffffffff, 0x00000000, 0x00000000⟩,
  ⟨0x010400, 64, 4, 0xffffffff, 0x00000000, 0x00000000, 0x00000000, 0xffffffff, 0x00000000, 0x00000000⟩]

/-- The register families of the PIP_ block. -/
def regsPip : List RegDesc := [
  ⟨0x020000, 1, 4, 0x00000003, 0x00000002, 0x00000000, 0x00000001, 0x00000000, 0x00000000, 0x00000000⟩,
  ⟨0x020004, 1, 4, 0x8fffef0f, 0x00000000, 0x00000000, 0x00000000, 0x00000000, 0x00000000, 0x00000000⟩,
  ⟨0x020010, 2, 4, 0xffffffff, 0x00000000, 0x00000000, 0x00000000, 0x00000000, 0x00000000, 0x00000000⟩,
  ⟨0x020020, 2, 4, 0xffffffff, 0x00000000, 0x00000000, 0x00000000, 0xffffffff, 0x00000000, 0x00000000⟩,
  ⟨0x020028, 2, 4, 0xffffffff, 0x00000000, 0x00000000, 0x00000000, 0xffffffff, 0x00000000, 0x00000000⟩,
  ⟨0x020040, 4, 4, 0xffffffff, 0xffffffff, 0x00000000, 0x00000000, 0x00000000, 0xffffffff, 0x00000000⟩]

/-- The register families of the HOB_ block. -/
def regsHob : List RegDesc := [
  ⟨0x030000, 16, 4, 0xff01ffff, 0x00000000, 0x00000000, 0x00000000, 0x00000000, 0x1f01ffff, 0x00000000⟩,
  ⟨0x030100, 64, 4, 0xffffffff, 0xffffffff, 0x00000000, 0x00000000, 0x00000000, 0xffffffff, 0x00000000⟩,
  ⟨0x030400, 256, 4, 0x00fff81f, 0x00000000, 0x00000000, 0x00000000, 0x00000000, 0x0000081f, 0x00000000⟩]

/-- The register families of the SVE_ block. -/
def regsSve : List RegDesc := [
  ⟨0x040000, 1, 4, 0x00ff03ff, 0x00ff03ff, 0x00000000, 0x00000000, 0x00000000, 0x00000000, 0x00000000⟩,
  ⟨0x040008, 1, 4, 0xffffffff, 0x00000000, 0x00000000, 0x00000000, 0x00000000, 0x00000000, 0x00000000⟩,
  ⟨0x04000c, 1, 4, 0xffffffff, 0x00000000, 0x00000000, 0x00000000, 0x00000000, 0x00000000, 0x00000000⟩,
  ⟨0x040200, 128, 4, 0x00ffff0f, 0x00000000, 0x00000000, 0x00000000, 0x00000000, 0x00000000, 0x00000000⟩,
  ⟨0x040800, 128, 32, 0x03ff03ff, 0x00000000, 0x00000000, 0x00000000, 0x00000000, 0x00000000, 0x00000000⟩,
  ⟨0x040804, 128, 32, 0x03ff03ff, 0x00000000, 0x00000000, 0x00000000, 0x00000000, 0x00000000, 0x00000000⟩,
  ⟨0x040808, 128, 32, 0x03ff03ff, 0x00000000, 0x00000000, 0x00000000, 0x00000000, 0x00000000, 0x00000000⟩,
  ⟨0x04080c, 128, 32, 0x03ff03ff, 0x00000000, 0x00000000, 0x00000000, 0x00000000, 0x00000000, 0x00000000⟩,
  ⟨0x040810, 128, 32, 0x03ff03ff, 0x00000000, 0x00000000, 0x00000000, 0x00000000, 0x00000000, 0x00000000⟩]

/-- The register families of the TBL_ block. -/
def regsTbl : List RegDesc := [
  ⟨0x050000, 1, 4, 0x0000007f, 0x0000007f, 0x00000000, 0x00000000, 0x00000000, 0x00000000, 0x00000000⟩,
  ⟨0x050004, 1, 4, 0xffff007f, 0x00000000, 0x00000000, 0x00000000, 0x00000000, 0x00000000, 0x00000000⟩,
  ⟨0x050008, 1, 4, 0xff3fffff, 0x00000000, 0x00000000, 0x00000000, 0x00000000, 0x00000000, 0x00000000⟩,
  ⟨0x05000c, 1, 4, 0xff3fffff, 0x00000000, 0x00000000, 0x00000000, 0x00000000, 0x00000000, 0x00000000⟩,
  ⟨0x050010, 1, 4, 0x001fffff, 0x00000000, 0x00000000, 0x00000000, 0x00000000, 0x00000000, 0x00000000⟩,
  ⟨0x050020, 8, 4, 0xffffffff, 0x00000000, 0x00000000, 0x00000000, 0x00000000, 0x00000000, 0x00000000⟩,
  ⟨0x050040, 8, 4, 0xffffffff, 0x00000000, 0x00000000, 0x00000000, 0x00000000, 0x00000000, 0x00000000⟩]

/-- The register families of the PRF_ block. -/
def regsPrf : List RegDesc := [
  ⟨0x060000, 1, 4, 0x000003ff, 0x00000000, 0x00000000, 0x00000000, 0x00000000, 0x00000000, 0x00000000⟩,
  ⟨0x060004, 1, 4, 0x80ff0f77, 0x00000000, 0x00000000, 0x00000000, 0x00000000, 0x00000000, 0x00000000⟩,
  ⟨0x060010, 8, 4, 0xffffffff, 0x00000000, 0x00000000, 0x00000000, 0x00000000, 0x00000000, 0x00000000⟩,
  ⟨0x060040, 1, 4, 0x00cf0f00, 0x00cf0f00, 0x00000000, 0x00000000, 0x00000000, 0x00000000, 0x00000000⟩,
  ⟨0x060060, 8, 4, 0x00cf007f, 0x00cf007f, 0x00000000, 0x00000000, 0x00000000, 0x00000000, 0x00000000⟩,
  ⟨0x060100, 64, 4, 0xfffffeff, 0xfffffeff, 0x00000000, 0x00000000, 0x00000000, 0x00000000, 0x00000000⟩]

/-- The register families of the PTY_ block. -/
def regsPty : List RegDesc := [
  ⟨0x070000, 5, 4, 0xffffffff, 0x00000000, 0x00000000, 0x00000000, 0xffffffff, 0x00000000, 0x00000000⟩]

/-- The register families of the UPD_ block. -/
def regsUpd : List RegDesc := [
  ⟨0x080000, 1, 4, 0x00003fff, 0x00003fff, 0x00000000, 0x00000000, 0x00000000, 0x00000000, 0x00000000⟩,
  ⟨0x080008, 1, 4, 0xfffff000, 0xfffff000, 0x00000000, 0x00000000, 0x00000000, 0x00000000, 0x00000000⟩,
  ⟨0x08000c, 1, 4, 0xffffffff, 0xffffffff, 0x00000000, 0x00000000, 0x00000000, 0x00000000, 0x00000000⟩,
  ⟨0x080010, 1, 4, 0xfffff000, 0xfffff000, 0x00000000, 0x00000000, 0x00000000, 0x00000000, 0x00000000⟩,
  ⟨0x080014, 1, 4, 0xffffffff, 0xffffffff, 0x00000000, 0x00000000, 0x00000000, 0x00000000, 0x00000000⟩,
  ⟨0x080018, 1, 4, 0xffffff8f, 0xffffff8f, 0x00000000, 0x00000000, 0x00000000, 0x00000000, 0x00000000⟩,
  ⟨0x08001c, 1, 4, 0xffffffff, 0xffffffff, 0x00000000, 0x00000000, 0x00000000, 0x00000000, 0x00000000⟩,
  ⟨0x080020, 1, 4, 0xc000ffff, 0xc000ffff, 0x00000000, 0x00000000, 0x00000000, 0x00000000, 0x00000000⟩,
  ⟨0x080024, 1, 4, 0x00000007, 0x00000000, 0x00000000, 0x00000007, 0x00000000, 0x00000000, 0x00000000⟩,
  ⟨0x080028, 1, 4, 0xf8000007, 0x00000000, 0x00000007, 0x00000000, 0x00000000, 0x00000000, 0x00000000⟩,
  ⟨0x08002c, 1, 4, 0xffffffff, 0x00000000, 0x00000000, 0x00000000, 0x00000000, 0x00000000, 0x00000000⟩,
  ⟨0x080030, 1, 4, 0xffffffff, 0x00000000, 0x00000000, 0x00000000, 0x00000000, 0x00000000, 0x00000000⟩,
  ⟨0x080040, 1, 4, 0x1fff1fff, 0x00000000, 0x00000000, 0x00000000, 0x1fff0000, 0x00000000, 0x00000000⟩,
  ⟨0x080044, 1, 4, 0x00011fff, 0x00011fff, 0x00000000, 0x00000000, 0x00000000, 0x00000000, 0x00010040⟩,
  ⟨0x080100, 16, 4, 0xffffffff, 0x00000000, 0x00000000, 0x00000000, 0x00000000, 0x00000000, 0x00000000⟩,
  ⟨0x080140, 8, 4, 0xffffffff, 0x00000000, 0x00000000, 0x00000000, 0xffffffff, 0x00000000, 0x00000000⟩,
  ⟨0x080180, 12, 4, 0xffffffff, 0x00000000, 0x00000000, 0x00000000, 0xffffffff, 0x00000000, 0x00000000⟩]

/-- The register families of the EPC_ block. -/
def regsEpc : List RegDesc := [
  ⟨0x090000, 1, 4, 0x00000007, 0x00000007, 0x00000000, 0x00000000, 0x00000000, 0x00000000, 0x00000000⟩,
  ⟨0x090004, 1, 4, 0xffffffff, 0x00000000, 0x00000000, 0x00000000, 0x00000000, 0x00000000, 0x00000000⟩,
  ⟨0x090008, 1, 4, 0x007fffff, 0x00000000, 0x00000000, 0x00000000, 0x00000000, 0x00000000, 0x00000000⟩,
  ⟨0x09000c, 1, 4, 0xf8003fff, 0x00000000, 0x00000000, 0x00000000, 0x00000000, 0x00000000, 0x00000000⟩,
  ⟨0x090010, 1, 4, 0xffffffff, 0x00000000, 0x00000000, 0x00000000, 0x00000000, 0x00000000, 0x00000000⟩,
  ⟨0x090014, 1, 4, 0xffffffff, 0x00000000, 0x00000000, 0x00000000, 0x00000000, 0x00000000, 0x00000000⟩,
  ⟨0x090018, 1, 4, 0xffffffff, 0x00000000, 0x00000000, 0x00000000, 0x00000000, 0x00000000, 0x00000000⟩,
  ⟨0x090020, 1, 4, 0x00ffffff, 0x00000000, 0x00ffffff, 0x00000000, 0x00000000, 0x00000000, 0x00000000⟩,
  ⟨0x090024, 1, 4, 0x00ffffff, 0x00ffffff, 0x00000000, 0x00000000, 0x00000000, 0x00000000, 0x00000000⟩]

/-- The register families of the TOD_ block. -/
def regsTod : List RegDesc := [
  ⟨0x0a0000, 1, 4, 0x00000007, 0x00000000, 0x00000000, 0x00000007, 0x00000000, 0x00000000, 0x00000000⟩,
  ⟨0x0a0004, 1, 4, 0xf0000000, 0x00000000, 0x00000000, 0x00000000, 0x00000000, 0x00000000, 0x00000000⟩,
  ⟨0x0a0010, 1, 4, 0xffffffff, 0xffffffff, 0x00000000, 0x00000000, 0x00000000, 0x00000000, 0x00000000⟩,
  ⟨0x0a0014, 1, 4, 0xffffffff, 0xffffffff, 0x00000000, 0x00000000, 0x00000000, 0x00000000, 0x00000000⟩,
  ⟨0x0a0018, 1, 4, 0xffffffff, 0xffffffff, 0x00000000, 0x00000000, 0x00000000, 0x00000000, 0x00000000⟩,
  ⟨0x0a0020, 1, 4, 0xffffffff, 0xffffffff, 0x00000000, 0x00000000, 0x00000000, 0x00000000, 0x00000000⟩,
  ⟨0x0a0024, 1, 4, 0xffffffff, 0xffffffff, 0x00000000, 0x00000000, 0x00000000, 0x00000000, 0x00000000⟩,
  ⟨0x0a0028, 1, 4, 0xffffffff, 0xffffffff, 0x00000000, 0x00000000, 0x00000000, 0xffffffff, 0x00000000⟩,
  ⟨0x0a0030, 1, 4, 0xffffffff, 0xffffffff, 0x00000000, 0x00000000, 0x00000000, 0x00000000, 0x00000000⟩,
  ⟨0x0a0034, 1, 4, 0x0001ffff, 0x0001ffff, 0x00000000, 0x00000000, 0x00000000, 0x00000000, 0x000003e8⟩,
  ⟨0x0a0040, 4, 4, 0x0000ffff, 0x00000000, 0x00000000, 0x00000000, 0x00000000, 0x00000000, 0x00000000⟩,
  ⟨0x0a0050, 4, 4, 0x0000ffff, 0x0000ffff, 0x00000000, 0x00000000, 0x00000000, 0x0000ffff, 0x00000000⟩,
  ⟨0x0a0060, 1, 4, 0x0000003f, 0x0000003f, 0x00000000, 0x00000000, 0x00000000, 0x0000003f, 0x00000000⟩,
  ⟨0x0a0064, 1, 4, 0x000fff07, 0x00000000, 0x00000007, 0x00000000, 0x00000000, 0x00000000, 0x00000000⟩,
  ⟨0x0a0068, 1, 4, 0x00000007, 0x00000007, 0x00000000, 0x00000000, 0x00000000, 0x00000000, 0x00000000⟩,
  ⟨0x0a0070, 1, 4, 0x8000ffff, 0x8000ffff, 0x00000000, 0x00000000, 0x00000000, 0x8000ffff, 0x00000000⟩,
  ⟨0x0a0074, 1, 4, 0x3fffffff, 0x3fffffff, 0x00000000, 0x00000000, 0x00000000, 0x3fffffff, 0x00000000⟩,
  ⟨0x0a0080, 1, 4, 0x0000000f, 0x0000000f, 0x00000000, 0x00000000, 0x00000000, 0x00000000, 0x00000000⟩,
  ⟨0x0a0088, 1, 4, 0xffffffff, 0x00000000, 0x00000000, 0x00000000, 0x00000000, 0x00000000, 0x00000000⟩,
  ⟨0x0a008c, 1, 4, 0xffffffff, 0x00000000, 0x00000000, 0x00000000, 0x00000000, 0x00000000, 0x00000000⟩,
  ⟨0x0a0090, 1, 4, 0xffffffff, 0x00000000, 0x00000000, 0x00000000, 0x00000000, 0x00000000, 0x00000000⟩,
  ⟨0x0a0094, 1, 4, 0xffffffff, 0x00000000, 0x00000000, 0x00000000, 0x00000000, 0x00000000, 0x00000000⟩]

/-- The register families of the CAS_ block. -/
def regsCas : List RegDesc := [
  ⟨0x0b0000, 1, 4, 0x000000ff, 0x000000ff, 0x00000000, 0x00000000, 0x00000000, 0x000000ff, 0x00000000⟩,
  ⟨0x0b0004, 1, 4, 0xfffff000, 0x00000000, 0x00000000, 0x00000000, 0x00000000, 0x00000000, 0x00000000⟩,
  ⟨0x0b0008, 1, 4, 0x000000f3, 0x000000f0, 0x00000000, 0x00000003, 0x00000000, 0x00000000, 0x00000000⟩,
  ⟨0x0b0010, 1, 4, 0xffffffff, 0xffffffff, 0x00000000, 0x00000000, 0x00000000, 0x00000000, 0x006400c8⟩,
  ⟨0x0b0014, 1, 4, 0xfff80000, 0x00000000, 0x00000000, 0x00000000, 0x00000000, 0x00000000, 0x00000000⟩,
  ⟨0x0b0018, 2, 4, 0x000fffff, 0x00000000, 0x00000000, 0x00000000, 0x00000000, 0x00000000, 0x00000000⟩,
  ⟨0x0b0020, 1, 4, 0xf700ffff, 0x00000000, 0x00000000, 0x00000000, 0x00000000, 0x00000000, 0x00000000⟩,
  ⟨0x0b0030, 1, 4, 0xf0fffffc, 0xf0fffffc, 0x00000000, 0x00000000, 0x00000000, 0x00000000, 0x00000000⟩,
  ⟨0x0b0034, 1, 4, 0xffffffff, 0xffffffff, 0x00000000, 0x00000000, 0x00000000, 0x00000000, 0x00000000⟩,
  ⟨0x0b0038, 1, 4, 0x8f000003, 0x00000000, 0x00000000, 0x00000000, 0x00000000, 0x00000000, 0x00000000⟩,
  ⟨0x0b0040, 1, 4, 0x000000ff, 0x00000000, 0x000000ff, 0x00000000, 0x00000000, 0x00000000, 0x00000000⟩,
  ⟨0x0b0044, 1, 4, 0x000000ff, 0x000000ff, 0x00000000, 0x00000000, 0x00000000, 0x00000000, 0x00000000⟩,
  ⟨0x0b0084, 15, 4, 0xfe00ffff, 0x00000000, 0x00000000, 0x00000000, 0x00000000, 0x00000000, 0x00000000⟩,
  ⟨0x0b00c4, 15, 4, 0x80003fff, 0x80003fff, 0x00000000, 0x00000000, 0x00000000, 0x00000000, 0x00000000⟩,
  ⟨0x0b0100, 12, 4, 0xffffffff, 0x00000000, 0x00000000, 0x00000000, 0xffffffff, 0x00000000, 0x00000000⟩,
  ⟨0x0b0200, 16, 4, 0x30ffff00, 0x30ffff00, 0x00000000, 0x00000000, 0x00000000, 0x30ffff00, 0x00000000⟩,
  ⟨0x0b0240, 16, 4, 0xff0000ff, 0x00000000, 0x00000000, 0x00000000, 0x00000000, 0x00000000, 0x00000000⟩]

/-- The register families of the INT_ block. -/
def regsInt : List RegDesc := [
  ⟨0x0c0000, 1, 4, 0x001fffff, 0x00000000, 0x00000000, 0x00000000, 0x00000000, 0x00000000, 0x00000000⟩,
  ⟨0x0c0004, 1, 4, 0x800007ff, 0x800007ff, 0x00000000, 0x00000000, 0x00000000, 0x00000000, 0x00000000⟩,
  ⟨0x0c0008, 1, 4, 0x000007ff, 0x00000000, 0x000007ff, 0x00000000, 0x00000000, 0x00000000, 0x00000000⟩,
  ⟨0x0c000c, 1, 4, 0x000007ff, 0x000007ff, 0x00000000, 0x00000000, 0x00000000, 0x00000000, 0x00000000⟩,
  ⟨0x0c0010, 1, 4, 0x00003fff, 0x00003fff, 0x00000000, 0x00000000, 0x00000000, 0x00000000, 0x00002ee0⟩,
  ⟨0x0c0014, 1, 4, 0xffffffff, 0x00000000, 0x00000000, 0x00000000, 0x0000ffff, 0x00000000, 0x00000000⟩,
  ⟨0x0c0018, 1, 4, 0x800000ff, 0x800000ff, 0x00000000, 0x00000000, 0x00000000, 0x00000000, 0x80000010⟩,
  ⟨0x0c001c, 1, 4, 0x000001ff, 0x000000ff, 0x00000000, 0x00000100, 0x00000000, 0x00000000, 0x00000000⟩,
  ⟨0x0c0020, 1, 4, 0x800000ff, 0x00000000, 0x00000000, 0x00000000, 0x00000000, 0x00000000, 0x00000000⟩,
  ⟨0x0c0024, 1, 4, 0x0000ffff, 0x0000ffff, 0x00000000, 0x00000000, 0x00000000, 0x00000000, 0x00006040⟩,
  ⟨0x0c0028, 1, 4, 0xffffffff, 0x00000000, 0x00000000, 0x00000000, 0x00000000, 0x00000000, 0x00000000⟩,
  ⟨0x0c002c, 1, 4, 0xffffffff, 0x00000000, 0x00000000, 0x00000000, 0x00000000, 0x00000000, 0x00000000⟩,
  ⟨0x0c0030, 1, 4, 0xffffffff, 0x00000000, 0x00000000, 0x00000000, 0x00000000, 0xff000000, 0x00000000⟩,
  ⟨0x0c0038, 1, 4, 0xfffff000, 0xfffff000, 0x00000000, 0x00000000, 0x00000000, 0x00000000, 0x00000000⟩,
  ⟨0x0c003c, 1, 4, 0xffffffff, 0xffffffff, 0x00000000, 0x00000000, 0x00000000, 0x00000000, 0x00000000⟩,
  ⟨0x0c0040, 1, 4, 0xfff80fff, 0xfff80fff, 0x00000000, 0x00000000, 0x00000000, 0x00000000, 0x00000640⟩,
  ⟨0x0c0044, 1, 4, 0x0000ffff, 0x00000000, 0x00000000, 0x00000000, 0x00000000, 0x00000000, 0x00000000⟩,
  ⟨0x0c0048, 1, 4, 0x0000ffff, 0x0000ffff, 0x00000000, 0x00000000, 0x00000000, 0x00000000, 0x00000000⟩,
  ⟨0x0c004c, 1, 4, 0xffffffff, 0x00000000, 0x00000000, 0x00000000, 0xffffffff, 0x00000000, 0x00000000⟩,
  ⟨0x0c0100, 22, 4, 0xffffffff, 0x00000000, 0x00000000, 0x00000000, 0xffffffff, 0x00000000, 0x00000000⟩,
  ⟨0x0c0400, 272, 4, 0x0000ffff, 0x00000000, 0x00000000, 0x00000000, 0x00000000, 0x00000000, 0x000000ff⟩]

/-- The register families of the HIF_ block. -/
def regsHif : List RegDesc := [
  ⟨0x0d0000, 1, 4, 0xffffffff, 0x00000000, 0x00000000, 0x00000000, 0x00000000, 0x00000000, 0x64000000⟩,
  ⟨0x0d0004, 1, 4, 0x000001ff, 0x000001ff, 0x00000000, 0x00000000, 0x00000000, 0x00000000, 0x00000000⟩,
  ⟨0x0d0104, 63, 4, 0x07ff0fff, 0x07ff0fff, 0x00000000, 0x00000000, 0x00000000, 0x00000000, 0x00000000⟩]

/-- The register families of the DRC_ block. -/
def regsDrc : List RegDesc := [
  ⟨0x0e0000, 1, 4, 0xc0f0ffff, 0x00000000, 0x00000000, 0x00000000, 0x00000000, 0x00000000, 0x00000000⟩,
  ⟨0x0e0004, 1, 4, 0x0000ff07, 0x0000ff07, 0x00000000, 0x00000000, 0x00000000, 0x00000000, 0x00001004⟩,
  ⟨0x0e0008, 1, 4, 0xffffffff, 0xffffffff, 0x00000000, 0x00000000, 0x00000000, 0x00000000, 0x10002001⟩,
  ⟨0x0e000c, 1, 4, 0x000000ff, 0x00000000, 0x00000000, 0x00000000, 0x00000000, 0x00000000, 0x00000000⟩,
  ⟨0x0e0010, 1, 4, 0x0000001f, 0x00000000, 0x0000001f, 0x00000000, 0x00000000, 0x00000000, 0x00000000⟩,
  ⟨0x0e0014, 1, 4, 0x0000001f, 0x0000001f, 0x00000000, 0x00000000, 0x00000000, 0x00000000, 0x00000000⟩,
  ⟨0x0e0020, 4, 4, 0xc0000f0f, 0x00000000, 0x00000000, 0x00000000, 0x00000f00, 0x00000000, 0x00000000⟩,
  ⟨0x0e0040, 6, 4, 0xffffffff, 0x00000000, 0x00000000, 0x00000000, 0x00000000, 0xffffffff, 0x00000000⟩,
  ⟨0x0e0080, 10, 4, 0xffffffff, 0x00000000, 0x00000000, 0x00000000, 0xffffffff, 0x00000000, 0x00000000⟩]

/-- The register families of the ARB_ block. -/
def regsArb : List RegDesc := [
  ⟨0x0f0000, 1, 4, 0x00ffffff, 0x00ffffff, 0x00000000, 0x00000000, 0x00000000, 0x00000000, 0x00fac688⟩,
  ⟨0x0f0004, 2, 4, 0xffffffff, 0xffffffff, 0x00000000, 0x00000000, 0x00000000, 0x00000000, 0x10101010⟩,
  ⟨0x0f000c, 1, 4, 0x00000001, 0x00000001, 0x00000000, 0x00000000, 0x00000000, 0x00000000, 0x00000000⟩,
  ⟨0x0f0010, 1, 4, 0x0000ffff, 0x0000ffff, 0x00000000, 0x00000000, 0x00000000, 0x00000000, 0x00000000⟩,
  ⟨0x0f0014, 1, 4, 0xfcffffff, 0x00000000, 0x00000000, 0x00000000, 0x00000000, 0x00000000, 0x08000000⟩,
  ⟨0x0f0018, 1, 4, 0x000000ff, 0x00000000, 0x000000ff, 0x00000000, 0x00000000, 0x00000000, 0x00000000⟩,
  ⟨0x0f001c, 1, 4, 0x000000ff, 0x000000ff, 0x00000000, 0x00000000, 0x00000000, 0x00000000, 0x00000000⟩,
  ⟨0x0f0040, 8, 4, 0xffffffff, 0x00000000, 0x00000000, 0x00000000, 0xffffffff, 0x00000000, 0x00000000⟩,
  ⟨0x0f0060, 8, 4, 0xffffffff, 0x00000000, 0x00000000, 0x00000000, 0xffffffff, 0x00000000, 0x00000000⟩,
  ⟨0x0f0080, 8, 4, 0xffffffff, 0x00000000, 0x00000000, 0x00000000, 0xffffffff, 0x00000000, 0x00000000⟩]

/-- The register families of the CLK_ block. -/
def regsClk : List RegDesc := [
  ⟨0x100000, 1, 4, 0x000003ff, 0x00000000, 0x00000000, 0x00000000, 0x00000000, 0x00000000, 0x00000000⟩,
  ⟨0x100004, 1, 4, 0x00000003, 0x00000003, 0x00000000, 0x00000000, 0x00000000, 0x00000000, 0x00000002⟩,
  ⟨0x100008, 1, 4, 0x800000ff, 0x800000ff, 0x00000000, 0x00000000, 0x00000000, 0x00000000, 0x80000004⟩,
  ⟨0x100010, 1, 4, 0x00000003, 0x00000000, 0x00000003, 0x00000000, 0x00000000, 0x00000000, 0x00000000⟩,
  ⟨0x100014, 1, 4, 0x00000003, 0x00000003, 0x00000000, 0x00000000, 0x00000000, 0x00000000, 0x00000000⟩,
  ⟨0x100020, 2, 4, 0xffffffff, 0x00000000, 0x00000000, 0x00000000, 0x00000000, 0x00000000, 0x00000000⟩]

/-- The register families of the PWR_ block. -/
def regsPwr : List RegDesc := [
  ⟨0x110000, 1, 4, 0x00000003, 0x00000002, 0x00000000, 0x00000001, 0x00000000, 0x00000000, 0x00000000⟩,
  ⟨0x110004, 1, 4, 0x00000007, 0x00000007, 0x00000000, 0x00000000, 0x00000000, 0x00000007, 0x00000000⟩,
  ⟨0x110008, 1, 4, 0xfff00000, 0x00000000, 0x00000000, 0x00000000, 0x00000000, 0x00000000, 0x00000000⟩,
  ⟨0x11000c, 1, 4, 0xffffffff, 0x00000000, 0x00000000, 0x00000000, 0x00000000, 0x00000000, 0x0fffffff⟩,
  ⟨0x110010, 1, 4, 0xfe000000, 0x00000000, 0x00000000, 0x00000000, 0x00000000, 0x00000000, 0x00000000⟩,
  ⟨0x110014, 1, 4, 0x00000007, 0x00000003, 0x00000000, 0x00000004, 0x00000000, 0x00000003, 0x00000000⟩,
  ⟨0x110018, 1, 4, 0x8f00ffff, 0x00000000, 0x00000000, 0x00000000, 0x00000000, 0x0c000000, 0x00000000⟩,
  ⟨0x11001c, 1, 4, 0x7f7f7f7f, 0x7f7f7f7f, 0x00000000, 0x00000000, 0x00000000, 0x7f7f7f7f, 0x00000000⟩,
  ⟨0x110020, 1, 4, 0x0003ffff, 0x0003ffff, 0x00000000, 0x00000000, 0x00000000, 0x00000000, 0x0003640f⟩,
  ⟨0x110024, 1, 4, 0x0000001f, 0x00000000, 0x0000001f, 0x00000000, 0x00000000, 0x00000000, 0x00000000⟩,
  ⟨0x110028, 1, 4, 0x0000001f, 0x0000001f, 0x00000000, 0x00000000, 0x00000000, 0x00000000, 0x00000000⟩,
  ⟨0x110034, 4, 4, 0xffffffff, 0x0fffffff, 0x00000000, 0x00000000, 0x00000000, 0x0fffffff, 0x00000000⟩,
  ⟨0x110050, 7, 4, 0xffffffff, 0x00000000, 0x00000000, 0x00000000, 0xffffffff, 0x00000000, 0x00000000⟩,
  ⟨0x110080, 8, 4, 0xffffffff, 0xffffffff, 0x00000000, 0x00000000, 0x00000000, 0xffffffff, 0x00000000⟩,
  ⟨0x1100a0, 8, 4, 0xffffffff, 0x00000000, 0x00000000, 0x00000000, 0x00000000, 0x00000000, 0x00000000⟩,
  ⟨0x1100c0, 2, 4, 0xffffffff, 0xffffffff, 0x00000000, 0x00000000, 0x00000000, 0xffffffff, 0x00000000⟩,
  ⟨0x1100c8, 2, 4, 0xffffffff, 0x00000000, 0x00000000, 0x00000000, 0x00000000, 0x00000000, 0x00000000⟩]

/-- The register families of the FWU_ block. -/
def regsFwu : List RegDesc := [
  ⟨0x120000, 1, 4, 0x0000000f, 0x00000000, 0x00000000, 0x0000000f, 0x00000000, 0x00000000, 0x00000000⟩,
  ⟨0x120004, 1, 4, 0xff8fffff, 0x00000000, 0x00000000, 0x00000000, 0x00000000, 0x00000000, 0x00000000⟩,
  ⟨0x120008, 1, 4, 0x000700ff, 0x000700ff, 0x00000000, 0x00000000, 0x00000000, 0x000700ff, 0x00000000⟩,
  ⟨0x12000c, 1, 4, 0xe00fffff, 0x00000000, 0x00000000, 0x00000000, 0x00000000, 0x00000000, 0x00000000⟩,
  ⟨0x120010, 1, 4, 0xffffffff, 0x00000000, 0x00000000, 0x00000000, 0x00000000, 0x00000000, 0x00000000⟩,
  ⟨0x120014, 1, 4, 0xffffffff, 0x00000000, 0x00000000, 0x00000000, 0x00000000, 0x00000000, 0x00000000⟩,
  ⟨0x120020, 3, 4, 0xffffffff, 0x00000000, 0x00000000, 0x00000000, 0x00000000, 0x00000000, 0x00000000⟩,
  ⟨0x120030, 1, 4, 0xffffffff, 0xffffffff, 0x00000000, 0x00000000, 0x00000000, 0x00000000, 0x00000000⟩,
  ⟨0x120034, 1, 4, 0x80001fff, 0x80001fff, 0x00000000, 0x00000000, 0x00000000, 0x00000000, 0x00000000⟩,
  ⟨0x120038, 1, 4, 0xffffffff, 0x00000000, 0x00000000, 0x00000000, 0x00000000, 0x00000000, 0x00000000⟩,
  ⟨0x120040, 1, 4, 0x0000000f, 0x00000000, 0x0000000f, 0x00000000, 0x00000000, 0x00000000, 0x00000000⟩,
  ⟨0x120044, 1, 4, 0x0000000f, 0x0000000f, 0x00000000, 0x00000000, 0x00000000, 0x00000000, 0x00000000⟩]

/-- The register families of the VBT_ block. -/
def regsVbt : List RegDesc := [
  ⟨0x130000, 1, 4, 0xfe0003ff, 0x00000000, 0x00000000, 0x00000000, 0x00000000, 0x00000000, 0x00000000⟩,
  ⟨0x130008, 1, 4, 0xffffffff, 0x00000000, 0x00000000, 0x00000000, 0x00000000, 0x00000000, 0x00000000⟩,
  ⟨0x13000c, 1, 4, 0x0000ffff, 0x00000000, 0x00000000, 0x00000000, 0x00000000, 0x00000000, 0x00000000⟩,
  ⟨0x130010, 1, 4, 0x00000007, 0x00000000, 0x00000007, 0x00000000, 0x00000000, 0x00000000, 0x00000000⟩,
  ⟨0x130014, 1, 4, 0x00000007, 0x00000007, 0x00000000, 0x00000000, 0x00000000, 0x00000000, 0x00000000⟩,
  ⟨0x130100, 64, 4, 0xffffffff, 0xffffffff, 0x00000000, 0x00000000, 0x00000000, 0x00000000, 0x00000000⟩]

/-- The register families of the PRT_ block. -/
def regsPrt : List RegDesc := [
  ⟨0x140000, 1, 4, 0x00000001, 0x00000000, 0x00000000, 0x00000000, 0x00000000, 0x00000000, 0x00000000⟩,
  ⟨0x140010, 1, 4, 0x00000003, 0x00000000, 0x00000000, 0x00000003, 0x00000000, 0x00000000, 0x00000000⟩,
  ⟨0x140014, 1, 4, 0xfffeffff, 0x00000000, 0x00000000, 0x00000000, 0x00000000, 0x00000000, 0x00000000⟩,
  ⟨0x140018, 1, 4, 0xffffffff, 0x00000000, 0x00000000, 0x00000000, 0x00000000, 0x00000000, 0x00000000⟩,
  ⟨0x140020, 1, 4, 0x0000001f, 0x0000001f, 0x00000000, 0x00000000, 0x00000000, 0x00000000, 0x00000000⟩,
  ⟨0x140024, 1, 4, 0xffffffff, 0x00000000, 0x00000000, 0x00000000, 0x00000000, 0x00000000, 0x00000000⟩,
  ⟨0x140028, 1, 4, 0xffffffff, 0x00000000, 0x00000000, 0x00000000, 0x00000000, 0x00000000, 0x00000000⟩,
  ⟨0x14002c, 1, 4, 0xffffffff, 0x00000000, 0x00000000, 0x00000000, 0x00000000, 0x00000000, 0x00000000⟩,
  ⟨0x140030, 1, 4, 0xffffffff, 0x00000000, 0x00000000, 0x00000000, 0x00000000, 0x00000000, 0x00000000⟩,
  ⟨0x140034, 1, 4, 0xffffffff, 0x00000000, 0x00000000, 0x00000000, 0x00000000, 0x00000000, 0x00000000⟩,
  ⟨0x140038, 1, 4, 0x0000000f, 0x00000000, 0x0000000f, 0x00000000, 0x00000000, 0x00000000, 0x00000000⟩,
  ⟨0x14003c, 1, 4, 0x0000000f, 0x0000000f, 0x00000000, 0x00000000, 0x00000000, 0x00000000, 0x00000000⟩,
  ⟨0x140044, 13, 4, 0xffffffff, 0x00000000, 0x00000000, 0x00000000, 0xffffffff, 0x00000000, 0x00000000⟩,
  ⟨0x140080, 5, 4, 0xffffffff, 0x00000000, 0x00000000, 0x00000000, 0x00000000, 0xffffffff, 0x00000000⟩,
  ⟨0x140104, 63, 4, 0x0000000f, 0x00000000, 0x00000000, 0x00000000, 0x00000000, 0x0000000f, 0x00000000⟩,
  ⟨0x140200, 16, 8, 0xf87fffff, 0x00000000, 0x00000000, 0x00000000, 0x00000000, 0xf87fffff, 0x00000000⟩,
  ⟨0x140204, 16, 8, 0x007fffff, 0x00000000, 0x00000000, 0x00000000, 0x00000000, 0x007fffff, 0x00000000⟩,
  ⟨0x140410, 252, 4, 0xffffffff, 0x00000000, 0x00000000, 0x00000000, 0x00000000, 0xffffffff, 0x00000000⟩]

/-- The register families of a block number (Table 16.1); blocks 21 to 255 hold none (R408). -/
def blockRegs (b : Nat) : List RegDesc :=
  match b with
  | 0 => regsGlb
  | 1 => regsLnk
  | 2 => regsPip
  | 3 => regsHob
  | 4 => regsSve
  | 5 => regsTbl
  | 6 => regsPrf
  | 7 => regsPty
  | 8 => regsUpd
  | 9 => regsEpc
  | 10 => regsTod
  | 11 => regsCas
  | 12 => regsInt
  | 13 => regsHif
  | 14 => regsDrc
  | 15 => regsArb
  | 16 => regsClk
  | 17 => regsPwr
  | 18 => regsFwu
  | 19 => regsVbt
  | 20 => regsPrt
  | _ => []

/-- The family that a BAR0 byte offset belongs to, if it holds a register. -/
def regDesc (off : Nat) : Option RegDesc :=
  (blockRegs (off / 65536)).find? fun d =>
    d.base ≤ off && off < d.base + d.count * d.stride && (off - d.base) % d.stride == 0

/-- The reset value of the register at an offset; forms F, S, V and M read 0 until start-up writes them (R413). -/
def regReset (off : Nat) : Word := match regDesc off with
  | some d => d.reset
  | none => 0

/-- The bits of the register at an offset that are not reserved; where there is no register, none. -/
def regLive (off : Nat) : Word := match regDesc off with
  | some d => d.live
  | none => 0

end Sys2Proof.Machine
end

