-- ==== Sys2Proof/Machine/State.lean ====
section
/-! DEFINITION. The state of the block, as plain data: every register, memory, queue, counter, mode and pin the spec
gives it, and the queue of waiting commands. INVENTORY.md lists each field with its rule and reset value. -/

namespace Sys2Proof.Machine

open Sys2Proof

/-- No command of the block stops it with a fault: the spec answers every access, frame, descriptor and detected fault
with an effect (R285, R155, R109, R232). The type has no constructor, so no meaning can raise one: safe. -/
inductive Fault where
  deriving DecidableEq, Repr

/-- Why a command has no meaning. -/
inductive Refusal where
  /-- Raised by the dispatcher alone, for a command whose meaning is not written: safe (the run stops). -/
  | notModelled (mnemonic : String)
  deriving DecidableEq, Repr

/-- Time and the frame counter (R16, R127, R354). -/
structure ClkSt where
  /-- 1 ns ticks of the time clock since power-on. -/
  now : Nat
  /-- PCLK cycles since power-on. -/
  pclk : Nat
  /-- Hundredths of a PCLK cycle not yet counted. -/
  pphase : Nat
  /-- The frame counter, 0 to 63 (R127). -/
  slot : Nat
  /-- Frame boundaries passed. -/
  frame : Nat
  /-- Free values read so far: the model's own field, not the spec's (log entry 4). -/
  free : Nat
  deriving DecidableEq, Repr

/-- What the configuration space of one function says (R258, R261, R274): the codes of Max Payload Size and Max Read Request Size
count powers of two from 128 bytes, and `errs` is the uncorrectable error status of Advanced Error Reporting. -/
structure FnCfg where
  bme : Bool
  d3hot : Bool
  msixEn : Bool
  fnMask : Bool
  mps : Nat
  mrrs : Nat
  errs : Word
  deriving DecidableEq, Repr

/-- The configuration of a function after its reset (log entry 10). -/
def FnCfg.reset : FnCfg := ⟨false, false, false, false, 0, 2, 0⟩

/-- One MSI-X entry (R272, R274). -/
structure MsixEntry where
  addr : W64
  data : Word
  mask : Bool
  deriving DecidableEq, Repr

/-- A request the device sends to the host (Table 10.2). -/
inductive HostTlp where
  /-- A posted write of 64-bit words at an address. -/
  | write (fn : Nat) (addr : W64) (data : List W64)
  /-- A read of a number of bytes for the command in flight of that number. -/
  | read (fn : Nat) (addr : W64) (bytes : Nat) (cmd : Nat)
  /-- An MSI-X message of a vector (R274). -/
  | msix (fn : Nat) (vec : Nat) (addr : W64) (data : Word)
  deriving DecidableEq, Repr

/-- The answer to a read (R265, R267): the word a party gets, or the bytes enabled in a BAR4 read, with the EP bit (R295). -/
inductive ReadResult where
  /-- A read of the doorbells returns 0 whatever its width (R266). -/
  | doorbell (fn : Nat)
  | reg (src : Party) (v : Word)
  | mem (data : List (Option Byte)) (poisoned : Bool)
  /-- The MP takes a precise data abort (R295). -/
  | abort
  deriving DecidableEq, Repr

/-- What the SMBus target answers (R281). -/
inductive SmbReply where
  | ack
  | nack
  | data (bytes : List Byte)
  deriving DecidableEq, Repr

/-- Host interface (R258 to R274). -/
structure HifSt where
  fns : Tab FnCfg
  vfEnable : Bool
  numVFs : Nat
  msix : Tab MsixEntry
  /-- The pending bits of the vectors (R274). -/
  msixPend : Tab Bool
  /-- Requests sent, in the order issued (R260). -/
  out : List HostTlp
  /-- Results of reads, in order. -/
  answers : List ReadResult
  /-- Subsystem ID and Subsystem Vendor ID, from the settings record (R259). -/
  subsys : Word
  deriving DecidableEq, Repr

/-- Protection: the refusal log, the proposal buffer and the SMBus target (R278 to R286). -/
structure PrtSt where
  /-- Words A and B of the refusal log, newest first, up to 32 (R286). -/
  log : List (W64 × W64)
  /-- Staged entries (offset, value), in staging order (R279). -/
  props : List (Nat × Word)
  /-- The instant at which a waiting proposal expires (R282). -/
  deadline : Option Nat
  /-- SMBALERT_N driven low (R279). -/
  alert : Bool
  smbOut : List SmbReply
  /-- The last SMBus write of a FWU_ register: its instant, offset and value; and the instant of the last PCI Express write to the
  unclaimed FWU window (R287). -/
  smbWrote : Option (Nat × Nat × Word)
  pcieWin : Option Nat
  deriving DecidableEq, Repr

/-- An error record before it gets its PHASE (Table 9.7). -/
structure ErrRec where
  cls : Nat
  code : Nat
  outcome : Nat
  seq : Nat
  /-- Time-of-day of detection in seconds and nanoseconds. -/
  sec : Nat
  ns : Nat
  suppr : Nat
  detail : Nat
  loc : Nat
  deriving DecidableEq, Repr

/-- Error reporting (R253 to R255). -/
structure ErrSt where
  seq : Nat
  phase : Bool
  /-- Records held while INT_ERR_CFG.EN = 0, oldest first, up to 64. -/
  held : List ErrRec
  /-- The instant the last record of a class and code (256 * CLASS + CODE) was written, plus 1; 0 for never (R254). -/
  last : Tab Nat
  /-- Records suppressed since then (R254). -/
  suppressed : Tab Nat
  /-- Records dropped since the last CLASS 0x7F record. -/
  dropped : Nat
  /-- The BLOCK records of rises that are not written yet, oldest first (R255). -/
  rose : List ErrRec
  /-- The instants of the last messages and whether one is owed (R255). -/
  sumAt : Option Nat
  sumOwed : Bool
  errAt : Option Nat
  errOwed : Bool
  deriving DecidableEq, Repr

/-- One slice as stored: 164 bits (Table 2.1). Cell c is bit c of X and of Y. -/
structure Slice where
  x : BitVec 80
  y : BitVec 80
  xe : Bool
  ye : Bool
  px : Bool
  py : Bool
  deriving DecidableEq, Repr

/-- A free slice: every data cell don't-care, E0 = E1 = 0, parity in agreement (R39). -/
def Slice.free : Slice := ⟨0, 0, true, true, true, true⟩

/-- An entry in the working directory and in the golden copy: its table, identity, rank, record and E bits (R161, R236). -/
structure Entry where
  table : Nat
  /-- Key and mask bytes, byte 0 in the top 8 bits; bytes beyond the width are 0. -/
  key : BitVec 640
  mask : BitVec 640
  rank : Nat
  /-- The record, unit 0 first (R75). -/
  record : List Word
  e0 : Bool
  e1 : Bool
  deriving DecidableEq, Repr

/-- Where a maintenance write comes from, and so what follows it (R31, R28). -/
inductive MTag where
  /-- A row write of the plan of that number. -/
  | plan (n : Nat)
  /-- Reconciliation of a domain (R40). -/
  | recon (d : Nat)
  /-- The restoring of a discarded batch of a domain (R182). -/
  | discard (d : Nat)
  /-- The free content of a slot whose hold is over (R39; log entry 64). -/
  | free
  deriving DecidableEq, Repr

/-- A queued row write of the Spatula in a hob (Table 1.5, order 3). -/
structure MReq where
  hob : Nat
  /-- The first PCLK cycle in which it may run (R27). -/
  notBefore : Nat
  /-- The index of the first slot in this copy, and the index of the entry's primary slot. -/
  idx : Nat
  prim : Nat
  table : Nat
  /-- What is written; none clears the E bits, or under the tag `free` writes a free slot (R35, R39). -/
  entry : Option Entry
  /-- The primary index that the entry moves away from (R166). -/
  movedFrom : Option Nat
  /-- The new index of a move to another pan, for the activity merge of R66. -/
  movedTo : Option Nat
  /-- A freed slot is kept until the hold of R29 ends, and the bucket the entry leaves (R163, R168). -/
  kept : Bool
  bucket : Option Nat
  tag : MTag
  deriving DecidableEq, Repr

/-- A hold of R29, and what follows when it ends. -/
structure Hold where
  /-- The PCLK cycle in which the hold ends. -/
  till : Nat
  idx : Nat
  table : Nat
  /-- The slots may not be written before the end; a slot freed at once (R163) has only its bucket bit held. -/
  kept : Bool
  /-- The new index of a move, for the activity merge of R66. -/
  movedTo : Option Nat
  /-- The bucket of the entry that left, 1,024 if it was broad; none for a mirror copy (R168). -/
  bucket : Option Nat
  deriving DecidableEq, Repr

/-- A queued repair of a row of a logical pan (R238). -/
structure Repair where
  hob : Nat
  pan : Nat
  row : Nat
  /-- 0 waiting, 1 row write queued, 2 waiting for the read-back. -/
  phase : Nat
  deriving DecidableEq, Repr

/-- A golden-copy write under way (R27, R237): the index, what it will hold, and the plan whose it is. -/
structure GoldJob where
  idx : Nat
  table : Nat
  entry : Option Entry
  plan : Option Nat
  deriving DecidableEq, Repr

/-- A remap of a logical pan in its hob (Table 9.4). -/
structure Remap where
  pan : Nat
  cause : Nat
  old : Nat
  new : Nat
  /-- 1 copying, 2 comparing, 3 awaiting the settings record, 4 awaiting the frame boundary, 5 switched, 6 retired. -/
  step : Nat
  /-- The next row that the copier or the compare takes, and the rows the copier takes again (R245). -/
  row : Nat
  again : List Nat
  /-- Compares of that row that failed; two abort the remap. -/
  fails : Nat
  /-- The frame boundary or PCLK cycle the next step waits for. -/
  due : Nat
  deriving DecidableEq, Repr

/-- A divergence check (R242): primary index, mirror index, table, and the first slots of the rows not read yet. -/
structure DivCheck where
  prim : Nat
  mirr : Nat
  table : Nat
  unread : List Nat
  deriving DecidableEq, Repr

/-- The search array and what the Spatula and the Scourer keep about it. -/
structure ArrSt where
  /-- By ((hob * 17 + physical pan) * 4096 + row) * 4 + slice. -/
  slices : Tab Slice
  /-- Rank words: RP in bit 16, RANK in bits 15 to 0 (R45); keys as slices. -/
  ranks : Tab (BitVec 17)
  /-- Activity bits by global index (R64). -/
  act : Tab Bool
  /-- 32-bit activity words that fail parity (Table 9.1). -/
  actBad : Tab Bool
  mreqs : List MReq
  holds : List Hold
  repairs : List Repair
  /-- Divergence checks queued (R242). -/
  divs : List DivCheck
  golds : List GoldJob
  /-- The Spatula's working directory and the golden copy, by index of the entry's first (primary) slot. -/
  dir : List (Nat × Entry)
  gold : List (Nat × Entry)
  /-- The golden copy's words of the data regions, by 32-bit unit (R236). -/
  goldRec : Tab Word
  /-- Golden-copy writes so far, and the number of the last one of an index (R249). -/
  goldNo : Nat
  goldAt : Tab Nat
  /-- The epoch counters as the golden copy records them, by domain, once the device's own are lost (R333). -/
  goldCnt : Tab Nat
  /-- The first PCLK cycle whose slot no maintenance access of a hob has used (R30). -/
  maintAt : Tab Nat
  /-- Remap requests: pan and cause, in order (R244). -/
  remapReqs : List (Nat × Nat)
  remaps : List Remap
  /-- Pans migrating (R247), and indices found stranded (R248). -/
  migrating : List Nat
  stranded : List Nat
  /-- Stranded entries that a CAPACITY record has told of (R248). -/
  told : Nat
  /-- Failed searches by hob: hob, instant, pans that failed (R234). -/
  hobFails : List (Nat × Nat × List Nat)
  /-- Repairs completed: hob * 17 + physical pan, instant (R239). -/
  repaired : List (Nat × Nat)
  /-- Scrub progress: rows read in the pass of each hob, start of the pass, and what was read and not yet compared, skipped
  items among it (R236, R237). -/
  scrubPos : Tab Nat
  scrubAt : Tab Nat
  scrubbed : List ScrubItem
  /-- Spares found worn and pans whose WARN was reported (R250). -/
  warned : List Nat
  deriving DecidableEq, Repr

/-- The life of a table number (R68). -/
inductive TblLife where
  | created
  | exists_
  | destroyed
  /-- Its pans and data regions are released, and its TABLE_DESTROY has not been completed (R71). -/
  | released
  deriving DecidableEq, Repr

/-- A table descriptor (Table 3.1). -/
structure TableDesc where
  life : TblLife
  width : Nat
  domain : Nat
  guarded : Bool
  panset : BitVec 256
  mirset : BitVec 256
  actAllow : Nat
  nbits : Nat
  pos : List Nat
  rsize : Nat
  stride : Nat
  base : Nat
  mbase : Nat
  deriving DecidableEq, Repr

/-- A stored Sieve mask word with its two parity bits (R59). -/
structure MaskWord where
  mask : W64
  p1 : Bool
  p0 : Bool
  deriving DecidableEq, Repr

/-- An installed or staged profile: header, 8 lookup and 64 segment descriptors (Tables 3.11 to 3.13). -/
structure Profile where
  hdr : Word
  lks : List Word
  segs : List Word
  deriving DecidableEq, Repr

/-- A profile operation under way (R83). -/
structure PrfOp where
  op : Nat
  prof : Nat
  code : Nat
  errLk : Nat
  errSeg : Nat
  staged : Profile
  /-- On a manager: the workers have been sent it, and the frame boundary at which every device changes, 0 before all have
  answered (R220). -/
  sent : Bool
  due : Nat
  deriving DecidableEq, Repr

/-- Tables, Sieve and profiles. -/
structure TblSt where
  tables : List (Nat × TableDesc)
  /-- By 1,025 * table + bucket; 1,024 is the broad mask (R54, R59). -/
  masks : Tab MaskWord
  /-- The copies in the entry directory (R59). -/
  maskDir : Tab W64
  /-- Mask words found bad, waiting to be rewritten. -/
  maskFix : List Nat
  /-- Descriptors, and words of profiles, that fail parity (R233); keys: table, and 73 * profile + word. -/
  tblBad : Tab Bool
  prfBad : Tab Bool
  profiles : List (Nat × Profile)
  /-- The copies in DRAM (R233, R333). -/
  prfDram : List (Nat × Profile)
  tblDram : List (Nat × TableDesc)
  prfOp : Option PrfOp
  deriving DecidableEq, Repr

/-- The on-chip memories and the DRAM outside the device-managed areas. -/
structure MemSt where
  /-- The Pantry's data bytes by BAR4 offset (R74, R290). -/
  pantry : List Host.Cell
  /-- By word: stored check bits XOR the check bits of the stored data (R73, Table 9.8). -/
  pantrySyn : Tab Byte
  scratch : List Host.Cell
  scratchSyn : Tab Byte
  /-- DRAM bytes by DRAM address, outside the areas of Table 11.3 (R302). -/
  dram : List Host.Cell
  /-- Bytes of areas 4 and 5 that the host or the MP wrote and the device has not written since (R302). -/
  dramSet : Tab Byte
  /-- 64-byte DRAM lines with an uncorrectable error (R252). -/
  dramBad : Tab Bool
  /-- 64-byte DRAM lines with an error that ECC corrects (R252). -/
  dramSoft : Tab Bool
  /-- The rotating pointers of the 8 Pantry groups and 8 scratchpad banks (R291). -/
  rotate : Tab Nat
  deriving DecidableEq, Repr

/-- A core word of an ingress FIFO (R111), with what is stored beside the first core word of a frame. -/
structure CoreWord where
  data : BitVec 512
  last : Bool
  vbc : Nat
  /-- The arrival stamp in ns, and the PCLK cycle from which dispatch sees the frame. -/
  stamp : Nat
  visAt : Nat
  deriving DecidableEq, Repr

/-- What a receiver keeps for one lane (R96, R97, R101). -/
structure LaneSt where
  scram : BitVec 58
  seq : Nat
  /-- Alignment blocks in a row at one offset, missed in a row, with RX_READY 1 in a row, and 0 in a row. -/
  found : Nat
  missed : Nat
  ready : Nat
  notReady : Nat
  /-- RX_READY as last received (REMOTE_READY). -/
  remote : Bool
  /-- LANE and GROUP, or DEV, as deskew read them, and whether a later block gave another (R101, R208). -/
  ident : Nat
  changed : Bool
  deriving DecidableEq, Repr

/-- What a link keeps beside its status register: training limits, framing and the ingress FIFO. -/
structure GrpSt where
  /-- The end of the 30 ms of R99, the instant of the automatic retrain (R98), the end of the 20 us of R348. -/
  limitAt : Option Nat
  retryAt : Option Nat
  resumeAt : Option Nat
  /-- Parked in electrical idle (R348). -/
  parked : Bool
  /-- Blocks received since the group was aligned: block n travels on lane n mod 8 or 16 (R94, R207). -/
  blk : Nat
  /-- Framing state IN (R102), and the words of the open frame. -/
  inFrame : Bool
  open_ : List W64
  poisoned : Bool
  /-- The codeword being received is uncorrectable (R110). -/
  damaged : Bool
  /-- Core words from RP up to WP, and the pointers of 11 bits (R112). -/
  cores : List CoreWord
  wp : Nat
  mark : Nat
  cp : Nat
  rp : Nat
  /-- The FIFO is being reset until this instant, and the open frame's header arrived in that time (R115). -/
  resetTill : Nat
  lost : Bool
  /-- Transmit word positions: where transmission started, those that responses hold, from and up to, and the end of the last
  CREDIT frame (R97, R123). -/
  txBase : Nat
  txHeld : List (Nat × Nat)
  txSent : Nat
  /-- CUM and instant of the last report (R120). -/
  lastCum : Nat
  lastReport : Nat
  /-- Stamp of the last frame (R191). -/
  lastStamp : Nat
  deriving DecidableEq, Repr

/-- A link with nothing received and no limit running. -/
def GrpSt.idle : GrpSt :=
  { limitAt := none, retryAt := none, resumeAt := none, parked := false, blk := 0, inFrame := false, open_ := [],
    poisoned := false, damaged := false, cores := [], wp := 0, mark := 0, cp := 0, rp := 0, resetTill := 0,
    lost := false, txBase := 0, txHeld := [], txSent := 0,
    lastCum := 0, lastReport := 0, lastStamp := 0 }

/-- The lookup link and the training of the cascade link. -/
structure LnkSt where
  /-- By group; 4 is the cascade link. -/
  grps : Tab GrpSt
  /-- By lane: 0 to 31 of the lookup link, 32 to 47 of the cascade link. -/
  lanes : Tab LaneSt
  /-- Frames transmitted: group and words, in order (R105, R116, R120). -/
  tx : List (Nat × List W64)
  /-- CUM of pipelines A and B as reported while credits are withheld (R120, R356). -/
  frozen : Option (Nat × Nat)
  deriving DecidableEq, Repr

/-- A pan report, or a tournament's winner (R47, R48). `bad` marks a missing or bad report (R234). -/
structure Report where
  hit : Bool
  bad : Bool
  index : Nat
  rank : Nat
  deriving DecidableEq, Repr

/-- No hit. -/
def Report.miss : Report := ⟨false, false, 0, 0⟩

/-- The result of a lookup: status (Table 4.14), and for a hit the supplying device, index, rank and result units. -/
structure LkRes where
  status : Nat
  src : Nat
  index : Nat
  rank : Nat
  units : List Word
  deriving DecidableEq, Repr

/-- A lookup of a search in flight. -/
structure LkState where
  table : Nat
  /-- The lookup reports 11 whatever its pans report (R59, R63, R233). -/
  retry : Bool
  prim : Report
  mirr : Report
  res : LkRes
  deriving DecidableEq, Repr

/-- The stage a search in flight has completed. -/
inductive SStage where
  | dispatched
  | searched
  | verified
  deriving DecidableEq, Repr

/-- A search in flight (R18). -/
structure Search where
  pipe : Pipe
  stage : SStage
  grp : Nat
  /-- The request header and key words. -/
  hdr : W64
  key : List W64
  stamp : Nat
  /-- The epoch vector (R22). -/
  vec : BitVec 8
  profNo : Nat
  /-- The profile in force at dispatch (R83). -/
  prof : Profile
  /-- REASON of a REJECT, or 0 (R88, R106). -/
  reject : Nat
  /-- A profile word failed parity (R233). -/
  prfBad : Bool
  /-- The PCLK cycles of dispatch, of the issue slot at alignment, and in which the response leaves (R132, R116). -/
  disp : Nat
  issue : Nat
  leave : Nat
  /-- G in force at alignment. -/
  gap : Nat
  lks : List LkState
  /-- Its pipeline is cascaded, so its response leaves at CAS_LAT; and a CSEARCH was sent or received for it (R214, R218). -/
  casc : Bool
  sent : Bool
  /-- The incoming candidate: whether it was good and matching, and its lookups (R215). -/
  candIn : Option (Bool × List LkRes)
  deriving DecidableEq, Repr

/-- The two pipelines and the slot schedule. -/
structure PipSt where
  /-- By pipeline: the next decision cycle, the first issue cycle not claimed, the last alignment cycle, its G. -/
  nextDec : Tab Nat
  nextIssue : Tab Nat
  lastAlign : Tab Nat
  lastGap : Tab Nat
  flight : List Search
  /-- The array cycle of the latest search that searched (R34). -/
  arrayAt : Nat
  /-- Active and shadow schedule: HOB_SLOT_h_k at 4 h + k, PIP_MASK_p_k at 64 + 2 p + k (R134). -/
  schedActive : Tab Word
  schedShadow : Tab Word
  /-- The switch boundary of a validated switch (R136). -/
  switchAt : Option Nat
  /-- The latest boundary at which the schedule was switched (R136). -/
  switched : Nat
  /-- The shadow schedule has passed its validation, and the other devices of the ring have not all answered (R220). -/
  schedReady : Bool
  /-- The schedule as the settings record holds it (R139). -/
  schedKept : Tab Word
  /-- Words of the slot tables, issue masks and HOB_LMAP, by BAR0 offset, of which one of the three copies is bad (Table 9.1). -/
  voteBad : List Nat
  /-- Dispatch is stopped: by an operating-point change, a quiesce, or a power state (R346, R356, R359). -/
  oppHold : Bool
  quiesce : Bool
  asleep : Bool
  deriving DecidableEq, Repr

/-- A submission ring and its completion ring (R141 to R146, R174, R175, R177). -/
structure Ring where
  /-- STATE and FAULT of UPD_RING_STAT (Tables 6.3 and 6.4), and the three notice bits. -/
  st : Nat
  fault : Nat
  flt : Bool
  cqHigh : Bool
  sqLow : Bool
  /-- The context that APPLY writes. -/
  sqb : W64
  cqb : W64
  cfg : Word
  wm : Word
  coal : Word
  /-- Next slot the device fetches, the tail rung, next entry the device writes, the head rung (Table 6.22). -/
  head : Nat
  tail : Nat
  ctail : Nat
  chead : Nat
  /-- PHASE of the pass through the completion ring (R143). -/
  phase : Bool
  /-- Completions since the last interrupt, the instant of the oldest, and an interrupt due at once (R175). -/
  owed : Nat
  oldest : Nat
  urgent : Bool
  /-- The instant at which the last of the ring's own conditions of R149 turned true, and the tails rung since the last turn with
  the instants of their doorbells (Table 6.25). -/
  since : Nat
  marks : List (Nat × Nat)
  /-- In STOP by a reset of its function: no completion is written (R147, R262). -/
  quiet : Bool
  deriving DecidableEq, Repr

/-- A ring in OFF that was never configured. -/
def Ring.off : Ring :=
  { st := 0, fault := 0, flt := false, cqHigh := false, sqLow := false, sqb := 0, cqb := 0, cfg := 0, wm := 0,
    coal := 0, head := 0, tail := 0, ctail := 0, chead := 0, phase := false, owed := 0, oldest := 0, urgent := false,
    since := 0, marks := [], quiet := false }

/-- The stage of a command in flight (R151). -/
inductive CStage where
  /-- Its descriptor read is outstanding. -/
  | fetched
  /-- Its words are there and it has not been parsed (R152). -/
  | arrived
  /-- Parsed, and held while RECON = 1 (R162). -/
  | held
  /-- Parsed, and not begun. -/
  | ready
  /-- Begun (R147). -/
  | running
  /-- Sent to a worker's relay ring (R228). -/
  | relayed
  /-- Complete; its completion entry waits to be written. -/
  | done (status index detail value : Nat)
  deriving DecidableEq, Repr

/-- A command in flight. -/
structure Cmd where
  id : Nat
  ring : Nat
  /-- First slot and number of slots. -/
  pos : Nat
  slots : Nat
  /-- It is a barrier command (R152). -/
  barrier : Bool
  words : List W64
  /-- The host reads that bring its words (R258). -/
  reads : List Nat
  /-- The number of its parsing (R153). -/
  seq : Nat
  stage : CStage
  /-- Accepted under R162 before it was held, so its epoch is not tested again. -/
  accepted : Bool
  /-- A PCLK cycle the command waits on: the drain of a FENCE, the hold of a TABLE_DESTROY. -/
  mark : Nat
  /-- Images written by a SNAPSHOT. -/
  count : Nat
  deriving DecidableEq, Repr

/-- One step of a plan of the Spatula; each waits for the one before. -/
inductive PStep where
  /-- A move within a pan (R166), with the rank the moved entry takes if it is not its own. -/
  | move (src dst : Nat) (rank : Option Nat)
  /-- A new slot: record, rank, Sieve, row (R27). -/
  | put (idx : Nat) (e : Entry)
  /-- A row write that changes E bits, or frees the slots; the new index of a move that it ends. -/
  | bits (idx : Nat) (e : Option Entry) (movedTo : Option Nat)
  /-- The record rewritten in place (R163). -/
  | record (idx : Nat) (r : List Word)
  /-- The rank word rewritten in place (R163). -/
  | rank (idx : Nat) (r : Nat)
  deriving DecidableEq, Repr

/-- What the Spatula is doing for a command, for rebalancing or for migration. -/
structure Plan where
  no : Nat
  /-- The command whose plan it is. -/
  cmd : Option Nat
  /-- A rebalancing, which runs when no intent waits (R169). -/
  slack : Bool
  table : Nat
  steps : List PStep
  /-- The row writes of the first step are queued. -/
  queued : Bool
  /-- It has written the array, the Pantry or the Sieve (R147). -/
  begun : Bool
  /-- INDEX and VALUE of the completion (Table 6.12). -/
  idx : Nat
  moves : Nat
  deriving DecidableEq, Repr

/-- Rings, commands in flight and the Spatula's plans. -/
structure UpdSt where
  rings : Tab Ring
  cmds : List Cmd
  /-- Completions that wait to be written, in the order in which their commands completed (R143). -/
  due : List Nat
  nextId : Nat
  /-- Commands parsed so far (R153). -/
  parses : Nat
  /-- The ring last served at each priority (R149). -/
  lastServed : Tab Nat
  plans : List Plan
  /-- The instant at which the last condition that all rings share turned true: commands in flight, and the power state. -/
  openAt : Nat
  /-- Snapshots running: table and command (R173). -/
  snaps : List (Nat × Nat)
  /-- The PCLK cycle of the last write that made a row not live (R172). -/
  lastDead : Nat
  deriving DecidableEq, Repr

/-- The state of an epoch domain (Table 7.1). -/
inductive DomState where
  | idle
  | open_
  | closed
  | pending
  | prepared
  deriving DecidableEq, Repr

/-- An epoch domain (R178 to R187). -/
structure Domain where
  cnt : Nat
  st : DomState
  /-- RECON and HOLD (Table 7.9). -/
  recon : Bool
  hold : Bool
  owner : Nat
  /-- The recorded commit time in 2^-16 ns (R22, R184); kept after the flip until the old epoch retires. -/
  t : Option Nat
  /-- The flip at T has been made and the old epoch has not retired. -/
  flipped : Bool
  /-- The journal: index of the first slot and table of every entry slot the batch wrote (R181). -/
  journal : List (Nat × Nat)
  /-- The journal of the committed batch, until its reconciliation completes (R40, R181). -/
  old : List (Nat × Nat)
  /-- A discard is restoring the slots (R182). -/
  discarding : Bool
  /-- The state before PREPARED, and the T and counter of the PREPARE (R223). -/
  before : DomState
  deriving DecidableEq, Repr

/-- A domain as a cold reset leaves it. -/
def Domain.idle : Domain := ⟨0, .idle, false, false, 0, none, false, [], [], false, .idle⟩

/-- Epoch control. -/
structure EpcSt where
  doms : Tab Domain
  deriving DecidableEq, Repr

/-- A pulse input (R199, R200). -/
structure Pulse where
  /-- In its acknowledge phase. -/
  waiting : Bool
  /-- The edge that opened it, until the time island writes its capture: the time-of-day at the edge, and its instant. -/
  edge : Option (Nat × Nat)
  /-- The latched time-of-day in 2^-32 ns and the sequence count. -/
  cap : Nat
  seq : Nat
  deriving DecidableEq, Repr

/-- A pulse input at rest. -/
def Pulse.idle : Pulse := ⟨false, none, 0, 0⟩

/-- Time-of-day (R192 to R201). -/
structure TodSt where
  /-- Time-of-day in units of 2^-32 ns. -/
  value : Nat
  /-- Its value before the last tick (R198). -/
  prev : Nat
  /-- A running slew's remainder in 2^-8 ns as attoseconds, signed, and its rate (R196). -/
  slewLeft : Int
  slewRate : Nat
  /-- The instant a requested SET or STEP is applied, and whether the value is held for a backward step (R195, R197). -/
  holdTill : Option Nat
  /-- The copies of the deframers: value and the instant it was taken (R189). -/
  copies : Tab (Nat × Nat)
  pulses : Tab Pulse
  ppsHigh : Bool
  ppsFall : Nat
  deriving DecidableEq, Repr

/-- A cascade commit in progress on a manager (R223). -/
structure CasCommit where
  cmd : Nat
  dom : Nat
  /-- T in 2^-16 ns. -/
  t : Nat
  cseq : Nat
  /-- Workers that have answered ACK OK. -/
  acks : List Nat
  /-- The instant at which an answer is missing (R224). -/
  due : Nat
  deriving DecidableEq, Repr

/-- A profile or schedule operation that runs on every device of the ring (R220). -/
structure CasJob where
  /-- 0 profile operation, 1 schedule switch. -/
  kind : Nat
  /-- CTRL reads not answered: sequence number, worker, and what is read: 0 the status register, l + 1 TBL_CFG of the table of
  lookup l. -/
  asks : List (Nat × Nat × Nat)
  /-- Answers: device, code, ERR fields. -/
  answers : List (Nat × Nat × Nat)
  deriving DecidableEq, Repr

/-- What a manager knows of a worker's admission (R225). -/
structure WkFacts where
  firmware : Bool
  refused : Bool
  /-- In reset, as last seen. -/
  inReset : Bool
  /-- Its time-of-day, and its slot, are off (R221, R222). -/
  timeBad : Bool
  slotBad : Bool
  /-- Sequence number of the first STATE frame of the last replay, and the domains whose frame it has answered. -/
  replay : Nat
  doms : List Nat
  /-- Its tables are ready: CAS_CTL.ADMIT was written. Only that makes them ready while `hold` is set (Table 8.12). -/
  tables : Bool
  hold : Bool
  /-- It has entered a power state, and has not been seen awake since (R353). -/
  asleep : Bool
  deriving DecidableEq, Repr

/-- A worker as a manager knows it after its own cold reset (Table 8.12). -/
def WkFacts.none : WkFacts := ⟨false, false, false, false, false, 0, [], false, true, false⟩

/-- The cascade agent (R203 to R229). -/
structure CasSt where
  /-- Frames sent on COUT, in order (R211). -/
  out : List (List W64)
  /-- The COUT word positions that searches hold: first position, and the one past the last (R219). -/
  coutHeld : List (Nat × Nat)
  /-- The next sequence number of a control frame (Table 8.7). -/
  cseq : Nat
  /-- The instant at which DISCOVER has not returned (R210), and that of the next TIME frame (R221). -/
  discoverDue : Option Nat
  timeDue : Nat
  commit : Option CasCommit
  jobs : List CasJob
  /-- The remote access in progress: sequence number and write (R227). -/
  remote : Option (Nat × Bool)
  /-- By worker number, on a manager. -/
  workers : Tab WkFacts
  /-- By domain, on a manager: the last cascade commit was decided GO (R224, R225). -/
  goLog : Tab Bool
  /-- The relay ring of a worker: commands that wait to be served, with their sequence numbers (R228). -/
  relayIn : List (Nat × List W64)
  /-- On a worker: not admitted (R225), a slot it could not reach (R221), an offset out of bounds (R222), a first TIME frame
  received, and its last offset in 2^-32 ns. -/
  withheld : Bool
  slotBad : Bool
  timeBad : Bool
  aligned : Bool
  offset : Int
  /-- Image bytes received, by 512-byte portion, and the refusal of the image (R229). -/
  img : Tab (List W64)
  imgLast : Option Nat
  imgRefused : Bool
  deriving DecidableEq, Repr


/-- An access to the DRAM that waits for the arbiter: its master, first byte, the byte enables of a read, and the data of a write
(R303). -/
structure DramReq where
  m : MemMaster
  byte : Nat
  be : List Bool
  data : Option (List (Option Byte))
  deriving DecidableEq, Repr

/-- The DRAM controller and arbiter beside their registers (R301 to R315). -/
structure DrcSt where
  /-- By subchannel: the instant at which the running refresh interval began (R305). -/
  interval : Tab Nat
  /-- By subchannel: the instant of its last mode-register reading (R304). -/
  polled : Tab Nat
  /-- Effective priorities, by requester; unlisted is the value of ARB_PRIO's reset (R309). -/
  prio : Tab Nat
  /-- Changes not in effect: requester, new priority, decisions until it takes effect (R314). -/
  change : List (Nat × Nat × Nat)
  /-- The request lines sampled at the last decision, its controller cycle, and the cycle after which each wait began. -/
  req : List Nat
  decided : Nat
  waits : Tab Nat
  /-- The instant of the last decision each throttled requester won, plus 1 (R307). -/
  won : Tab Nat
  /-- The start of the row-activation window (R307). -/
  window : Nat
  /-- The row-activation trackers: subchannel, row and count, at most 64 of a subchannel (R307). -/
  rat : List (Nat × Nat × Nat)
  /-- Accesses of the host window and the MP that the arbiter has not granted, in order (R303, R309). -/
  waiting : List DramReq
  /-- Accepted requests that are not complete: the first line and how many, oldest first, at most 32 (R303). -/
  queue : List (Nat × Nat)
  /-- By bank: the owner that a handover gives it to (R297). -/
  handTo : Tab Nat
  deriving DecidableEq, Repr

/-- Resets and start-up beside their registers (R317 to R335). -/
structure RstSt where
  /-- RESET_N is low. -/
  low : Bool
  /-- BOOT_SEL as sampled (R334). -/
  bootSel : Nat
  /-- The instants of MP island resets of the last second (Table 12.7, LAST 5). -/
  mpAt : List Nat
  /-- VDD_AUX is above its threshold (R391). -/
  aux : Bool
  /-- THERMTRIP_N driven low (R405). -/
  therm : Bool
  deriving DecidableEq, Repr

/-- The power controller beside its registers (R338 to R359). -/
structure PwrSt where
  /-- By state: the instant its idle timer last restarted (R340). -/
  timers : Tab Nat
  /-- The state an entry in its quiesce phase goes to (R343). -/
  entering : Option Nat
  /-- The state left by a wake that runs, and the sources noted (R347). -/
  waking : Option Nat
  sources : Nat
  /-- The end of the window in which edge events are lost (R346). -/
  window : Nat
  /-- The step of an operating-point change: 0 none, 1 voltage, 2 PLL, 3 hold, 4 voltage after the switch (R355). -/
  oppStep : Nat
  oppTries : Nat
  /-- The instant at which the rails were last told a voltage (R355). -/
  oppAt : Nat
  /-- The instant of the credit hold (R356). -/
  holdAt : Nat
  /-- The point that the change goes to, and a GO written in SLEEP or DEEP (R358). -/
  oppTo : Nat
  oppLater : Bool
  /-- A wake from SLEEP that returns to IDLE (R342). -/
  wakeIdle : Bool
  /-- The instant of the last aging-monitor sample (R341). -/
  sampleAt : Nat
  /-- The instant of the last entry to DEEP (R339). -/
  deepAt : Nat
  /-- PMBus transactions with the regulators, in order: address, command code, and the voltage in mV of VOUT_COMMAND or, for OPERATION,
  1 for on and 0 for off (R357, R392). -/
  pmbus : List (Nat × Nat × Nat)
  deriving DecidableEq, Repr

/-- A directory of the flash (R364). -/
structure FlashDir where
  dseq : Nat
  conf : Nat
  arb : Nat
  /-- By slot: state, VERSION and ARB. -/
  st : Tab Nat
  ver : Tab Nat
  sarb : Tab Nat
  deriving DecidableEq, Repr

/-- A copy of the settings record (R378). -/
structure Settings where
  rseq : Nat
  major : Nat
  /-- The M registers of Table 14.5 by BAR0 offset. -/
  vals : Tab Word
  owner : Bool
  seqReserve : Nat
  /-- Queued remaps: pan and cause (Table 9.4). -/
  remaps : List (Nat × Nat)
  arb : Nat
  life : Nat
  /-- Subsystem ID and Subsystem Vendor ID (R259). -/
  subsys : Word
  deriving DecidableEq, Repr

/-- An image session (R367). -/
structure Session where
  /-- FWU_STAT.SOURCE, and the ring that holds it. -/
  src : Nat
  ring : Nat
  target : Nat
  /-- Image bytes in all. -/
  size : Nat
  /-- Blocks received by OFFSET. -/
  blocks : Tab (List Byte)
  lastAt : Nat
  /-- The ring command that completed the image. -/
  cmd : Option Nat
  deriving DecidableEq, Repr

/-- Flash, images, the settings record and the session (R362 to R379). -/
structure FwuSt where
  /-- Directory copies, by copy. -/
  dirs : Tab FlashDir
  /-- Settings copies, by copy; a copy not listed is not readable. -/
  recs : Tab Settings
  /-- Image slots of the flash, by slot; unlisted is erased. -/
  slots : Tab (List Byte)
  /-- Copies in DRAM area 3, by slot (R373). -/
  store : Tab (List Byte)
  /-- The running image, header first. -/
  running : List Byte
  session : Option Session
  /-- The buffer of the FWU window (R372). -/
  buffer : List Byte
  /-- What the host has delivered through the mailbox of a boot from the host (R373). -/
  mailbox : List Byte
  /-- A setting has changed and is not written (R378). -/
  dirty : Bool
  deriving DecidableEq, Repr

/-- The VBAT domain (R380). -/
structure VbtSt where
  words : Tab Word
  /-- The free-running counter of 32.768 kHz, and what has not counted yet in 32,768ths of 1 ns ticks. -/
  rtc : Nat
  rtcPart : Nat
  /-- The instant at which a word write ends. -/
  busyTill : Nat
  /-- The part of the equivalent age below one minute, in 2^-32 minutes (R251). -/
  lifePart : Nat
  /-- The instant at which the settings record was last due for its copy of the equivalent age (Table 14.5). -/
  lifeAt : Nat
  deriving DecidableEq, Repr
/-- The state of the block. -/
structure State where
  /-- The commands that wait, first in, first out. -/
  pending : List Instr
  /-- Time and the frame counter. -/
  clk : ClkSt
  /-- BAR0 registers by offset; an unlisted register holds its reset value (R10, R408). -/
  regs : Tab Word
  /-- The cascade manager's copy of the window registers on a worker (R412). -/
  mwin : Tab Word
  /-- The search array. -/
  arr : ArrSt
  /-- Tables, Sieve and profiles. -/
  tbl : TblSt
  /-- Memories. -/
  mem : MemSt
  /-- The lookup link. -/
  lnk : LnkSt
  /-- The pipelines and the slot schedule. -/
  pip : PipSt
  /-- Rings and commands in flight. -/
  upd : UpdSt
  /-- Epoch control. -/
  epc : EpcSt
  /-- Time-of-day. -/
  tod : TodSt
  /-- The cascade. -/
  cas : CasSt
  /-- The host interface. -/
  hif : HifSt
  /-- Protection. -/
  prt : PrtSt
  /-- Error reporting. -/
  err : ErrSt
  /-- DRAM controller and arbiter. -/
  drc : DrcSt
  /-- Resets and start-up. -/
  rst : RstSt
  /-- Power states and operating points. -/
  pwr : PwrSt
  /-- Firmware. -/
  fwu : FwuSt
  /-- The VBAT domain. -/
  vbt : VbtSt
  deriving DecidableEq, Repr

/-- Time and the frame counter. After reset. -/
def ClkSt.reset : ClkSt :=
  { now := 0, pclk := 0, pphase := 0, slot := 0, frame := 0, free := 0 }

/-- The search array. After reset. -/
def ArrSt.reset : ArrSt :=
  { slices := [], ranks := [], act := [], actBad := [], mreqs := [], holds := [], repairs := [], divs := [], golds
    := [], dir := [], gold := [], goldRec := [], goldNo := 0, goldAt := [], goldCnt := [], maintAt := [], remapReqs
    := [], remaps := [], migrating := [], stranded := [], told := 0, hobFails := [], repaired := [], scrubPos := [],
    scrubAt := [], scrubbed := [], warned := [] }

/-- Tables, Sieve and profiles. After reset. -/
def TblSt.reset : TblSt :=
  { tables := [], masks := [], maskDir := [], maskFix := [], tblBad := [], prfBad := [], profiles := [], prfDram :=
    [], tblDram := [], prfOp := none }

/-- Memories. After reset. -/
def MemSt.reset : MemSt :=
  { pantry := [], pantrySyn := [], scratch := [], scratchSyn := [], dram := [], dramSet := [], dramBad := [],
    dramSoft := [], rotate := [] }

/-- The lookup link. After reset. -/
def LnkSt.reset : LnkSt :=
  { grps := [], lanes := [], tx := [], frozen := none }

/-- The pipelines and the slot schedule. After reset. -/
def PipSt.reset : PipSt :=
  { nextDec := [], nextIssue := [], lastAlign := [], lastGap := [], flight := [], arrayAt := 0, schedActive := [],
    schedShadow := [], switchAt := none, switched := 0, schedReady := false, schedKept := [], voteBad := [], oppHold
    := false, quiesce := false, asleep := false }

/-- Rings and commands in flight. After reset. -/
def UpdSt.reset : UpdSt :=
  { rings := [], cmds := [], due := [], nextId := 0, parses := 0, lastServed := [], plans := [], openAt := 0, snaps
    := [], lastDead := 0 }

/-- Epoch control. After reset. -/
def EpcSt.reset : EpcSt :=
  { doms := [] }

/-- Time-of-day. After reset. -/
def TodSt.reset : TodSt :=
  { value := 0, prev := 0, slewLeft := 0, slewRate := 0, holdTill := none, copies := [], pulses := [], ppsHigh :=
    false, ppsFall := 0 }

/-- The cascade. After reset. -/
def CasSt.reset : CasSt :=
  { out := [], coutHeld := [], cseq := 0, discoverDue := none, timeDue := 0, commit := none, jobs := [], remote :=
    none, workers := [], goLog := [], relayIn := [], withheld := false, slotBad := false, timeBad := false, aligned
    := false, offset := 0, img := [], imgLast := none, imgRefused := false }

/-- The host interface. After reset. -/
def HifSt.reset : HifSt :=
  { fns := [], vfEnable := false, numVFs := 0, msix := [], msixPend := [], out := [], answers := [], subsys := 0 }

/-- Protection. After reset. -/
def PrtSt.reset : PrtSt :=
  { log := [], props := [], deadline := none, alert := false, smbOut := [], smbWrote := none, pcieWin := none }

/-- Error reporting. After reset. -/
def ErrSt.reset : ErrSt :=
  { seq := 0, phase := false, held := [], last := [], suppressed := [], dropped := 0, rose := [], sumAt := none,
    sumOwed := false, errAt := none, errOwed := false }

/-- DRAM controller and arbiter. After reset. -/
def DrcSt.reset : DrcSt :=
  { interval := [], polled := [], prio := [], change := [], req := [], decided := 0, waits := [], won := [], window
    := 0, rat := [], waiting := [], queue := [], handTo := [] }

/-- Resets and start-up. After reset. -/
def RstSt.reset : RstSt :=
  { low := true, bootSel := 0, mpAt := [], aux := true, therm := false }

/-- Power states and operating points. After reset. -/
def PwrSt.reset : PwrSt :=
  { timers := [], entering := none, waking := none, sources := 0, window := 0, oppStep := 0, oppTries := 0, oppAt :=
    0, holdAt := 0, oppTo := 0, oppLater := false, wakeIdle := false, sampleAt := 0, deepAt := 0, pmbus := [] }

/-- Firmware. After reset. -/
def FwuSt.reset : FwuSt :=
  { dirs := [], recs := [], slots := [], store := [], running := [], session := none, buffer := [], mailbox := [],
    dirty := false }

/-- The VBAT domain. After reset. -/
def VbtSt.reset : VbtSt :=
  { words := [], rtc := 0, rtcPart := 0, busyTill := 0, lifePart := 0, lifeAt := 0 }

/-- The block when a power-on cold reset has taken effect and RESET_N is still low: nothing has run, start-up has
not begun, and registers read the values of their field maps (R11, R328, R335, R391). No program is placed. -/
def State.reset : State :=
  { pending := [], clk := ClkSt.reset, regs := [], mwin := [], arr := ArrSt.reset, tbl := TblSt.reset, mem := MemSt.reset, lnk := LnkSt.reset, pip := PipSt.reset, upd := UpdSt.reset, epc := EpcSt.reset, tod := TodSt.reset, cas := CasSt.reset, hif := HifSt.reset, prt := PrtSt.reset, err := ErrSt.reset, drc := DrcSt.reset, rst := RstSt.reset, pwr := PwrSt.reset, fwu := FwuSt.reset, vbt := VbtSt.reset }

end Sys2Proof.Machine
end

