-- ==== Sys2Proof/Machine/Update.lean ====
section
/-! DEFINITION. One update operation for each component of the state. -/

namespace Sys2Proof.Machine

open Sys2Proof

/-- The state with component `pending` changed. -/
def State.updPending (s : State) (f : List Instr → List Instr) : State := { s with pending := f s.pending }

/-- The state with component `clk` changed. -/
def State.updClk (s : State) (f : ClkSt → ClkSt) : State := { s with clk := f s.clk }

/-- The state with component `regs` changed. -/
def State.updRegs (s : State) (f : Tab Word → Tab Word) : State := { s with regs := f s.regs }

/-- The state with component `mwin` changed. -/
def State.updMwin (s : State) (f : Tab Word → Tab Word) : State := { s with mwin := f s.mwin }

/-- The state with component `arr` changed. -/
def State.updArr (s : State) (f : ArrSt → ArrSt) : State := { s with arr := f s.arr }

/-- The state with component `tbl` changed. -/
def State.updTbl (s : State) (f : TblSt → TblSt) : State := { s with tbl := f s.tbl }

/-- The state with component `mem` changed. -/
def State.updMem (s : State) (f : MemSt → MemSt) : State := { s with mem := f s.mem }

/-- The state with component `lnk` changed. -/
def State.updLnk (s : State) (f : LnkSt → LnkSt) : State := { s with lnk := f s.lnk }

/-- The state with component `pip` changed. -/
def State.updPip (s : State) (f : PipSt → PipSt) : State := { s with pip := f s.pip }

/-- The state with component `upd` changed. -/
def State.updUpd (s : State) (f : UpdSt → UpdSt) : State := { s with upd := f s.upd }

/-- The state with component `epc` changed. -/
def State.updEpc (s : State) (f : EpcSt → EpcSt) : State := { s with epc := f s.epc }

/-- The state with component `tod` changed. -/
def State.updTod (s : State) (f : TodSt → TodSt) : State := { s with tod := f s.tod }

/-- The state with component `cas` changed. -/
def State.updCas (s : State) (f : CasSt → CasSt) : State := { s with cas := f s.cas }

/-- The state with component `hif` changed. -/
def State.updHif (s : State) (f : HifSt → HifSt) : State := { s with hif := f s.hif }

/-- The state with component `prt` changed. -/
def State.updPrt (s : State) (f : PrtSt → PrtSt) : State := { s with prt := f s.prt }

/-- The state with component `err` changed. -/
def State.updErr (s : State) (f : ErrSt → ErrSt) : State := { s with err := f s.err }

/-- The state with component `drc` changed. -/
def State.updDrc (s : State) (f : DrcSt → DrcSt) : State := { s with drc := f s.drc }

/-- The state with component `rst` changed. -/
def State.updRst (s : State) (f : RstSt → RstSt) : State := { s with rst := f s.rst }

/-- The state with component `pwr` changed. -/
def State.updPwr (s : State) (f : PwrSt → PwrSt) : State := { s with pwr := f s.pwr }

/-- The state with component `fwu` changed. -/
def State.updFwu (s : State) (f : FwuSt → FwuSt) : State := { s with fwu := f s.fwu }

/-- The state with component `vbt` changed. -/
def State.updVbt (s : State) (f : VbtSt → VbtSt) : State := { s with vbt := f s.vbt }

end Sys2Proof.Machine
end

