-- ==== Sys2Proof/Machine/Ops.lean ====
section
/-! DEFINITION. The named operations every command's meaning is written with: sparse tables, bit fields, registers,
counters, interrupts, MSI-X, error records and access refusals. -/

namespace Sys2Proof.Machine

open Sys2Proof

/-! Sparse tables. -/

/-- The value listed for a key. -/
def tabFind {α : Type} : Tab α → Nat → Option α
  | [], _ => none
  | (k, v) :: t, n => if n < k then none else if n = k then some v else tabFind t n

/-- The value a key reads as. -/
def tabGet {α : Type} (d : α) (t : Tab α) (n : Nat) : α := (tabFind t n).getD d

/-- The table with a key's entry gone. -/
def tabErase {α : Type} : Tab α → Nat → Tab α
  | [], _ => []
  | (k, v) :: t, n => if n < k then (k, v) :: t else if n = k then t else (k, v) :: tabErase t n

/-- The table with a key's entry listed. -/
def tabInsert {α : Type} : Tab α → Nat → α → Tab α
  | [], n, x => [(n, x)]
  | (k, v) :: t, n, x =>
    if n < k then (n, x) :: (k, v) :: t else if n = k then (n, x) :: t else (k, v) :: tabInsert t n x

/-- Writing a key: the default value is not listed, so equal tables are equal lists. -/
def tabSet {α : Type} [DecidableEq α] (d : α) (t : Tab α) (n : Nat) (x : α) : Tab α :=
  if x = d then tabErase t n else tabInsert t n x

/-- Writing a key with a function of its value. -/
def tabMod {α : Type} [DecidableEq α] (d : α) (t : Tab α) (n : Nat) (f : α → α) : Tab α :=
  tabSet d t n (f (tabGet d t n))

/-- The keys of a table rise strictly. -/
def tabRising {α : Type} : Tab α → Bool
  | [] => true
  | (k, _) :: t => t.all (fun x => k < x.1) && tabRising t

/-- The canonical form of a table: keys strictly rising, and no value that is the default. -/
def tabOk {α : Type} [DecidableEq α] (d : α) (t : Tab α) : Bool := tabRising t && t.all fun x => x.2 != d

/-! Memories of bytes, in the same form; a byte that is not listed reads 0 (log entry 7). -/

/-- The canonical form of a memory. -/
def Memory.wf (m : List Host.Cell) : Bool := tabOk 0 m

/-- The byte at an address. -/
def memByte (m : List Host.Cell) (a : Nat) : Byte := tabGet 0 m a

/-- A memory with one byte written. -/
def memSetByte (m : List Host.Cell) (a : Nat) (b : Byte) : List Host.Cell := tabSet 0 m a b

/-- The `n` bytes from an address up. -/
def memBytes (m : List Host.Cell) (a : Nat) : Nat → List Byte
  | 0 => []
  | n + 1 => memByte m a :: memBytes m (a + 1) n

/-- A memory with bytes written from an address up. -/
def memSetBytes (m : List Host.Cell) (a : Nat) : List Byte → List Host.Cell
  | [] => m
  | b :: bs => memSetBytes (memSetByte m a b) (a + 1) bs

/-- The 64-bit word at a word address of a memory whose byte k of word w, at 8 w + k, holds bits [8k+7:8k] (R290). -/
def memWord (m : List Host.Cell) (w : Nat) : W64 :=
  let b (k : Nat) : Nat := (memByte m (8 * w + k)).toNat <<< (8 * k)
  BitVec.ofNat 64 (b 0 + b 1 + b 2 + b 3 + b 4 + b 5 + b 6 + b 7)

/-- The 8 bytes of a word, byte 0 (bits [7:0]) first. -/
def wordBytes (v : W64) : List Byte :=
  (List.range 8).map fun k => BitVec.ofNat 8 (v.toNat >>> (8 * k))

/-- A memory with a 64-bit word written. -/
def memSetWord (m : List Host.Cell) (w : Nat) (v : W64) : List Host.Cell := memSetBytes m (8 * w) (wordBytes v)

/-! Bit fields. -/

/-- Bits [hi:lo] as a number. -/
def bits {n : Nat} (w : BitVec n) (hi lo : Nat) : Nat := (w.toNat >>> lo) % 2 ^ (hi + 1 - lo)

/-- Bit i. -/
def bit {n : Nat} (w : BitVec n) (i : Nat) : Bool := w.toNat.testBit i

/-- A word with bits [hi:lo] replaced. -/
def putBits {n : Nat} (w : BitVec n) (hi lo v : Nat) : BitVec n :=
  BitVec.ofNat n (w.toNat - (bits w hi lo) <<< lo + (v % 2 ^ (hi + 1 - lo)) <<< lo)

/-- A number of fields of a word: each value at the bit position of its low end. -/
def packNat (fs : List (Nat × Nat)) : Nat := fs.foldl (fun a f => a + f.2 <<< f.1) 0

/-- A 32-bit word packed from fields (low bit, value). -/
def pack32 (fs : List (Nat × Nat)) : Word := BitVec.ofNat 32 (packNat fs)

/-- A 64-bit word packed from fields (low bit, value). -/
def pack64 (fs : List (Nat × Nat)) : W64 := BitVec.ofNat 64 (packNat fs)

/-- The word with only bit i set. -/
def bitMask (i : Nat) : Word := BitVec.ofNat 32 (1 <<< i)

/-- The number of a pipeline. -/
def Pipe.idx (p : Pipe) : Nat := match p with
  | .a => 0
  | .b => 1

/-- A Bool as a number. -/
def b2n (b : Bool) : Nat := if b then 1 else 0

/-! Registers (R10 to R12). -/

/-- The stored value of the register at an offset. -/
def regGet (off : Nat) (s : State) : Word := tabGet (regReset off) s.regs off

/-- The register at an offset, written as hardware writes it; its reserved bits stay 0 (R12). -/
def regPut (off : Nat) (v : Word) (s : State) : State :=
  s.updRegs fun t => tabSet (regReset off) t off (v &&& regLive off)

/-- Field [hi:lo] of a register. -/
def fieldGet (off hi lo : Nat) (s : State) : Nat := bits (regGet off s) hi lo

/-- A register with field [hi:lo] written. -/
def fieldPut (off hi lo v : Nat) (s : State) : State := regPut off (putBits (regGet off s) hi lo v) s

/-- Bit i of a register. -/
def flagGet (off i : Nat) (s : State) : Bool := bit (regGet off s) i

/-- A register with bit i written. -/
def flagPut (off i : Nat) (b : Bool) (s : State) : State := fieldPut off i i (b2n b) s

/-- A counter that saturates at its all-ones value, advanced by n (R12, RC). -/
def cntAdd (off n : Nat) (s : State) : State :=
  regPut off (BitVec.ofNat 32 (min ((regGet off s).toNat + n) 0xffffffff)) s

/-- A counter that wraps, advanced by n. -/
def cntWrap (off n : Nat) (s : State) : State := regPut off (BitVec.ofNat 32 ((regGet off s).toNat + n)) s

/-- A register that keeps the largest value seen. -/
def cntMax (off n : Nat) (s : State) : State :=
  regPut off (BitVec.ofNat 32 (min (max (regGet off s).toNat n) 0xffffffff)) s

/-- What a software write leaves in a register of no other behaviour: RW bits take the value, W1C bits written 1 clear,
W1S bits written 1 set, every other bit keeps its value (R12). -/
def rwWrite (d : RegDesc) (old v : Word) : Word :=
  (old &&& ~~~d.rw ||| v &&& d.rw) &&& ~~~(v &&& d.w1c) ||| v &&& d.w1s

/-- A software write of a register by its access codes alone. -/
def plainWrite (off : Nat) (v : Word) (s : State) : State := match regDesc off with
  | some d => regPut off (rwWrite d (regGet off s) v) s
  | none => s

/-! Free values. -/

/-- The state with one more free value read. -/
def nextFree (s : State) : State := s.updClk fun c => { c with free := c.free + 1 }

/-! Time. -/

/-- One second in units of 2^-32 ns. -/
def secUnits : Nat := 1000000000 * 4294967296

/-- Whole seconds of time-of-day. -/
def todSec (s : State) : Nat := s.tod.value / secUnits

/-- Whole nanoseconds in the second. -/
def todNs (s : State) : Nat := s.tod.value / 4294967296 % 1000000000

/-- A DRAM area holds a byte address (Table 11.3). -/
def inArea (a addr : Nat) (s : State) : Bool :=
  let r := regGet (Reg.drcArea a) s
  bits r 15 0 * 1048576 ≤ addr && addr < (bits r 15 0 + bits r 31 16) * 1048576

/-! MSI-X (R271 to R274). -/

/-- What the configuration space of a function says. -/
def fnCfg (fn : Nat) (s : State) : FnCfg := tabGet FnCfg.reset s.hif.fns fn

/-- It changed. -/
def updFn (fn : Nat) (f : FnCfg → FnCfg) (s : State) : State :=
  s.updHif fun h => { h with fns := tabMod FnCfg.reset h.fns fn f }

/-- A function exists: the PF, or a VF up to NumVFs while VF Enable is 1. -/
def fnEnabled (f : Nat) (s : State) : Bool := f == 0 || (s.hif.vfEnable && f ≤ s.hif.numVFs)

/-- Max Payload Size and Max Read Request Size in bytes. Those of the PF hold for every function (PRESUMED: the SR-IOV
specification; log entry 85). -/
def maxPayload (s : State) : Nat := 128 * 2 ^ (fnCfg 0 s).mps
def maxRead (s : State) : Nat := 128 * 2 ^ (fnCfg 0 s).mrrs

/-- A function may send requests: Bus Master Enable set and not in D3hot (R261). -/
def mayRequest (fn : Nat) (s : State) : Bool :=
  let c := fnCfg fn s
  c.bme && !c.d3hot

/-- HIF_VF_VEC_f names vector v. -/
def vecIn (w : Word) (v : Nat) : Bool := bits w 26 16 ≤ v && v < bits w 26 16 + bits w 11 0

/-- The function that owns a vector (R272). -/
def vecOwner (v : Nat) (s : State) : Nat :=
  match s.regs.find? (fun kv => Reg.hifVfVec 1 ≤ kv.1 && kv.1 ≤ Reg.hifVfVec 63 && vecIn kv.2 v) with
  | some kv => (kv.1 - Reg.hifVfVec 0) / 4
  | none => 0

/-- The entry of a vector. -/
def msixEntry (v : Nat) (s : State) : MsixEntry := tabGet ⟨0, 0, true⟩ s.hif.msix v

/-- The conditions under which a vector's message is sent (R274). -/
def vecOpen (v : Nat) (s : State) : Bool :=
  let f := vecOwner v s
  let c := fnCfg f s
  c.msixEn && !c.fnMask && mayRequest f s && !(msixEntry v s).mask

/-- A request given to the host (R260). -/
def hostSend (t : HostTlp) (s : State) : State := s.updHif fun h => { h with out := h.out ++ [t] }

/-- Words written to host memory at an address, in requests of at most Max Payload Size (R258, R260). -/
def hostWrite (fn : Nat) (addr : W64) (ws : List W64) (s : State) : State :=
  let k := maxPayload s / 8
  (List.range ((ws.length + k - 1) / k)).foldl (fun s i =>
    hostSend (.write fn (addr + BitVec.ofNat 64 (8 * (k * i))) ((ws.drop (k * i)).take k)) s) s

/-- Bytes read from host memory for a command, in requests of at most Max Read Request Size (R258, R260). -/
def hostRead (fn : Nat) (addr : W64) (bytes cmd : Nat) (s : State) : State :=
  let k := maxRead s
  (List.range ((bytes + k - 1) / k)).foldl (fun s i =>
    hostSend (.read fn (addr + BitVec.ofNat 64 (k * i)) (min k (bytes - k * i)) cmd) s) s

/-- Vector v's message sent with the entry as it stands. -/
def vecSend (v : Nat) (s : State) : State :=
  let e := msixEntry v s
  hostSend (.msix (vecOwner v s) v e.addr e.data) s

/-- A source raises vector v (R274). -/
def raiseVec (v : Nat) (s : State) : State :=
  if tabGet false s.hif.msixPend v then s
  else if vecOpen v s then vecSend v s
  else s.updHif fun h => { h with msixPend := tabSet false h.msixPend v true }

/-! Interrupts (R255). -/

/-- The _INT_STAT and _INT_EN registers of a block (Table 16.1). -/
def intPair (blk : Nat) : Option (Nat × Nat) := match blk with
  | 1 => some (Reg.lnkIntStat, Reg.lnkIntEn)
  | 9 => some (Reg.epcIntStat, Reg.epcIntEn)
  | 10 => some (Reg.todPulseStat, Reg.todIntEn)
  | 11 => some (Reg.casIntStat, Reg.casIntEn)
  | 12 => some (Reg.intIntStat, Reg.intIntEn)
  | 14 => some (Reg.drcIntStat, Reg.drcIntEn)
  | 15 => some (Reg.arbIntStat, Reg.arbIntEn)
  | 16 => some (Reg.clkIntStat, Reg.clkIntEn)
  | 17 => some (Reg.pwrIntStat, Reg.pwrIntEn)
  | 18 => some (Reg.fwuIntStat, Reg.fwuIntEn)
  | 19 => some (Reg.vbtIntStat, Reg.vbtIntEn)
  | 20 => some (Reg.prtIntStat, Reg.prtIntEn)
  | _ => none

/-- INT_SUM as it reads (R255). -/
def intSum (s : State) : Word :=
  pack32 ((List.range 21).map fun b => match intPair b with
    | some (st, en) => (b, b2n (regGet st s &&& regGet en s != 0))
    | none => (b, 0))

/-! Error records (R253, R254, R415). -/

/-- The four words of a record (Table 9.7). -/
def errWords (ph : Bool) (r : ErrRec) : List W64 :=
  [pack64 [(63, b2n ph), (48, r.cls), (40, r.code), (38, r.outcome), (0, r.seq)],
   pack64 [(16, r.sec % 2 ^ 48), (0, min r.suppr 0xffff)],
   pack64 [(32, r.ns), (0, r.detail % 2 ^ 32)],
   BitVec.ofNat 64 r.loc]

/-- Records in the ring. -/
def errRingSize (s : State) : Nat := 256 * 2 ^ fieldGet Reg.intErrCfg 3 0 s

/-- A record can be written: the ring is enabled and one position stays unconsumed. -/
def errRoom (s : State) : Bool :=
  (fieldGet Reg.intErrPtr 15 0 s + 1) % errRingSize s != fieldGet Reg.intErrHead 15 0 s

/-- The message owed for records written, at most one in each 1 µs (R255). -/
def errMessage (s : State) : State :=
  if flagGet Reg.intErrCfg 30 s then
    if (match s.err.errAt with | none => true | some t => t + 1000 ≤ s.clk.now) then
      raiseVec (fieldGet Reg.intErrCfg 29 19 s)
        (s.updErr fun e => { e with errAt := some s.clk.now, errOwed := false })
    else s.updErr fun e => { e with errOwed := true }
  else s

/-- A record written at the tail, words 3, 2 and 1 before word 0 (R253). -/
def errWrite (r : ErrRec) (s : State) : State :=
  let tail := fieldGet Reg.intErrPtr 15 0 s
  let base := BitVec.ofNat 64 ((regGet Reg.intErrBaseHi s).toNat * 4294967296 + (regGet Reg.intErrBaseLo s).toNat + 32 * tail)
  let w (i : Nat) : HostTlp := .write 0 (base + BitVec.ofNat 64 (8 * i)) [(errWords s.err.phase r).getD i 0]
  let s := hostSend (w 0) (hostSend (w 1) (hostSend (w 2) (hostSend (w 3) s)))
  let wrap := tail + 1 = errRingSize s
  let s := fieldPut Reg.intErrPtr 15 0 (if wrap then 0 else tail + 1) s
  let s := s.updErr fun e => { e with
    phase := if wrap then !e.phase else e.phase
    last := tabSet 0 e.last (256 * r.cls + r.code) (s.clk.now + 1) }
  errMessage s

/-- A record that finds no room (R253). -/
def errDrop (s : State) : State := cntAdd Reg.intErrLost 1 (s.updErr fun e => { e with dropped := e.dropped + 1 })

/-- The error ring accepts writes. -/
def errOn (s : State) : Bool := flagGet Reg.intErrCfg 31 s && mayRequest 0 s

/-- The number of the next record taken, with the state after (R253, SEQ). -/
def errSeq (s : State) : State := s.updErr fun e => { e with seq := (e.seq + 1) % 4294967296 }

/-- A record of this instant with the next number. -/
def errMake (cls code outcome suppr detail loc : Nat) (s : State) : ErrRec :=
  { cls := cls, code := code, outcome := outcome, seq := s.err.seq, sec := todSec s, ns := todNs s,
    suppr := suppr, detail := detail, loc := loc }

/-- The CLASS 0x7F record, written first once room returns (R253). -/
def errLostRecord (s : State) : State :=
  if 0 < s.err.dropped && errOn s && errRoom s then
    let r := errMake 0x7f 1 1 0 s.err.dropped 0 s
    errWrite r ((errSeq s).updErr fun e => { e with dropped := 0 })
  else s

/-- The code under which R254 counts a record. -/
def ErrRec.key (r : ErrRec) : Nat := 256 * r.cls + r.code

/-- Records of a class and code suppressed since the last one written, set (R254). -/
def setSuppressed (k n : Nat) (s : State) : State := s.updErr fun e => { e with suppressed := tabSet 0 e.suppressed k n }

/-- A record is written, held while INT_ERR_CFG.EN = 0, or dropped. It carries the number suppressed before it; a record
that is dropped leaves that number for the next (R253, R254). -/
def errPut (r : ErrRec) (s : State) : State :=
  let r := { r with suppr := tabGet 0 s.err.suppressed r.key }
  if errOn s then (if errRoom s then errWrite r (setSuppressed r.key 0 s) else errDrop s)
  else if s.err.held.length < 64 then
    setSuppressed r.key 0 (s.updErr fun e => { e with held := e.held ++ [r] })
  else errDrop s

/-- The BLOCK records of earlier rises, then whatever was dropped before (R253, R255). -/
def errBlocks (s : State) : State :=
  let rs := s.err.rose
  errLostRecord (rs.foldl (fun s r => errPut r (errLostRecord s)) (s.updErr fun e => { e with rose := [] }))

/-- A record of a class and code detected now is suppressed: one was written less than HOLDOFF before it (R254). -/
def errHeldOff (k : Nat) (s : State) : Bool :=
  let last := tabGet 0 s.err.last k
  0 < last && s.clk.now < last - 1 + fieldGet Reg.intErrCfg 11 4 s * 1000

/-- One detection writes one record, unless R254 suppresses it (R415). -/
def errRecord (cls code outcome detail loc : Nat) (s : State) : State :=
  let k := 256 * cls + code
  let s := errBlocks s
  if outcome ≤ 1 && errHeldOff k s then setSuppressed k (tabGet 0 s.err.suppressed k + 1) s
  else errPut (errMake cls code outcome 0 detail loc s) (errSeq s)

/-- Writing INT_ERR_CFG.EN from 0 to 1: the held records, then the record of those dropped (R253). -/
def errFlush (s : State) : State :=
  let hs := s.err.held
  let s := s.updErr fun e => { e with held := [] }
  errLostRecord (hs.foldl (fun s r => if errRoom s then errWrite r s else
    errDrop (setSuppressed r.key (tabGet 0 s.err.suppressed r.key + r.suppr) s)) s)

/-- A BLOCK record of a block's _INT_STAT as it stands, taken at the rise (R255); INT_SUM_MESSAGE writes it. A rise that R254
suppresses is counted. -/
def errRise (blk : Nat) (stat : Word) (s : State) : State :=
  let k := 256 + blk
  if errHeldOff k s then setSuppressed k (tabGet 0 s.err.suppressed k + 1) s
  else
    let r := errMake 1 blk 1 0 0 stat.toNat s
    (errSeq s).updErr fun e => { e with
      rose := e.rose ++ [r]
      last := if errOn s && errRoom s then tabSet 0 e.last k (s.clk.now + 1) else e.last }

/-- Hardware sets bits of a block's _INT_STAT. A bit that rises with its enable set owes the summary message and, but for
the INT block, a BLOCK record (R255). -/
def raiseInt (blk : Nat) (m : Word) (s : State) : State := match intPair blk with
  | none => s
  | some (st, en) =>
    let old := regGet st s
    let s1 := regPut st (old ||| m) s
    if m &&& ~~~old &&& regGet en s = 0 then s1
    else
      let s2 := s1.updErr fun e => { e with sumOwed := e.sumOwed || flagGet Reg.intSumCfg 31 s }
      if blk = 12 then s2 else errRise blk (old ||| m) s2

/-! Access refusals (R285, R286). -/

/-- SOURCE and FUNC of a refusal log entry (Table 10.10). -/
def Party.source (p : Party) : Nat × Nat := match p with
  | .pcie f => (0, f.val)
  | .manager => (1, 0)
  | .smbus => (2, 0)
  | .mp => (3, 0)

/-- An access is refused: counted, logged and REFUSED set; nothing else changes (R285, R286). `space` follows Table 10.10. -/
def refuse (cause : Nat) (src : Party) (space : Nat) (write : Bool) (off data : Nat) (s : State) : State :=
  let s := cntAdd (Reg.prtRefCnt cause) 1 (cntWrap Reg.prtRefTotal 1 s)
  let a := pack64 [(32, (regGet Reg.prtRefTotal s).toNat), (28, cause), (25, (Party.source src).1), (19, (Party.source src).2),
    (16, space), (15, b2n write)]
  let b := pack64 [(32, off % 2 ^ 32), (0, if write then data % 2 ^ 32 else 0)]
  raiseInt 20 1 (s.updPrt fun p => { p with log := ((a, b) :: p.log).take 32 })

/-- A poisoned write is discarded and refused, and the function's error status shows a poisoned TLP (R258, R262). -/
def refusePoison (src : Party) (space off data : Nat) (s : State) : State :=
  updFn (Party.source src).2 (fun c => { c with errs := c.errs ||| bitMask 12 }) (refuse 13 src space true off data s)

/-- A refused write of the register at a BAR0 offset; on SMBus the access is the command REG_WRITE, 7 bytes of offset and data
(Tables 10.7 and 10.10). -/
def refuseReg (cause : Nat) (src : Party) (off : Nat) (v : Word) (s : State) : State := match src with
  | .smbus => refuse cause src 4 true 0x21 (off * 256 + v.toNat / 16777216) s
  | .mp => refuse cause src 5 true off v.toNat s
  | _ => refuse cause src 0 true off v.toNat s

/-- An answer to a read. -/
def answer (r : ReadResult) (s : State) : State := s.updHif fun h => { h with answers := h.answers ++ [r] }

/-- An answer on SMBus (R281). -/
def smbAnswer (r : SmbReply) (s : State) : State := s.updPrt fun p => { p with smbOut := p.smbOut ++ [r] }

end Sys2Proof.Machine
end

