-- ==== Sys2Proof/Machine/Flags.lean ====
section
/-! DEFINITION. The status, event and counter flags of the lookup link and of the fault-detection points. -/

namespace Sys2Proof.Machine

open Sys2Proof

/-- Event k of Table 4.27 counted on group g; events 0, 1 and 14 wrap, the others saturate. -/
def lnkAdd (g k n : Nat) (s : State) : State :=
  if k = 0 ∨ k = 1 ∨ k = 14 then cntWrap (Reg.lnkCnt (16 * g + k)) n s else cntAdd (Reg.lnkCnt (16 * g + k)) n s

/-- The event bit of Table 4.28 that a counter of Table 4.27 sets. -/
def lnkEventBit (k : Nat) : Option Nat := match k with
  | 2 => some 3
  | 8 => some 3
  | 3 => some 2
  | 7 => some 2
  | 4 => some 5
  | 5 => some 4
  | 6 => some 4
  | 9 => some 1
  | 11 => some 6
  | 13 => some 0
  | _ => none

/-- An event of a group: counted, and its bit set in LNK_INT_STAT (R126). -/
def lnkEvent (g k : Nat) (s : State) : State :=
  let s := lnkAdd g k 1 s
  match lnkEventBit k with
  | some b => raiseInt 1 (bitMask (8 * g + b)) s
  | none => s

/-- INT_CNT_k; counters 20 and 21 wrap (Table 9.18). -/
def intCount (k : Nat) (s : State) : State :=
  if k = 20 ∨ k = 21 then cntWrap (Reg.intCnt k) 1 s else cntAdd (Reg.intCnt k) 1 s

/-- An event bit of INT_INT_STAT (Table 9.18). -/
def intEvent (b : Nat) (s : State) : State := raiseInt 12 (bitMask b) s

/-- A crossing is dead: every transfer on it ends at once as timed out (R324). -/
def xingDead (x : Nat) (s : State) : Bool := flagGet (Reg.clkXingDead (x / 32)) (x % 32) s

/-- PWR_STAT.STATE; 4 is OFF, which no register access ever sees (Table 13.11). -/
def powerState (s : State) : Nat := fieldGet Reg.pwrStat 31 29 s

/-- RUN or IDLE. In the deeper states every unit but those of the time, PCIe and power-controller islands has stopped, and does nothing
until the wake (R338, R339). -/
def awake (s : State) : Bool := powerState s ≤ 1

end Sys2Proof.Machine
end

