-- ==== Sys2Proof/Machine/Operands.lean ====
section
/-! DEFINITION. The formats of what arrives and leaves: frame fields, the CRC of R107, the digest of R280, the scrambler
of R96, core words and key bytes. -/

namespace Sys2Proof.Machine

open Sys2Proof

/-- One bit entered into the CRC register of R107. -/
def crcStep (crc : Nat) (b : Bool) : Nat :=
  ((crc <<< 1) % 4294967296) ^^^ (if (crc.testBit 31 != b) then 0x04c11db7 else 0)

/-- The low `n` bits of a word, most significant first. -/
def crcBits (w : Nat) : Nat → Nat → Nat
  | 0, crc => crc
  | n + 1, crc => crcBits w n (crcStep crc (w.testBit n))

/-- Whole words, in order. -/
def crcWords (ws : List W64) (crc : Nat) : Nat := ws.foldl (fun c w => crcBits w.toNat 64 c) crc

/-- The complemented register. -/
def crcOut (crc : Nat) : Word := BitVec.ofNat 32 (0xffffffff ^^^ crc)

/-- CRC of a frame: the words before the trailer whole, and bits [31:0] of the trailer (R107). -/
def frameCrc (body : List W64) (trailer : W64) : Word :=
  crcOut (crcBits trailer.toNat 32 (crcWords body 0xffffffff))

/-- A frame of words and a trailer whose low half is given; the CRC fills the high half. -/
def sealFrame (body : List W64) (low : Nat) : List W64 :=
  let t := BitVec.ofNat 64 (low % 4294967296)
  body ++ [pack64 [(32, (frameCrc body t).toNat), (0, t.toNat)]]

/-- The CRC of a received frame agrees. -/
def crcGood (ws : List W64) : Bool := match ws.reverse with
  | [] => false
  | t :: r => bits t 63 32 == (frameCrc r.reverse t).toNat

/-- The proposal digest (R280): every bit of every word. -/
def proposalDigest (ws : List W64) : Word := crcOut (crcWords ws 0xffffffff)

/-- Descrambling with x^58 + x^39 + 1: the body and the state after it (R96). -/
def descramble (st : BitVec 58) (body : BitVec 256) : BitVec 256 × BitVec 58 :=
  let c := st.toNat <<< 256 + body.toNat
  (BitVec.ofNat 256 (c ^^^ (c >>> 39) ^^^ (c >>> 58)), BitVec.ofNat 58 body.toNat)

/-- The words of a block with H = 1: none is a delimiter (Table 4.3). -/
def dataWords (b : BitVec 256) : List (Bool × W64) :=
  [(false, BitVec.ofNat 64 (b.toNat >>> 192)), (false, BitVec.ofNat 64 (b.toNat >>> 128)),
   (false, BitVec.ofNat 64 (b.toNat >>> 64)), (false, BitVec.ofNat 64 b.toNat)]

/-- The words of a control block: the first word marked gives only its bits [63:4], the rest restored as 0 (R94, R95).
`top` is the number of body bits left, `short` that no marked word has been met. -/
def controlWords (b : Nat) (m : Nat) : Nat → Nat → Bool → List (Bool × W64)
  | 0, _, _ => []
  | i + 1, top, short =>
    let mk := m.testBit i
    if mk && short then
      (true, BitVec.ofNat 64 (((b >>> (top - 60)) % 2 ^ 60) <<< 4)) :: controlWords b m i (top - 60) false
    else (mk, BitVec.ofNat 64 (b >>> (top - 64))) :: controlWords b m i (top - 64) short

/-- The marked words of a descrambled block; an alignment block carries none (Table 4.3). -/
def blockWords (h : Bool) (b : BitVec 256) : List (Bool × W64) :=
  if h then dataWords b
  else if bits b 255 252 = 0 then [] else controlWords b.toNat (bits b 255 252) 4 252 true

/-- Up to 8 words as a core word, slot 0 in bits [511:448], the rest zeros (R111). -/
def coreData (ws : List W64) : BitVec 512 :=
  BitVec.ofNat 512 ((List.range 8).foldl (fun a i => a * 2 ^ 64 + ((ws.getD i 0).toNat)) 0)

/-- The 8 words of a core word. -/
def coreWords (c : BitVec 512) : List W64 := (List.range 8).map fun i => BitVec.ofNat 64 (c.toNat >>> (64 * (7 - i)))

/-- Key byte i of key words (R8). -/
def keyByte (key : List W64) (i : Nat) : Byte := BitVec.ofNat 8 ((key.getD (i / 8) 0).toNat >>> (56 - 8 * (i % 8)))

/-- A list of bytes as a number, the first byte most significant. -/
def bytesNat (bs : List Byte) : Nat := bs.foldl (fun a b => a * 256 + b.toNat) 0

/-- The `n` bytes of a number, most significant first. -/
def natBytes (v : Nat) : Nat → List Byte
  | 0 => []
  | n + 1 => BitVec.ofNat 8 (v >>> (8 * n)) :: natBytes v n

end Sys2Proof.Machine
end

