-- ==== Sys2Proof/Machine/ArrayOps.lean ====
section
/-! DEFINITION. The array bit by bit: indices and physical pans, slices, parity, ranks, Sieve masks, records and the
Pantry's SECDED words. -/

namespace Sys2Proof.Machine

open Sys2Proof

/-! Pans and indices (R43, R50). -/

/-- The physical pan that serves a logical pan. -/
def physPan (p : Nat) (s : State) : Nat := fieldGet (Reg.hobLmap p) 4 0 s

/-- HOB_LMAP_p.LOST. -/
def panLost (p : Nat) (s : State) : Bool := flagGet (Reg.hobLmap p) 11 s

/-- The key of a slot of a physical pan: hob, physical pan, position. -/
def physKey (h k pos : Nat) : Nat := (h * 17 + k) * 16384 + pos

/-- The key of the slot of a global index, in the physical pan that searches use. -/
def slotKey (idx : Nat) (s : State) : Nat :=
  let p := idx / 16384
  physKey (p / 16) (physPan p s) (idx % 16384)

/-- Slices of an entry within one pan: 1, 2 or 4 (Table 2.4). -/
def panSlices (width : Nat) : Nat := match width with
  | 0 => 1
  | 1 => 2
  | _ => 4

/-- The global indices of the slots of an entry, in order of the subkey bytes they compare (R44). -/
def entrySlots (width idx : Nat) : List Nat :=
  (List.range (panSlices width)).map (idx + ·) ++
    (if width = 3 then (List.range 4).map (idx + 16384 + ·) else [])

/-- An index has the alignment of its width (Table 2.4). -/
def idxAligned (width idx : Nat) : Bool :=
  idx % panSlices width == 0 && (width != 3 || (idx / 16384) % 2 == 0)

/-- The pans of a set in ascending order (R69). -/
def panList (set : BitVec 256) : List Nat := (List.range 256).filter fun p => set.toNat.testBit p

/-- The ordinal of a pan in its set (R69). -/
def panOrd (set : BitVec 256) (p : Nat) : Nat := ((List.range p).filter fun q => set.toNat.testBit q).length

/-! Slices (R35 to R41). -/

/-- Exclusive OR of the low n bits. -/
def parityNat (w : Nat) : Nat → Bool
  | 0 => false
  | n + 1 => (w.testBit n != parityNat w n)

/-- A slice with the parity the hob computes on a write (R41). -/
def Slice.sealed (x y : BitVec 80) (e0 e1 : Bool) : Slice :=
  ⟨x, y, !e0, !e1, (parityNat x.toNat 80 != !e0), (parityNat y.toNat 80 != !e1)⟩

/-- PX agrees. -/
def Slice.okX (c : Slice) : Bool := c.px == (parityNat c.x.toNat 80 != c.xe)

/-- PY agrees. -/
def Slice.okY (c : Slice) : Bool := c.py == (parityNat c.y.toNat 80 != c.ye)

/-- A data cell holds the invalid state (R37). -/
def Slice.invalid (c : Slice) : Bool := (c.x &&& c.y) != 0

/-- A slice matches 80 subkey bits under the key bit e of its epoch cell (R36, R38). -/
def Slice.matches (c : Slice) (k : BitVec 80) (e : Bool) : Bool :=
  (c.x &&& ~~~k ||| c.y &&& k) == 0 && (if e then !c.ye else !c.xe)

/-- The 80 bits that the slice at relative position i compares (Table 2.6). -/
def keySlice (key : BitVec 640) (i : Nat) : BitVec 80 := BitVec.ofNat 80 (key.toNat >>> (560 - 80 * i))

/-- The slice an entry puts at relative position i: one or zero where the mask is 1, don't-care where it is 0 (R37). -/
def entrySlice (e : Entry) (i : Nat) : Slice :=
  let k := keySlice e.key i
  let m := keySlice e.mask i
  Slice.sealed (k &&& m) (~~~k &&& m) e.e0 e.e1

/-- The slot's stored slice. -/
def sliceAt (idx : Nat) (s : State) : Slice := tabGet Slice.free s.arr.slices (slotKey idx s)

/-- The rank word of a rank: RANK and RP (R45). -/
def rankWord (r : Nat) : BitVec 17 := BitVec.ofNat 17 (r % 65536 + (b2n (parityNat r 16)) * 65536)

/-- The stored rank word of a slot. -/
def rankAt (idx : Nat) (s : State) : BitVec 17 := tabGet 0 s.arr.ranks (slotKey idx s)

/-- RP agrees. -/
def rankOk (w : BitVec 17) : Bool := bit w 16 == parityNat w.toNat 16

/-- One slot of a physical pan written. -/
def putSlice (key : Nat) (c : Slice) (s : State) : State :=
  s.updArr fun a => { a with slices := tabSet Slice.free a.slices key c }

/-- The rank word of one slot of a physical pan written. -/
def putRank (key : Nat) (w : BitVec 17) (s : State) : State :=
  s.updArr fun a => { a with ranks := tabSet 0 a.ranks key w }

/-- The physical pans that a maintenance write of a logical pan reaches: both physical copies during a remap (R51). -/
def writePans (p : Nat) (s : State) : List Nat :=
  let k := physPan p s
  k :: ((s.arr.remaps.filter fun r => r.pan == p && r.step ≤ 5).flatMap fun r => [r.old, r.new]).filter (· != k)

/-- A row write of one slot by its global index (R28, R51). -/
def writeSlot (idx : Nat) (c : Slice) (s : State) : State :=
  let p := idx / 16384
  (writePans p s).foldl (fun s k => putSlice (physKey (p / 16) k (idx % 16384)) c s) s

/-- A rank word written by its slot's global index. -/
def writeRank (idx : Nat) (w : BitVec 17) (s : State) : State :=
  let p := idx / 16384
  (writePans p s).foldl (fun s k => putRank (physKey (p / 16) k (idx % 16384)) w s) s

/-- The slots of an entry written, or freed (R28, R39). -/
def writeEntrySlots (width idx : Nat) (e : Option Entry) (s : State) : State :=
  let slots := entrySlots width idx
  (List.range slots.length).foldl (fun s i =>
    writeSlot (slots.getD i 0) (match e with
      | some e => entrySlice e i
      | none => Slice.free) s) s

/-! Activity bits (R64). -/

/-- The activity word of 32 bits as stored; one that fails parity is rewritten as all ones (Table 9.1). -/
def fixActivity (i : Nat) (s : State) : State :=
  if tabGet false s.arr.actBad i then
    intCount 15 (s.updArr fun a => { a with
      actBad := tabSet false a.actBad i false
      act := ((List.range 32).map (32 * i + ·)).foldl (fun t i => tabSet true t i true) a.act })
  else s

/-- The activity words of some bits, put right before they are read or changed. -/
def fixActivities (idxs : List Nat) (s : State) : State :=
  ((idxs.map (· / 32)).eraseDups).foldl (fun s i => fixActivity i s) s

/-- Activity bits of slots set (R25). -/
def setActivity (idxs : List Nat) (s : State) : State :=
  (fixActivities idxs s).updArr fun a => { a with act := idxs.foldl (fun t i => tabSet true t i true) a.act }

/-- Activity bits of slots cleared. -/
def clearActivity (idxs : List Nat) (s : State) : State :=
  (fixActivities idxs s).updArr fun a => { a with act := idxs.foldl (fun t i => tabSet true t i false) a.act }

/-! The Pantry (R73 to R77, R290). -/

/-- The outcome of a SECDED read: the word, 0 good, 1 corrected or 2 uncorrectable, the syndrome and the corrected bit. -/
structure SecRead where
  val : W64
  kind : Nat
  syn : Byte
  at_ : Nat
  deriving DecidableEq, Repr

/-- A word and its syndrome as SECDED reads them (R73; log entry 13). -/
def secded (w : W64) (syn : Byte) : SecRead :=
  if syn = 0 then ⟨w, 0, 0, 0⟩
  else match Config.secdedBit syn with
    | some b => ⟨if b.val < 64 then w ^^^ BitVec.ofNat 64 (1 <<< b.val) else w, 1, syn, b.val⟩
    | none => ⟨w, 2, syn, 0⟩

/-- A Pantry word read. -/
def pantryRead (w : Nat) (s : State) : SecRead := secded (memWord s.mem.pantry w) (tabGet 0 s.mem.pantrySyn w)

/-- A Pantry word written with its check bits. -/
def pantryWrite (w : Nat) (v : W64) (s : State) : State :=
  s.updMem fun m => { m with pantry := memSetWord m.pantry w v, pantrySyn := tabSet 0 m.pantrySyn w 0 }

/-- A 32-bit unit read after correction (R74). -/
def unitRead (h : Nat) (s : State) : Word :=
  let v := (pantryRead (h / 2) s).val
  if h % 2 = 0 then BitVec.ofNat 32 (v.toNat >>> 32) else BitVec.ofNat 32 v.toNat

/-- A Pantry word of two units, the even one first. -/
def unitPair (a b : Word) : W64 := pack64 [(32, a.toNat), (0, b.toNat)]

/-- A 32-bit unit filled by the loader, which writes every unit it holds; the rest of its word is as corrected. -/
def unitFill (h : Nat) (v : Word) (s : State) : State :=
  let other := unitRead (if h % 2 = 0 then h + 1 else h - 1) s
  pantryWrite (h / 2) (if h % 2 = 0 then unitPair v other else unitPair other v) s

/-- Units of a record. -/
def strideUnits (t : TableDesc) : Nat := 2 ^ t.stride

/-- The first 32-bit unit of an entry's record (R75). -/
def recordUnit (t : TableDesc) (idx : Nat) (mirror : Bool) : Nat :=
  let j := panOrd (if mirror then t.mirset else t.panset) (idx / 16384)
  let j := if t.width = 3 then j / 2 else j
  let per := 16384 / panSlices t.width
  (if mirror then t.mbase else t.base) + (j * per + (idx % 16384) / panSlices t.width) * strideUnits t

/-- A record read, unit 0 first. -/
def recordRead (t : TableDesc) (idx : Nat) (mirror : Bool) (s : State) : List Word :=
  (List.range (strideUnits t)).map fun i => unitRead (recordUnit t idx mirror + i) s

/-- A management access is granted to master m of Table 11.1: the unit's pointer moves to the master after it (R291). Units 0 to
7 are the Pantry groups, 8 to 15 the scratchpad banks. -/
def grantUnit (u m : Nat) (s : State) : State :=
  s.updMem fun x => { x with rotate := tabSet 0 x.rotate u ((m + 1) % 5) }

/-- Master m and its rivals request one unit in the same cycle. The grants run from the unit's pointer on in the order of Table 11.1
up to m's, which lasts `cycles`; each cycle in which a master requests and is not granted counts for it (R291). -/
def contend (u m : Nat) (rivals : List (Fin 5)) (cycles : Nat) (s : State) : State :=
  let order := ((List.range 5).map fun i => (tabGet 0 s.mem.rotate u + i) % 5).filter fun x =>
    x == m || (rivals.any (·.val == x) && (u < 8 || x != 2 && x != 3))
  let k := order.idxOf m
  let lost (i : Nat) : Nat := if i ≤ k then i else k + cycles
  grantUnit u m ((order.zip (List.range 5)).foldl (fun s x => cntAdd (Reg.ptyConf x.1) (lost x.2) s) s)

/-- The index of the mirror twin of a primary index, and of the primary twin of a mirror index (R79). -/
def twinIndex (t : TableDesc) (idx : Nat) (toMirror : Bool) : Nat :=
  let (a, b) := if toMirror then (t.panset, t.mirset) else (t.mirset, t.panset)
  ((panList b).getD (panOrd a (idx / 16384)) 0) * 16384 + idx % 16384

/-- The words of units `u` up to `u + n - 1`. -/
def unitWords (u n : Nat) : List Nat := (List.range ((u + n - 1) / 2 + 1 - u / 2)).map (u / 2 + ·)

/-- The bits of a result: the leading RSIZE bits of the record, as a list of 32-bit units (R75). -/
def resultUnits (t : TableDesc) : Nat := 2 ^ t.rsize

/-- Units of a data region (R75). -/
def regionUnits (t : TableDesc) : Nat :=
  let n := (panList t.panset).length
  (if t.width = 3 then n / 2 else n) * (16384 / panSlices t.width) * strideUnits t

/-- Bank groups a region touches: bit g is group g (R74, Table 3.5). -/
def regionGroups (base units : Nat) : Nat :=
  ((List.range 8).filter fun g => base / 524288 ≤ g && g ≤ (base + units - 1) / 524288).foldl (fun a g => a + 2 ^ g) 0

/-- Whether a unit lies in a table's primary or mirror region. -/
def unitIn (t : TableDesc) (mirror : Bool) (u : Nat) : Bool :=
  let b := if mirror then t.mbase else t.base
  decide (t.life ≠ .released) && (!mirror || t.guarded) && b ≤ u && u < b + regionUnits t

/-! Tables and the Sieve. -/

/-- The descriptor of a table number in use. -/
def tableAt (t : Nat) (s : State) : Option TableDesc := tabFind s.tbl.tables t

/-- The descriptor of a table that exists (R68): one that is being destroyed exists until its TABLE_DESTROY completes. -/
def tableShown (t : Nat) (s : State) : Option TableDesc := match tableAt t s with
  | some d => if d.life = .created then none else some d
  | none => none

/-- The descriptor of a table that a command or a profile may name: it exists and is not being destroyed (R68, R71, R87). -/
def tableLive (t : Nat) (s : State) : Option TableDesc := match tableAt t s with
  | some d => if d.life = .exists_ then some d else none
  | none => none

/-- The key of a mask word: bucket 1,024 is the broad mask. -/
def maskKey (t b : Nat) : Nat := 1025 * t + b

/-- A mask word with its two parity bits (R59). -/
def MaskWord.sealed (m : W64) : MaskWord :=
  ⟨m, parityNat (m.toNat / 4294967296) 32, parityNat m.toNat 32⟩

/-- A stored mask word. -/
def maskAt (t b : Nat) (s : State) : MaskWord := tabGet ⟨0, false, false⟩ s.tbl.masks (maskKey t b)

/-- Both parity bits of a mask word agree. -/
def MaskWord.ok (w : MaskWord) : Bool :=
  w.p1 == parityNat (w.mask.toNat / 4294967296) 32 && w.p0 == parityNat w.mask.toNat 32

/-- A mask word written by the Spatula, with its copy in the entry directory (R57, R59). -/
def maskWrite (t b : Nat) (m : W64) (s : State) : State :=
  s.updTbl fun x => { x with
    masks := tabSet ⟨0, false, false⟩ x.masks (maskKey t b) (MaskWord.sealed m)
    maskDir := tabSet 0 x.maskDir (maskKey t b) m }

/-- Subkey bit b of a 640-bit subkey whose byte 0 is at the top (R53). -/
def subkeyBit (k : BitVec 640) (b : Nat) : Bool := k.toNat.testBit (639 - b)

/-- The bucket of a subkey (R54). -/
def bucketOf (t : TableDesc) (k : BitVec 640) : Nat :=
  (List.range t.nbits).foldl (fun a i => 2 * a + b2n (subkeyBit k (t.pos.getD i 0))) 0

/-- An entry is broad: don't-care in some sieve position (R55). -/
def isBroad (t : TableDesc) (mask : BitVec 640) : Bool :=
  (List.range t.nbits).any fun i => !subkeyBit mask (t.pos.getD i 0)

/-- The pans a mask names, less any marked LOST (R56). -/
def maskPans (set : BitVec 256) (m : W64) (s : State) : List Nat :=
  let ps := panList set
  ((List.range ps.length).filter fun j => m.toNat.testBit j && !panLost (ps.getD j 0) s).map fun j => ps.getD j 0

/-- Key and mask widths in bytes: 10, 20, 40 or 80. -/
def widthBytes (w : Nat) : Nat := 10 * 2 ^ w

/-- Bytes as a 640-bit string, byte 0 at the top. -/
def bytes640 (bs : List Byte) : BitVec 640 := BitVec.ofNat 640 (bytesNat (bs.take 80) <<< (8 * (80 - min bs.length 80)))

end Sys2Proof.Machine
end

