-- ==== Sys2Proof/Machine/Detect.lean ====
section
/-! DEFINITION. Fault detection: what a failed check records, counts and queues (R232 to R244, R253, R415). -/

namespace Sys2Proof.Machine

open Sys2Proof

/-- HOB_LMAP_p.TABLE when the pan is assigned. -/
def panTable (p : Nat) (s : State) : Option Nat :=
  if flagGet (Reg.hobLmap p) 16 s then some (fieldGet (Reg.hobLmap p) 23 17 s) else none

/-- The pan is a mirror pan. -/
def panMirror (p : Nat) (s : State) : Bool := flagGet (Reg.hobLmap p) 12 s

/-- HOB_LMAP_p.WIDTH. -/
def panWidth (p : Nat) (s : State) : Nat := fieldGet (Reg.hobLmap p) 15 14 s

/-- A table is guarded. -/
def tableGuarded (t : Nat) (s : State) : Bool := match tableAt t s with
  | some d => d.guarded
  | none => false

/-- LOCATION of an ARRAY record (Table 9.8). -/
def arrayLoc (idx : Nat) (s : State) : Nat :=
  let p := idx / 16384
  packNat [(57, (panTable p s).getD 0), (56, b2n (panTable p s).isSome), (55, b2n (panMirror p s)),
    (50, physPan p s), (0, idx)]

/-- The OUTCOME of ARRAY codes 1 and 2 (Table 9.19). -/
def arrayOutcome (p : Nat) (s : State) : Nat := match panTable p s with
  | some t => if tableGuarded t s then 1 else 2
  | none => 1

/-- Repairs queued in a hob. -/
def repairCount (h : Nat) (s : State) : Nat := (s.arr.repairs.filter fun r => r.hob == h).length

/-- A repair of a row is queued; a failure of a row already queued joins it; a full queue is counted and recorded with
the OUTCOME its detection carries (R235, R238, R415). -/
def queueRepair (idx outcome : Nat) (s : State) : State :=
  let p := idx / 16384
  let row := idx % 16384 / 4
  let h := p / 16
  if s.arr.repairs.any (fun r => r.pan == p && r.row == row) then s
  else if repairCount h s < 64 then
    s.updArr fun a => { a with repairs := a.repairs ++ [⟨h, p, row, 0⟩] }
  else errRecord 0x10 9 outcome 0 (arrayLoc (p * 16384 + row * 4) s) (intCount 6 s)

/-- A repair of an entry's row, in both pans of a pair. -/
def queueEntryRepair (width idx outcome : Nat) (s : State) : State :=
  let s := queueRepair idx outcome s
  if width = 3 then queueRepair (idx + 16384) outcome s else s

/-- A remap of a logical pan is requested; a request already waiting or running stands (R244). -/
def requestRemap (p cause : Nat) (s : State) : State :=
  if s.arr.remapReqs.any (fun r => r.1 == p) || s.arr.remaps.any (fun r => r.pan == p) || s.arr.migrating.contains p
  then s else s.updArr fun a => { a with remapReqs := a.remapReqs ++ [(p, cause)] }

/-- A persistent fault in the physical pan that serves a logical pan (R239). -/
def persistentFault (p : Nat) (s : State) : State :=
  let s := intEvent 2 s
  if flagGet Reg.intRemapCfg 31 s then requestRemap p 1 s else s

/-- LOCATION of a PANTRY record (Table 9.8). -/
def pantryLoc (w : Nat) (tbl : Option (Nat × Bool × Nat)) : Nat := match tbl with
  | some (t, mirror, idx) => packNat [(57, t), (56, 1), (55, b2n mirror), (29, w), (0, idx)]
  | none => packNat [(29, w)]

/-- LOCATION of a SEARCH record (Table 9.8). -/
def searchLoc (t : Nat) (p : Pipe) (tag hob prof bucket : Nat) : Nat :=
  packNat [(57, t), (56, Pipe.idx p), (44, tag), (40, hob), (32, prof), (0, bucket)]

/-- The table region that holds a unit: table, descriptor, mirror region or not, and the index whose record it is in. -/
def unitOwner (u : Nat) (s : State) : Option (Nat × TableDesc × Bool × Nat) :=
  s.tbl.tables.findSome? fun x =>
    let d := x.2
    let at_ (m : Bool) : Option (Nat × TableDesc × Bool × Nat) :=
      if unitIn d m u then
        let rel := (u - (if m then d.mbase else d.base)) / strideUnits d
        let per := 16384 / panSlices d.width
        let ps := panList (if m then d.mirset else d.panset)
        let j := rel / per
        some (x.1, d, m, ps.getD (if d.width = 3 then 2 * j else j) 0 * 16384 + rel % per * panSlices d.width)
      else none
    at_ false <|> at_ true

/-- The golden copy of a unit, after any pending golden write of it; none outside every data region (R236, R237, R294). -/
def goldUnit (u : Nat) (s : State) : Option Word := match unitOwner u s with
  | none => none
  | some (_, d, m, idx) =>
    let prim := if m then twinIndex d idx false else idx
    match (s.arr.golds.reverse.find? fun g => g.idx == prim && g.entry.isSome).bind (·.entry) with
    | some e => some (e.record.getD (u - recordUnit d idx m) 0)
    | none => some (tabGet 0 s.arr.goldRec u)

/-- The OUTCOME of PANTRY code 2 at a unit (Table 9.19). -/
def pantryOutcome (u : Nat) (s : State) : Nat := match unitOwner u s with
  | some (_, d, _, _) => if d.guarded then 1 else 2
  | none => 1

/-- LOCATION of a PANTRY record for a unit's word. -/
def unitLoc (u : Nat) (s : State) : Nat :=
  pantryLoc (u / 2) ((unitOwner u s).map fun o => (o.1, o.2.2.1, o.2.2.2))

/-- The Spatula and the Scourer may reach the Pantry: in SERVICE mode, where bank owners are not consulted (R296). -/
def inService (s : State) : Bool := fieldGet Reg.glbMemMode 1 0 s == 1

/-- A 32-bit unit written by the Spatula or the Scourer: the read of its word corrects a single-bit error, and where the word
is uncorrectable the other half comes from the golden copy (R294). -/
def unitWrite (h : Nat) (v : Word) (s : State) : State :=
  let other := if h % 2 = 0 then h + 1 else h - 1
  let r := pantryRead (h / 2) s
  let put (o : Word) (s : State) : State := pantryWrite (h / 2) (if h % 2 = 0 then unitPair v o else unitPair o v) s
  let loc := unitLoc h s
  match r.kind with
  | 0 => put (unitRead other s) s
  | 1 => errRecord 0x11 1 0 (packNat [(0, r.syn.toNat), (8, r.at_)]) loc (intCount 2 (put (unitRead other s) s))
  | _ => errRecord 0x11 2 (pantryOutcome h s) r.syn.toNat loc
      (intCount 3 (put ((goldUnit other s).getD (Config.lostUnit other)) s))

/-- The units of a record from a unit on, written by management master m: whole words but for a record of one unit. -/
def unitsWrite (m u n : Nat) (r : List Word) (s : State) : State :=
  let s := grantUnit (u / 524288) m s
  if n = 1 then unitWrite u (r.getD 0 0) s
  else (List.range (n / 2)).foldl (fun s i =>
    pantryWrite (u / 2 + i) (unitPair (r.getD (2 * i) 0) (r.getD (2 * i + 1) 0)) s) s

/-- A record written whole by the Spatula (R77). -/
def recordWrite (t : TableDesc) (idx : Nat) (mirror : Bool) (r : List Word) (s : State) : State :=
  unitsWrite 2 (recordUnit t idx mirror) (strideUnits t) r s

/-- A read of a word of a slot table, an issue mask or HOB_LMAP that has a bad copy: the majority is used, and the bad copy
rewritten, counted and recorded (Table 9.1). -/
def voteRead (loc off : Nat) (s : State) : State :=
  if s.pip.voteBad.contains off then
    errRecord 0x12 6 0 0 loc (intCount 14 (s.updPip fun x => { x with voteBad := x.voteBad.filter (· != off) }))
  else s

/-- The HOB_LMAP words of pans read by a search of a pipeline. -/
def lmapReads (p : Pipe) (tag prof : Nat) (ps : List Nat) (s : State) : State :=
  ps.foldl (fun s q => voteRead (searchLoc ((panTable q s).getD 0) p tag (q / 16) prof 0) (Reg.hobLmap q) s) s

/-- The issue mask of a pipeline read. -/
def maskReads (p : Pipe) (s : State) : State :=
  (List.range 2).foldl (fun s k => voteRead (searchLoc 0 p 0 0 0 0) (Reg.pipMask (2 * Pipe.idx p + k)) s) s

/-- A search read of a Pantry word of a record: a corrected error is recorded and its row repaired; an uncorrectable
error is a verify failure (R77, R235). -/
def pantryEvent (t : Nat) (td : TableDesc) (mirror : Bool) (idx w : Nat) (r : SecRead) (s : State) : State :=
  if r.kind = 0 then s
  else
    let loc := pantryLoc w (some (t, mirror, idx))
    if r.kind = 1 then
      queueEntryRepair td.width idx 0 (errRecord 0x11 1 0 (packNat [(0, r.syn.toNat), (8, r.at_)]) loc (intCount 2 s))
    else
      let out := if td.guarded then 1 else 2
      queueEntryRepair td.width idx out (errRecord 0x11 2 out r.syn.toNat loc (intEvent 0 (intCount 3 s)))

/-- A winner whose slices or rank word fail parity: one record, each kind counted, and a repair queued (R24, R49, R415).
`fx` and `fy` hold bit i for a failing plane of slot i of the entry. The record names the first failing slot, and DETAIL the
failing slices of the row that slot is in (Table 9.8; log entry 43). -/
def verifyFailure (td : TableDesc) (idx fx fy : Nat) (rankBad : Bool) (s : State) : State :=
  let fs := fx ||| fy
  let i := ((List.range 8).find? fun k => fs.testBit k).getD 0
  let first := (entrySlots td.width idx).getD i idx
  let row (f : Nat) : Nat := (f >>> (4 * (i / 4)) % 16) <<< (idx % 4)
  let out := arrayOutcome (idx / 16384) s
  let s := if fs = 0 then s else intCount 0 s
  let s := if rankBad then intCount 1 s else s
  let detail := packNat [(0, row fs % 16), (4, b2n (row fx != 0)), (5, b2n (row fy != 0)), (6, b2n rankBad)]
  let s := errRecord 0x10 (if fs = 0 then 2 else 1) out detail (arrayLoc first s) (intEvent 0 s)
  queueEntryRepair td.width idx out s

/-- A failed report of a hob, recorded and counted (R234). -/
def hobReportRecord (t : Nat) (p : Pipe) (tag prof pan : Nat) (s : State) : State :=
  errRecord 0x12 3 (if tableGuarded t s then 1 else 2) 0 (searchLoc t p tag (pan / 16) prof 0) (intCount 9 s)

/-- A search with failed reports counts as one failure of each hob concerned; three of one hob within 1 ms set HOB_FAIL
and request a remap of each pan that failed in them (R234). -/
def hobFailures (bad : List Nat) (s : State) : State :=
  let hs := (List.range 16).filter fun h => bad.any fun p => p / 16 == h
  hs.foldl (fun s h =>
    let recent := (s.arr.hobFails.filter fun f => f.1 == h && s.clk.now < f.2.1 + 1000000) ++
      [(h, s.clk.now, bad.filter fun p => p / 16 == h)]
    let others := s.arr.hobFails.filter fun f => f.1 != h
    let s1 := s.updArr fun a => { a with hobFails := others ++ recent }
    if 3 ≤ recent.length then (recent.flatMap (·.2.2)).foldl (fun s p => requestRemap p 2 s) (intEvent 10 s1)
    else s1) s

/-- The index of a copy whose report was lost and that has no other winner (R234). -/
def noIndex : Nat := 4194304

/-- Two first slots lie in one row. -/
def sameRow (a b : Nat) : Bool := a / 4 == b / 4

/-- The rows that a divergence check reads, by a slot in each: those of the winners and those at the same position of their
twins. -/
def divRows (d : TableDesc) (p m : Nat) : List Nat :=
  let ps := if p < noIndex then [p, twinIndex d p true] else []
  let ms := if m < noIndex then [m, twinIndex d m false] else []
  ps ++ ms.filter fun i => !ps.any fun j => sameRow i j

/-- A divergence of guarded winners: counted, recorded, and a check queued unless the same rows' check is (R242). The record has
CODE 2 when both copies hit and failed, else CODE 1 (R415; log entry 20). -/
def divergence (t : Nat) (p m : Report) (failed : Bool) (s : State) : State :=
  let loc := packNat [(57, t), (22, p.index % noIndex), (0, m.index % noIndex)]
  let det := packNat [(0, p.rank), (16, m.rank)]
  let s := intEvent 7 (intCount 10 s)
  let s := if failed then errRecord 0x14 2 2 det loc s else errRecord 0x14 1 1 det loc s
  let at_ (r : Report) : Nat := if r.hit then r.index else noIndex
  let a := at_ p
  let b := at_ m
  match tableAt t s with
  | none => s
  | some d =>
    if s.arr.divs.any (fun x => x.table == t && sameRow x.prim a && sameRow x.mirr b) then s
    else s.updArr fun x => { x with divs := x.divs ++ [⟨a, b, t, divRows d a b⟩] }

end Sys2Proof.Machine
end

