-- ==== Sys2Proof/Machine/Settings.lean ====
section
/-! DEFINITION. The VBAT words and the settings record (R378 to R383, R414). -/

namespace Sys2Proof.Machine

open Sys2Proof

/-! The VBAT domain (R380). -/

/-- VBAT word n. -/
def vbtGet (n : Nat) (s : State) : Word := tabGet 0 s.vbt.words n

/-- VBAT word n written, atomically. -/
def vbtPut (n : Nat) (v : Word) (s : State) : State := s.updVbt fun b => { b with words := tabSet 0 b.words n v }

/-- A field of a VBAT word written. -/
def vbtField (n hi lo v : Nat) (s : State) : State := vbtPut n (putBits (vbtGet n s) hi lo v) s

/-- Two words written from a 64-bit value, the low one first (Table 14.6, LIFE). -/
def vbtPut64 (n v : Nat) (s : State) : State :=
  vbtPut (n + 1) (BitVec.ofNat 32 (v / 4294967296)) (vbtPut n (BitVec.ofNat 32 v) s)

/-- The MP saves time-of-day, as SEC, FRAC and NS, and the 32.768 kHz counter (R382). -/
def saveTod (s : State) : State :=
  let sec := todSec s
  let s := vbtPut 11 (BitVec.ofNat 32 (sec / 65536)) s
  let s := vbtPut 12 (pack32 [(16, sec % 65536), (0, s.tod.value / 65536 % 65536)]) s
  vbtPut64 14 s.vbt.rtc (vbtPut 13 (BitVec.ofNat 32 (todNs s)) s)

/-! The settings record. -/

/-- A change of a setting waits to be written (R378). -/
def markDirty (s : State) : State := s.updFwu fun f => { f with dirty := true }

/-- Number a is newer than b, counted with wrap (R121, R364). -/
def newer (a b : Nat) : Bool := a != b && (a + 4294967296 - b) % 4294967296 < 2147483648

/-- The copy of the current settings record, and the record (R378). -/
def currentSettings (s : State) : Option (Nat × Settings) := match tabFind s.fwu.recs 0, tabFind s.fwu.recs 1 with
  | some a, some b => if newer b.rseq a.rseq then some (1, b) else some (0, a)
  | some a, none => some (0, a)
  | none, some b => some (1, b)
  | none, none => none

/-- The registers with a field of form M, and the masks of those fields. -/
def settingRegs : List (Nat × Word) :=
  ((List.range 21).flatMap blockRegs).flatMap fun d =>
    if d.m = 0 then [] else (List.range d.count).map fun i => (d.base + d.stride * i, d.m)

/-- Where the active schedule holds a slot table or an issue mask register (R134). -/
def schedIndex (off : Nat) : Option Nat :=
  if Reg.hobSlot 0 ≤ off && off < Reg.hobSlot 64 then some ((off - Reg.hobSlot 0) / 4)
  else if Reg.pipMask 0 ≤ off && off < Reg.pipMask 4 then some (64 + (off - Reg.pipMask 0) / 4)
  else none

/-- A register as the record holds it: the schedule last switched to, which a restore that fails its checks leaves in the record
(R139); after step 5 of Table 9.4 with the new PHYS and the old pan retired. -/
def settingVal (off : Nat) (m : Word) (s : State) : Word := match schedIndex off with
  | some i => tabGet 0 s.pip.schedKept i
  | none =>
    s.arr.remaps.foldl (fun v r =>
      if r.step < 4 then v
      else if off = Reg.hobLmap r.pan then putBits v 4 0 r.new
      else if off = Reg.hobStat (r.pan / 16) then putBits (v ||| bitMask r.old) 28 24 0x1f
      else v) (regGet off s &&& m)

/-- Bytes of the running image's header. -/
def imageByte (im : List Byte) (n : Nat) : Nat := (im.getD n 0).toNat

/-- The running image is unconfirmed. -/
def runTrial (s : State) : Bool := flagGet Reg.fwuBoot 31 s

/-- The schema major a record is written in (R375, R376). -/
def writeMajor (s : State) : Nat := match currentSettings s with
  | some (_, r) => if runTrial s then r.major else imageByte s.fwu.running 22
  | none => imageByte s.fwu.running 22

/-- The SEQ reserve, raised by 256 each time SEQ reaches it (R381). -/
def raiseReserve (reserve seq : Nat) : Nat :=
  if seq < reserve then reserve else min 65535 (reserve + 256 * ((seq - reserve) / 256 + 1))

/-- The SEQ reserve of the current record. -/
def seqReserve (s : State) : Nat := ((currentSettings s).map fun c => c.2.seqReserve).getD 0

/-- The settings as they stand. -/
def settingsNow (s : State) : Settings :=
  let cur := currentSettings s
  { rseq := ((cur.map fun c => c.2.rseq).getD 0 + 1) % 4294967296
    major := writeMajor s
    vals := settingRegs.foldl (fun t x => tabInsert t x.1 (settingVal x.1 x.2 s)) []
    owner := flagGet Reg.prtLock 0 s
    seqReserve := raiseReserve (seqReserve s) (fieldGet Reg.prtPropStat 15 0 s)
    remaps := (s.arr.remaps.filter fun r => r.step < 4).map (fun r => (r.pan, r.cause)) ++ s.arr.remapReqs
    arb := (vbtGet 2 s).toNat
    subsys := s.hif.subsys
    life := (vbtGet 5 s).toNat + (vbtGet 6 s).toNat * 4294967296 }

/-- A record as bytes, in a layout of the model's own (log entry 21). -/
def Settings.bytes (r : Settings) : List Byte :=
  natBytes 0x53455454 4 ++ natBytes r.major 1 ++ natBytes r.rseq 4 ++
    r.vals.flatMap (fun x => natBytes x.1 4 ++ natBytes x.2.toNat 4) ++ natBytes (b2n r.owner) 1 ++
    natBytes r.seqReserve 2 ++ r.remaps.flatMap (fun x => natBytes x.1 1 ++ natBytes x.2 1) ++ natBytes r.arb 4 ++
    natBytes r.life 8 ++ natBytes r.subsys.toNat 4

/-- The first 64 bits of the SHA-384 of a record (R379). -/
def Settings.digest (r : Settings) : Nat := (Config.sha384 r.bytes).toNat >>> 320

/-- A record written into the older copy, with the VBAT digests around the write (R378, R379). -/
def putSettings (r : Settings) (s : State) : State :=
  let copy := match currentSettings s with
    | some (c, _) => 1 - c
    | none => 0
  let d := r.digest
  let hi := BitVec.ofNat 32 (d / 4294967296)
  let lo := BitVec.ofNat 32 d
  let s := vbtPut 10 lo (vbtPut 9 hi s)
  let s := s.updFwu fun f => { f with recs := tabInsert f.recs copy r }
  vbtPut 8 lo (vbtPut 7 hi s)

/-- The settings record written; a worker has no flash to write it in (R229). -/
def writeSettings (s : State) : State :=
  (if fieldGet Reg.casStat 31 30 s = 2 then s else putSettings (settingsNow s) s).updFwu fun f => { f with dirty := false }

/-- The MP writes changed settings (R378). -/
def execSettingsWrite (s : State) : Host.Outcome State Fault Refusal :=
  .next (if awake s && s.fwu.dirty then writeSettings s else s)

end Sys2Proof.Machine
end

