-- ==== Sys2Proof/Machine/CasBase.lean ====
section
/-! DEFINITION. The cascade's role, state and output (R203 to R212, R226, R412). -/

namespace Sys2Proof.Machine

open Sys2Proof

/-- CAS_STAT.ROLE, Table 8.1. -/
def casRole (s : State) : Nat := fieldGet Reg.casStat 31 30 s

def isManager (s : State) : Bool := casRole s == 1

def isWorker (s : State) : Bool := casRole s == 2

/-- CAS_STAT.DEV_ID. -/
def devId (s : State) : Nat := fieldGet Reg.casStat 29 26 s

/-- SRC of a result: the DEV_ID of the device, 0 when it stands alone (R82). -/
def resultSrc (s : State) : Nat := if fieldGet Reg.casStat 31 30 s = 0 then 0 else devId s

/-- The ring state of a manager (Table 8.3). -/
def ringState (s : State) : Nat := fieldGet Reg.casStat 24 22 s

/-- A pipeline of a manager is cascaded (CAS_CFG.CASC_A, CASC_B). -/
def cascaded (p : Pipe) (s : State) : Bool := isManager s && flagGet Reg.casCfg (1 + Pipe.idx p) s

/-- A party uses the manager's own copy of a window on a worker (R412). -/
def ownWindow (src : Party) (s : State) : Bool := decide (src = .manager) && isWorker s

/-- A register of a window, in the copy a party uses. -/
def winGet (src : Party) (off : Nat) (s : State) : Word :=
  if ownWindow src s then tabGet (regReset off) s.mwin off else regGet off s

/-- A register of a window written. -/
def winPut (src : Party) (off : Nat) (v : Word) (s : State) : State :=
  if ownWindow src s then s.updMwin fun t => tabSet (regReset off) t off (v &&& regLive off) else regPut off v s

/-- A frame sent on COUT. -/
def coutSend (ws : List W64) (s : State) : State := s.updCas fun c => { c with out := c.out ++ [ws] }

/-- A control frame (Table 8.7): type, destination, sequence number, the ARG bits [31:4] as a number at bit 0, and body. -/
def ctlFrame (ty dst cseq arg : Nat) (body : List W64) (s : State) : List W64 :=
  sealFrame (pack64 [(60, ty), (55, dst), (51, devId s), (39, cseq % 4096), (32, body.length), (0, arg)] :: body) 0

/-- A control frame sent with the next sequence number. -/
def ctlSend (ty dst arg : Nat) (body : List W64) (s : State) : State :=
  (coutSend (ctlFrame ty dst s.cas.cseq arg body s) s).updCas fun c => { c with cseq := (c.cseq + 1) % 4096 }

/-- W: CAS_CFG.WORKERS. -/
def ringWorkers (s : State) : Nat := fieldGet Reg.casCfg 7 4 s

/-- The workers that a manager's settings reach: those of a formed ring (R220). -/
def ringPeers (s : State) : List Nat :=
  if isManager s && ringState s == 5 then (List.range (ringWorkers s)).map (· + 1) else []

/-- A CTRL write to a worker, or to every worker for 31 (Table 8.7). -/
def ctrlWrite (dst off : Nat) (v : Word) (s : State) : State :=
  ctlSend 0xa dst (2 ^ 31 + off) [pack64 [(0, v.toNat)]] s

/-- A CTRL read of a worker. -/
def ctrlRead (dst off : Nat) (s : State) : State := ctlSend 0xa dst off [0] s

/-- A register read from every worker: what was asked of which worker under which sequence number. -/
def askPeers (what off : Nat) (s : State) : List (Nat × Nat × Nat) × State :=
  (ringPeers s).foldl (fun a k => (a.1 ++ [(a.2.cas.cseq, k, what)], ctrlRead k off a.2)) ([], s)

/-- TBL_CFG of the tables of a profile's lookups read from every worker, by TBL_SEL. -/
def askTables : List (Nat × Nat) → State → List (Nat × Nat × Nat) × State
  | [], s => ([], s)
  | (l, t) :: ts, s =>
    let (a, s) := askPeers (l + 1) Reg.tblCfg (ctrlWrite 31 Reg.tblSel (BitVec.ofNat 32 t) s)
    let (b, s) := askTables ts s
    (a ++ b, s)

/-- A setting sent to every worker by CTRL frames (R220; log entry 23): the tables it needs, given by lookup, are read from each
worker, then it is written to all, and its status register is read back from each. -/
def startJob (kind stat : Nat) (tables : List (Nat × Nat)) (ws : List (Nat × Word)) (s : State) : State :=
  if (ringPeers s).isEmpty then s
  else
    let (a, s) := askTables tables s
    let (b, s) := askPeers 0 stat (ws.foldl (fun s w => ctrlWrite 31 w.1 w.2 s) s)
    s.updCas fun c => { c with jobs := c.jobs ++ [⟨kind, a ++ b, []⟩] }

/-- A job of a kind waits for answers. -/
def jobOpen (kind : Nat) (s : State) : Bool :=
  s.cas.jobs.any fun j => j.kind == kind && j.asks.any fun a => (ringPeers s).contains a.2.1

/-- The answers of a job, which ends. -/
def jobEnd (kind : Nat) (s : State) : List (Nat × Nat × Nat) × State :=
  (((s.cas.jobs.find? fun j => j.kind == kind).map (·.answers)).getD [],
   s.updCas fun c => { c with jobs := c.jobs.filter (·.kind != kind) })

/-- The lowest nonzero code that a worker answered, with the lowest worker that gave it and the rest of its answer. -/
def jobWorst (as : List (Nat × Nat × Nat)) : Option (Nat × Nat × Nat) :=
  as.foldl (fun b a =>
    if a.2.1 = 0 then b
    else match b with
      | none => some a
      | some x => if a.2.1 < x.2.1 || (a.2.1 == x.2.1 && a.1 < x.1) then some a else some x) none

/-- A manager's formed ring breaks (Table 8.3). -/
def ringBreaks (s : State) : State :=
  if isManager s && ringState s == 5 then raiseInt 11 1 (fieldPut Reg.casStat 24 22 6 s) else s

/-- The receiver of the cascade link leaves UP: counted, and the manager's ring breaks (Table 8.3, R209). -/
def ringLinkLost (s : State) : State := ringBreaks (cntAdd (Reg.casCnt 9) 1 s)

/-- The worker that the commands of a manager's ring are relayed to (R228). -/
def relayWorker (r : Nat) (s : State) : Option Nat :=
  if isManager s then
    ((List.range 15).map (· + 1)).find? fun k => flagGet (Reg.casRelay k) 31 s && fieldGet (Reg.casRelay k) 13 0 s == r
  else none

end Sys2Proof.Machine
end

