-- ==== Sys2Proof/Machine/Wake.lean ====
section
/-! DEFINITION. The power state, refusals of an entry and wake events (R340, R342 to R347). -/

namespace Sys2Proof.Machine

open Sys2Proof

/-- The link carries requests: out of reset and not in OFF. -/
def linkUp (s : State) : Bool := !s.rst.low && s.rst.aux && !s.rst.therm && powerState s != 4

/-- A wake event restarts every idle timer (R340). -/
def restartTimers (s : State) : State :=
  s.updPwr fun p => { p with timers := [1, 2, 3, 4].foldl (fun t i => tabSet 0 t i s.clk.now) [] }

/-- PWR_TMR_s.BACKOFF. -/
def backoff (st : Nat) (s : State) : Nat := fieldGet (Reg.pwrTmr st) 31 28 s

/-! PMBus transactions (R354, R357, R392). -/

/-- The address of a regulator: 0 VDD_ARRAY, 1 VDD_CORE, 2 VDD_SERDES, 3 VDD_IO; 0 where the board controls the rail. -/
def railAddr (r : Nat) (s : State) : Nat := fieldGet Reg.pwrPmbAddr (30 - 8 * r) (24 - 8 * r) s

/-- Transactions with the regulators of rails that have an address: rail, command code, voltage in mV. -/
def pmbSend (ts : List (Nat × Nat × Nat)) (s : State) : State :=
  s.updPwr fun p => { p with
    pmbus := p.pmbus ++ (ts.filter fun t => railAddr t.1 s != 0).map fun t => (railAddr t.1 s, t.2.1, t.2.2) }

/-- VDD_ARRAY and VDD_CORE of an operating point, in mV (Table 13.7). -/
def oppVolts (o : Nat) : Nat × Nat := match o with
  | 0 => (780, 750)
  | 1 => (700, 670)
  | _ => (640, 610)

/-- VOUT_COMMAND to both rails. -/
def setRails (v : Nat × Nat) (s : State) : State := pmbSend [(0, 0x21, v.1), (1, 0x21, v.2)] s

/-- READ_VOUT of both rails. -/
def readRails (s : State) : State := pmbSend [(0, 0x8b, 0), (1, 0x8b, 0)] s

/-- A command to every addressed regulator: OPERATION 0x01, with 1 for on and 0 for off, and STATUS_WORD 0x79. -/
def allRails (code v : Nat) (s : State) : State := pmbSend ((List.range 4).map fun r => (r, code, v)) s

/-- The units of an entry to a state (R343, Table 13.3). -/
def entryUnits (st : Nat) : List Nat := if st = 1 then [1, 2] else [1, 2, 3, 4, 5, 6, 7, 8, 9]

/-- A unit refuses an entry, or withdraws its agreement: the entry rolls back to RUN (R344). -/
def refuseEntry (unit : Nat) (s : State) : State := match s.pwr.entering with
  | none => s
  | some st =>
    let s := s.updPwr fun p => { p with entering := none, timers := tabSet 0 p.timers st s.clk.now }
    let s := fieldPut Reg.pwrStat 31 29 0 (flagPut Reg.pwrStat 25 false s)
    let s := s.updPip fun x => { x with asleep := false }
    let s := flagPut Reg.arbStat 26 false s
    let s := if unit = 9 then cntAdd (Reg.drcCnt 8) 1 s else s
    let s := regPut Reg.pwrRefuse (pack32 [(28, unit), (25, st)]) s
    let s := fieldPut (Reg.pwrTmr st) 31 28 (min 8 (backoff st s + 1)) s
    let s := flagPut Reg.pwrCtl 0 false s
    let s := raiseInt 17 1 (cntAdd (Reg.pwrCnt 3) 1 s)
    if unit = 1 ∨ unit = 3 then restartTimers s else s

/-- A unit that the entry asks withdraws its agreement (R343, R344). -/
def withdraw (unit : Nat) (s : State) : State := match s.pwr.entering with
  | some st => if (entryUnits st).contains unit then refuseEntry unit s else s
  | none => s

/-- A wake starts: the state left and its source are noted. -/
def startWake (src : Nat) (s : State) : State :=
  let b := if src < 4 then 2 ^ src else if src = 5 then 1 else 0
  match s.pwr.waking with
  | some _ => s.updPwr fun p => { p with sources := p.sources ||| b, wakeIdle := false }
  | none => s.updPwr fun p => { p with waking := some (powerState s), sources := b, wakeIdle := false }

/-- A wake source of R345: 0 WAKE_N or PWR_CTL.WAKE, 1 FLL lane activity, 2 FCL lane activity, 3 a WAKE frame, 4 a search
that commits, 5 a doorbell, which acts as a write of 1 to PWR_CTL.WAKE where the device sleeps. During an entry, sources 1 to 4 are refusals of unit 1 and source 5 of unit 3. In the window
at the end of an entry a WAKE frame is lost (R346). A wake from OFF is a cold reset and starts elsewhere. -/
def wakeEvent (src : Nat) (s : State) : State :=
  if s.pwr.entering.isSome then
    (if src = 0 then restartTimers s else refuseEntry (if src = 5 then 3 else 1) s)
  else match powerState s with
    | 0 => if src = 4 then s else restartTimers s
    | 1 => if src = 3 ∧ s.clk.now < s.pwr.window then s else startWake src (restartTimers s)
    | 4 => s
    | _ =>
      if src = 3 ∨ src = 4 then s
      else startWake src (restartTimers (if src = 5 then flagPut Reg.pwrCtl 0 true s else s))

end Sys2Proof.Machine
end

