-- ==== Sys2Proof/Machine/Link.lean ====
section
/-! DEFINITION. The lookup link and link training: group states, deskew, framing, the ingress FIFO, receive checks and
credits (R89 to R126), and the training of the cascade link (R208). -/

namespace Sys2Proof

open Sys2Proof.Machine


/-- The status register of a link (Tables 4.19 and 8.22). -/
def LinkId.stat (l : LinkId) : Nat := match l with
  | .fll g => Reg.lnkGrpStat g.val
  | .fcl => Reg.casLinkStat

/-- The key of a link's own state. -/
def LinkId.key (l : LinkId) : Nat := match l with
  | .fll g => g.val
  | .fcl => 4

/-- First lane and number of lanes of a link. -/
def LinkId.lane0 (l : LinkId) : Nat := match l with
  | .fll g => 8 * g.val
  | .fcl => 32

def LinkId.lanes (l : LinkId) : Nat := match l with
  | .fll _ => 8
  | .fcl => 16

/-- The lanes of a link. -/
def LinkId.laneList (l : LinkId) : List Nat := (List.range l.lanes).map (l.lane0 + ·)

/-- The largest skew a link aligns (R100, R208). -/
def LinkId.skewMax (l : LinkId) : Nat := match l with
  | .fll _ => 40
  | .fcl => 2

end Sys2Proof

namespace Sys2Proof.Machine

open Sys2Proof

/-- Group states (Table 4.5). -/
def gDown : Nat := 0
def gAdapt : Nat := 1
def gLock : Nat := 2
def gDeskew : Nat := 3
def gReady : Nat := 4
def gUp : Nat := 5
def gDrain : Nat := 6

/-- The status register of a lane (Table 4.21; R206). -/
def laneStat (n : Nat) : Nat := if n < 32 then Reg.lnkLaneStat n else Reg.casLaneStat (n - 32)

/-- The state of a link. -/
def linkState (l : LinkId) (s : State) : Nat := fieldGet l.stat 31 29 s

/-- The link's state field written. -/
def setLinkState (l : LinkId) (st : Nat) (s : State) : State := fieldPut l.stat 31 29 st s

/-- What a link keeps. -/
def grpAt (k : Nat) (s : State) : GrpSt := tabGet GrpSt.idle s.lnk.grps k

/-- What a link keeps, changed. -/
def updGrp (k : Nat) (f : GrpSt → GrpSt) (s : State) : State :=
  s.updLnk fun l => { l with grps := tabMod GrpSt.idle l.grps k f }

/-- A lane's record with nothing received. -/
def LaneSt.zero : LaneSt := ⟨0, 0, 0, 0, 0, 0, false, 0, false⟩

/-- A lane's record. -/
def laneAt (n : Nat) (s : State) : LaneSt := tabGet LaneSt.zero s.lnk.lanes n

/-- A lane's record changed. -/
def updLane (n : Nat) (f : LaneSt → LaneSt) (s : State) : State :=
  s.updLnk fun l => { l with lanes := tabMod LaneSt.zero l.lanes n f }

/-! Bindings, occupancy and credits (R91, R119, R120). -/

/-- The binding of a group: 0 A, 1 B, 2 none (Table 4.2). -/
def grpBinding (g : Nat) (s : State) : Nat := fieldGet Reg.lnkGrpMap (2 * g + 1) (2 * g) s

/-- The groups bound to a pipeline. -/
def pipeGroups (p : Nat) (s : State) : List Nat := (List.range 4).filter fun g => grpBinding g s == p

/-- The distance of two 11-bit pointers. -/
def ptrDist (hi lo : Nat) : Nat := (hi + 2048 - lo) % 2048

/-- Credits occupied in the FIFOs of a pipeline. -/
def pipeOcc (p : Nat) (s : State) : Nat :=
  ((pipeGroups p s).map fun g => ptrDist (grpAt g s).wp (grpAt g s).rp).sum

/-- CUM of a pipeline (LNK_CRD_p). -/
def pipeCum (p : Nat) (s : State) : Nat := fieldGet (Reg.lnkCrd p) 31 16 s

/-- n credits of a pipeline freed (R120); a group bound to no pipeline has none. -/
def freeCredits (p n : Nat) (s : State) : State :=
  if p < 2 then fieldPut (Reg.lnkCrd p) 31 16 (pipeCum p s + n) s else s

/-- CUM and EMPTY as outgoing trailers report them (Table 4.13, R120). -/
def reportedCum (p : Nat) (s : State) : Nat := match s.lnk.frozen with
  | some (a, b) => if p = 0 then a else b
  | none => pipeCum p s

def reportedEmpty (p : Nat) (s : State) : Bool := s.lnk.frozen.isNone && pipeOcc p s == 0

/-- The low half of a trailer a group of pipeline p sends. -/
def trailerLow (p : Nat) (s : State) : Nat := packNat [(16, reportedCum p s), (15, b2n (reportedEmpty p s))]

/-- The operating point in force (PWR_OPP_STAT.CUR). -/
def oppCur (s : State) : Nat := fieldGet Reg.pwrOppStat 27 26 s

/-- Hundredths of a PCLK cycle in 1 ns at an operating point (Table 13.9). -/
def pclkRate (s : State) : Nat := match oppCur s with
  | 0 => 170
  | 1 => 128
  | _ => 85

/-- A PCLK cycle in units of one hundredth of a cycle on the scale of the time clock, at the rate in force. -/
def cycleTime (c : Nat) (s : State) : Nat := s.clk.now * pclkRate s + c * 100 - (s.clk.pclk * 100 + s.clk.pphase)

/-- The transmit word position that a PCLK cycle reaches: 12.5 words per ns (R123). -/
def txPos (c : Nat) (s : State) : Nat := cycleTime c s * 25 / (2 * pclkRate s)

/-- A word position of a group carries an alignment block: 32 positions of every 2,621,440 since transmission started (R97). -/
def alignPos (r : GrpSt) (p : Nat) : Bool := r.txBase ≤ p && (p - r.txBase) % 2621440 < 32

/-- n word positions of a group are offered and free from a position on (R123; log entry 41). -/
def txOpen (r : GrpSt) (a n : Nat) : Bool :=
  (r.txHeld.all fun h => h.2 ≤ a || a + n ≤ h.1) && (List.range n).all fun k => !alignPos r (a + k)

/-- A group starts to transmit. -/
def startTx (g : Nat) (s : State) : State := updGrp g (fun r => { r with txBase := txPos s.clk.pclk s }) s

/-- A frame sent by a group. -/
def txFrame (g : Nat) (ws : List W64) (s : State) : State :=
  let p := grpBinding g s
  let cum := reportedCum p s
  updGrp g (fun r => { r with lastCum := cum, lastReport := s.clk.now })
    (s.updLnk fun l => { l with tx := l.tx ++ [(g, ws)] })

/-- A CREDIT frame sent (Tables 4.12 and 4.13). -/
def sendCredit (g : Nat) (s : State) : State :=
  txFrame g (sealFrame [pack64 [(60, 0xc)]] (trailerLow (grpBinding g s) s)) s

/-! Leaving and entering states (R98 to R101). -/

/-- An open frame is dropped because its group leaves UP, or because its codeword was damaged: counted as POISONED, the
FIFO rewound and its credits freed (R109 order 1, R110, R120). -/
def dropOpen (g : Nat) (s : State) : State :=
  let r := grpAt g s
  if r.inFrame then
    let n := ptrDist r.wp r.mark
    let s := updGrp g (fun r => { r with inFrame := false, open_ := [], poisoned := false, wp := r.mark
                                         cores := r.cores.take (ptrDist r.mark r.rp) }) s
    lnkEvent g 8 (freeCredits (grpBinding g s) n s)
  else s

/-- The entry of a link to ADAPT (R98, R99): the 30 ms limit starts and what the lanes showed is forgotten. -/
def enterAdapt (l : LinkId) (s : State) : State :=
  let s := setLinkState l gAdapt s
  let s := fieldPut l.stat 28 28 0 s
  let s := match l with
    | .fll g => flagPut (Reg.lnkGrpCtl g.val) 2 false (fieldPut l.stat 7 0 0 s)
    | .fcl => fieldPut l.stat 15 0 0 s
  let s := l.laneList.foldl (fun s n => updLane n (fun x => { x with found := 0, missed := 0, ready := 0, notReady := 0 })
    (flagPut (laneStat n) 29 false s)) s
  updGrp l.key (fun r => { r with limitAt := some (s.clk.now + 30000000), retryAt := none, resumeAt := none
                                  parked := false, blk := 0 }) s

/-- A link leaves UP: its interrupt bit is set, and for the cascade link the ring breaks (R101, R209). -/
def leftUp (l : LinkId) (s : State) : State := match l with
  | .fll g => dropOpen g.val (raiseInt 1 (bitMask (8 * g.val + 7)) s)
  | .fcl => ringLinkLost s

/-- A link enters DOWN with a fault code; 1 ms later it may train again (R98, R101, R208). -/
def enterDown (l : LinkId) (fault : Nat) (s : State) : State :=
  let was := linkState l s
  let s := if was = gUp then leftUp l s else s
  let s := fieldPut l.stat 26 24 fault (setLinkState l gDown s)
  updGrp l.key (fun r => { r with limitAt := none, retryAt := some (s.clk.now + 1000000), resumeAt := none
                                  parked := false, inFrame := false, open_ := [], damaged := false }) s

/-- A link enters DOWN without a fault. -/
def enterDownQuiet (l : LinkId) (s : State) : State :=
  updGrp l.key (fun r => { r with limitAt := none, retryAt := none, resumeAt := none, parked := false
                                  inFrame := false, open_ := [], damaged := false }) (setLinkState l gDown s)

/-- A group may train: bound, enabled, and not on a worker (R91, R93). -/
def grpTrains (g : Nat) (s : State) : Bool :=
  flagGet (Reg.lnkGrpCtl g) 0 s && grpBinding g s < 2 && !isWorker s

/-- A link may train; the cascade link needs no enable, and a standalone device keeps it off (R204, R208). -/
def linkTrains (l : LinkId) (s : State) : Bool := match l with
  | .fll g => grpTrains g.val s
  | .fcl => isManager s || isWorker s

/-- A link may retrain by itself after a fault (AUTO; R208). -/
def linkAuto (l : LinkId) (s : State) : Bool := match l with
  | .fll g => flagGet (Reg.lnkGrpCtl g.val) 1 s
  | .fcl => true

/-- The register write of LNK_GRP_CTL_g (Table 4.18, R98, R101). EN written 0 and then 1 on a DOWN group trains it at once also after
a fault: Table 4.5 has it wait 1 ms, or for RETRAIN, only where EN stays 1 (DESIGN CHOICE, log entry 72). -/
def wrGrpCtl (g : Fin 4) (v : Word) (s : State) : State :=
  let l := LinkId.fll g
  let off := Reg.lnkGrpCtl g.val
  let was := flagGet off 0 s
  let s := regPut off (putBits (regGet off s) 1 0 (bits v 1 0)) s
  let s := if bit v 0 && !was then startTx g.val s else s
  let st := linkState l s
  let s := if bit v 0 then
      if !was && st == gDown && grpTrains g.val s then enterAdapt l s else s
    else if isWorker s then s
    else if st = gUp then
      setLinkState l gDrain (dropOpen g.val (raiseInt 1 (bitMask (8 * g.val + 7)) s))
    else if gAdapt ≤ st ∧ st ≤ gReady then enterDownQuiet l s
    else s
  if bit v 2 then
    if !grpTrains g.val s then s
    else if linkState l s = gDrain then flagPut off 2 true s
    else if st = gUp then enterAdapt l (enterDown l 7 s)
    else enterAdapt l (enterDownQuiet l s)
  else s

/-- Every lane of a link has signal, CDR lock and adapted equalisers (R98). -/
def execAdaptDone (l : LinkId) (s : State) : Host.Outcome State Fault Refusal :=
  .next (if awake s ∧ linkState l s = gAdapt then
    l.laneList.foldl (fun s n => fieldPut (laneStat n) 31 30 3 s) (setLinkState l gLock s) else s)

/-- Lane i of a link has codeword lock, or lost it: its own bit, and its bit in the link's status register. -/
def setLock (l : LinkId) (n : Nat) (b : Bool) (s : State) : State :=
  flagPut l.stat (n - l.lane0) b (flagPut (laneStat n) 29 b s)

/-- Every lane has found alignment blocks at one offset in 3 consecutive intervals. -/
def allFound (l : LinkId) (s : State) : Bool := l.laneList.all fun n => flagGet (laneStat n) 29 s

/-- LOCK to DESKEW (R98; for the cascade link, period lock, R208). -/
def execCodewordLock (l : LinkId) (s : State) : Host.Outcome State Fault Refusal :=
  .next (if awake s ∧ linkState l s = gLock ∧ allFound l s then setLinkState l gDeskew s else s)

/-- LANE as a lane received it: bits [28:26], and for the cascade link [28:25] (Table 4.21, R206). -/
def laneNumber (n : Nat) (s : State) : Nat :=
  if n < 32 then fieldGet (laneStat n) 28 26 s else fieldGet (laneStat n) 28 25 s

/-- The identity conditions of deskew: own group number (one DEV value on the cascade link) and distinct LANE values. -/
def identityOk (l : LinkId) (s : State) : Bool :=
  let ls := l.laneList
  let distinct := (List.range l.lanes).all fun k => ls.any fun n => laneNumber n s == k
  distinct && (match l with
    | .fll g => ls.all fun n => fieldGet (laneStat n) 25 24 s == g.val
    | .fcl => ls.all fun n => (laneAt n s).seq / 65536 == (laneAt 32 s).seq / 65536)

/-- GROUP, or DEV, with LANE as a lane received them. -/
def laneIdent (n : Nat) (s : State) : Nat :=
  laneNumber n s + 16 * (if n < 32 then fieldGet (laneStat n) 25 24 s else (laneAt n s).seq / 65536)

/-- The latest lane's lag behind the earliest, in blocks. -/
def skewSpan (sk : List Nat) : Nat := sk.foldl max 0 - sk.foldl min (sk.headD 0)

/-- DESKEW decides: the lanes are ordered and aligned, or the link returns to DOWN with FAULT 3 or 4 (R100). READY counts the
RX_READY blocks that arrive in it. -/
def execDeskew (l : LinkId) (skews : List Nat) (s : State) : Host.Outcome State Fault Refusal :=
  .next (if awake s ∧ linkState l s = gDeskew then
    if !identityOk l s then enterDown l 3 s
    else if l.skewMax < skewSpan skews then enterDown l 4 s
    else
      let late := skews.foldl max 0
      let s := (List.range l.lanes).foldl (fun s i =>
        let n := l.lane0 + i
        updLane n (fun x => { x with ready := 0, notReady := 0, ident := laneIdent n s, changed := false })
          (fieldPut (laneStat n) 7 0 (late - skews.getD i late) s)) s
      setLinkState l gReady (updGrp l.key (fun r => { r with limitAt := none, blk := 0 }) s)
  else s)

/-- The local time copy of a deframer aligned to the time island (R189). -/
def alignCopy (g : Nat) (s : State) : State :=
  s.updTod fun t => { t with copies := tabSet (0, 0) t.copies g (t.value, s.clk.now) }

/-- READY to UP: the path is measured and a CREDIT frame leaves (R98, R189, Table 4.6). -/
def execGroupUp (l : LinkId) (path : Nat) (s : State) : Host.Outcome State Fault Refusal :=
  .next (if awake s ∧ linkState l s = gReady ∧ (l.laneList.all fun n => 2 ≤ (laneAt n s).ready) then
    let s := updGrp l.key (fun r => { r with inFrame := false, open_ := [], poisoned := false, damaged := false })
      (fieldPut l.stat 28 28 1 (setLinkState l gUp s))
    match l with
    | .fll g => sendCredit g.val (alignCopy g.val (fieldPut (Reg.todPath g.val) 15 0 path s))
    | .fcl => s
  else s)

/-- The 30 ms limit of the path from ADAPT to READY runs out (R99). -/
def execTrainingTimeout (l : LinkId) (s : State) : Host.Outcome State Fault Refusal :=
  .next (match (grpAt l.key s).limitAt with
    | some t =>
      if awake s ∧ t ≤ s.clk.now ∧ gAdapt ≤ linkState l s ∧ linkState l s ≤ gDeskew then
        enterDown l (if linkState l s = gAdapt then 1 else 2) s
      else s
    | none => s)

/-- A fault takes an UP link to DOWN (R101, R208). Signal and alignment are what the receiver saw; a changed identity and the far
end's RX_READY are what its alignment blocks said. A lane without signal has no CDR lock and no codeword lock. A parked link stays UP:
what its lanes show is judged at its resume (R348). -/
def execLinkFault (l : LinkId) (why : FaultCause) (s : State) : Host.Outcome State Fault Refusal :=
  .next (if linkState l s = gUp then
    let parked := (grpAt l.key s).parked
    match why with
    | .signal i =>
      if parked || l.lanes ≤ i.val then s
      else
        let n := l.lane0 + i.val
        setLock l n false (fieldPut (laneStat n) 31 29 0 (enterDown l 5 s))
    | .alignment => if parked then s else enterDown l 5 s
    | .identity => if !parked && l.laneList.any fun n => (laneAt n s).changed then enterDown l 3 s else s
    | .farEnd =>
      if !parked && l.laneList.any fun n => 2 ≤ (laneAt n s).notReady then enterDown l 6 s else s
    | .ringLink => if l = .fcl then ringBreaks s else s
  else s)

/-- The last response due on a DRAIN group has left (R98, Table 4.18). -/
def execDrainDone (g : Fin 4) (s : State) : Host.Outcome State Fault Refusal :=
  .next (
    let l := LinkId.fll g
    let r := grpAt g.val s
    if linkState l s = gDrain ∧ r.cp = r.rp ∧ (s.pip.flight.all fun f => f.grp != g.val) then
      let s := enterDownQuiet l s
      if grpTrains g.val s then enterAdapt l s else flagPut (Reg.lnkGrpCtl g.val) 2 false s
    else s)

/-- 1 ms after a fault a link trains again (R98, R208). -/
def execAutoRetrain (l : LinkId) (s : State) : Host.Outcome State Fault Refusal :=
  .next (match (grpAt l.key s).retryAt with
    | some t => if awake s ∧ t ≤ s.clk.now ∧ linkState l s = gDown ∧ linkTrains l s ∧ linkAuto l s then enterAdapt l s else s
    | none => s)

/-- The link that a lane belongs to. -/
def laneLink (n : Nat) : LinkId := if n < 32 then .fll ⟨n / 8 % 4, by omega⟩ else .fcl

/-- An alignment block is well formed: its pattern, and NSEQ the complement of SEQ (Tables 4.4 and 8.2). -/
def alignOk (n : Nat) (b : BitVec 256) : Bool :=
  if n < 32 then bits b 255 252 == 0 && bits b 251 228 == 0x5ac3e7 && bits b 221 206 + bits b 205 190 == 0xffff
  else bits b 255 252 == 0 && bits b 251 228 == 0x5ac3e9 && bits b 222 207 + bits b 206 191 == 0xffff

/-- A lane receives an alignment block, at its expected offset or misplaced (R97, R98, R101, R207). Three in a row at one offset lock
the lane. -/
def execAlignmentBlock (n : Fin 48) (body : BitVec 256) (placed : Bool) (s : State) :
    Host.Outcome State Fault Refusal :=
  .next (
    let l := laneLink n.val
    if awake s ∧ gAdapt < linkState l s then
      if alignOk n.val body && placed then
        let rdy := if n.val < 32 then bit body 222 else bit body 223
        let seq := if n.val < 32 then bits body 221 206 else bits body 190 187 * 65536 + bits body 222 207
        let s := if n.val < 32 then
            fieldPut (laneStat n.val) 25 24 (bits body 227 226) (fieldPut (laneStat n.val) 28 26 (bits body 225 223) s)
          else fieldPut (laneStat n.val) 28 25 (bits body 227 224) s
        let s := updLane n.val (fun x => { x with seq := seq, found := x.found + 1, missed := 0, remote := rdy
                                                  ready := if rdy then x.ready + 1 else 0
                                                  notReady := if rdy then 0 else x.notReady + 1 }) s
        let s := updLane n.val (fun x => { x with
          changed := x.changed || (decide (gReady ≤ linkState l s) && laneIdent n.val s != x.ident) }) s
        let s := if 3 ≤ (laneAt n.val s).found then setLock l n.val true s else s
        fieldPut l.stat 28 28 (b2n (l.laneList.all fun k => (laneAt k s).remote)) s
      else
        let s := updLane n.val (fun x => { x with found := 0, missed := x.missed + 1 }) s
        if linkState l s = gLock ∨ 3 ≤ (laneAt n.val s).missed then setLock l n.val false s else s
    else s)

/-! Framing and the ingress FIFO (R102, R109 to R115). -/

/-- The arrival stamp in ns: the deframer's copy of time-of-day less the path adjustment, to the nearest even
nanosecond, ties upward; within a group stamps do not decrease (R188, R189, R191) but for a backward SET or STEP, which
forgets the last stamp (log entry 73). -/
def arrivalStamp (g : Nat) (s : State) : Nat :=
  let c := tabGet (0, 0) s.tod.copies g
  let ps := (c.1 + (s.clk.now - c.2) * 4294967296) * 1000 / 4294967296 - fieldGet (Reg.todPathAdj g) 15 0 s
  max ((ps + 1000) / 2000 * 2) (grpAt g s).lastStamp

/-- The PCLK cycle from which dispatch sees a frame whose last bit is at the balls now: 58 ns later (R108). -/
def visibleAt (s : State) : Nat := s.clk.pclk + (s.clk.pphase + 58 * pclkRate s + 99) / 100

/-- TYPE of a request header. -/
def isSearchType (h : W64) : Bool := bits h 63 60 == 1 || bits h 63 60 == 2

/-- A frame leaves the FIFO's write side: WP back to MARK, its credits freed. -/
def rewind (g : Nat) (s : State) : State :=
  let r := grpAt g s
  let n := ptrDist r.wp r.mark
  freeCredits (grpBinding g s) n
    (updGrp g (fun r => { r with wp := r.mark, cores := r.cores.take (ptrDist r.mark r.rp) }) s)

/-- The open frame ends with an event and no commit. -/
def endFrame (g k : Nat) (s : State) : State :=
  lnkEvent g k (updGrp g (fun r => { r with inFrame := false, open_ := [], poisoned := false }) (rewind g s))

/-- One core word of the open frame written, after the check for room of R113; false when the frame was dropped. -/
def writeCore (g : Nat) (ws : List W64) (last : Bool) (s : State) : State × Bool :=
  let r := grpAt g s
  if ptrDist r.wp r.mark = 1024 then (endFrame g 4 s, false)
  else if ptrDist r.wp r.rp = 1024 then (endFrame g 5 s, false)
  else
    let c : CoreWord := ⟨coreData ws, last, if last then 8 * ws.length % 64 else 0, 0, 0⟩
    (updGrp g (fun r => { r with cores := r.cores ++ [c], wp := (r.wp + 1) % 2048 }) s, true)

/-- A WAKE frame: a header with TYPE 0x3 and every other field 0, and its trailer. Bits [27:0] are reserved and ignored (R9). -/
def wakeForm (ws : List W64) : Bool := ws.length == 2 && bits (ws.headD 0) 63 28 == 3 * 2 ^ 32

/-- The frame's own words agree with its header (Table 4.16, order 3). -/
def searchForm (ws : List W64) : Bool :=
  let k := bits (ws.headD 0) 39 36
  1 ≤ k && k ≤ 10 && ws.length == k + 2

/-- The stamp and visibility put beside the first core word of the frame, and CP moved (R112). -/
def commitFrame (g : Nat) (s : State) : State :=
  let st := arrivalStamp g s
  let v := visibleAt s
  updGrp g (fun r =>
    let k := ptrDist r.mark r.rp
    { r with cores := r.cores.mapIdx (fun i c => if i = k then { c with stamp := st, visAt := v } else c)
             cp := r.wp, mark := r.wp, inFrame := false, open_ := [], lastStamp := st }) s

/-- The checks of Table 4.16 at a trailer. -/
def trailerChecks (g : Nat) (ws : List W64) (s : State) : State :=
  let r := grpAt g s
  let h := ws.headD 0
  if r.poisoned then endFrame g 8 s
  else if !crcGood ws then endFrame g 2 s
  else if isSearchType h then
    if !searchForm ws then endFrame g 3 s
    else if 1024 < pipeOcc (grpBinding g s) s then endFrame g 6 s
    else
      let s := lnkAdd g 0 1 (commitFrame g s)
      wakeEvent 4 s
  else if wakeForm ws then
    wakeEvent 3 (lnkAdd g 1 1 (updGrp g (fun r => { r with inFrame := false, open_ := [] }) s))
  else endFrame g 3 s

/-- One word received by an UP group (Table 4.7). A frame whose header arrives while the FIFO is being reset is discarded whole and
counted as FIFO_LOST (R115). -/
def rxWord (g : Nat) (mw : Bool × W64) (s : State) : State :=
  let r := grpAt g s
  if r.inFrame && r.lost then
    if mw.1 then lnkEvent g 12 (updGrp g (fun r => { r with inFrame := false, lost := false, poisoned := false }) s) else s
  else if r.inFrame then
    let ws := r.open_ ++ [mw.2]
    let n := ws.length
    let s := updGrp g (fun r => { r with open_ := ws }) s
    if !isSearchType (ws.headD 0) then (if mw.1 then trailerChecks g ws s else s)
    else if mw.1 then
      let (s, ok) := writeCore g (ws.drop ((n - 1) / 8 * 8)) true s
      if ok then trailerChecks g ws s else s
    else if n % 8 = 0 then (writeCore g (ws.drop (n - 8)) false s).1
    else s
  else if mw.1 then
    if mw.2 = 0 then s
    else if bits mw.2 63 60 = 0 then lnkEvent g 3 s
    else updGrp g (fun r => { r with inFrame := true, open_ := [mw.2], poisoned := r.damaged, mark := r.wp
                                     lost := decide (s.clk.now < r.resetTill) }) s
  else lnkEvent g 7 s

/-- The words of one lane block as its lane carries it: descrambled by the lane of the block's place in the stream. -/
def rxBlock (l : LinkId) (b : LaneBlock) (s : State) : List (Bool × W64) × State :=
  let n := (grpAt l.key s).blk
  let lane := l.lane0 + n % l.lanes
  let (body, st) := descramble (laneAt lane s).scram b.body
  (blockWords b.h body, updGrp l.key (fun r => { r with blk := r.blk + 1 }) (updLane lane (fun x => { x with scram := st }) s))

/-- RS symbols corrected on the lanes of a group (Table 4.22). -/
def fecCorrected (g : Nat) (ns : List Nat) (s : State) : State :=
  (List.range 8).foldl (fun s i => cntAdd (Reg.lnkFecCorr (8 * g + i)) (ns.getD i 0) s) s

/-- The stream blocks a group receives: framed and checked in UP, discarded as STRAY in DRAIN, and discarded uncounted in every
other state (R94 to R96, R98, R101, R102, R109). -/
def fllReceive (g : Fin 4) (blocks : List LaneBlock) (s : State) : State :=
  blocks.foldl (fun s b =>
    let (ws, s) := rxBlock (.fll g) b s
    let st := linkState (.fll g) s
    if st = gUp then (if (grpAt g.val s).parked then s else ws.foldl (fun s w => rxWord g.val w s) s)
    else if st = gDrain then ws.foldl (fun s _ => lnkEvent g.val 7 s) s
    else s) s

/-- An uncorrectable codeword on an UP group poisons the open frame and any frame that opens in it (R110). -/
def execCodewordUncorrectable (g : Fin 4) (lane : Fin 8) (s : State) : Host.Outcome State Fault Refusal :=
  .next (
    let s := cntAdd (Reg.lnkFecUnc (8 * g.val + lane.val)) 1 s
    if linkState (.fll g) s = gUp then
      updGrp g.val (fun r => { r with damaged := true, poisoned := r.inFrame }) s
    else s)

/-- The next codeword boundary: a poisoned frame still open is dropped and framing becomes OUT (R110). -/
def execPoisonBoundaryDrop (g : Fin 4) (s : State) : Host.Outcome State Fault Refusal :=
  .next (
    let r := grpAt g.val s
    if r.damaged then
      let s := dropOpen g.val s
      updGrp g.val (fun r => { r with damaged := false, inFrame := false, open_ := [], poisoned := false }) s
    else s)

/-- A pointer-copy mismatch resets the ingress FIFO (R115). The reset is under way for 10 ns, of the 16 deframer cycles of 0.64 ns
within which it ends (DESIGN CHOICE, log entry 74). -/
def execFifoPtrReset (g : Fin 4) (s : State) : Host.Outcome State Fault Refusal :=
  .next (
    let r := grpAt g.val s
    let frames := ((r.cores.take (ptrDist r.cp r.rp)).filter (·.last)).length +
      b2n (r.inFrame && isSearchType (r.open_.headD 0))
    let n := ptrDist r.wp r.rp
    let s := updGrp g.val (fun r => { r with cores := [], wp := 0, mark := 0, cp := 0, rp := 0
                                             inFrame := false, open_ := [], poisoned := false, lost := false
                                             resetTill := s.clk.now + 10 }) s
    let s := freeCredits (grpBinding g.val s) n s
    lnkAdd g.val 12 frames (lnkEvent g.val 11 s))

/-- A CREDIT frame leaves an UP group when CUM has changed since its last report, or 1 us after that report, in two word
positions that no response holds (R120, R123). -/
def execCreditFrame (g : Fin 4) (s : State) : Host.Outcome State Fault Refusal :=
  .next (
    let r := grpAt g.val s
    let a := txPos s.clk.pclk s
    if linkState (.fll g) s = gUp ∧ !r.parked ∧ (reportedCum (grpBinding g.val s) s ≠ r.lastCum ∨ r.lastReport + 1000 ≤ s.clk.now) ∧
        r.txSent ≤ a ∧ txOpen r a 2 then
      sendCredit g.val (updGrp g.val (fun r => { r with txSent := a + 2, txHeld := r.txHeld.filter fun h => a < h.2 }) s)
    else s)

/-- The register write of LNK_GRP_MAP: a change of a group that is not DOWN is refused
(R91, R92, Table 4.2). A group that becomes bound with EN = 1 leaves DOWN at once (Table 4.5). -/
def wrGrpMap (src : Party) (v : Word) (s : State) : State :=
  let field (w : Word) (g : Nat) : Nat := bits w (2 * g + 1) (2 * g)
  let old := regGet Reg.lnkGrpMap s
  if (List.range 4).any fun g => field v g != field old g && fieldGet (Reg.lnkGrpStat g) 31 29 s != gDown then
    refuseReg 4 src Reg.lnkGrpMap v s
  else
    let s := regPut Reg.lnkGrpMap (BitVec.ofNat 32 (bits v 7 0)) s
    [(0 : Fin 4), 1, 2, 3].foldl (fun s g =>
      if field old g.val = 2 ∧ grpTrains g.val s ∧ (grpAt g.val s).retryAt = none ∧ linkState (.fll g) s = gDown then
        enterAdapt (.fll g) s
      else s) s

end Sys2Proof.Machine
end

