-- ==== Sys2Proof/Machine/Search.lean ====
section
/-! DEFINITION. A search: dispatch, the array, verify and the response (R18 to R26, R44 to R49, R56 to R63, R81, R82,
R88, R116 to R124, R127 to R138, R233 to R243). -/

namespace Sys2Proof.Machine

open Sys2Proof

/-! The slot schedule (R127 to R133). -/

/-- A word of a schedule: HOB_SLOT_h_k at 4 h + k, PIP_MASK_p_k at 64 + 2 p + k. -/
def schedWord (t : Tab Word) (i : Nat) : Word := tabGet 0 t i

/-- Owner code of slot i of a hob (Table 5.1): 0 Z, 1 A, 2 B, 3 M. -/
def slotOwner (t : Tab Word) (h i : Nat) : Nat := bits (schedWord t (4 * h + i / 16)) (2 * (i % 16) + 1) (2 * (i % 16))

/-- Slot i is in the issue mask of pipeline p. -/
def inMask (t : Tab Word) (p i : Nat) : Bool := bit (schedWord t (64 + 2 * p + i / 32)) (i % 32)

/-- The gap from slot i to the next slot of the mask, taken cyclically: at most 64 (R131). -/
def gapFrom (t : Tab Word) (p i : Nat) : Nat :=
  match (List.range 64).find? fun k => inMask t p ((i + k + 1) % 64) with
  | some k => k + 1
  | none => 64

/-- G: the largest gap of a mask (R131). -/
def maskGap (t : Tab Word) (p : Nat) : Nat :=
  (((List.range 64).filter fun i => inMask t p i).map fun i => gapFrom t p i).foldl max 1

/-- The frame-counter value in a PCLK cycle at or after the present one, or shortly before it. -/
def slotAt (c : Nat) (s : State) : Nat := (s.clk.slot + c + 64 * (s.clk.pclk / 64 + 1) - s.clk.pclk) % 64

/-- The schedule in force for a search that reaches alignment in cycle a (R136). -/
def schedFor (a : Nat) (s : State) : Tab Word := match s.pip.switchAt with
  | some b => if b ≤ a then s.pip.schedShadow else s.pip.schedActive
  | none => s.pip.schedActive

/-- The wait from alignment cycle a to the first issue slot at or after it that no earlier search has claimed (R132). -/
def alignWait (t : Tab Word) (p a free : Nat) (s : State) : Option Nat :=
  (List.range 64).find? fun w => free ≤ a + w && inMask t p (slotAt (a + w) s)

/-- PIP_LAT_p as R131 and R133 give it, TOTAL in units of 10 ps rounded up. -/
def pipLat (g opp : Nat) : Word :=
  let mhz := match opp with
    | 0 => 1700
    | 1 => 1280
    | _ => 850
  pack32 [(24, (144 + g) % 256), (16, g % 256), (0, 9800 + ((144 + g) * 100000 + mhz - 1) / mhz)]

/-! Profiles (R80 to R88). -/

/-- A lookup descriptor and its fields (Table 3.12). -/
def Profile.lk (p : Profile) (l : Nat) : Word := p.lks.getD l 0
def Profile.nlook (p : Profile) : Nat := bits p.hdr 19 16
def Profile.keyWords (p : Profile) : Nat := bits p.hdr 11 8
def Profile.table (p : Profile) (l : Nat) : Nat := bits (p.lk l) 6 0
def Profile.rfmt (p : Profile) (l : Nat) : Nat := bits (p.lk l) 23 22
def Profile.nseg (p : Profile) (l : Nat) : Nat := bits (p.lk l) 19 16
def Profile.seg (p : Profile) (l k : Nat) : Word := p.segs.getD (8 * l + k) 0

/-- The header enables a pipeline. -/
def Profile.enables (p : Profile) (q : Nat) : Bool := bit p.hdr (22 + q)

/-- Result words of a lookup (Table 3.9). -/
def resultWords (rfmt rsize : Nat) : Nat := (if rfmt = 1 then 1 else 0) + (if rsize = 2 then 2 else 1)

/-- Result words of lookup l of a profile. -/
def lkWords (p : Profile) (l : Nat) (s : State) : Nat :=
  resultWords (p.rfmt l) (match tableAt (p.table l) s with
    | some t => t.rsize
    | none => 0)

/-- Result words of a profile. -/
def profWords (p : Profile) (s : State) : Nat := ((List.range p.nlook).map fun l => lkWords p l s).sum

/-- Byte b of the subkey of a lookup: the last segment that covers it (R81). -/
def subkeyByte (p : Profile) (l : Nat) (key : List W64) (b : Nat) : Byte :=
  (List.range (p.nseg l)).foldl (fun a k =>
    let g := p.seg l k
    let dst := bits g 22 16
    if dst ≤ b ∧ b < dst + bits g 29 23 then
      (if bits g 31 30 = 0 then keyByte key (bits g 15 9 + (b - dst)) else BitVec.ofNat 8 (bits g 7 0))
    else a) 0

/-- The subkey of a lookup of a table of a width, byte 0 at the top. -/
def subkey (p : Profile) (l width : Nat) (key : List W64) : BitVec 640 :=
  bytes640 ((List.range (widthBytes width)).map fun b => subkeyByte p l key b)

/-! Dispatch (R20 to R22, R88, R117, R123, R132, R214, R219). -/

/-- The epoch of a domain live at a stamp (R22); the T of a PREPARED domain is not recorded yet (R224). -/
def liveEpoch (d : Domain) (stamp : Nat) : Nat := match d.t with
  | some t => if d.flipped then (if stamp * 65536 < t then d.cnt + 4294967295 else d.cnt)
    else if d.st ≠ .prepared ∧ t ≤ stamp * 65536 then d.cnt + 1 else d.cnt
  | none => d.cnt

/-- An epoch domain. -/
def domAt (d : Nat) (s : State) : Domain := tabGet Domain.idle s.epc.doms d

/-- The epoch vector of a stamp: bit d is the low bit of the epoch of domain d (R22). -/
def epochVector (stamp : Nat) (s : State) : BitVec 8 :=
  BitVec.ofNat 8 (packNat ((List.range 8).map fun d => (d, liveEpoch (domAt d s) stamp % 2)))

/-- A frame that dispatch can see: its group, its core words, and when it became visible. -/
structure Visible where
  grp : Nat
  visAt : Nat
  stamp : Nat
  cores : List CoreWord
  deriving DecidableEq, Repr

/-- The core words of the first frame of a list, through LAST. -/
def firstFrame : List CoreWord → List CoreWord
  | [] => []
  | c :: cs => if c.last then [c] else c :: firstFrame cs

/-- The frames committed in a group's FIFO, in order. `fuel` bounds their number. -/
def splitFrames : Nat → List CoreWord → List (List CoreWord)
  | 0, _ => []
  | n + 1, cs => if cs.isEmpty then [] else
    let f := firstFrame cs
    f :: splitFrames n (cs.drop f.length)

/-- The frames of a group from RP up to CP. -/
def grpFrames (g : Nat) (s : State) : List Visible :=
  let r := grpAt g s
  let cs := r.cores.take (ptrDist r.cp r.rp)
  (splitFrames cs.length cs).map fun f => ⟨g, (f.headD ⟨0, true, 8, 0, 0⟩).visAt, (f.headD ⟨0, true, 8, 0, 0⟩).stamp, f⟩

/-- a comes before b in the order of commit; frames of one cycle by group number (R20). -/
def visBefore (a b : Visible) : Bool := a.visAt < b.visAt || (a.visAt == b.visAt && a.grp < b.grp)

/-- The first visible search of a pipeline. -/
def firstVisible (p : Nat) (s : State) : Option Visible :=
  ((pipeGroups p s).filterMap fun g => (grpFrames g s).head?).foldl (fun a v => match a with
    | none => some v
    | some b => if visBefore v b then some v else some b) none

/-- Searches of a pipeline visible in cycle c. -/
def visibleCount (p c : Nat) (s : State) : Nat :=
  ((pipeGroups p s).flatMap fun g => (grpFrames g s).filter fun v => v.visAt ≤ c).length

/-- The words of a frame in core words. -/
def frameWords (cs : List CoreWord) : List W64 := cs.flatMap fun c => coreWords c.data

/-- A search of a pipeline has its tag in flight in cycle c: from its dispatch until its response leaves (R116). -/
def tagBusy (p : Pipe) (tag c : Nat) (s : State) : Bool :=
  s.pip.flight.any fun f => decide (f.pipe = p) && bits f.hdr 59 48 == tag && c < f.leave

/-- Words of a profile as R233 reads them: 0 the header, 1 + l lookup l, 9 + 8 l + k segment k of lookup l. -/
def prfWord (n w : Nat) : Nat := 73 * n + w

/-- A stored profile word fails parity (R233). -/
def prfWordBad (n w : Nat) (s : State) : Bool := tabGet false s.tbl.prfBad (prfWord n w)

/-- The profile a search reads. Where its header word fails parity, the number of lookups is that of the copy in DRAM, which
R233 names as the word's source (log entry 66). -/
def profileFor (n : Nat) (s : State) : Option Profile :=
  if prfWordBad n 0 s then tabFind s.tbl.prfDram n <|> tabFind s.tbl.profiles n else tabFind s.tbl.profiles n

/-- A word that a search of a profile reads fails parity (R233). -/
def profileBad (n : Nat) (p : Profile) (s : State) : Bool :=
  prfWordBad n 0 s || (List.range p.nlook).any fun l =>
    prfWordBad n (1 + l) s || (List.range (p.nseg l)).any fun k => prfWordBad n (9 + 8 * l + k) s

/-- REASON of the REJECT a search gets, 0 for none (R88, R106). -/
def rejectReason (prof : Option Profile) (p kw : Nat) : Nat := match prof with
  | none => 1
  | some q => if !q.enables p then 2 else if q.keyWords ≠ kw then 3 else 0

/-- REASON of the REJECT of a search of profile n; a header word that fails parity gives none (R233). -/
def searchReason (n p kw : Nat) (s : State) : Nat :=
  if prfWordBad n 0 s then 0 else rejectReason (profileFor n s) p kw

/-- A profile with no field set. -/
def Profile.empty : Profile := ⟨0, [], []⟩

/-- Dispatch reads the frame's core words: RP moves and each frees its credit (R112, R120). -/
def readCores (g n : Nat) (s : State) : State :=
  freeCredits (grpBinding g s) n
    (updGrp g (fun r => { r with cores := r.cores.drop n, rp := (r.rp + n) % 2048 }) s)

/-- One decision cycle in which a visible search is held (R21, R138). -/
def countHold (p : Nat) (s : State) : State := cntWrap (Reg.pipQwait p) 1 s

/-- The longest time for which one search was held, the cycle c in which it is held now among them (R138). The whole hold of a search
that is held when a read clears PIP_QWAIT_MAX counts after it (DESIGN CHOICE, log entry 77). -/
def countWait (p : Nat) (v : Visible) (c : Nat) (s : State) : State := cntMax (Reg.pipQwaitMax p) (c + 1 - v.visAt) s

/-- Dispatch accepts no search: outside SERVICE, without an array clock, or held or asleep (R296, R317, R346, R356,
R359). -/
def dispatchStopped (s : State) : Bool :=
  fieldGet Reg.glbMemMode 1 0 s != 1 || !flagGet Reg.clkStat 0 s || s.pip.oppHold || s.pip.quiesce || s.pip.asleep

/-- The added cycles of a cascaded response: W x 26 ns + 20 ns (R218), in whole PCLK cycles rounded up. -/
def cascadeCycles (s : State) : Nat :=
  let rate := match oppCur s with
    | 0 => 170
    | 1 => 128
    | _ => 85
  ((fieldGet Reg.casCfg 7 4 s * 26 + 20) * rate + 99) / 100

/-- Body words of the CAND of a profile: 2 or 3 for each lookup (Table 8.6). -/
def candWords (p : Profile) (s : State) : Nat :=
  ((List.range p.nlook).map fun l => match tableAt (p.table l) s with
    | some t => if t.rsize = 2 then 3 else 2
    | none => 2).sum

/-- The word position of COUT that a PCLK cycle reaches, counted without the one in 32 that is held back for control frames: 31 of
every 32 of 25 words per ns (R219). -/
def coutPos (c : Nat) (s : State) : Nat := cycleTime c s * 775 / (32 * pclkRate s)

/-- The first of n free positions that start in a PCLK cycle. -/
def coutStart (c n : Nat) (s : State) : Option Nat :=
  ((List.range (coutPos (c + 1) s - coutPos c s)).map (coutPos c s + ·)).find? fun a =>
    s.cas.coutHeld.all fun h => h.2 ≤ a || a + n ≤ h.1

/-- The positions of a search's CSEARCH, from its dispatch cycle, and of its CAND, 122 + G cycles later, if all are free (R219).
Where in its cycle a frame starts the rule leaves open: at the first position that fits (DESIGN CHOICE, log entry 78). -/
def coutClaims (c g kw : Nat) (p : Profile) (s : State) : Option (List (Nat × Nat)) :=
  let n := candWords p s + 2
  match coutStart c (kw + 2) s, coutStart (c + 122 + g) n s with
  | some a, some b => some [(a, a + kw + 2), (b, b + n)]
  | _, _ => none

/-- A worker of the ring is asleep or still waking, so that cascaded searches are held (R353). -/
def workerWaking (s : State) : Bool :=
  (List.range (fieldGet Reg.casCfg 7 4 s)).any fun i => (tabGet WkFacts.none s.cas.workers (i + 1)).asleep

/-- A search that aligns in cycle a before the switch boundary and would issue at or after it (R136). -/
def acrossSwitch (a w : Nat) (s : State) : Bool := match s.pip.switchAt with
  | some b => decide (a < b ∧ b ≤ a + w)
  | none => false

/-- The candidate's decision in cycle c: what dispatch does with the first visible search. -/
inductive Decision where
  | busy
  | hold (egress ring : Bool)
  | accept (reason wait : Nat)
  deriving DecidableEq, Repr

/-- The transmit words of the largest response of a profile. -/
def searchWords (prof : Nat) (s : State) : Nat := profWords ((profileFor prof s).getD Profile.empty) s + 2

/-- The decision on a frame whose header and words are given (R20, R21, R88, R117, R123, R136, R219). The issue slot is tested before
the word positions of the response: a cycle in which both fail is a hold for the slot, and EGRESS_HOLD does not count it, which
R123 leaves open (DESIGN CHOICE, log entry 75). -/
def decideSearch (p : Pipe) (v : Visible) (c : Nat) (s : State) : Decision :=
  let ws := frameWords v.cores
  let h := ws.headD 0
  let kw := bits h 39 36
  let i := Pipe.idx p
  let reason := searchReason (bits h 47 40) i kw s
  let a := c + 28
  let sched := schedFor a s
  let g := maskGap sched i
  if tagBusy p (bits h 59 48) c s then .busy
  else if a < tabGet 0 s.pip.lastAlign i + (tabGet 0 s.pip.lastGap i - g) + (if g < tabGet 0 s.pip.lastGap i then 1 else 0) then
    .hold false false
  else match alignWait sched i a (tabGet 0 s.pip.nextIssue i) s with
    | none => .hold false false
    | some w =>
      let casc := cascaded p s && reason == 0 && ringState s == 5
      let leave := c + 144 + g + (if cascaded p s then cascadeCycles s else 0)
      if g ≤ w then .hold false false
      else if acrossSwitch a w s || (casc && workerWaking s) then .hold false false
      else if !txOpen (grpAt v.grp s) (txPos leave s) (if reason = 0 then searchWords (bits h 47 40) s else 3) then .hold true false
      else if casc && (coutClaims c g kw ((profileFor (bits h 47 40) s).getD Profile.empty) s).isNone then .hold false true
      else .accept reason w

/-- A CSEARCH (Table 8.5). -/
def csearchFrame (h : W64) (p : Pipe) (stamp slot : Nat) (key : List W64) : List W64 :=
  sealFrame (pack64 [(60, 1), (48, bits h 59 48), (40, bits h 47 40), (36, bits h 39 36), (35, Pipe.idx p),
    (29, slot), (4, stamp % 1000000000 / 2 % 2 ^ 25)] :: key) 0

/-- An accepted search enters flight (R21, R22, R23, R116, R132). G is that of the masks in force for its alignment (R136), also for a
search dispatched less than 28 cycles before a switch, where R133 names its dispatch (DESIGN CHOICE, log entry 76). -/
def acceptSearch (p : Pipe) (v : Visible) (c reason w : Nat) (s : State) : State :=
  let ws := frameWords v.cores
  let h := ws.headD 0
  let kw := bits h 39 36
  let i := Pipe.idx p
  let prof := (profileFor (bits h 47 40) s).getD Profile.empty
  let a := c + 28
  let g := maskGap (schedFor a s) i
  let words := if reason = 0 then profWords prof s + 2 else 3
  let sent := cascaded p s && reason == 0 && ringState s == 5
  let leave := c + 144 + g + (if cascaded p s then cascadeCycles s else 0)
  let key := (ws.drop 1).take kw
  let bad := reason == 0 && profileBad (bits h 47 40) prof s
  let f : Search :=
    { pipe := p, stage := .dispatched, grp := v.grp, hdr := h, key := key, stamp := v.stamp,
      vec := epochVector v.stamp s, profNo := bits h 47 40, prof := prof, reject := reason, prfBad := bad,
      disp := c, issue := a + w, leave := leave, gap := g, lks := [], casc := cascaded p s, sent := sent, candIn := none }
  let s := readCores v.grp v.cores.length s
  let s := updGrp v.grp (fun r => { r with txHeld := r.txHeld ++ [(txPos leave s, txPos leave s + words)] }) s
  let s := s.updPip fun x => { x with
    flight := x.flight ++ [f]
    nextIssue := tabSet 0 x.nextIssue i (a + w + 1)
    lastAlign := tabSet 0 x.lastAlign i a
    lastGap := tabSet 0 x.lastGap i g }
  let s := if sent then
      cntWrap (Reg.casCnt 0) 1 (coutSend (csearchFrame h p v.stamp (slotAt (a + w) s) key)
        (s.updCas fun x => { x with
          coutHeld := x.coutHeld.filter (fun h => coutPos c s < h.2) ++ (coutClaims c g kw prof s).getD [] }))
    else s
  let s := if bad then
      errRecord 0x12 4 2 0 (searchLoc 0 p (bits h 59 48) 0 (bits h 47 40) 0) (intCount 13 s)
    else s
  cntMax (Reg.pipQwaitMax i) (c - v.visAt) s

/-- The decision of one PCLK cycle (R20): the earliest cycle not yet decided in which a search is visible, if that cycle
has come. Every other visible search is held in it, and so is the first when dispatch is stopped or cannot accept it. -/
def execDispatch (p : Pipe) (s : State) : Host.Outcome State Fault Refusal :=
  .next (match firstVisible (Pipe.idx p) s with
    | none => s
    | some v =>
      let i := Pipe.idx p
      let c := max (tabGet 0 s.pip.nextDec i) v.visAt
      if s.clk.pclk < c then s
      else
        let others := 1 < visibleCount i c s
        let s := s.updPip fun x => { x with nextDec := tabSet 0 x.nextDec i (c + 1) }
        maskReads p (if dispatchStopped s then countHold i (countWait i v c s)
        else match decideSearch p v c s with
          | .busy =>
            let s := lnkEvent v.grp 9 (readCores v.grp v.cores.length (cntMax (Reg.pipQwaitMax i) (c - v.visAt) s))
            if others then countHold i s else s
          | .hold egress ring =>
            let s := if egress then lnkAdd v.grp 15 1 s else s
            let s := if ring then cntAdd (Reg.casCnt 6) 1 s else s
            countHold i (countWait i v c s)
          | .accept reason w =>
            let s := acceptSearch p v c reason w s
            if others then countHold i s else s))

/-- A search of a pipeline is visible and not decided in a cycle whose array cycle would be c or earlier. -/
def decisionDue (p c : Nat) (s : State) : Bool := !dispatchStopped s && match firstVisible p s with
  | some v => max (tabGet 0 s.pip.nextDec p) v.visAt + 40 ≤ c
  | none => false

/-- Every search has passed the stages that it passes up to cycle c. What changes the array or the Pantry in cycle c waits for
it, so that a search sees them as they stood in its slot, and a Pantry read of the same cycle sees the word before the
write (R34, R77; log entry 38). -/
def searchesDone (c : Nat) (s : State) : Bool :=
  !decisionDue 0 c s && !decisionDue 1 c s && s.pip.flight.all fun f => match f.stage with
    | .dispatched => decide (c < f.issue + 12)
    | .searched => decide (c < f.disp + 122 + f.gap)
    | .verified => true

/-! The array (R23, R36 to R38, R44 to R48, R56, R59 to R63, R233, R234). -/

/-- The first search of a pipeline in a stage, with its place in flight. -/
def stageSearch (p : Pipe) (st : SStage) (s : State) : Option (Nat × Search) :=
  match s.pip.flight.findIdx? fun f => decide (f.pipe = p ∧ f.stage = st) with
  | some i => s.pip.flight[i]?.map fun f => (i, f)
  | none => none

/-- A search in flight replaced. -/
def setFlight (i : Nat) (f : Search) (s : State) : State := s.updPip fun x => { x with flight := x.flight.set i f }

/-- The entry at a position of a pan matches: every one of its slices does (R38, R44). -/
def entryMatches (width pan pos : Nat) (k : BitVec 640) (e : Bool) (s : State) : Bool :=
  let slots := entrySlots width (pan * 16384 + pos)
  (List.range slots.length).all fun i => (sliceAt (slots.getD i 0) s).matches (keySlice k i) e

/-- The positions of a physical pan that hold a slice other than a free one, ascending. -/
def panPositions (p : Nat) (s : State) : List Nat :=
  let base := physKey (p / 16) (physPan p s) 0
  (s.arr.slices.filter fun kv => base ≤ kv.1 && kv.1 < base + 16384).map fun kv => kv.1 - base

/-- An activated pan's report: the matching entry at the lowest position, with its rank word (R47). -/
def panReport (width p : Nat) (k : BitVec 640) (e : Bool) (s : State) : Report :=
  match (panPositions p s).find? fun pos => idxAligned width (p * 16384 + pos) && entryMatches width p pos k e s with
  | some pos => ⟨true, false, p * 16384 + pos, bits (rankAt (p * 16384 + pos) s) 15 0⟩
  | none => Report.miss

/-- a beats b: lower rank first, then lower global index (R48). -/
def Report.beats (a b : Report) : Bool :=
  a.hit && (!b.hit || a.rank < b.rank || (a.rank == b.rank && a.index < b.index))

/-- The rank tournament over the reports of a lookup's activated pans (R48). -/
def tournament (rs : List Report) : Report := rs.foldl (fun b a => if a.beats b then a else b) Report.miss

/-- The pans that answer for an activated set: a pan pair reports once, as pan 2k (R47). -/
def reporters (width : Nat) (ps : List Nat) : List Nat := if width = 3 then ps.filter (· % 2 == 0) else ps

/-- The winner among activated pans; a missing or bad report makes the copy's report bad (R234). -/
def copyReport (width : Nat) (ps bad : List Nat) (k : BitVec 640) (e : Bool) (s : State) : Report :=
  let w := tournament (((reporters width ps).filter fun p => !bad.contains p).map fun p => panReport width p k e s)
  if ps.any (bad.contains ·) then { w with hit := true, bad := true, index := if w.hit then w.index else noIndex } else w

/-- One lookup as the Sieve sees it: its table, subkey, and the activated pans, or a cause for status 11. -/
structure SieveOut where
  lk : Nat
  table : Nat
  desc : Option TableDesc
  key : BitVec 640
  bucket : Nat
  /-- 0 good, 1 the mask word failed parity, 2 the descriptor failed parity or the table is gone. -/
  fail : Nat
  prim : List Nat
  mirr : List Nat
  deriving DecidableEq, Repr

/-- The mirror twin of each activated primary pan, less any marked LOST (R60, R79). -/
def twinPans (t : TableDesc) (ps : List Nat) (s : State) : List Nat :=
  ps.filterMap fun p =>
    match (panList t.mirset)[panOrd t.panset p]? with
    | some m => if panLost m s then none else some m
    | none => none

/-- The Sieve's work for lookup l of a search (R54, R56, R59, R60, R233). -/
def sieveLookup (f : Search) (l : Nat) (s : State) : SieveOut :=
  let tn := f.prof.table l
  match tableAt tn s with
  | none => ⟨l, tn, none, 0, 0, 2, [], []⟩
  | some t =>
    let k := subkey f.prof l t.width f.key
    let b := bucketOf t k
    let m := maskAt tn b s
    let br := maskAt tn 1024 s
    if tabGet false s.tbl.tblBad tn then ⟨l, tn, some t, k, b, 2, [], []⟩
    else if !m.ok then ⟨l, tn, some t, k, b, 1, [], []⟩
    else if !br.ok then ⟨l, tn, some t, k, 0x3ff, 1, [], []⟩
    else
      let set := m.mask ||| br.mask
      let named := (List.range (panList t.panset).length).filter fun j => set.toNat.testBit j
      let named := named.map fun j => (panList t.panset).getD j 0
      let prim := named.filter fun p => !panLost p s
      ⟨l, tn, some t, k, b, 0, prim, if t.guarded then twinPans t named s else []⟩

/-- What a failed Sieve read of a lookup counts, records and queues (R59, R233). -/
def sieveFailure (f : Search) (o : SieveOut) (s : State) : State :=
  let loc := searchLoc o.table f.pipe (bits f.hdr 59 48) 0 f.profNo o.bucket
  match o.fail with
  | 0 => s
  | 1 =>
    let k := maskKey o.table (if o.bucket = 0x3ff && (maskAt o.table 0x3ff s).ok then 1024 else o.bucket)
    let s := s.updTbl fun x => { x with maskFix := if x.maskFix.contains k then x.maskFix else x.maskFix ++ [k] }
    errRecord 0x12 1 2 0 loc (intCount 7 s)
  | _ => if tabGet false s.tbl.tblBad o.table then errRecord 0x12 5 2 0 loc (intCount 13 s) else s

/-- A miss, or a retry when its status is 3. -/
def LkRes.none : LkRes := ⟨0, 0, 0, 0, []⟩

def LkRes.retry : LkRes := ⟨3, 0, 0, 0, []⟩

/-- One lookup's tournament, or two for a guarded table (R48, R49). -/
def searchLookup (f : Search) (bad : List Nat) (o : SieveOut) (stop : Bool) (s : State) : LkState :=
  match o.desc with
  | some t =>
    if o.fail ≠ 0 || stop then ⟨o.table, true, Report.miss, Report.miss, LkRes.none⟩
    else
      let e := bit f.vec t.domain
      ⟨o.table, false, copyReport t.width o.prim bad o.key e s, copyReport t.width o.mirr bad o.key e s, LkRes.none⟩
  | none => ⟨o.table, true, Report.miss, Report.miss, LkRes.none⟩

/-- In the search's issue slot every activated pan searches its subkey in one array cycle (R23). `badPans` are the pans
whose report is missing or fails parity for this search. -/
def execArraySearch (p : Pipe) (badPans : List (Fin 256)) (s : State) : Host.Outcome State Fault Refusal :=
  .next (match stageSearch p .dispatched s with
    | none => s
    | some (i, f) =>
      if s.clk.pclk < f.issue + 12 then s
      else if f.reject ≠ 0 then setFlight i { f with stage := .searched } s
      else
        let outs := (List.range f.prof.nlook).map fun l => sieveLookup f l s
        let acts := (outs.map fun o => o.prim.length + o.mirr.length).sum
        let tooMany := 24 < acts
        let stop := tooMany || f.prfBad
        let touched := if stop then [] else outs.flatMap fun o => o.prim ++ o.mirr
        let bad := (badPans.map (·.val)).filter fun b => touched.contains b
        let lks := outs.map fun o => searchLookup f bad o stop s
        let s := setFlight i { f with stage := .searched, lks := lks } s
        let s := s.updPip fun x => { x with arrayAt := max x.arrayAt (f.issue + 12) }
        let s := lmapReads p (bits f.hdr 59 48) f.profNo touched s
        let s := outs.foldl (fun s o => sieveFailure f o s) s
        let s := if tooMany then
            errRecord 0x12 2 2 acts (searchLoc 0 p (bits f.hdr 59 48) 0 f.profNo 0) (intCount 8 s)
          else s
        let s := bad.foldl (fun s b =>
          hobReportRecord ((panTable b s).getD 0) p (bits f.hdr 59 48) f.profNo b s) s
        if bad.isEmpty then s else hobFailures bad s)

/-! Verify (R24, R25, R49, R75, R77, R82, R235, R241 to R243). -/

/-- Bit i is set where f holds of slice i. -/
def sliceBits (slots : List Nat) (f : Slice → Bool) (s : State) : Nat :=
  packNat ((List.range slots.length).map fun i => (i, b2n (f (sliceAt (slots.getD i 0) s))))

/-- The result of checking one winner: passed or not, with its result units. -/
structure Checked where
  ok : Bool
  units : List Word
  deriving DecidableEq, Repr

/-- A winner checked: the parity of its slices and rank word, and the Pantry read of its result (R24, R49, R77). -/
def checkWinner (t : TableDesc) (mirror : Bool) (r : Report) (s : State) : Checked × State :=
  if !r.hit then (⟨false, []⟩, s)
  else if r.bad then (⟨false, []⟩, s)
  else
    let slots := entrySlots t.width r.index
    let fx := sliceBits slots (fun c => !c.okX) s
    let fy := sliceBits slots (fun c => !c.okY) s
    let rb := !rankOk (rankAt r.index s)
    let u := recordUnit t r.index mirror
    let ws := unitWords u (resultUnits t)
    let reads := ws.map fun w => (w, pantryRead w s)
    let units := (List.range (resultUnits t)).map fun i => unitRead (u + i) s
    let tn := (panTable (r.index / 16384) s).getD 0
    let parityBad := fx ≠ 0 || fy ≠ 0 || rb
    let s := if parityBad then verifyFailure t r.index fx fy rb s else s
    let s := reads.foldl (fun s wr => pantryEvent tn t mirror r.index wr.1 wr.2 s) s
    (⟨!parityBad && reads.all fun wr => wr.2.kind != 2, units⟩, s)

/-- Result words of a hit (Table 3.10). -/
def hitWords (rfmt rsize src index rank : Nat) (u : List Word) : List W64 :=
  let n (i : Nat) : Nat := (u.getD i 0).toNat
  let data : List W64 := match rsize with
    | 0 => [pack64 [(0, n 0)]]
    | 1 => [pack64 [(32, n 0), (0, n 1)]]
    | _ => [pack64 [(32, n 0), (0, n 1)], pack64 [(32, n 2), (0, n 3)]]
  match rfmt with
  | 0 => data
  | 1 => pack64 [(63, 1), (59, src), (37, index), (21, rank)] :: data
  | _ => [pack64 [(63, 1), (59, src), (37, index), (0, n 0)]]

/-- The guarded rule (R241): which copy supplies the result, the status, and whether the winners diverge. -/
def guardedRule (p m : Report) (pv mv same : Bool) : Option Bool × Nat × Bool :=
  if pv && mv && same then (some false, 1, false)
  else
    let dv := p.hit || m.hit
    if pv && mv then (if m.rank < p.rank then (some true, 2, dv) else (some false, 1, dv))
    else if pv then (some false, 1, dv)
    else if mv then (some true, 2, dv)
    else if p.hit && m.hit then (none, 3, dv)
    else (none, 0, dv)

/-- A lookup's result and side effects at the end of the verify stage (R24, R25, R241). -/
def verifyLookup (k : LkState) (s : State) : LkRes × State :=
  match tableAt k.table s with
  | none => (LkRes.retry, s)
  | some t =>
    let hit (st : Nat) (r : Report) (u : List Word) (s : State) : LkRes × State := (⟨st, resultSrc s, r.index, r.rank, u⟩, s)
    if k.retry then (LkRes.retry, s)
    else if !t.guarded then
      if !k.prim.hit then (LkRes.none, s)
      else
        let (c, s) := checkWinner t false k.prim s
        if c.ok then hit 1 k.prim c.units (setActivity (entrySlots t.width k.prim.index) s) else (LkRes.retry, s)
    else
      let (cp, s) := checkWinner t false k.prim s
      let (cm, s) := checkWinner t true k.mirr s
      let same := twinIndex t k.prim.index true == k.mirr.index && k.prim.rank == k.mirr.rank
      let (src, st, dv) := guardedRule k.prim k.mirr cp.ok cm.ok same
      let s := if dv then divergence k.table k.prim k.mirr (st == 3) s else s
      match src with
      | some mirror =>
        let r := if mirror then k.mirr else k.prim
        let pi := if mirror then twinIndex t r.index false else r.index
        let mi := if mirror then r.index else twinIndex t r.index true
        hit st r (if mirror then cm.units else cp.units)
          (setActivity (entrySlots t.width pi ++ entrySlots t.width mi) s)
      | none => (if st = 3 then LkRes.retry else LkRes.none, s)

/-- The lookups of a search verified in order, results with status 10 and 11 counted (Table 9.18). -/
def verifyAll : List LkState → State → List LkState × State
  | [], s => ([], s)
  | k :: ks, s =>
    let (r, s) := verifyLookup k s
    let s := if r.status = 2 then intCount 11 s else if r.status = 3 then intCount 12 s else s
    let (ks, s) := verifyAll ks s
    ({ k with res := r } :: ks, s)

/-! Candidates (R215 to R217). -/

/-- The merge of an incoming candidate with a device's own (R215). -/
def mergeLk (inOk : Bool) (i o : LkRes) : LkRes :=
  if !inOk || i.status == 3 || o.status == 3 then LkRes.retry
  else if o.status ≠ 0 && (i.status == 0 || o.rank < i.rank) then o
  else i

def mergeCand (inOk : Bool) (i o : List LkRes) : List LkRes :=
  (List.range o.length).map fun l => mergeLk inOk (i.getD l LkRes.none) (o.getD l LkRes.none)

/-- Data words of RSIZE: 1 or 2. -/
def dataWordsOf (rsize : Nat) (u : List Word) : List W64 :=
  let n (i : Nat) : Nat := (u.getD i 0).toNat
  match rsize with
  | 0 => [pack64 [(0, n 0)]]
  | 1 => [pack64 [(32, n 0), (0, n 1)]]
  | _ => [pack64 [(32, n 0), (0, n 1)], pack64 [(32, n 2), (0, n 3)]]

/-- RSIZE of lookup l of a profile. -/
def lkRsize (p : Profile) (l : Nat) (s : State) : Nat := match tableAt (p.table l) s with
  | some t => t.rsize
  | none => 0

/-- Locator and data words of one lookup of a CAND (Table 8.6). -/
def candBody (rsize : Nat) (r : LkRes) : List W64 :=
  if r.status = 1 ∨ r.status = 2 then
    pack64 [(63, 1), (59, r.src), (37, r.index), (21, r.rank)] :: dataWordsOf rsize r.units
  else List.replicate (if rsize = 2 then 3 else 2) 0

/-- STATUS of lookups: lookup l in bits [hi - 2 l : hi - 1 - 2 l] of a field whose top bit is hi. -/
def statusBits (hi : Nat) (rs : List LkRes) : List (Nat × Nat) :=
  (List.range rs.length).map fun l => (hi - 1 - 2 * l, (rs.getD l LkRes.none).status)

/-- A CAND frame (Table 8.6). -/
def candFrame (f : Search) (rs : List LkRes) (s : State) : List W64 :=
  let body := (List.range rs.length).flatMap fun l => candBody (lkRsize f.prof l s) (rs.getD l LkRes.none)
  sealFrame (pack64 ([(60, 2), (48, bits f.hdr 59 48), (40, f.profNo), (35, body.length), (34, Pipe.idx f.pipe),
    (14, rs.length)] ++ statusBits 33 rs) :: body) 0

/-- A search of a pipeline leaves flight. -/
def dropFlight (i : Nat) (s : State) : State := s.updPip fun x => { x with flight := x.flight.eraseIdx i }

/-- A device's own candidate is ready: the manager sends it, its incoming candidate being all miss; a worker merges it
with the candidate that has arrived and sends the result, and its search leaves flight (R215). -/
def ownCandidate (i : Nat) (f : Search) (s : State) : State :=
  let own := f.lks.map (·.res)
  if !f.sent then s
  else if isWorker s then match f.candIn with
    | some (ok, ci) => dropFlight i (coutSend (candFrame f (mergeCand ok ci own) s) s)
    | none => s
  else coutSend (candFrame f own s) s

/-- The verify stage of the first searched search, 122 + G cycles after its dispatch (R18, R24, R215). -/
def execVerify (p : Pipe) (s : State) : Host.Outcome State Fault Refusal :=
  .next (match stageSearch p .searched s with
    | none => s
    | some (i, f) =>
      if s.clk.pclk < f.disp + 122 + f.gap then s
      else if f.reject ≠ 0 then setFlight i { f with stage := .verified } s
      else
        let (ks, s) := verifyAll f.lks s
        let f := { f with stage := .verified, lks := ks }
        ownCandidate i f (setFlight i f s))

/-! The response (R25, R26, R82, R104 to R106, R116, R124, R216, R217). -/

/-- The result words of a lookup in the profile's format; a miss or a retry fills them with 0 (R82). -/
def responseWords (rfmt rsize : Nat) (r : LkRes) : List W64 :=
  if r.status = 1 ∨ r.status = 2 then hitWords rfmt rsize r.src r.index r.rank r.units
  else List.replicate (resultWords rfmt rsize) 0

/-- The RESULT frame of a search (Tables 4.12 and 4.13). -/
def resultFrame (f : Search) (rs : List LkRes) (s : State) : List W64 :=
  let body := (List.range rs.length).flatMap fun l =>
    responseWords (f.prof.rfmt l) (lkRsize f.prof l s) (rs.getD l LkRes.none)
  sealFrame (pack64 ([(60, 8), (48, bits f.hdr 59 48), (40, f.profNo), (36, body.length), (28, bits f.hdr 35 28),
    (8, rs.length)] ++ statusBits 27 rs) :: body) (trailerLow (grpBinding f.grp s) s)

/-- The REJECT frame of a search: its body is the request header as received (R106, Table 4.13). -/
def rejectFrame (f : Search) (s : State) : List W64 :=
  sealFrame [pack64 [(60, 9), (48, bits f.hdr 59 48), (40, f.profNo), (36, 1), (28, bits f.hdr 35 28), (4, f.reject)],
    f.hdr] (trailerLow (grpBinding f.grp s) s)

/-- Every lookup of a search as a retry. -/
def allRetry (f : Search) : List LkRes := List.replicate f.prof.nlook LkRes.retry

/-- Some worker is withheld (CAS_WK_k.STATE = 3). -/
def anyWithheld (s : State) : Bool :=
  (List.range 15).any fun k => fieldGet (Reg.casWk (k + 1)) 31 29 s == 3

/-- The lookups a response reports: the search's own; for a cascaded search the merged candidate that returned, or every
lookup 11 (R209, R216, R217). -/
def finalLookups (f : Search) (s : State) : List LkRes × State :=
  if !f.casc then (f.lks.map (·.res), s)
  else match f.sent, f.candIn with
    | true, some (true, ci) =>
      if anyWithheld s then
        (if flagGet Reg.casCfg 3 s then allRetry f else ci, cntAdd (Reg.casCnt 7) 1 s)
      else (ci, s)
    | _, _ => (allRetry f, raiseInt 11 (bitMask 6) (cntAdd (Reg.casCnt 2) 1 s))

/-- The word positions held for a response that sends nothing are free again (R123). -/
def releaseTx (f : Search) (s : State) : State :=
  updGrp f.grp (fun r => { r with txHeld := r.txHeld.filter fun h => h.1 != txPos f.leave s }) s

/-- A SEARCH_QUIET that misses in every lookup (R82). -/
def silentSearch (f : Search) (rs : List LkRes) : Bool :=
  f.reject == 0 && bits f.hdr 63 60 == 2 && rs.all fun r => r.status == 0

/-- The response of the first verified search of a pipeline is handed to its group, at the cycle its dispatch fixed, and
its tag leaves flight. A SEARCH_QUIET that misses everywhere sends nothing; a group in neither UP nor DRAIN drops it. -/
def execResponseLeave (p : Pipe) (s : State) : Host.Outcome State Fault Refusal :=
  .next (match stageSearch p .verified s with
    | none => s
    | some (i, f) =>
      if s.clk.pclk < f.leave || f.grp ≥ 4 then s
      else
        let (rs, s) := if f.reject = 0 then finalLookups f s else ([], s)
        let s := dropFlight i s
        let st := fieldGet (Reg.lnkGrpStat f.grp) 31 29 s
        if silentSearch f rs then releaseTx f s
        else if st ≠ gUp ∧ st ≠ gDrain then lnkEvent f.grp 13 (releaseTx f s)
        else if f.reject ≠ 0 then lnkAdd f.grp 14 1 (lnkAdd f.grp 10 1 (txFrame f.grp (rejectFrame f s) s))
        else lnkAdd f.grp 14 1 (txFrame f.grp (resultFrame f rs s) s))

end Sys2Proof.Machine
end

