-- ==== Sys2Proof/Machine/Rings.lean ====
section
/-! DEFINITION. Rings and commands in flight: doorbells, ring states, scheduling, parsing, completions, notices and ring
interrupts (R141 to R155, R172 to R177, R228, R261, R262, R266, R269, R270). -/

namespace Sys2Proof.Machine

open Sys2Proof

/-! Rings. -/

/-- A ring. -/
def ringAt (r : Nat) (s : State) : Ring := tabGet Ring.off s.upd.rings r

/-- A ring changed. -/
def updRing (r : Nat) (f : Ring → Ring) (s : State) : State :=
  s.updUpd fun u => { u with rings := tabMod Ring.off u.rings r f }

/-- Slots of a ring (R141). -/
def Ring.size (q : Ring) : Nat := 64 * 2 ^ bits q.cfg 3 0

def Ring.func (q : Ring) : Nat := bits q.cfg 15 10

def Ring.prio (q : Ring) : Nat := bits q.cfg 9 7

def Ring.vector (q : Ring) : Nat := bits q.cfg 26 16

def Ring.intEn (q : Ring) : Bool := bit q.cfg 27

/-- RIGHTS: bit 0 UPDATE, 1 TABLE, 2 EPOCH, 3 FW. -/
def Ring.rights (q : Ring) : Nat := bits q.cfg 31 28

/-- Slots submitted and not fetched (R145). -/
def Ring.unfetched (q : Ring) : Nat := (q.tail + q.size - q.head) % q.size

/-- Completion entries written and not consumed. -/
def Ring.unconsumed (q : Ring) : Nat := (q.ctail + q.size - q.chead) % q.size

/-- One more completion entry leaves a position free (R145). -/
def Ring.room (q : Ring) : Bool := q.unconsumed + 1 < q.size

/-- The ring in RUN enters FAULT with a code of Table 6.4, and its notice sets (R146, R174). -/
def ringFault (r code : Nat) (s : State) : State :=
  if (ringAt r s).st = 1 then
    updRing r (fun q => { q with st := 3, fault := code, flt := true, urgent := q.urgent || q.intEn }) s
  else s

/-- The relay ring of a worker (R228). -/
def relayRing : Nat := 16383

/-! Commands (Tables 6.5 and 6.6). -/

def opOf (h : W64) : Nat := bits h 63 56
def slotsField (h : W64) : Nat := bits h 55 54
def batchBit (h : W64) : Bool := bit h 53
def notifyBit (h : W64) : Bool := bit h 52
/-- OPT bit i, 51 to 47. -/
def optBit (h : W64) (i : Nat) : Bool := bit h i
def tableOf (h : W64) : Nat := bits h 46 40
def rankOf (h : W64) : Nat := bits h 39 24
def domOf (h : W64) : Nat := bits h 18 16
def cidOf (h : W64) : Nat := bits h 15 0

/-- The opcodes of Table 6.6. -/
def opDefined (o : Nat) : Bool :=
  [0x01, 0x02, 0x10, 0x11, 0x12, 0x13, 0x14, 0x20, 0x21, 0x22, 0x23, 0x30, 0x31, 0x40, 0x41].contains o

/-- INSERT, DELETE, MODIFY_DATA and MODIFY_RANK. -/
def opUpdate (o : Nat) : Bool := 0x10 ≤ o && o ≤ 0x13

/-- Barrier commands (R152). -/
def opBarrier (o : Nat) : Bool := opDefined o && !(0x10 ≤ o && o ≤ 0x14)

/-- Commands that name a table. -/
def opNamesTable (o : Nat) : Bool := o == 1 || o == 2 || (0x10 ≤ o && o ≤ 0x14) || o == 0x31

/-- Batch and commit commands. -/
def opEpoch (o : Nat) : Bool := 0x20 ≤ o && o ≤ 0x23

/-- The slots a command occupies in its ring (R154). -/
def slotsTaken (h : W64) : Nat :=
  if !opDefined (opOf h) || slotsField h == 3 then 1 else 2 ^ slotsField h

/-- The bit of RIGHTS that an opcode needs (Table 6.6). -/
def rightBit (o : Nat) : Option Nat :=
  if o = 1 ∨ o = 2 then some 1
  else if opEpoch o then some 2
  else if o = 0x40 ∨ o = 0x41 then some 3
  else if o = 0x30 then none
  else some 0

/-- Word i of a command; a word it does not have reads 0. -/
def Cmd.word (c : Cmd) (i : Nat) : W64 := c.words.getD i 0

def Cmd.hdr (c : Cmd) : W64 := c.word 0

/-- Descriptor byte n (R142). -/
def Cmd.byte (c : Cmd) (n : Nat) : Byte := BitVec.ofNat 8 ((c.word (n / 8)).toNat >>> (56 - 8 * (n % 8)))

/-- Descriptor bytes from n up. -/
def Cmd.bytes (c : Cmd) (n k : Nat) : List Byte := (List.range k).map fun i => c.byte (n + i)

/-- A command in flight. -/
def cmdAt (n : Nat) (s : State) : Option Cmd := s.upd.cmds.find? fun c => c.id == n

/-- A command in flight changed. -/
def updCmd (n : Nat) (f : Cmd → Cmd) (s : State) : State :=
  s.updUpd fun u => { u with cmds := u.cmds.map fun c => if c.id = n then f c else c }

/-- A ring's own conditions of R149 have turned true: the wait of Table 6.25 begins anew. -/
def ringOpens (r : Nat) (s : State) : State := updRing r (fun q => { q with since := s.clk.now }) s

/-- Every ring of a function, when the function may send again (R261). -/
def fnOpens (f : Nat) (s : State) : State :=
  (s.upd.rings.filter fun x => x.2.func == f).foldl (fun s x => ringOpens x.1 s) s

/-- A condition that all rings share has turned true. -/
def allOpen (s : State) : State := s.updUpd fun u => { u with openAt := s.clk.now }

/-- A command leaves flight: a barrier no longer stops its ring, and one command fewer may let every ring be served. -/
def dropCmd (n : Nat) (s : State) : State :=
  let s := match cmdAt n s with
    | some c => if c.barrier then ringOpens c.ring s else s
    | none => s
  let s := if s.upd.cmds.length = 4096 then allOpen s else s
  s.updUpd fun u => { u with cmds := u.cmds.filter (fun c => c.id != n), due := u.due.filter (· != n) }

/-- The command's stage is ready: parsed, and not begun. -/
def Cmd.isReady (c : Cmd) : Bool := decide (c.stage = .ready)

/-- The command is complete. -/
def Cmd.isDone (c : Cmd) : Bool := match c.stage with
  | .done _ _ _ _ => true
  | _ => false

/-- The command has not been parsed. -/
def Cmd.unparsed (c : Cmd) : Bool := decide (c.stage = .fetched ∨ c.stage = .arrived)

/-- The MP restarts after its island's reset (Table 12.8; log entry 91). -/
def mpDown (s : State) : Bool := s.rst.mpAt.any fun t => s.clk.now < t + Config.mpRestart.val

/-- The MP carries out the command: an image's delivery and its confirmation (log entry 91). -/
def Cmd.needsMp (c : Cmd) : Bool := opOf c.hdr == 0x40 || opOf c.hdr == 0x41

/-- While the MP restarts, the intent engine holds the commands that need it, and the rest of a ring behind such a command. -/
def mpHolds (c : Cmd) (s : State) : Bool :=
  mpDown s && s.upd.cmds.any fun e => e.ring == c.ring && e.needsMp && e.isReady && e.seq ≤ c.seq

/-- The ready command of a number whose opcode is one of a list. -/
def readyCmd (n : Nat) (ops : List Nat) (s : State) : Option Cmd := match cmdAt n s with
  | some c => if c.isReady && ops.contains (opOf c.hdr) && !mpHolds c s then some c else none
  | none => none

/-! Domains. -/

/-- A domain changed. -/
def updDom (d : Nat) (f : Domain → Domain) (s : State) : State :=
  s.updEpc fun x => { x with doms := tabMod Domain.idle x.doms d f }

/-! Completions (R143, R174 to R176). -/

/-- The two words of a completion entry (Table 6.1). -/
def completionWords (q : Ring) (c : Cmd) (status index detail value : Nat) : W64 × W64 :=
  (pack64 [(63, b2n q.phase), (48, status), (32, cidOf c.hdr), (16, q.head), (0, c.pos)],
   pack64 [(40, index % 2 ^ 22), (32, detail % 256), (0, value % 2 ^ 32)])

/-- What the write of a completion leaves in its ring. -/
def Ring.completed (q : Ring) (now : Nat) (notify : Bool) : Ring :=
  let wrap := q.ctail + 1 = q.size
  let n := q.unconsumed
  let high := bits q.wm 31 16
  let cq := bit q.coal 30 && n < high && high ≤ n + 1
  { q with
    ctail := if wrap then 0 else q.ctail + 1
    phase := if wrap then !q.phase else q.phase
    owed := q.owed + 1
    oldest := if q.owed = 0 then now else q.oldest
    cqHigh := q.cqHigh || cq
    urgent := q.urgent || (q.intEn && (notify || cq)) }

/-- A TABLE_CREATE completes with OK: the table exists (R68). -/
def tableExists (t : Nat) (s : State) : State := match tableAt t s with
  | some d => s.updTbl fun x => { x with tables := tabInsert x.tables t { d with life := .exists_ } }
  | none => s

/-- The table descriptor of a number written or removed, with its copy in DRAM (R233). -/
def setTable (t : Nat) (d : Option TableDesc) (s : State) : State :=
  s.updTbl fun x => { x with
    tables := match d with
      | some d => tabInsert x.tables t d
      | none => tabErase x.tables t
    tblDram := match d with
      | some d => tabInsert x.tblDram t d
      | none => tabErase x.tblDram t }

/-- What a written, or dropped, completion does beside the ring: a TABLE_CREATE's table exists from then on, and a
TABLE_DESTROY's no longer (R68, R71). -/
def completionEffects (c : Cmd) (status : Nat) (s : State) : State :=
  let s := dropCmd c.id s
  if status ≠ 0 then s
  else if opOf c.hdr = 1 then tableExists (tableOf c.hdr) s
  else if opOf c.hdr = 2 then setTable (tableOf c.hdr) none s
  else s

/-- A completion entry is written: word 1, then word 0 (R143). -/
def writeCompletion (c : Cmd) (status index detail value : Nat) (s : State) : State :=
  let q := ringAt c.ring s
  let (w0, w1) := completionWords q c status index detail value
  let a := q.cqb + BitVec.ofNat 64 (16 * q.ctail)
  let s := hostSend (.write q.func a [w0]) (hostSend (.write q.func (a + 8) [w1]) s)
  let s := updRing c.ring (fun q => q.completed s.clk.now (notifyBit c.hdr)) s
  completionEffects c status (cntWrap (Reg.updCnt status) 1 s)

/-- A completion of a worker's relay ring returns to the manager in a RELAY frame (R228). -/
def relayCompletion (c : Cmd) (status index detail value : Nat) (s : State) : State :=
  let (w0, w1) := completionWords (ringAt c.ring s) c status index detail value
  let s := coutSend (ctlFrame 0xc 0 c.mark 0 [w0, w1] s) s
  completionEffects c status (cntWrap (Reg.updCnt status) 1 s)

/-- One due completion written if its ring lets it: room, and a function that may send (R145, R261). -/
def flushOne (n : Nat) (s : State) : State := match cmdAt n s with
  | none => s
  | some c => match c.stage with
    | .done st ix de va =>
      let q := ringAt c.ring s
      if q.quiet then completionEffects c st s
      else if isWorker s && c.ring == relayRing then relayCompletion c st ix de va s
      else if mayRequest q.func s && q.room then writeCompletion c st ix de va s
      else s
    | _ => s

/-- Due completions written, in order. -/
def flushDue (s : State) : State := s.upd.due.foldl (fun s n => flushOne n s) s

/-- A command is complete. -/
def finish (n status index detail value : Nat) (s : State) : State :=
  (updCmd n (fun c => { c with stage := .done status index detail value }) s).updUpd fun u =>
    { u with due := u.due ++ [n] }

/-! Parsing (R152 to R155). -/

/-- Every table of a domain that exists is granted to a function, and there is one (R270). -/
def domainGranted (f d : Nat) (s : State) : Bool :=
  let ts := s.tbl.tables.filter fun t => decide (t.2.life ≠ .created) && t.2.domain == d
  !ts.isEmpty && ts.all fun t => flagGet (Reg.prtTgrant (4 * f + t.1 / 32)) (t.1 % 32) s

/-- Step 2 of R155: DETAIL of a DENIED completion, 0 if the command passes (R269, R270). -/
def deniedDetail (q : Ring) (h : W64) (s : State) : Nat :=
  let o := opOf h
  let f := q.func
  let right := match rightBit o with
    | none => true
    | some b => q.rights.testBit b && (f == 0 || flagGet (Reg.prtFnRights f) b s)
  let grant := f == 0 ||
    (if opNamesTable o then flagGet (Reg.prtTgrant (4 * f + tableOf h / 32)) (tableOf h % 32) s
     else if opEpoch o then domainGranted f (domOf h) s else true)
  if !right then 1 else if !grant then 2 else 0

/-- The slots of an entry of a width (Table 6.6): 1, 2, 2 or 4. -/
def widthSlots (w : Nat) : Nat := match w with
  | 0 => 1
  | 3 => 4
  | _ => 2

/-- SLOTS as Table 6.6 gives it for a command. -/
def slotsDue (h : W64) (s : State) : Nat :=
  let o := opOf h
  if o = 1 then 2
  else if opUpdate o || (o == 0x14 && !optBit h 51) then widthSlots (match tableAt (tableOf h) s with
    | some t => t.width
    | none => 0)
  else 1

/-- The words of a TABLE_CREATE that hold a failing field (Table 3.2, order 1; R53, R79). A condition that relates two fields
fails at the later one (R155). Of a set of four words, a condition on single pans names the word of the pan: for more than 64
pans the 65th, for a lone pan of a pair or a twin in the same hob that pan; a condition on the whole set names its first word:
an empty PANSET, a set whose size takes its region past the end, a MIRSET of another size or with a shared bank group
(DESIGN CHOICE, log entry 67). -/
def createFaults (c : Cmd) : List Nat :=
  let when (b : Bool) (w : Nat) : List Nat := if b then [w] else []
  let w1 := c.word 1
  let width := bits w1 63 62
  let guarded := bit w1 58
  let rsize := bits w1 57 56
  let stride := bits w1 55 54
  let allow := bits w1 53 49
  let nbits := bits w1 48 45
  let base := bits w1 43 22
  let mbase := bits w1 21 0
  let pos (k : Nat) : Nat := if k < 6 then bits (c.word 2) (59 - 10 * k) (50 - 10 * k)
    else bits (c.word 3) (59 - 10 * (k - 6)) (50 - 10 * (k - 6))
  let posBad (k : Nat) : Bool := k < nbits && (8 * widthBytes width ≤ pos k || (List.range k).any fun j => pos j == pos k)
  let set (b : Nat) : Nat := (c.word b).toNat + (c.word (b + 1)).toNat * 2 ^ 64 + (c.word (b + 2)).toNat * 2 ^ 128 +
    (c.word (b + 3)).toNat * 2 ^ 192
  let pan : BitVec 256 := BitVec.ofNat 256 (set 4)
  let mir : BitVec 256 := BitVec.ofNat 256 (set 8)
  let ps := panList pan
  let ms := panList mir
  let units (n : Nat) : Nat := (if width = 3 then n / 2 else n) * (16384 / panSlices width) * 2 ^ stride
  let lone (xs : List Nat) : List Nat :=
    if width = 3 then xs.filter fun p => !xs.contains (if p % 2 = 0 then p + 1 else p - 1) else []
  let twins := ((ps.zip ms).filter fun x => x.1 / 16 == x.2 / 16).map (·.2)
  when (rsize == 3 || stride < rsize || allow == 0 || 24 < allow || (guarded && 12 < allow) || (width == 3 && allow == 1) ||
    10 < nbits || base % 2 ^ stride != 0 || mbase % 2 ^ stride != 0 || (!guarded && mbase != 0)) 1 ++
  ((List.range 10).filter posBad).map (fun k => if k < 6 then 2 else 3) ++
  when (ps.isEmpty || 4194304 < base + units ps.length) 4 ++
  (ps.drop 64 ++ lone ps).map (4 + · / 64) ++
  when (guarded && (ms.length != ps.length || 4194304 < mbase + units ms.length ||
    regionGroups base (units ps.length) &&& regionGroups mbase (units ms.length) != 0)) 8 ++
  (if guarded then ms.filter ps.contains ++ lone ms ++ twins else ms).map (8 + · / 64)

/-- The first of them. -/
def createFault (c : Cmd) : Option Nat := (createFaults c).min?

/-- Step 4 of R155: the word of the first failing field, none if every field passes. -/
def malformedWord (c : Cmd) (s : State) : Option Nat :=
  let h := c.hdr
  let o := opOf h
  if slotsTaken h ≠ slotsDue h s then some 0
  else match o with
    | 0x01 => createFault c
    | 0x14 => if bits (c.word 2) 5 0 ≠ 0 then some 2 else none
    | 0x23 => if 1000000000 ≤ bits (c.word 2) 63 32 then some 2 else none
    | 0x31 => if bits (c.word 1) 5 0 ≠ 0 then some 1 else if bits (c.word 2) 31 0 = 0 then some 2 else none
    | 0x40 =>
      let len := bits (c.word 1) 44 32
      if len = 0 ∨ 4096 < len ∨ bits (c.word 1) 31 0 % 4096 ≠ 0 then some 1
      else if bits (c.word 2) 5 0 ≠ 0 then some 2 else none
    | _ => none

/-- Steps 1 to 4 of R155: status and DETAIL of the first failing check, none if the command passes. -/
def parseCheck (c : Cmd) (s : State) : Option (Nat × Nat) :=
  let h := c.hdr
  let o := opOf h
  if !opDefined o || slotsField h == 3 then some (9, 0)
  else
    let d := deniedDetail (ringAt c.ring s) h s
    if d ≠ 0 then some (8, d)
    else if opNamesTable o && o != 1 && (tableLive (tableOf h) s).isNone then some (5, 0)
    else (malformedWord c s).map fun w => (9, w)

/-- The domain of a command's table. -/
def cmdDomain (c : Cmd) (s : State) : Nat := match tableAt (tableOf c.hdr) s with
  | some t => t.domain
  | none => 0

/-- A command is parsed: checked, then completed, held (R162) or ready. An immediate command that finds others of its domain held
is held behind them. A command of a manager's relaying ring is sent
to the worker instead (R228); a command of a ring in STOP completes ABORTED (R147). -/
def parseCmd (c : Cmd) (s : State) : State :=
  let q := ringAt c.ring s
  if q.st = 2 then finish c.id 0xa 0 0 0 s
  else match relayWorker c.ring s with
    | some k =>
      ctlSend 0xc k (2 ^ 31) (c.words.take (8 * c.slots))
        (updCmd c.id (fun c => { c with stage := .relayed, mark := s.cas.cseq }) s)
    | none =>
      let s := (updCmd c.id (fun c => { c with seq := s.upd.parses }) s).updUpd fun u => { u with parses := u.parses + 1 }
      match parseCheck c s with
      | some (st, de) => finish c.id st 0 de 0 s
      | none =>
        let h := c.hdr
        let d := domAt (cmdDomain c s) s
        let behind := s.upd.cmds.any fun e => decide (e.stage = .held) && cmdDomain e s == cmdDomain c s
        let wait := opUpdate (opOf h) && !batchBit h && decide (d.st = .idle) && (d.recon || behind)
        updCmd c.id (fun c => { c with stage := if wait then .held else .ready, accepted := wait }) s

/-- The first command whose words are there and that may be parsed: every earlier command of its ring is parsed, none of
them is a barrier, and none is left if it is a barrier itself (R152). -/
def nextParse (s : State) : Option Cmd :=
  s.upd.cmds.find? fun c => decide (c.stage = .arrived) &&
    s.upd.cmds.all fun e => e.ring != c.ring || c.id ≤ e.id ||
      (!e.unparsed && !e.barrier && !c.barrier)

/-- Completions written and commands parsed until neither can go on. `fuel` bounds the parsings. -/
def settleN : Nat → State → State
  | 0, s => flushDue s
  | n + 1, s =>
    let s := flushDue s
    match nextParse s with
    | some c => settleN n (parseCmd c s)
    | none => s

def settle (s : State) : State := settleN s.upd.cmds.length s

/-- A command completes, and what waited for it goes on. -/
def complete (n status index detail value : Nat) (s : State) : State := settle (finish n status index detail value s)

/-! Doorbells (R144, R145, R266, R345). -/

/-- One doorbell write of 32 bits at a BAR2 offset. -/
def doorbell (fn : Fin 64) (off : Nat) (v : Word) (poisoned : Bool) (s : State) : State :=
  let r := off / 4
  let q := ringAt r s
  let kind := bits v 31 30
  let val := bits v 15 0
  let no (c : Nat) (s : State) : State := refuse c (.pcie fn) 1 true off v.toNat s
  if q.func ≠ fn.val then no 9 s
  else if q.st = 0 ∨ q.st = 2 then no 9 s
  else if poisoned then refusePoison (.pcie fn) 1 off v.toNat s
  else if 2 ≤ kind ∨ q.size ≤ val then ringFault r 1 (no 9 s)
  else if kind = 0 then
    if (val + q.size - q.head) % q.size < q.unfetched then ringFault r 1 (no 9 s)
    else updRing r (fun q => { q with tail := val, marks := if q.st = 1 then q.marks ++ [(val, s.clk.now)] else q.marks }) s
  else if q.unconsumed < (q.ctail + q.size - val) % q.size then ringFault r 1 (no 9 s)
  else settle (updRing r (fun q => { q with chead := val, since := if q.room then q.since else s.clk.now }) s)

/-- A write to BAR2 or VF BAR2 of a size in bytes, with all byte enables set or not (R266). While the device sleeps it also wakes it
(R345). One that no function answers, or that the link does not carry, changes nothing. -/
def doorbellWrite (fn : Fin 64) (off size : Nat) (full : Bool) (v : W64) (poisoned : Bool) (s : State) : State :=
  let lo := BitVec.ofNat 32 v.toNat
  if xingDead 53 s || !linkUp s || !fnEnabled fn.val s || 65536 ≤ off || size == 0 then s
  else
    let s := if s.pwr.entering.isSome || 2 ≤ powerState s then wakeEvent 5 s else s
    if full && size == 4 && off % 4 == 0 then doorbell fn off lo poisoned s
    else if full && size == 8 && off % 8 == 0 then
      doorbell fn (off + 4) (BitVec.ofNat 32 (v.toNat >>> 32)) poisoned (doorbell fn off lo poisoned s)
    else refuse 6 (.pcie fn) 1 true off v.toNat s

/-- A submission-tail doorbell (R145). -/
def execDoorbellSqTail (fn : Fin 64) (off size : Nat) (full : Bool) (v : W64) (poisoned : Bool) (s : State) :
    Host.Outcome State Fault Refusal :=
  .next (doorbellWrite fn off size full v poisoned s)

/-- A completion-head doorbell (R145). -/
def execDoorbellCqHead (fn : Fin 64) (off size : Nat) (full : Bool) (v : W64) (poisoned : Bool) (s : State) :
    Host.Outcome State Fault Refusal :=
  .next (doorbellWrite fn off size full v poisoned s)

/-! The ring window (R146, R147, R177, R269, R273). -/

/-- The selected ring of a party's window. -/
def selRing (src : Party) (s : State) : Nat := bits (winGet src Reg.updRingSel s) 13 0

/-- UPD_RING_STAT, PTR and DB of a ring (Tables 6.21 and 6.22). -/
def ringStatWord (q : Ring) : Word :=
  pack32 [(30, q.st), (27, q.fault), (2, b2n q.flt), (1, b2n q.cqHigh), (0, b2n q.sqLow)]

def ringPtrWord (q : Ring) : Word := pack32 [(16, q.ctail), (0, q.head)]

def ringDbWord (q : Ring) : Word := pack32 [(16, q.chead), (0, q.tail)]

/-- The selected ring's context latched into the window (R177). -/
def latchRing (src : Party) (r : Nat) (s : State) : State :=
  let q := ringAt r s
  [(Reg.updRingSqbLo, BitVec.ofNat 32 q.sqb.toNat), (Reg.updRingSqbHi, BitVec.ofNat 32 (q.sqb.toNat >>> 32)),
   (Reg.updRingCqbLo, BitVec.ofNat 32 q.cqb.toNat), (Reg.updRingCqbHi, BitVec.ofNat 32 (q.cqb.toNat >>> 32)),
   (Reg.updRingCfg, q.cfg), (Reg.updRingWm, q.wm), (Reg.updRingCoal, q.coal), (Reg.updRingStat, ringStatWord q),
   (Reg.updRingPtr, ringPtrWord q), (Reg.updRingDb, ringDbWord q)].foldl (fun s rv => winPut src rv.1 rv.2 s) s

/-- A write to UPD_RING_SEL. -/
def wrRingSel (src : Party) (v : Word) (s : State) : State :=
  latchRing src (bits v 13 0) (winPut src Reg.updRingSel (BitVec.ofNat 32 (bits v 13 0)) s)

/-- Two window registers as an address. -/
def winAddr (src : Party) (lo hi : Nat) (s : State) : W64 :=
  BitVec.ofNat 64 ((winGet src lo s).toNat + (winGet src hi s).toNat * 4294967296)

/-- The staging copy written into a ring's context. -/
def stagedRing (src : Party) (q : Ring) (s : State) : Ring :=
  { q with
    sqb := winAddr src Reg.updRingSqbLo Reg.updRingSqbHi s
    cqb := winAddr src Reg.updRingCqbLo Reg.updRingCqbHi s
    cfg := winGet src Reg.updRingCfg s
    wm := winGet src Reg.updRingWm s
    coal := winGet src Reg.updRingCoal s }

/-- The staging copy gives a ring a right or a vector its function may not have (R269, R273). -/
def stagedForbidden (n : Ring) (s : State) : Bool :=
  let f := n.func
  (f != 0 && (List.range 4).any fun b => n.rights.testBit b && !flagGet (Reg.prtFnRights f) b s) ||
  (n.intEn && vecOwner n.vector s != f)

/-- Row writes of the restoring of a domain's batch (R182). -/
def discardRows (d : Nat) (s : State) : Nat := (s.arr.mreqs.filter fun q => decide (q.tag = .discard d)).length

/-- A command in flight has not begun to change state (R147): it waits, or runs and has written nothing yet. Such are a FENCE, a
commit that waits for the workers (R223), a TABLE_DESTROY that waits for earlier commands, a discard none of whose slots is
restored, and a command whose plan has not written. -/
def Cmd.unbegun (c : Cmd) (s : State) : Bool := match c.stage with
  | .arrived | .held | .ready => true
  | .running =>
    let o := opOf c.hdr
    o == 0x30 || (opEpoch o && s.cas.commit.any (·.cmd == c.id)) || (o == 2 && c.count == 0) ||
      (o == 0x21 && discardRows (domOf c.hdr) s == c.mark) || s.upd.plans.any fun p => p.cmd == some c.id && !p.begun
  | _ => false

/-- What a command that has not begun holds is given up: its plan and row writes, the mark of a table being destroyed, a discard,
and the PREPARE of a commit, which the workers drop on DECIDE with GO = 0 (log entry 70). -/
def giveUp (c : Cmd) (s : State) : State :=
  let o := opOf c.hdr
  let ps := (s.upd.plans.filter fun p => p.cmd == some c.id).map (·.no)
  let s := (s.updUpd fun u => { u with plans := u.plans.filter fun p => p.cmd != some c.id }).updArr fun a => { a with
    mreqs := a.mreqs.filter fun q => !(ps.any fun n => decide (q.tag = .plan n)) &&
      !(o == 0x21 && decide (c.stage = .running) && decide (q.tag = .discard (domOf c.hdr))) }
  if c.stage ≠ .running then s
  else if o = 2 then match tableAt (tableOf c.hdr) s with
    | some d => s.updTbl fun x => { x with tables := tabInsert x.tables (tableOf c.hdr) { d with life := .exists_ } }
    | none => s
  else if o = 0x21 then updDom (domOf c.hdr) (fun m => { m with discarding := false }) s
  else match s.cas.commit with
    | some x => if x.cmd = c.id then ctlSend 6 31 (x.dom * 2 ^ 29) [] (s.updCas fun y => { y with commit := none }) else s
    | none => s

/-- The commands of a ring that have not begun complete ABORTED on entry to STOP (R147). -/
def abortReady (r : Nat) (s : State) : State :=
  (s.upd.cmds.filter fun c => c.ring == r && c.unbegun s).foldl (fun s c => finish c.id 0xa 0 0 0 (giveUp c s)) s

/-- A ring leaves RUN or FAULT for STOP. -/
def stopRing (r : Nat) (s : State) : State :=
  let st := (ringAt r s).st
  if st = 1 ∨ st = 3 then settle (abortReady r (updRing r (fun q => { q with st := 2 }) s)) else s

/-- A write to UPD_RING_CTL of the selected ring. A refused APPLY or START refuses the write whole. -/
def wrRingCtl (src : Party) (v : Word) (s : State) : State :=
  let r := selRing src s
  let q := ringAt r s
  let n := stagedRing src q s
  let apply := bit v 2 || bit v 0
  if apply && stagedForbidden n s then refuseReg 3 src Reg.updRingCtl v s
  else if bit v 0 && (q.st != 0 || !fnEnabled n.func s) then refuseReg 4 src Reg.updRingCtl v s
  else if apply && q.st != 0 && (n.sqb != q.sqb || n.cqb != q.cqb || bits n.cfg 3 0 != bits q.cfg 3 0 || n.func != q.func) then
    refuseReg 4 src Reg.updRingCtl v s
  else
    let s := if apply then updRing r (fun _ => n) s else s
    let s := if bit v 1 then stopRing r s else s
    if bit v 0 then
      updRing r (fun q => { q with st := 1, fault := 0, head := 0, tail := 0, ctail := 0, chead := 0, phase := true,
                                   owed := 0, oldest := 0, urgent := false, since := s.clk.now, marks := []
                                   quiet := false }) s
    else s

/-- A write of 1 to notice bits of UPD_RING_STAT clears them in the ring and in the window. -/
def wrRingStat (src : Party) (v : Word) (s : State) : State :=
  let r := selRing src s
  let s := updRing r (fun q => { q with flt := q.flt && !bit v 2, cqHigh := q.cqHigh && !bit v 1, sqLow := q.sqLow && !bit v 0 }) s
  winPut src Reg.updRingStat (winGet src Reg.updRingStat s &&& ~~~(v &&& 7)) s

/-! Scheduling and arrival (R149 to R151, R261). -/

/-- Slot counts of the commands of one turn: whole commands, up to 8 slots, wholly submitted, up to a number. -/
def turnSlots : List W64 → Nat → Nat → Nat → List W64
  | h :: hs, unf, room, cap + 1 =>
    let n := slotsTaken h
    if n ≤ unf ∧ n ≤ room then h :: turnSlots hs (unf - n) (room - n) cap else []
  | _, _, _, _ => []

/-- A ring is eligible (R149, R261), given the headers that host memory holds from its head on. -/
def eligible (r : Nat) (heads : List W64) (s : State) : Bool :=
  let q := ringAt r s
  q.st == 1 && q.room && mayRequest q.func s && s.upd.cmds.length < 4096 && powerState s ≤ 1 &&
  (match heads with
   | h :: _ => decide (0 < q.unfetched) && decide (slotsTaken h ≤ q.unfetched)
   | [] => false) &&
  !s.upd.cmds.any fun c => c.ring == r && c.barrier

/-- The relay ring of a worker is eligible: it runs, a relayed command waits in it, and the device may take it (R149, R228). Its
completions leave in RELAY frames and need no room. -/
def relayEligible (s : State) : Bool :=
  isWorker s && (ringAt relayRing s).st == 1 && !s.cas.relayIn.isEmpty && s.upd.cmds.length < 4096 && powerState s ≤ 1 &&
  !s.upd.cmds.any fun c => c.ring == relayRing && c.barrier

/-- a is served before b: higher priority, then next after the ring last served at it (R149), but a worker's relay ring first of its
priority (R228). While no ring has been served at a priority, the order starts at ring 0 (DESIGN CHOICE, log entry 68: the rule
names only the ring last served). -/
def servedBefore (a b : Nat) (s : State) : Bool :=
  let pa := (ringAt a s).prio
  let pb := (ringAt b s).prio
  let relay (r : Nat) : Bool := isWorker s && r == relayRing
  let gap (r p : Nat) : Nat := match tabFind s.upd.lastServed p with
    | some l => (r + 16383 - l) % 16384
    | none => r
  pb < pa || (pa == pb && !relay b && (relay a || gap a pa < gap b pb))

/-- The rings that a decision may serve, with the headers of their commands: the host's, and a worker's relay ring. -/
def contenders (heads : List (Fin 16384 × List W64)) (s : State) : List (Nat × List W64) :=
  ((heads.map fun x => (x.1.val, x.2)).filter fun x => !(isWorker s && x.1 == relayRing) && eligible x.1 x.2 s) ++
    (if relayEligible s then [(relayRing, s.cas.relayIn.map fun x => x.2.headD 0)] else [])

/-- The ring that a decision serves. -/
def pickRing (heads : List (Fin 16384 × List W64)) (s : State) : Option (Nat × List W64) :=
  (contenders heads s).foldl (fun a x => match a with
    | none => some x
    | some b => if servedBefore x.1 b.1 s then some x else some b) none

/-- The relay ring is served: its commands enter flight with the words that their RELAY frames brought, up to 8 slots of whole
commands (R149, R228). -/
def serveRelay (n : Nat) (s : State) : State :=
  let s := (s.cas.relayIn.take n).foldl (fun s x =>
    let q := ringAt relayRing s
    let c : Cmd := { id := s.upd.nextId, ring := relayRing, pos := q.head, slots := x.2.length / 8,
                     barrier := opBarrier (opOf (x.2.headD 0)), words := x.2, reads := [], seq := 0, stage := .arrived,
                     accepted := false, mark := x.1, count := 0 }
    (updRing relayRing (fun q => { q with head := (q.head + c.slots) % q.size }) s).updUpd fun u => { u with
      cmds := u.cmds ++ [c], nextId := u.nextId + 1 }) s
  let s := fieldPut Reg.updInflight 28 16 (max (fieldGet Reg.updInflight 28 16 s) s.upd.cmds.length) s
  let s := updRing relayRing (fun q => { q with since := s.clk.now }) s
  settle ((s.updCas fun c => { c with relayIn := c.relayIn.drop n }).updUpd fun u => { u with
    lastServed := tabInsert u.lastServed (ringAt relayRing s).prio relayRing })

/-- The reads of a turn that bring a command, each of at most k slots (R258): the first ones end where the ring does, and the others
go on at slot 0. -/
def turnReads (turn first k at_ n : Nat) : List Nat :=
  let meets (lo hi i : Nat) : Bool := lo < hi && k * i < hi && lo < k * i + k
  ((List.range 8).filter (meets at_ (min first (at_ + n)))).map (16 * turn + ·) ++
    ((List.range 8).filter (meets (at_ - first) (at_ + n - first))).map (16 * turn + 8 + ·)

/-- The commands of a turn enter flight: the turn is numbered by its first command, and its reads up to the end of the ring cover
`first` slots of which `at_` are taken. -/
def fetchCmds (r size turn first k : Nat) : List W64 → Nat → Nat → State → State
  | [], _, _, s => s
  | h :: hs, at_, pos, s =>
    let n := slotsTaken h
    let c : Cmd := { id := s.upd.nextId, ring := r, pos := pos, slots := n, barrier := opBarrier (opOf h), words := [],
                     reads := turnReads turn first k at_ n, seq := 0, stage := .fetched, accepted := false, mark := 0, count := 0 }
    fetchCmds r size turn first k hs (at_ + n) ((pos + n) % size)
      (s.updUpd fun u => { u with cmds := u.cmds ++ [c], nextId := u.nextId + 1 })

/-- The command waits for the data of its FW_BLOCK. -/
def Cmd.fwReading (c : Cmd) : Bool := c.isReady && opOf c.hdr == 0x40 && !c.reads.isEmpty

/-- Device reads outstanding, of descriptors and of FW_BLOCK data; the device has at most 512 (R258). -/
def readsOut (s : State) : Nat :=
  ((s.upd.cmds.filter fun c => decide (c.stage = .fetched)).flatMap (·.reads)).eraseDups.length +
    ((s.upd.cmds.filter Cmd.fwReading).map (·.reads.length)).sum

/-- The instant from which a ring has been eligible: its conditions hold, the shared ones hold, and a doorbell has covered its
first command of n slots (R149, Table 6.25). -/
def eligibleAt (q : Ring) (n openAt : Nat) : Nat :=
  let cover := q.marks.find? fun m => n ≤ (m.1 + q.size - q.head) % q.size
  max (max q.since openAt) ((cover.map (·.2)).getD 0)

/-- One scheduling decision (R149): the ring served, its reads of up to 8 slots, one or two of them, and SQ_LOW (R174).
`heads` holds the headers of the commands that stand in host memory from each ring's submission head on. -/
def execIntentSchedule (heads : List (Fin 16384 × List W64)) (s : State) : Host.Outcome State Fault Refusal :=
  .next (match pickRing heads s with
    | none => s
    | some (r, hs) =>
      let q := ringAt r s
      let relay := isWorker s && r == relayRing
      let turn := turnSlots hs (if relay then 8 else q.unfetched) 8 (4096 - s.upd.cmds.length)
      let n := (turn.map slotsTaken).sum
      let first := min n (q.size - q.head)
      let id := s.upd.nextId
      let k := maxRead s / 64
      if relay then
        serveRelay turn.length (cntMax (Reg.updPrioWait q.prio) ((s.clk.now - max q.since s.upd.openAt) / 1000) s)
      else if 512 < readsOut s + (first + k - 1) / k + (n - first + k - 1) / k then s
      else
        let s := cntMax (Reg.updPrioWait q.prio)
          ((s.clk.now - eligibleAt q (slotsTaken (turn.headD 0)) s.upd.openAt) / 1000) s
        let s := fetchCmds r q.size id first k turn 0 q.head s
        let s := hostRead q.func (q.sqb + BitVec.ofNat 64 (64 * q.head)) (64 * first) id s
        let s := hostRead q.func q.sqb (64 * (n - first)) id s
        let s := fieldPut Reg.updInflight 28 16 (max (fieldGet Reg.updInflight 28 16 s) s.upd.cmds.length) s
        let low := bit q.coal 31 && bits q.wm 15 0 < q.unfetched && q.unfetched - n ≤ bits q.wm 15 0
        let s := updRing r (fun q => { q with head := (q.head + n) % q.size, since := s.clk.now
                                              marks := q.marks.filter fun m => n < (m.1 + q.size - q.head) % q.size
                                              sqLow := q.sqLow || low, urgent := q.urgent || (q.intEn && low) }) s
        s.updUpd fun u => { u with lastServed := tabInsert u.lastServed q.prio r })

/-- A descriptor read ends with an error, or with poisoned data: the ring enters FAULT with code 2 (R261). What becomes of the
command the spec leaves open: it was never parsed, and leaves flight without a completion (DESIGN CHOICE, log entry 69). -/
def readFailed (c : Cmd) (s : State) : State := settle (dropCmd c.id (ringFault c.ring 2 s))

/-- The words of a command arrive, and it is parsed as soon as R152 allows. It acts as the words that the read returned describe,
whatever the slots held when the turn was scheduled (R145). -/
def execDescriptorArrive (n : Nat) (data : Option (List W64)) (s : State) : Host.Outcome State Fault Refusal :=
  .next (match cmdAt n s with
    | none => s
    | some c =>
      if c.stage ≠ .fetched then s
      else match data with
        | none => readFailed c s
        | some ws => settle (updCmd n (fun c => { c with words := ws, stage := .arrived, reads := []
                                                         barrier := opBarrier (opOf (ws.getD 0 0)) }) s))

/-- Every completion of a stopping ring has been written. -/
def ringIdle (r : Nat) (s : State) : Bool := s.upd.cmds.all fun c => c.ring != r

/-- A ring sends its MSI-X (R175). -/
def execRingInterrupt (r : Fin 16384) (s : State) : Host.Outcome State Fault Refusal :=
  .next (if !awake s then s
  else
    let q := ringAt r.val s
    let cnt := max 1 (bits q.coal 15 8)
    let time := max 1 (bits q.coal 7 0)
    if q.intEn && (q.urgent || (0 < q.owed && (cnt ≤ q.owed || q.oldest + 1000 * time ≤ s.clk.now))) then
      raiseVec q.vector (updRing r.val (fun q => { q with owed := 0, oldest := 0, urgent := false }) s)
    else s)

/-- The host refuses a completion or result write (Table 6.4, code 3). -/
def execCompletionWriteRefused (r : Fin 16384) (s : State) : Host.Outcome State Fault Refusal :=
  .next (ringFault r.val 3 s)

/-- Once reconciliation has ended, held immediate commands of the domain's tables proceed, in parse order (R162). -/
def execHeldCommandRelease (d : Fin 8) (s : State) : Host.Outcome State Fault Refusal :=
  .next (if (domAt d.val s).recon then s
    else s.updUpd fun u => { u with cmds := u.cmds.map fun c =>
      if c.stage = .held ∧ cmdDomain c s = d.val then { c with stage := .ready } else c })

end Sys2Proof.Machine
end

