-- ==== Sys2Proof/Machine/Spatula.lean ====
section
/-! DEFINITION. The Spatula: the entry directory, pan choice, placement, plans of row writes, moves, holds and the tidying
of the Sieve (R27 to R29, R46, R55, R58, R61, R66, R161 to R168, R181). -/

namespace Sys2Proof.Machine

open Sys2Proof

/-! Epochs as the Spatula sees them. -/

/-- The E bit of an entry for an epoch: E0 for an even one (R178). -/
def Entry.live (e : Entry) (n : Nat) : Bool := if n % 2 = 0 then e.e0 else e.e1

/-- The entry with the E bit of an epoch written. -/
def Entry.setLive (e : Entry) (n : Nat) (b : Bool) : Entry := if n % 2 = 0 then { e with e0 := b } else { e with e1 := b }

/-- The entry live in every epoch. -/
def Entry.both (e : Entry) : Entry := { e with e0 := true, e1 := true }

/-- An index recorded once in a journal. -/
def journalAdd (idx t : Nat) (j : List (Nat × Nat)) : List (Nat × Nat) :=
  if j.contains (idx, t) then j else j ++ [(idx, t)]

/-- A moved slot replaced in a journal (R166, R181). -/
def journalMove (src dst t : Nat) (j : List (Nat × Nat)) : List (Nat × Nat) :=
  j.map fun x => if x = (src, t) then (dst, t) else x

/-- Slots of a journal (EPC_BATCH). -/
def journalSlots (j : List (Nat × Nat)) (s : State) : Nat :=
  (j.map fun x => match tableAt x.2 s with
    | some d => (entrySlots d.width x.1).length * (if d.guarded then 2 else 1)
    | none => 0).sum

/-! The entry directory. -/

/-- The entry whose first primary slot is at an index. -/
def dirAt (idx : Nat) (s : State) : Option Entry := tabFind s.arr.dir idx

/-- The directory written at an index. -/
def dirPut (idx : Nat) (e : Option Entry) (s : State) : State :=
  s.updArr fun a => { a with dir := match e with
    | some e => tabInsert a.dir idx e
    | none => tabErase a.dir idx }

/-- The pan, or the first pan of the pan pair, of an index. -/
def panOf (width idx : Nat) : Nat := let p := idx / 16384; if width = 3 then p / 2 * 2 else p

/-- Positions of a pan or pan pair (R165). -/
def panSize (width : Nat) : Nat := 16384 / panSlices width

/-- Entries of a table in a pan: index and entry, ascending. -/
def panEntries (t pan : Nat) (s : State) : List (Nat × Entry) :=
  s.arr.dir.filter fun x => x.1 / 16384 == pan && x.2.table == t

/-- Entries of a table. -/
def tableEntries (t : Nat) (s : State) : List (Nat × Entry) := s.arr.dir.filter fun x => x.2.table == t

/-- Same identity: masked key and mask (R161). -/
def Entry.same (e : Entry) (key mask : BitVec 640) : Bool := e.mask == mask && (e.key &&& e.mask) == (key &&& mask)

/-- The entry of an identity that is live in an epoch. -/
def findLive (t : Nat) (key mask : BitVec 640) (n : Nat) (s : State) : Option (Nat × Entry) :=
  (tableEntries t s).find? fun x => x.2.same key mask && x.2.live n

/-- The slots at an index are in a hold of R29. -/
def inHold (idx : Nat) (s : State) : Bool := s.arr.holds.any fun h => h.kept && h.idx == idx

/-- The copies of an entry: the primary index, and the mirror index of a guarded table (R79). -/
def copies (d : TableDesc) (idx : Nat) : List Nat := idx :: (if d.guarded then [twinIndex d idx true] else [])

/-! Sieve bookkeeping (R55, R58, R168). -/

/-- A mask as the entry directory holds it. -/
def dirMask (t b : Nat) (s : State) : Nat := (tabGet 0 s.tbl.maskDir (maskKey t b)).toNat

/-- Ones in the low 64 bits. -/
def popcount (w : Nat) : Nat := ((List.range 64).filter fun i => w.testBit i).length

/-- The bucket an entry falls in; 1,024 for a broad entry. -/
def bucketKey (d : TableDesc) (key mask : BitVec 640) : Nat := if isBroad d mask then 1024 else bucketOf d key

/-- The mask bits of a pan or pan pair. -/
def panBits (d : TableDesc) (pan : Nat) : Nat :=
  let j := panOrd d.panset pan
  if d.width = 3 then 3 <<< j else 1 <<< j

/-- Activation cost of a pan: 2 for a pan pair (R164). -/
def panCost (d : TableDesc) : Nat := if d.width = 3 then 2 else 1

/-- The bits that new slots of plans will set in a bucket's mask. -/
def plannedBits (d : TableDesc) (t b : Nat) (s : State) : Nat :=
  ((s.upd.plans.filter fun p => p.table == t).flatMap fun p => p.steps.map fun st => match st with
    | .put idx e => if bucketKey d e.key e.mask = b then panBits d (panOf d.width idx) else 0
    | _ => 0).foldl (· ||| ·) 0

/-- A mask with the bits that plans under way will set, so that two plans together keep within ACT_ALLOW (R61). -/
def heldMask (d : TableDesc) (t b : Nat) (s : State) : Nat := dirMask t b s ||| plannedBits d t b s

/-- The activation count of a bucket (R61). -/
def bucketCount (d : TableDesc) (t b : Nat) (s : State) : Nat := popcount (heldMask d t b s ||| heldMask d t 1024 s)

/-- A mask names all the bits of a pan. -/
def named (m bits_ : Nat) : Bool := m &&& bits_ == bits_

/-- HOB_LMAP_p.BROAD written for a pan or pan pair. -/
def setPanBroad (d : TableDesc) (pan : Nat) (b : Bool) (s : State) : State :=
  let s := flagPut (Reg.hobLmap pan) 13 b s
  if d.width = 3 then flagPut (Reg.hobLmap (pan + 1)) 13 b s else s

/-- The Sieve bit that covers an entry in a pan is set; answers whether a bit changed. -/
def nameEntry (d : TableDesc) (t pan : Nat) (key mask : BitVec 640) (s : State) : State × Bool :=
  let k := bucketKey d key mask
  let pb := panBits d pan
  let m := dirMask t k s
  if named m pb || (k != 1024 && named (dirMask t 1024 s) pb) then (s, false)
  else
    let s := maskWrite t k (BitVec.ofNat 64 (m ||| pb)) s
    (if k = 1024 then setPanBroad d pan true s else s, true)

/-- Entries that a pan holds or is about to hold: those of the directory, and those of plans whose row is not written. -/
def panHolds (d : TableDesc) (t pan : Nat) (s : State) : List Entry :=
  (panEntries t pan s).map (·.2) ++ s.upd.plans.flatMap fun p =>
    if p.table = t then p.steps.filterMap fun st => match st with
      | .put idx e => if panOf d.width idx = pan then some e else none
      | _ => none
    else []

/-- A bucket bit that covers no live entry is cleared, and a broad pan without a broad entry made non-broad (R168). A pan left
broad is looked at again at every later end of a hold in it: R168 does not say when (DESIGN CHOICE, log entry 71). -/
def tidyBucket (d : TableDesc) (t pan k : Nat) (s : State) : State :=
  let pb := panBits d pan
  let es := panHolds d t pan s
  let clear (b : Nat) (s : State) : State :=
    maskWrite t b (BitVec.ofNat 64 (dirMask t b s ^^^ (dirMask t b s &&& pb))) s
  let ks := es.map fun e => bucketKey d e.key e.mask
  let s := if k < 1024 && !ks.contains k then clear k s else s
  if named (dirMask t 1024 s) pb && !ks.contains 1024 then
    let broad := dirMask t 1024 s ^^^ pb
    if ks.all fun b => popcount (heldMask d t b s ||| pb ||| broad ||| plannedBits d t 1024 s) ≤ d.actAllow then
      let s := ks.foldl (fun s b => maskWrite t b (BitVec.ofNat 64 (dirMask t b s ||| pb)) s) s
      setPanBroad d pan false (clear 1024 s)
    else s
  else s

/-! Pan choice and placement (R164, R165). -/

/-- Positions of a pan that hold no entry and are not in hold. -/
def freeCount (d : TableDesc) (t pan : Nat) (s : State) : Nat :=
  panSize d.width - (panEntries t pan s).length -
    (s.arr.holds.filter fun h => h.kept && h.idx / 16384 == pan).length

/-- A pan, either pan of a pair, or a mirror twin of them, is marked LOST. -/
def panGone (d : TableDesc) (pan : Nat) (s : State) : Bool :=
  let gone (p : Nat) : Bool := panLost p s || (d.guarded && panLost (twinIndex d (p * 16384) true / 16384) s)
  gone pan || (d.width == 3 && gone (pan + 1))

/-- The pans of a table as R164 takes them: a pan pair by its first pan. -/
def placePans (d : TableDesc) : List Nat :=
  if d.width = 3 then (panList d.panset).filter (· % 2 == 0) else panList d.panset

/-- The pan with the most free positions, the lowest on a tie. -/
def fullest (d : TableDesc) (t : Nat) (ps : List Nat) (s : State) : Option Nat :=
  ps.foldl (fun a p => match a with
    | none => some p
    | some q => if freeCount d t q s < freeCount d t p s then some p else some q) none

/-- choose_pan of R164: the pan, or the status FULL (1) or BUDGET (2). Pans of `skip` are not taken. -/
def choosePan (d : TableDesc) (t : Nat) (key mask : BitVec 640) (skip : List Nat) (s : State) : Except Nat Nat :=
  let all := (placePans d).filter fun p => !skip.contains p && !panGone d p s && 0 < freeCount d t p s
  let broad := heldMask d t 1024 s
  let k := bucketKey d key mask
  let cand :=
    if k < 1024 then
      let c := all.filter fun p => named (heldMask d t k s ||| broad) (panBits d p)
      if c.isEmpty && bucketCount d t k s + panCost d ≤ d.actAllow then all else c
    else
      let c := all.filter fun p => named broad (panBits d p)
      if c.isEmpty then all.filter fun p => (List.range (2 ^ d.nbits)).all fun x =>
        named (heldMask d t x s) (panBits d p) || bucketCount d t x s + panCost d ≤ d.actAllow
      else c
  if all.isEmpty then .error 1 else match fullest d t cand s with
    | some p => .ok p
    | none => .error 2

/-- Where an entry goes and the moves that make room, by position. -/
structure Placement where
  pos : Nat
  moves : List (Nat × Nat)
  deriving DecidableEq, Repr

/-- place of R165 over the occupied positions of a pan, with their ranks, ascending. -/
def placeIn (size : Nat) (occ : List (Nat × Nat)) (r : Nat) : Option Placement :=
  let isFree (q : Nat) : Bool := q < size && occ.all fun x => x.1 != q
  let lo := match (occ.filter fun x => x.2 < r).getLast? with
    | some x => x.1 + 1
    | none => 0
  let hi1 := match occ.find? fun x => r < x.2 with
    | some x => x.1
    | none => size
  let n := List.range (occ.length + 1)
  let sum := lo + hi1 - 1
  let low := sum / 2
  let high := (sum + 1) / 2
  let inside := if hi1 ≤ lo then none else n.findSome? fun k =>
    if lo + k ≤ low && isFree (low - k) then some (low - k)
    else if high + k < hi1 && isFree (high + k) then some (high + k)
    else none
  match inside with
  | some q => some ⟨q, []⟩
  | none =>
    let up := n.findSome? fun k => if isFree (hi1 + k) then some (hi1 + k) else none
    let down := n.findSome? fun k => if k < lo && isFree (lo - 1 - k) then some (lo - 1 - k) else none
    let upMoves (u : Nat) : Placement := ⟨hi1, (List.range (u - hi1)).map fun i => (u - 1 - i, u - i)⟩
    let downMoves (w : Nat) : Placement := ⟨lo - 1, (List.range (lo - 1 - w)).map fun i => (w + 1 + i, w + i)⟩
    match up, down with
    | some u, some w => some (if u - hi1 ≤ lo - 1 - w then upMoves u else downMoves w)
    | some u, none => some (upMoves u)
    | none, some w => some (downMoves w)
    | none, none => none

/-- place of R165 in a pan, in indices. -/
def placeAt (d : TableDesc) (t pan r : Nat) (s : State) : Option Placement :=
  let sl := panSlices d.width
  let at_ (q : Nat) : Nat := pan * 16384 + q * sl
  (placeIn (panSize d.width) ((panEntries t pan s).map fun x => (x.1 % 16384 / sl, x.2.rank)) r).map fun p =>
    ⟨at_ p.pos, p.moves.map fun m => (at_ m.1, at_ m.2)⟩

/-! Row writes, holds and the golden copy. -/

/-- The hob of an index. -/
def hobOf (idx : Nat) : Nat := idx / 262144

/-- Ranks of an entry's slots written: the entry's own in the word of its index, 0 in the others (R45). -/
def writeRanks (d : TableDesc) (idx r : Nat) (s : State) : State :=
  (entrySlots d.width idx).foldl (fun s i => writeRank i (if i = idx then rankWord r else 0) s) s

/-- Row writes of an entry queued in the hob of each copy (R28, R31). -/
def queueRows (d : TableDesc) (t idx : Nat) (e : Option Entry) (notBefore : Nat) (movedFrom movedTo : Option Nat) (kept : Bool)
    (bucket : Option Nat) (tag : MTag) (s : State) : State :=
  (copies d idx).foldl (fun s c =>
    let q : MReq := { hob := hobOf c, notBefore := max notBefore s.clk.pclk, idx := c, prim := idx, table := t, entry := e,
                      movedFrom := movedFrom, movedTo := movedTo.map fun m => if c = idx then m else twinIndex d m true,
                      kept := kept, bucket := if c = idx then bucket else none, tag := tag }
    s.updArr fun a => { a with mreqs := a.mreqs ++ [q] }) s

/-- The golden copy of a slot is to be written (R27). -/
def queueGold (idx t : Nat) (e : Option Entry) (plan : Option Nat) (s : State) : State :=
  s.updArr fun a => { a with golds := a.golds ++ [⟨idx, t, e, plan⟩] }

/-- The golden copy of an entry after the writes of it that are under way. -/
def goldEntry (idx : Nat) (s : State) : Option Entry := match s.arr.golds.reverse.find? fun g => g.idx == idx with
  | some g => g.entry
  | none => tabFind s.arr.gold idx

/-- INT_CAP.STRANDED follows the list of stranded entries (R248). -/
def showStranded (s : State) : State :=
  let n := s.arr.stranded.length
  fieldPut Reg.intCap 23 0 n (s.updArr fun a => { a with told := min a.told n })

/-- A slot whose hold is over is to take the free content (R39): R35 has the write that clears the last E bit carry the cells of
the golden copy, and the spec places the free content in no write (DESIGN CHOICE, log entry 64). -/
def queueFree (t idx prim : Nat) (s : State) : State :=
  s.updArr fun a => { a with mreqs := a.mreqs ++ [⟨hobOf idx, s.clk.pclk, idx, prim, t, none, none, none, false, none, .free⟩] }

/-- A slot made not live starts its hold (R29). -/
def startHold (h : Hold) (s : State) : State := s.updArr fun a => { a with holds := a.holds ++ [h] }

/-- The last write that made a row not live was in a cycle (R172). -/
def markDead (c : Nat) (s : State) : State := s.updUpd fun u => { u with lastDead := max u.lastDead c }

/-- The plan a maintenance write belongs to. -/
def MTag.planNo (t : MTag) : Option Nat := match t with
  | .plan n => some n
  | _ => none

def planAt (n : Nat) (s : State) : Option Plan := s.upd.plans.find? fun p => p.no == n

def updPlan (n : Nat) (f : Plan → Plan) (s : State) : State :=
  s.updUpd fun u => { u with plans := u.plans.map fun p => if p.no = n then f p else p }

def dropPlan (n : Nat) (s : State) : State := s.updUpd fun u => { u with plans := u.plans.filter (·.no != n) }

/-- The ring command whose plan a row write belongs to. -/
def reqCmd (q : MReq) (s : State) : Option Cmd :=
  ((q.tag.planNo.bind fun n => planAt n s).bind (·.cmd)).bind fun n => cmdAt n s

/-- What a row write in the primary copy does to the journals: a moved entry's slot is replaced in them (R166), and a slot that a
batch command writes other than by a move is recorded (R181). -/
def journalRow (d : TableDesc) (q : MReq) (s : State) : State := match q.movedFrom with
  | some src => updDom d.domain (fun m => { m with journal := journalMove src q.prim q.table m.journal
                                                   old := journalMove src q.prim q.table m.old }) s
  | none => match reqCmd q s with
    | some c => if batchBit c.hdr && q.movedTo.isNone then
        updDom d.domain (fun m => { m with journal := journalAdd q.prim q.table m.journal }) s
      else s
    | none => s

/-- Row writes of reconciliation, or of a discard, that wait on the old slot of a move go to the new one once the old slot is
cleared: there they write the E bits that they were to write. -/
def retarget (d : TableDesc) (src dst : Nat) (s : State) : State :=
  let both (q : MReq) : Option Entry := q.entry.bind fun _ => (dirAt dst s).map Entry.both
  s.updArr fun a => { a with mreqs := a.mreqs.map fun q =>
    if q.prim = src ∧ q.tag ≠ .free ∧ q.tag.planNo = none then
      let i := if q.idx = src then dst else twinIndex d dst true
      { q with hob := hobOf i, idx := i, prim := dst, entry := both q }
    else q }

/-- A queued row write happens in its M slot, in cycle c: every slice of one copy changes at once (R28). A write that clears the E
bits carries the data cells of the entry's golden copy, and the slot keeps its hold from then on (R29, R35); the golden copy holds
the entry without E bits until the free content is written. -/
def performRow (q : MReq) (c : Nat) (s : State) : State := match tableAt q.table s with
  | none => s
  | some d =>
    let dead := (goldEntry q.prim s).map fun e => { e with e0 := false, e1 := false }
    let primary := q.idx = q.prim
    if q.tag = .free then
      let s := writeRanks d q.idx 0 (writeEntrySlots d.width q.idx none s)
      if primary then queueGold q.prim q.table none none s else s
    else match q.entry with
      | some e =>
        let s := writeEntrySlots d.width q.idx (some e) s
        let s := if primary then
            journalRow d q (queueGold q.prim q.table (some e) q.tag.planNo (dirPut q.prim (some e) s))
          else s
        markDead c s
      | none =>
        let s := writeEntrySlots d.width q.idx dead s
        let s := if primary then
            let s := journalRow d q (queueGold q.prim q.table dead q.tag.planNo (dirPut q.prim none s))
            match q.movedTo with
            | some m => retarget d q.prim m s
            | none => s
          else s
        let s := if q.kept then s else queueFree q.table q.idx q.prim s
        markDead c (startHold ⟨c + 160, q.idx, q.table, q.kept, q.movedTo, q.bucket⟩ s)

/-! Plans. -/

/-- No hold and no queued row write stands at an index or at its mirror. -/
def slotClear (d : TableDesc) (idx : Nat) (s : State) : Bool :=
  (copies d idx).all fun c => !inHold c s && s.arr.mreqs.all fun q => q.idx != c

/-- A record written in every copy (R77, R79). -/
def putRecords (d : TableDesc) (idx : Nat) (r : List Word) (s : State) : State :=
  let s := recordWrite d idx false r s
  if d.guarded then recordWrite d (twinIndex d idx true) true r s else s

/-- Ranks written in every copy. -/
def putRanks (d : TableDesc) (idx r : Nat) (s : State) : State := (copies d idx).foldl (fun s c => writeRanks d c r s) s

/-- An entry's place in the directory changed without a row write: its record or its rank. -/
def putAttr (idx t : Nat) (f : Entry → Entry) (plan : Nat) (s : State) : State := match dirAt idx s with
  | some e => queueGold idx t (some (f e)) (some plan) (dirPut idx (some (f e)) s)
  | none => s

/-- What writes a record or a rank word at once may do so: the Pantry may be reached, and the searches that read it before are over
(R77, R296; log entry 38). -/
def canWrite (s : State) : Bool := inService s && searchesDone s.clk.pclk s

/-- The slot that an entry leaves for a new slot in another pan: the step after its `put` clears it (R166, R167, R247). -/
def leaving (idx : Nat) (rest : List PStep) : Option Nat := match rest with
  | .bits i none (some j) :: _ => if j = idx then some i else none
  | _ => none

/-- The first step of a plan begun: none if it waits; otherwise the state, and whether the step is over. -/
def beginStep (p : Plan) (st : PStep) (d : TableDesc) (s : State) : Option (State × Bool) := match st with
  | .move _ _ _ => none
  | .put idx e =>
    let src := leaving idx (p.steps.drop 1)
    if !slotClear d idx s || (src.any fun i => !slotClear d i s) || !canWrite s then none
    else
      let e := match src.bind fun i => dirAt i s with
        | some o => { e with e0 := o.e0, e1 := o.e1 }
        | none => e
      let s := putRanks d idx e.rank (putRecords d idx e.record s)
      let (s, fresh) := nameEntry d p.table (panOf d.width idx) e.key e.mask s
      some (queueRows d p.table idx (some e) (if fresh then s.clk.pclk + 112 else 0) src none true none (.plan p.no) s, false)
  | .bits idx e mv =>
    let old := dirAt idx s
    let bucket := old.map fun o => bucketKey d o.key o.mask
    let n := (domAt d.domain s).cnt
    let kept := match old with
      | some o => o.live n || mv.isSome
      | none => true
    some (queueRows d p.table idx e 0 none mv kept (if e.isNone then bucket else none) (.plan p.no) s, false)
  | .record idx r =>
    if canWrite s then
      some (putAttr idx p.table (fun e => { e with record := r }) p.no (putRecords d idx r s), true)
    else none
  | .rank idx r =>
    if canWrite s then
      some (putAttr idx p.table (fun e => { e with rank := r }) p.no (putRanks d idx r s), true)
    else none

/-- A plan whose steps are over ends when its golden-copy writes are done; its command completes with OK (R27). -/
def endPlan (p : Plan) (s : State) : State :=
  if s.arr.golds.any fun g => g.plan == some p.no then s
  else match p.cmd with
    | some c => complete c 0 p.idx 0 p.moves (dropPlan p.no s)
    | none => dropPlan p.no s

/-- A plan goes on as far as it can. `fuel` bounds its steps. -/
def advanceN : Nat → Nat → State → State
  | 0, _, s => s
  | k + 1, n, s => match planAt n s with
    | none => s
    | some p =>
      if p.queued then
        if s.arr.mreqs.any fun q => decide (q.tag = .plan n) then s
        else advanceN k n (updPlan n (fun p => { p with queued := false, steps := p.steps.drop 1 }) s)
      else match p.steps with
        | [] => endPlan p s
        | st :: _ => match tableAt p.table s with
          | none => s
          | some d => match beginStep p st d s with
            | none => s
            | some (s, ended) =>
              let wrote := match st with
                | .bits _ _ _ => p.begun
                | _ => true
              if ended then advanceN k n (updPlan n (fun p => { p with steps := p.steps.drop 1, begun := wrote }) s)
              else updPlan n (fun p => { p with queued := true, begun := wrote }) s

def advance (n : Nat) (s : State) : State := match planAt n s with
  | some p => advanceN (2 * p.steps.length + 2) n s
  | none => s

def advanceAll (s : State) : State := (s.upd.plans.map (·.no)).foldl (fun s n => advance n s) s

/-- A new plan, begun. -/
def startPlan (p : Plan) (s : State) : State :=
  advance p.no (s.updUpd fun u => { u with plans := u.plans ++ [p] })

/-- A pan is in use by a plan: a step of it, or a hold, stands in the pan. -/
def panBusy (d : TableDesc) (pan : Nat) (s : State) : Bool :=
  (s.upd.plans.any fun p => p.steps.any fun st => match st with
    | .move a _ _ => panOf d.width a == pan
    | .put a _ => panOf d.width a == pan
    | .bits a _ _ => panOf d.width a == pan
    | .record a _ => panOf d.width a == pan
    | .rank a _ => panOf d.width a == pan) ||
  s.arr.holds.any fun h => h.kept && panOf d.width h.idx == pan

/-! Moves (R166). -/

/-- A command that the Spatula serves waits, or one is at work (R169). -/
def intentWaits (s : State) : Bool :=
  (s.upd.plans.any fun p => p.cmd.isSome) ||
    s.upd.cmds.any fun c => c.isReady && (opUpdate (opOf c.hdr) || opOf c.hdr == 1 || opOf c.hdr == 2)

/-- The next move of a plan begins, once the slot it writes is out of its hold and no earlier move waits to merge activity: record
and rank are copied and the new slot's row writes queued with the old slot's E bits. The clearing of the old slot is the plan's
next step (R166). Rebalancing waits while an intent does (R169). -/
def execSpatulaMove (n : Nat) (s : State) : Host.Outcome State Fault Refusal :=
  .next (match planAt n s with
    | none => s
    | some p => match p.steps, tableAt p.table s with
      | .move src dst rank :: rest, some d => match dirAt src s with
        | none => s
        | some e =>
          if !p.queued && slotClear d dst s && slotClear d src s && !(s.arr.holds.any fun h => h.movedTo == some src) &&
              canWrite s && !(p.slack && intentWaits s) then
            let e := { e with rank := rank.getD e.rank }
            let s := putRanks d dst e.rank (putRecords d dst e.record s)
            let s := queueRows d p.table dst (some e) 0 (some src) none true none (.plan n) s
            updPlan n (fun p => { p with steps := .move src dst rank :: .bits src none (some dst) :: rest, queued := true
                                         begun := true }) s
          else s
      | _, _ => s)

/-- The old slots' activity bits are ORed into the new slots and cleared (R66). -/
def mergeActivity (src dst : List Nat) (s : State) : State :=
  let s := fixActivities (src ++ dst) s
  clearActivity src (setActivity ((src.zip dst).filterMap fun x => if tabGet true s.arr.act x.1 then some x.2 else
    if tabGet true s.arr.act x.2 then some x.2 else none)
    (clearActivity dst s))

/-- The primary index of an index in either set of a table. -/
def primaryIndex (d : TableDesc) (idx : Nat) : Option Nat :=
  if d.panset.toNat.testBit (idx / 16384) then some idx
  else if d.mirset.toNat.testBit (idx / 16384) then some (twinIndex d idx false) else none

/-- The first hold whose end has come, once the searches of its time are over: its slots, record and rank are reusable, a move's
activity bits are merged, and Sieve bits that cover nothing are cleared (R29, R66, R168). -/
def execReuseHoldEnd (s : State) : Host.Outcome State Fault Refusal :=
  .next (match s.arr.holds.findIdx? fun h => h.till ≤ s.clk.pclk && searchesDone h.till s with
    | none => s
    | some i => match s.arr.holds[i]? with
      | none => s
      | some h =>
        let s := s.updArr fun a => { a with holds := a.holds.eraseIdx i }
        match tableAt h.table s with
        | none => s
        | some d =>
          let s := if h.kept then queueFree h.table h.idx ((primaryIndex d h.idx).getD h.idx) s else s
          let s := match h.movedTo with
            | some m => mergeActivity (entrySlots d.width h.idx) (entrySlots d.width m) s
            | none => s
          let s := match h.bucket with
            | some k => tidyBucket d h.table (panOf d.width h.idx) k s
            | none => s
          advanceAll s)

/-- The golden copy of an entry's record written, for every copy (R236, R79). -/
def goldRecord (d : TableDesc) (idx : Nat) (r : List Word) (s : State) : State :=
  let us := recordUnit d idx false :: (if d.guarded then [recordUnit d (twinIndex d idx true) true] else [])
  s.updArr fun a => { a with goldRec := us.foldl (fun t u =>
    (List.range (strideUnits d)).foldl (fun t i => tabSet 0 t (u + i) (r.getD i 0)) t) a.goldRec }

/-- The first golden-copy write under way completes: the row and rank, and the record, of its slot (R27, R236). -/
def execGoldenWriteDone (s : State) : Host.Outcome State Fault Refusal :=
  .next (match s.arr.golds with
    | [] => s
    | g :: rest =>
      let s := s.updArr fun a => { a with
        golds := rest
        goldNo := a.goldNo + 1
        goldAt := tabSet 0 a.goldAt g.idx (a.goldNo + 1)
        gold := match g.entry with
          | some e => tabInsert a.gold g.idx e
          | none => tabErase a.gold g.idx }
      let s := match g.entry, tableAt g.table s with
        | some e, some d => goldRecord d g.idx e.record s
        | _, _ => s
      match g.plan with
      | some n => advance n s
      | none => s)

end Sys2Proof.Machine
end

