-- ==== Sys2Proof/Machine/Sched.lean ====
section
/-! DEFINITION. The slot schedule's switch, profile installation, and the table and Sieve windows (R57, R59, R72, R83 to
R88, R130 to R140, R220). -/

namespace Sys2Proof.Machine

open Sys2Proof

/-! Conditions on a schedule (R130). -/

/-- The first slot of a pipeline's issue mask that a hob does not own for it. -/
def unownedSlot (t : Tab Word) (h p : Nat) : Option Nat :=
  (List.range 64).find? fun i => inMask t p i && slotOwner t h i != p + 1

/-- The hobs that hold a pan of a table, in either set. -/
def tableHobs (d : TableDesc) : List Nat :=
  (List.range 16).filter fun h => (panList (d.panset ||| d.mirset)).any fun p => p / 16 == h

/-- The first hob and slot at which a lookup's table misses pipeline p. -/
def lookupGap (t : Tab Word) (tbl p : Nat) (s : State) : Option (Nat × Nat) := match tableAt tbl s with
  | none => none
  | some d => (tableHobs d).findSome? fun h => (unownedSlot t h p).map fun i => (h, i)

/-- The lowest failing hob of a profile on pipeline p, over its lookups. -/
def profileGap (t : Tab Word) (pr : Profile) (p : Nat) (s : State) : Option (Nat × Nat) :=
  if pr.enables p then
    ((List.range pr.nlook).filterMap fun l => lookupGap t (pr.table l) p s).foldl (fun a x => match a with
      | none => some x
      | some y => if x.1 < y.1 then some x else some y) none
  else none

/-- M slots of a hob. -/
def mSlots (t : Tab Word) (h : Nat) : Nat := ((List.range 64).filter fun i => slotOwner t h i == 3).length

/-- A pipeline's issue mask has no bit set. -/
def maskEmpty (t : Tab Word) (p : Nat) : Bool := (List.range 64).all fun i => !inMask t p i

/-- Conditions 1 and 2 of R130: CODE, ERR_HOB and ERR_PIPE. -/
def schedBasic (t : Tab Word) : Option (Nat × Nat × Nat) :=
  match (List.range 16).find? fun h => mSlots t h < 2 with
  | some h => some (1, h, 0)
  | none => match (List.range 2).find? fun p => maskEmpty t p with
    | some p => some (2, 0, p)
    | none => none

/-- PIP_SCHED_STAT with BUSY 0 (Table 5.10). -/
def schedStat (code prof slot pipe hob : Nat) : Word :=
  pack32 [(20, prof), (14, slot), (13, pipe), (8, hob), (0, code)]

/-- The validation of a schedule in the order of Table 5.5: the status of the first failure. -/
def schedFault (t : Tab Word) (s : State) : Option Word :=
  match schedBasic t with
  | some (c, h, p) => some (schedStat c 0 0 p h)
  | none => s.tbl.profiles.findSome? fun x =>
      (List.range 2).findSome? fun p =>
        (profileGap t x.2 p s).map fun g => schedStat 3 x.1 g.2 p g.1

/-! Switching (R134 to R137). -/

/-- PIP_SCHED_STAT.BUSY. -/
def schedBusy (s : State) : Bool := flagGet Reg.pipSchedStat 31 s

/-- A switch ends without switching. -/
def schedFail (st : Word) (s : State) : State := flagPut Reg.pipSchedCtl 0 false (regPut Reg.pipSchedStat st s)

/-- The first frame boundary at or after a cycle. -/
def boundaryFrom (c : Nat) (s : State) : Nat := c + (64 - slotAt c s) % 64

/-- A validated schedule waits for its boundary or for the other devices of the ring. -/
def schedRuns (s : State) : Bool := s.pip.switchAt.isSome || s.pip.schedReady

/-- The switch boundary fixed: the first frame boundary after every issue slot already claimed (R135, R136). -/
def fixBoundary (s : State) : State :=
  let c := max (s.clk.pclk + 1) (max (tabGet 0 s.pip.nextIssue 0) (tabGet 0 s.pip.nextIssue 1))
  s.updPip fun x => { x with schedReady := false, switchAt := some (boundaryFrom c s) }

/-- The shadow schedule is validated. One that passes waits for its boundary; on a manager of a formed ring its workers first take
and validate the issue masks, and a worker waits for the others (R135, R220). -/
def schedValidate (s : State) : State := match schedFault s.pip.schedShadow s with
  | some st => schedFail st s
  | none =>
    if isWorker s then s.updPip fun x => { x with schedReady := true }
    else if (ringPeers s).isEmpty then fixBoundary s
    else
      startJob 1 Reg.pipSchedStat [] ((List.range 4).map (fun i => (Reg.pipMask i, schedWord s.pip.schedShadow (64 + i))) ++
        [(Reg.pipSchedCtl, 1)]) (s.updPip fun x => { x with schedReady := true })

/-- A SWITCH validates in the MCLK cycle after its write, so that a profile operation written in the same cycle goes first, and
after a profile operation that runs has ended (R137). -/
def schedTick (s : State) : State :=
  if schedBusy s && !schedRuns s && s.tbl.prfOp.isNone then schedValidate s else s

/-- Every worker has answered a manager's SWITCH: the boundary is fixed, or the lowest failing code ends it (R220). -/
def schedGo (s : State) : State :=
  if isManager s && s.pip.schedReady && !jobOpen 1 s then
    let (as, s) := jobEnd 1 s
    match jobWorst as with
    | some (k, _, st) =>
      schedFail (BitVec.ofNat 32 (st % 2 ^ 31)) (fieldPut Reg.casStat 15 12 k (s.updPip fun x => { x with schedReady := false }))
    | none => fixBoundary s
  else s

/-- HOB_SLOT_h_k and PIP_MASK_p_k reach the shadow copy; the active view is read-only (R134). -/
def wrSched (src : Party) (off : Nat) (v : Word) (s : State) : State :=
  if flagGet Reg.pipSchedCtl 1 s || schedBusy s then refuseReg 4 src off v s
  else match schedIndex off with
    | some i => s.updPip fun x => { x with schedShadow := tabSet 0 x.schedShadow i v }
    | none => s

/-- HOB_SLOT_h_k and PIP_MASK_p_k as they read. -/
def rdSched (i : Nat) (s : State) : Word :=
  schedWord (if flagGet Reg.pipSchedCtl 1 s then s.pip.schedActive else s.pip.schedShadow) i

/-- PIP_LAT_p follows the active masks and the operating point (R133). -/
def showLat (s : State) : State :=
  (List.range 2).foldl (fun s p =>
    regPut (Reg.pipLat p) (pipLat (maskGap s.pip.schedActive p) (fieldGet Reg.pwrOppStat 27 26 s)) s) s

/-- A schedule becomes active and shadow at once. -/
def setSchedule (t : Tab Word) (s : State) : State :=
  showLat (s.updPip fun x => { x with schedActive := t, schedShadow := t, switchAt := none })

/-- Every hob and both pipelines take the shadow schedule at a boundary. -/
def switchSched (b : Nat) (s : State) : State :=
  let s := setSchedule s.pip.schedShadow s
  markDirty (schedFail 0 (s.updPip fun x => { x with switched := b, schedReady := false, schedKept := x.schedActive }))

/-- At the switch boundary the validated schedule becomes active, if every device of the ring passed (R135, R220). A worker switches
at the frame boundary that the ring has just passed, or ends the switch where another device failed: `elsewhere`, which the
manager's CTRL frames tell it in a form the spec does not give (log entry 23). -/
def execSchedSwitchBoundary (elsewhere : Bool) (s : State) : Host.Outcome State Fault Refusal :=
  .next (
    let s := schedGo s
    match s.pip.switchAt with
    | some b => if s.clk.pclk < b then s else switchSched b s
    | none =>
      if isWorker s && s.pip.schedReady then
        if elsewhere then schedFail 0 (s.updPip fun x => { x with schedReady := false })
        else switchSched (s.clk.pclk - s.clk.slot) s
      else s)

/-! Profiles (R83 to R88). -/

/-- The staging area (R83). -/
def stagedProfile (s : State) : Profile :=
  { hdr := regGet Reg.prfStgHdr s
    lks := (List.range 8).map fun l => regGet (Reg.prfStgLk l) s
    segs := (List.range 64).map fun k => regGet (Reg.prfStgSeg k) s }

/-- The staging area written. -/
def putStaging (p : Profile) (s : State) : State :=
  let s := regPut Reg.prfStgHdr p.hdr s
  let s := (List.range 8).foldl (fun s l => regPut (Reg.prfStgLk l) (p.lks.getD l 0) s) s
  (List.range 64).foldl (fun s k => regPut (Reg.prfStgSeg k) (p.segs.getD k 0) s) s

/-- The lookups and segments of a profile in order: lookup, segment. -/
def Profile.allSegs (p : Profile) : List (Nat × Nat) :=
  (List.range p.nlook).flatMap fun l => (List.range (p.nseg l)).map fun k => (l, k)

/-- CODE 1: the first field out of range, as lookup and segment; the header comes before lookup 0. -/
def prfRange (p : Profile) (s : State) : Option (Nat × Nat) :=
  if (!p.enables 0 && !p.enables 1) || p.nlook = 0 || 8 < p.nlook || p.keyWords = 0 || 10 < p.keyWords then some (0, 0)
  else (List.range p.nlook).findSome? fun l =>
    let packedBad := p.rfmt l == 2 && (match tableLive (p.table l) s with
      | some d => d.rsize != 0
      | none => false)
    if p.nseg l = 0 || 8 < p.nseg l || p.rfmt l = 3 || packedBad then some (l, 0)
    else ((List.range (p.nseg l)).find? fun k =>
      let g := p.seg l k
      1 < bits g 31 30 || bits g 29 23 = 0 || 80 < bits g 29 23).map fun k => (l, k)

/-- The bank groups of a lookup's table (R86). -/
def lookupGroups (p : Profile) (l : Nat) (s : State) : Nat := match tableLive (p.table l) s with
  | some d => regionGroups d.base (regionUnits d) ||| (if d.guarded then regionGroups d.mbase (regionUnits d) else 0)
  | none => 0

/-- Activations that a lookup may need: ACT_ALLOW, doubled for a guarded table (R62). -/
def lookupBudget (p : Profile) (l : Nat) (s : State) : Nat := match tableLive (p.table l) s with
  | some d => d.actAllow * (if d.guarded then 2 else 1)
  | none => 0

/-- CODE 8 of Table 3.14 against a schedule: the lowest lookup that fails. -/
def prfSchedule (p : Profile) (t : Tab Word) (s : State) : Option Nat :=
  (List.range p.nlook).find? fun l => (List.range 2).any fun q => p.enables q && (lookupGap t (p.table l) q s).isSome

/-- The checks of Table 3.14 before CODE 8: CODE, ERR_LOOKUP and ERR_SEG; (0, 0, 0) when all pass (R85). -/
def prfFields (p : Profile) (s : State) : Nat × Nat × Nat :=
  let ls := List.range p.nlook
  match prfRange p s with
  | some (l, k) => (1, l, k)
  | none => match ls.find? fun l => (tableLive (p.table l) s).isNone with
  | some l => (2, l, 0)
  | none => match p.allSegs.find? fun x =>
      let g := p.seg x.1 x.2
      bits g 31 30 == 0 && 8 * p.keyWords < bits g 15 9 + bits g 29 23 with
  | some (l, k) => (3, l, k)
  | none => match p.allSegs.find? fun x =>
      let g := p.seg x.1 x.2
      (match tableLive (p.table x.1) s with
        | some d => widthBytes d.width < bits g 22 16 + bits g 29 23
        | none => false) with
  | some (l, k) => (4, l, k)
  | none =>
    if 24 < (ls.map fun l => lookupBudget p l s).sum then (5, 0, 0)
    else match ls.find? fun l => (List.range l).any fun k => lookupGroups p l s &&& lookupGroups p k s != 0 with
    | some l => (6, l, 0)
    | none =>
      if 8 < profWords p s then (7, 0, 0) else (0, 0, 0)

/-- The checks of Table 3.14 against a schedule. -/
def prfCheck (p : Profile) (t : Tab Word) (s : State) : Nat × Nat × Nat :=
  if (prfFields p s).1 ≠ 0 then prfFields p s
  else match prfSchedule p t s with
    | some l => (8, l, 0)
    | none => (0, 0, 0)

/-- A profile runs on a cascaded pipeline, so that an operation on it runs on every device (R220). -/
def ringProfile (p : Profile) (s : State) : Bool :=
  (cascaded .a s && p.enables 0) || (cascaded .b s && p.enables 1)

/-- PRF_STAT.BUSY. -/
def prfBusy (s : State) : Bool := s.tbl.prfOp.isSome

/-- A profile operation of a manager runs on every device of the ring. -/
def ringOp (o : PrfOp) (s : State) : Bool :=
  !(ringPeers s).isEmpty && ((o.op == 1 && ringProfile o.staged s) ||
    (o.op == 3 && ringProfile ((tabFind s.tbl.profiles o.prof).getD Profile.empty) s))

/-- The operation is sent to every worker: for an INSTALL the staged profile, after TBL_CFG of its tables is read (R220). -/
def sendPrf (o : PrfOp) (s : State) : State :=
  let st := o.staged
  let ws := (Reg.prfStgHdr, st.hdr) :: ((List.range 8).map fun i => (Reg.prfStgLk i, st.lks.getD i 0)) ++
    (List.range 64).map fun i => (Reg.prfStgSeg i, st.segs.getD i 0)
  let s := s.updTbl fun x => { x with prfOp := some { o with sent := true } }
  startJob 0 Reg.prfStat (if o.op = 1 then (List.range st.nlook).map fun l => (l, st.table l) else [])
    ((if o.op = 1 then ws else []) ++ [(Reg.prfCtl, pack32 [(8, o.op), (0, o.prof)])]) s

/-- The TABLE_DESTROYs that reached their check in this MCLK cycle and name a table of a profile. -/
def tiedDestroys (p : Profile) (s : State) : List Cmd :=
  s.upd.cmds.filter fun c => decide (c.stage = .running) && opOf c.hdr == 2 && c.count == 0 && c.mark == s.clk.now &&
    (List.range p.nlook).any fun l => p.table l == tableOf c.hdr

/-- A table is no longer being destroyed. -/
def undestroy (t : Nat) (s : State) : State := match tableAt t s with
  | some d => s.updTbl fun x => { x with tables := tabInsert x.tables t { d with life := .exists_ } }
  | none => s

/-- An INSTALL that passes the table reference goes before a TABLE_DESTROY of the same MCLK cycle, which completes BUSY (R87). -/
def installFirst (p : Profile) (s : State) : State :=
  let cs := tiedDestroys p s
  let u := cs.foldl (fun s c => undestroy (tableOf c.hdr) s) s
  let code := (prfFields p u).1
  if code = 1 ∨ code = 2 then s else cs.foldl (fun s c => finish c.id 0xb 0 0 0 s) u

/-- A profile operation begins: BUSY sets, and what it will do is fixed by the check made now, but for CODE 8 while a schedule
switch runs (R83, R87, R137). A worker shows the outcome of its check at once, for the manager to read (log entry 23). -/
def startPrf (op n : Nat) (s : State) : State :=
  let st := stagedProfile s
  let s := if op = 1 then installFirst st s else s
  let (code, l, k) := if op ≠ 1 then (0, 0, 0) else if schedRuns s then prfFields st s else prfCheck st s.pip.schedActive s
  let o : PrfOp := ⟨op, n, code, l, k, st, false, 0⟩
  let s := s.updTbl fun x => { x with prfOp := some o }
  let s := if isWorker s then regPut Reg.prfStat (pack32 [(31, 1), (16, n), (8, code), (4, l), (0, k)]) s
    else flagPut Reg.prfStat 31 true s
  if ringOp o s && !schedRuns s then sendPrf o s else s

/-- A write to PRF_CTL by the operation it carries; refused while an operation runs (R83, R84). -/
def wrPrfCtl (src : Party) (v : Word) (s : State) : State :=
  if prfBusy s then refuseReg 4 src Reg.prfCtl v s
  else if bits v 9 8 = 0 then s
  else startPrf (bits v 9 8) (bits v 7 0) s

/-- A write to a staging register (R84). -/
def wrPrfStage (src : Party) (off : Nat) (v : Word) (s : State) : State :=
  if prfBusy s then refuseReg 4 src off v s else plainWrite off v s

/-- A profile installed or made invalid, with its copy in DRAM. -/
def setProfile (n : Nat) (p : Option Profile) (s : State) : State :=
  s.updTbl fun x => { x with
    profiles := match p with
      | some p => tabInsert x.profiles n p
      | none => tabErase x.profiles n
    prfDram := match p with
      | some p => tabInsert x.prfDram n p
      | none => tabErase x.prfDram n
    prfBad := x.prfBad.filter fun b => b.1 / 73 != n }

/-- CODE, ERR_LOOKUP and ERR_SEG of this device for an operation that ends: CODE 8 against the schedule then active (R137). -/
def ownCode (o : PrfOp) (s : State) : Nat × Nat × Nat :=
  if o.op = 1 ∧ o.code = 0 then match prfSchedule o.staged s.pip.schedActive s with
    | some l => (8, l, 0)
    | none => (0, 0, 0)
  else (o.code, o.errLk, o.errSeg)

/-- A profile operation ends: PRF_STAT records its outcome, and the profile changes if every device passes (R83, R220). -/
def endPrf (o : PrfOp) (elsewhere : Bool) (s : State) : State :=
  let (as, s) := jobEnd 0 s
  let (code, l, k) := ownCode o s
  let s := s.updTbl fun x => { x with prfOp := none }
  match jobWorst ((0, code, l * 16 + k) :: as) with
  | some (d, c, e) =>
    fieldPut Reg.casStat 15 12 d (regPut Reg.prfStat (pack32 [(16, o.prof), (8, c), (4, e / 16 % 8), (0, e % 8)]) s)
  | none =>
    let s := regPut Reg.prfStat (pack32 [(16, o.prof)]) s
    if isWorker s && elsewhere then s
    else if o.op = 1 then setProfile o.prof (some o.staged) s
    else if o.op = 2 then putStaging ((tabFind s.tbl.profiles o.prof).getD Profile.empty) s
    else setProfile o.prof none s

/-- The running operation ends at a PCLK boundary, one of the whole ring at a frame boundary once every worker has answered.
`elsewhere` says on a worker that another device of the ring failed (log entry 23). -/
def execProfileSwitch (elsewhere : Bool) (s : State) : Host.Outcome State Fault Refusal :=
  .next (match s.tbl.prfOp with
    | none => s
    | some o =>
      if schedRuns s then s
      else if ringOp o s && !o.sent then sendPrf o s
      else if jobOpen 0 s || s.clk.pclk < o.due then s
      else endPrf o elsewhere s)

/-- PIP_SCHED_CTL: VIEW, and SWITCH (R135, R137). On a worker a profile operation that runs ends first, so that the answer to the
manager is that of the validation (R220). -/
def wrSchedCtl (src : Party) (v : Word) (s : State) : State :=
  if bit v 0 && schedBusy s then refuseReg 4 src Reg.pipSchedCtl v s
  else
    let s := fieldPut Reg.pipSchedCtl 1 1 (bits v 1 1) s
    if bit v 0 then
      let s := flagPut Reg.pipSchedStat 31 true (flagPut Reg.pipSchedCtl 0 true s)
      if isWorker s then schedValidate (match s.tbl.prfOp with
        | some o => endPrf o false s
        | none => s)
      else s
    else s

/-! The table and Sieve windows (R59, R72). -/

/-- Live entries of a table, as distinct identities (Table 3.7). -/
def liveEntries (t : Nat) (s : State) : Nat :=
  (((tableEntries t s).filter fun x => x.2.e0 || x.2.e1).map fun x => (x.2.key &&& x.2.mask, x.2.mask)).eraseDups.length

/-- Word k of a set. -/
def setWord (b : BitVec 256) (k : Nat) : Word := BitVec.ofNat 32 (b.toNat >>> (32 * k))

/-- The registers of Tables 3.4 to 3.7 for a table. -/
def tableWindow (t : Nat) (s : State) : List (Nat × Word) :=
  match tableShown t s with
  | none => [(Reg.tblCfg, 0), (Reg.tblPty, 0), (Reg.tblMpty, 0), (Reg.tblLive, 0)] ++
      (List.range 8).flatMap fun k => [(Reg.tblPanset k, 0), (Reg.tblMirset k, 0)]
  | some d =>
    let n := regionUnits d
    [(Reg.tblCfg, pack32 [(31, 1), (30, b2n d.guarded), (28, d.width), (25, d.domain), (23, d.rsize), (21, d.stride),
        (16, d.actAllow), (0, (panList d.panset).length)]),
     (Reg.tblPty, pack32 [(24, regionGroups d.base n), (0, d.base)]),
     (Reg.tblMpty, if d.guarded then pack32 [(24, regionGroups d.mbase n), (0, d.mbase)] else 0),
     (Reg.tblLive, BitVec.ofNat 32 (liveEntries t s))] ++
      (List.range 8).flatMap fun k => [(Reg.tblPanset k, setWord d.panset k), (Reg.tblMirset k, setWord d.mirset k)]

/-- A write to TBL_SEL latches the table into the party's window (R72, R412). -/
def wrTblSel (src : Party) (v : Word) (s : State) : State :=
  let t := bits v 6 0
  ((Reg.tblSel, BitVec.ofNat 32 t) :: tableWindow t s).foldl (fun s x => winPut src x.1 x.2 s) s

/-- A write to SVE_MAP_SEL latches the selected mask (Table 2.12). -/
def wrMapSel (src : Party) (v : Word) (s : State) : State :=
  let m := (maskAt (bits v 22 16) (if bit v 23 then 1024 else bits v 9 0) s).mask
  [(Reg.sveMapSel, v &&& 0x00ff03ff#32), (Reg.sveMapDataLo, BitVec.ofNat 32 m.toNat),
   (Reg.sveMapDataHi, BitVec.ofNat 32 (m.toNat / 4294967296))].foldl (fun s x => winPut src x.1 x.2 s) s

/-- SVE_TCFG_t as it reads: ACT_NOW counts primary pans, as ACT_ALLOW does (Table 2.9, R61). -/
def rdTcfg (t : Nat) (s : State) : Word := match tableShown t s with
  | none => 0
  | some d =>
    let w (b : Nat) : Nat := (maskAt t b s).mask.toNat ||| (maskAt t 1024 s).mask.toNat
    let now := (List.range (2 ^ d.nbits)).foldl (fun a b => max a (popcount (w b))) 0
    pack32 [(16, now), (8, d.actAllow), (0, d.nbits)]

/-- SVE_TPOS_t_k as it reads (Table 2.10). -/
def rdTpos (t k : Nat) (s : State) : Word := match tableShown t s with
  | none => 0
  | some d => pack32 [(16, d.pos.getD (2 * k + 1) 0), (0, d.pos.getD (2 * k) 0)]

/-- PRF_VALID_k as it reads. -/
def rdValid (k : Nat) (s : State) : Word :=
  pack32 ((List.range 32).map fun i => (i, b2n (tabFind s.tbl.profiles (32 * k + i)).isSome))

end Sys2Proof.Machine
end

