-- ==== Sys2Proof/Machine/Commands.lean ====
section
/-! DEFINITION. Ring commands on tables and entries: TABLE_CREATE and TABLE_DESTROY, INSERT, DELETE, the MODIFY commands,
READ, SNAPSHOT and FENCE (R68 to R71, R79, R153 to R168, R172, R173). -/

namespace Sys2Proof.Machine

open Sys2Proof

/-! What key commands have in common (R156, R161, R162). -/

/-- Key and mask of a key command, for a table. -/
def Cmd.key (c : Cmd) (d : TableDesc) : BitVec 640 := bytes640 (c.bytes 40 (widthBytes d.width))

def Cmd.mask (c : Cmd) (d : TableDesc) : BitVec 640 := bytes640 (c.bytes (40 + widthBytes d.width) (widthBytes d.width))

/-- The record of an INSERT or a MODIFY_DATA. -/
def Cmd.record (c : Cmd) (d : TableDesc) : List Word :=
  (List.range (strideUnits d)).map fun u =>
    let w := c.word (1 + u / 2)
    BitVec.ofNat 32 (if u % 2 = 0 then w.toNat >>> 32 else w.toNat)

/-- A command that names an entry by its key. -/
def Cmd.byKey (c : Cmd) : Bool := opUpdate (opOf c.hdr) || (opOf c.hdr == 0x14 && !optBit c.hdr 51)

/-- An earlier command that names the same entry is not complete (R153). -/
def entryBusy (c : Cmd) (d : TableDesc) (s : State) : Bool :=
  s.upd.cmds.any fun e => !e.unparsed && !e.isDone && e.seq < c.seq && e.byKey && tableOf e.hdr == tableOf c.hdr &&
    e.mask d == c.mask d && (e.key d &&& e.mask d) == (c.key d &&& c.mask d)

/-- A SNAPSHOT of the table runs (R173). -/
def snapping (t : Nat) (s : State) : Bool := s.upd.snaps.any fun x => x.1 == t

/-- The epoch an update command addresses: the current one, or the next one in a batch (R162). -/
def updEpoch (c : Cmd) (d : TableDesc) (s : State) : Nat := (domAt d.domain s).cnt + b2n (batchBit c.hdr)

/-- R162: an immediate command needs an IDLE domain, a batch command an open batch of its ring. -/
def epochOpen (c : Cmd) (d : TableDesc) (s : State) : Bool :=
  let m := domAt d.domain s
  if batchBit c.hdr then decide (m.st = .open_) && m.owner == c.ring && !m.discarding else decide (m.st = .idle)

/-- An update command must wait: for an earlier command on its entry, for a SNAPSHOT, or while RECON = 1 (R33, R162). -/
def updateWaits (c : Cmd) (d : TableDesc) (s : State) : Bool :=
  entryBusy c d s || snapping (tableOf c.hdr) s || (domAt d.domain s).recon

/-- A TABLE_DESTROY accepted before the command has marked its table (R71). -/
def doomed (c : Cmd) (s : State) : Bool :=
  s.upd.cmds.any fun e => decide (e.stage = .running) && opOf e.hdr == 2 && tableOf e.hdr == tableOf c.hdr && e.seq < c.seq

/-- A command released from its hold waits for the earlier ones of its domain that were (R162). -/
def releasedBefore (c : Cmd) (d : TableDesc) (s : State) : Bool :=
  c.accepted && s.upd.cmds.any fun e => e.accepted && e.isReady && e.seq < c.seq && cmdDomain e s == d.domain

/-- A pan's rebalancing that has not begun a move gives way to an intent (R169). -/
def yieldSlack (s : State) : State :=
  s.updUpd fun u => { u with plans := u.plans.filter fun p => !p.slack || p.queued || match p.steps with
    | .move _ _ _ :: _ => false
    | _ => true }

/-- A command that is ready and names a table takes effect, or completes with BAD_TABLE behind a TABLE_DESTROY (R71, R155). -/
def withTable (n : Nat) (ops : List Nat) (f : Cmd → TableDesc → State → State) (s : State) : State :=
  match readyCmd n ops s with
  | none => s
  | some c => match tableAt (tableOf c.hdr) s with
    | none => s
    | some d => if doomed c s then complete n 5 0 0 0 s else f c d s

/-- An update command that is ready runs: it waits, completes with EPOCH_CLOSED, or does `f` (R155, R162). -/
def runUpdate (n op : Nat) (f : Cmd → TableDesc → State → State) (s : State) : State :=
  withTable n [op] (fun c d s =>
    let s := yieldSlack s
    if !c.accepted && !epochOpen c d s then complete n 6 0 0 0 s
    else if updateWaits c d s || releasedBefore c d s then s
    else f c d s) s

/-- A command's plan starts. -/
def beginPlan (c : Cmd) (steps : List PStep) (idx moves : Nat) (s : State) : State :=
  startPlan { no := c.id, cmd := some c.id, slack := false, table := tableOf c.hdr, steps := steps, queued := false,
              begun := false, idx := idx, moves := moves } (updCmd c.id (fun c => { c with stage := .running }) s)

/-- The moves of a placement as steps. -/
def Placement.steps (p : Placement) : List PStep := p.moves.map fun m => .move m.1 m.2 none

/-- Where an entry is after the moves of a placement. -/
def Placement.carry (p : Placement) (idx : Nat) : Nat := match p.moves.find? fun m => m.1 == idx with
  | some m => m.2
  | none => idx

/-- The pans of a table that R164 leaves out while they migrate (R247): the primary pan, or the first of a pan pair. -/
def skipPans (d : TableDesc) (t : Nat) (s : State) : List Nat :=
  (s.arr.migrating.filter fun p => decide (panTable p s = some t)).map fun p =>
    panOf d.width (if panMirror p s then twinIndex d (p * 16384) false else p * 16384)

/-- A new slot for an entry in a pan chosen by R164, followed by further steps. -/
def placeNew (c : Cmd) (d : TableDesc) (e : Entry) (old : Option (Nat × Entry)) (s : State) : State :=
  let t := tableOf c.hdr
  match choosePan d t e.key e.mask (skipPans d t s) s with
  | .error st => complete c.id st 0 0 0 s
  | .ok pan =>
    let oldBusy := match old with
      | some o => panBusy d (panOf d.width o.1) s
      | none => false
    if panBusy d pan s || oldBusy then s
    else match placeAt d t pan e.rank s with
      | none => complete c.id 1 0 0 0 s
      | some p => match old with
        | none => beginPlan c (p.steps ++ [.put p.pos e]) p.pos p.moves.length s
        | some o =>
          let was := p.carry o.1
          let ne := o.2.setLive (updEpoch c d s) false
          beginPlan c (p.steps ++ [.put p.pos e, .bits was (if ne.e0 || ne.e1 then some ne else none) none]) p.pos
            p.moves.length s

/-- The E bits of a new entry: live in both epochs, or in the next one only (R163). -/
def newBits (c : Cmd) (d : TableDesc) (e : Entry) (s : State) : Entry :=
  if batchBit c.hdr then { e with e0 := false, e1 := false }.setLive (updEpoch c d s) true else e.both

/-- INSERT (R163 to R165). -/
def runInsert (c : Cmd) (d : TableDesc) (s : State) : State :=
  let t := tableOf c.hdr
  let k := c.key d
  let m := c.mask d
  match findLive t k m (updEpoch c d s) s with
  | some x => complete c.id 4 x.1 0 0 s
  | none => placeNew c d (newBits c d ⟨t, k &&& m, m, rankOf c.hdr, c.record d, false, false⟩ s) none s

def execInsert (n : Nat) (s : State) : Host.Outcome State Fault Refusal := .next (runUpdate n 0x10 runInsert s)

/-- A command on a live entry: NOT_FOUND without one. -/
def withLive (c : Cmd) (d : TableDesc) (f : Nat → Entry → State → State) (s : State) : State :=
  match findLive (tableOf c.hdr) (c.key d) (c.mask d) (updEpoch c d s) s with
  | none => complete c.id 3 0 0 0 s
  | some x => f x.1 x.2 s

/-- DELETE (R163). -/
def runDelete (c : Cmd) (d : TableDesc) (s : State) : State :=
  withLive c d (fun i e s =>
    if panBusy d (panOf d.width i) s then s
    else
      let ne := e.setLive (updEpoch c d s) false
      let keep := batchBit c.hdr && (ne.e0 || ne.e1)
      beginPlan c [.bits i (if keep then some ne else none) none] i 0 s) s

def execDelete (n : Nat) (s : State) : Host.Outcome State Fault Refusal := .next (runUpdate n 0x11 runDelete s)

/-- MODIFY_DATA (R163). -/
def runModifyData (c : Cmd) (d : TableDesc) (s : State) : State :=
  withLive c d (fun i e s =>
    if batchBit c.hdr then placeNew c d (newBits c d { e with record := c.record d } s) (some (i, e)) s
    else if panBusy d (panOf d.width i) s then s
    else beginPlan c [.record i (c.record d)] i 0 s) s

def execModifyData (n : Nat) (s : State) : Host.Outcome State Fault Refusal := .next (runUpdate n 0x12 runModifyData s)

/-- A rank keeps the order of R46 at an entry's position. -/
def rankFits (d : TableDesc) (t i r : Nat) (s : State) : Bool :=
  (panEntries t (panOf d.width i) s).all fun x => if x.1 < i then x.2.rank ≤ r else if i < x.1 then r ≤ x.2.rank else true

/-- A move of an entry to another pan (R167). -/
def moveOut (c : Cmd) (d : TableDesc) (i : Nat) (e : Entry) (s : State) : State :=
  let t := tableOf c.hdr
  match choosePan d t e.key e.mask (skipPans d t s) s with
  | .error st => complete c.id st 0 0 0 s
  | .ok pan =>
    if panBusy d pan s then s
    else match placeAt d t pan e.rank s with
      | none => complete c.id 1 0 0 0 s
      | some p => beginPlan c (p.steps ++ [.put p.pos e, .bits i none (some p.pos)]) p.pos (p.moves.length + 1) s

/-- MODIFY_RANK (R163, R167). -/
def runModifyRank (c : Cmd) (d : TableDesc) (s : State) : State :=
  let t := tableOf c.hdr
  let r := rankOf c.hdr
  withLive c d (fun i e s =>
    if batchBit c.hdr then placeNew c d (newBits c d { e with rank := r } s) (some (i, e)) s
    else if panBusy d (panOf d.width i) s then s
    else if rankFits d t i r s then beginPlan c [.rank i r] i 0 s
    else match placeAt d t (panOf d.width i) r s with
      | some p => beginPlan c (p.steps ++ [.move (p.carry i) p.pos (some r)]) p.pos (p.moves.length + 1) s
      | none => moveOut c d i { e with rank := r } s) s

def execModifyRank (n : Nat) (s : State) : Host.Outcome State Fault Refusal := .next (runUpdate n 0x13 runModifyRank s)

/-! READ and SNAPSHOT (R157, R158, R173). -/

/-- 64-bit words from bytes, byte 0 in the top bits. -/
def wordsOf (bs : Nat → Byte) (n : Nat) : List W64 :=
  (List.range n).map fun w => BitVec.ofNat 64 ((List.range 8).foldl (fun a i => a * 256 + (bs (8 * w + i)).toNat) 0)

/-- Byte n of a 640-bit string. -/
def byte640 (k : BitVec 640) (n : Nat) : Byte := BitVec.ofNat 8 (k.toNat >>> (632 - 8 * n))

/-- The entry image (R158): a descriptor that would insert the entry. -/
def entryImage (d : TableDesc) (t idx : Nat) (e : Entry) : List W64 :=
  let k := widthBytes d.width
  let slots := widthSlots d.width
  let hdr := pack64 [(56, 0x10), (54, if slots = 4 then 2 else slots - 1), (49, b2n e.e1), (48, b2n e.e0), (40, t),
    (24, e.rank)]
  let hdr := hdr ||| BitVec.ofNat 64 (idx % 2 ^ 22)
  let byte (n : Nat) : Byte :=
    if n < 8 then BitVec.ofNat 8 (hdr.toNat >>> (56 - 8 * n))
    else if n < 8 + 4 * strideUnits d then
      BitVec.ofNat 8 ((e.record.getD ((n - 8) / 4) 0).toNat >>> (24 - 8 * ((n - 8) % 4)))
    else if 40 ≤ n ∧ n < 40 + k then byte640 (e.key &&& e.mask) (n - 40)
    else if 40 + k ≤ n ∧ n < 40 + 2 * k then byte640 e.mask (n - 40 - k)
    else 0
  wordsOf byte (8 * slots)

/-- The epoch that READ and SNAPSHOT address (R157, R162, R173). -/
def readEpoch (c : Cmd) (d : TableDesc) (s : State) : Nat :=
  let m := domAt d.domain s
  m.cnt + b2n (optBit c.hdr 50 && !m.recon)

/-- The ring's function may send requests (R261). -/
def ringSends (c : Cmd) (s : State) : Bool := mayRequest (ringAt c.ring s).func s

/-- The image of an entry written to host memory, and the completion. -/
def answerRead (c : Cmd) (d : TableDesc) (idx : Nat) (e : Entry) (s : State) : State :=
  complete c.id 0 idx 0 0
    (hostWrite (ringAt c.ring s).func (c.word 2) (entryImage d (tableOf c.hdr) idx e) s)

/-- READ by key or by index. An index in the mirror set reads the entry, whose index names its primary slot (R79, R158). -/
def execRead (n : Nat) (s : State) : Host.Outcome State Fault Refusal :=
  .next (withTable n [0x14] (fun c d s =>
    if !ringSends c s then s
    else if optBit c.hdr 51 then
      let idx := bits (c.word 1) 21 0
      if !idxAligned d.width idx then complete n 9 0 1 0 s
      else match (primaryIndex d idx).bind fun p => (dirAt p s).map fun e => (p, e) with
        | some x => if x.2.table = tableOf c.hdr then answerRead c d x.1 x.2 s else complete n 3 0 0 0 s
        | none => complete n 3 0 0 0 s
    else if entryBusy c d s then s
    else match findLive (tableOf c.hdr) (c.key d) (c.mask d) (readEpoch c d s) s with
      | some x => answerRead c d x.1 x.2 s
      | none => complete n 3 0 0 0 s) s)

/-- An update command of a table has begun and is not complete. -/
def tableWriting (t : Nat) (s : State) : Bool :=
  s.upd.plans.any fun p => p.table == t

/-- SNAPSHOT: the images of every live entry that fit, in ascending index order (R173). -/
def execSnapshot (n : Nat) (s : State) : Host.Outcome State Fault Refusal :=
  .next (withTable n [0x31] (fun c d s =>
    let t := tableOf c.hdr
    if snapping t s then complete n 0xb 0 0 0 s
    else if tableWriting t s || !ringSends c s then s
    else
      let all := (tableEntries t s).filter fun x => x.2.live (readEpoch c d s)
      let units := widthSlots d.width
      let fit := all.take (bits (c.word 2) 31 0 / units)
      let f := (ringAt c.ring s).func
      let s := (fit.zip (List.range fit.length)).foldl (fun s x =>
        hostWrite f (c.word 1 + BitVec.ofNat 64 (64 * units * x.2)) (entryImage d t x.1.1 x.1.2) s) s
      let s := updCmd n (fun c => { c with stage := .running, mark := all.length, count := fit.length }) s
      s.updUpd fun u => { u with snaps := u.snaps ++ [(t, n)] }) s)

/-- A running command whose opcode is one of a list. -/
def runningCmd (n : Nat) (ops : List Nat) (s : State) : Option Cmd := match cmdAt n s with
  | some c => if c.stage = .running ∧ ops.contains (opOf c.hdr) then some c else none
  | none => none

/-- The last image is written: OK, or FULL if some did not fit. -/
def execSnapshotDone (n : Nat) (s : State) : Host.Outcome State Fault Refusal :=
  .next (match runningCmd n [0x31] s with
    | none => s
    | some c => complete n (if c.count < c.mark then 1 else 0) 0 0 c.count
        (s.updUpd fun u => { u with snaps := u.snaps.filter fun x => x.2 != n }))

/-! FENCE (R172). -/

/-- Every command that a FENCE covers is complete; a command relayed to a worker was not parsed by this device's engine. -/
def fenceCovered (c : Cmd) (s : State) : Bool :=
  s.upd.cmds.all fun e => e.id == c.id || e.unparsed || decide (e.stage = .relayed) || c.seq ≤ e.seq ||
    (e.ring != c.ring && !optBit c.hdr 51)

/-- A FENCE, once the commands it covers are complete, waits for what they made not live. -/
def execFence (n : Nat) (s : State) : Host.Outcome State Fault Refusal :=
  .next (match readyCmd n [0x30] s with
    | none => s
    | some c => if fenceCovered c s then
        updCmd n (fun c => { c with stage := .running, mark := s.upd.lastDead }) s
      else s)

/-- The searches dispatched before a write have left, and its hold has ended (R172, DRAIN). -/
def drained (mark : Nat) (s : State) : Bool :=
  mark + 160 ≤ s.clk.pclk && (s.pip.flight.all fun f => mark ≤ f.disp) && s.arr.holds.all fun h => mark + 160 < h.till

def execFenceComplete (n : Nat) (s : State) : Host.Outcome State Fault Refusal :=
  .next (match runningCmd n [0x30] s with
    | none => s
    | some c => if !optBit c.hdr 50 || drained c.mark s then complete n 0 0 0 0 s else s)

/-! Tables (R68 to R71). -/

/-- The four words of a pan set. -/
def Cmd.set256 (c : Cmd) (b : Nat) : BitVec 256 :=
  BitVec.ofNat 256 ((c.word b).toNat + (c.word (b + 1)).toNat * 2 ^ 64 + (c.word (b + 2)).toNat * 2 ^ 128 +
    (c.word (b + 3)).toNat * 2 ^ 192)

/-- The descriptor that a TABLE_CREATE gives (Table 6.8); positions at or above NBITS are not stored (R159). -/
def Cmd.tableDesc (c : Cmd) : TableDesc :=
  let w := c.word 1
  let pos (k : Nat) : Nat := if k < 6 then bits (c.word 2) (59 - 10 * k) (50 - 10 * k)
    else bits (c.word 3) (59 - 10 * (k - 6)) (50 - 10 * (k - 6))
  { life := .created, width := bits w 63 62, domain := bits w 61 59, guarded := bit w 58, panset := c.set256 4,
    mirset := c.set256 8, actAllow := bits w 53 49, nbits := bits w 48 45, pos := (List.range (bits w 48 45)).map pos,
    rsize := bits w 57 56, stride := bits w 55 54, base := bits w 43 22, mbase := bits w 21 0 }

/-- The pans of both sets. -/
def TableDesc.pans (d : TableDesc) : List Nat := panList (d.panset ||| d.mirset)

/-- Two regions of units overlap. -/
def overlap (a la b lb : Nat) : Bool := a < b + lb && b < a + la

/-- The data regions of a table. -/
def TableDesc.regions (d : TableDesc) : List (Nat × Nat) :=
  if d.life = .released then []
  else (d.base, regionUnits d) :: (if d.guarded then [(d.mbase, regionUnits d)] else [])

/-- Every slot of the pans written as a free slot (R39), in every physical pan that receives writes (R51). -/
def freePans (ps : List Nat) (s : State) : State :=
  let phys := ps.flatMap fun p => (writePans p s).map fun k => physKey (p / 16) k 0
  let gone (k : Nat) : Bool := phys.any fun b => b ≤ k && k < b + 16384
  s.updArr fun a => { a with
    slices := a.slices.filter fun x => !gone x.1
    ranks := a.ranks.filter fun x => !gone x.1
    dir := a.dir.filter fun x => !ps.contains (x.1 / 16384) }

/-- The unit of a Pantry byte (R74, R290). -/
def unitOfByte (b : Nat) : Nat := 2 * (b / 8) + (if b % 8 < 4 then 1 else 0)

/-- Every Pantry word of the regions written as 0. -/
def zeroRegions (rs : List (Nat × Nat)) (s : State) : State :=
  let gone (u : Nat) : Bool := rs.any fun r => r.1 ≤ u && u < r.1 + r.2
  s.updMem fun m => { m with
    pantry := m.pantry.filter fun x => !gone (unitOfByte x.1)
    pantrySyn := m.pantrySyn.filter fun x => !(gone (2 * x.1) || gone (2 * x.1 + 1)) }

/-- The golden copy of the regions written as 0 (R236). -/
def zeroGold (rs : List (Nat × Nat)) (s : State) : State :=
  s.updArr fun a => { a with goldRec := a.goldRec.filter fun x => !rs.any fun r => r.1 ≤ x.1 && x.1 < r.1 + r.2 }

/-- Every mask of a table written as 0. -/
def zeroMasks (t : Nat) (s : State) : State :=
  let gone (k : Nat) : Bool := 1025 * t ≤ k && k < 1025 * t + 1025
  s.updTbl fun x => { x with
    masks := x.masks.filter fun m => !gone m.1
    maskDir := x.maskDir.filter fun m => !gone m.1 }

/-- HOB_LMAP of a table's pans: assigned to it, or to none. -/
def assignPans (d : TableDesc) (t : Option Nat) (s : State) : State :=
  d.pans.foldl (fun s p =>
    let w := regGet (Reg.hobLmap p) s
    let mir := d.mirset.toNat.testBit p
    let hi := match t with
      | some t => packNat [(5, t), (4, 1), (2, d.width), (0, b2n mir)]
      | none => 0
    regPut (Reg.hobLmap p) (putBits w 23 12 hi) s) s

/-- TABLE_CREATE (R70): orders 2 to 4 of Table 3.2, then the table. Order 1 is checked in the parse. -/
def execTableCreate (n : Nat) (s : State) : Host.Outcome State Fault Refusal :=
  .next (match readyCmd n [0x01] s with
    | none => s
    | some c =>
      let t := tableOf c.hdr
      let d := c.tableDesc
      if !canWrite s then s
      else if (tableAt t s).isSome then complete n 4 0 0 0 s
      else if d.pans.any fun p => (panTable p s).isSome || panLost p s then complete n 1 0 0 0 s
      else if s.tbl.tables.any fun o => o.2.regions.any fun r => d.regions.any fun q => overlap r.1 r.2 q.1 q.2 then
        complete n 1 0 0 0 s
      else
        let s := assignPans d (some t) (setTable t (some d) s)
        let s := zeroGold d.regions (zeroRegions d.regions (zeroMasks t (freePans d.pans s)))
        let s := updCmd n (fun c => { c with stage := .running }) s
        let first := (panList d.panset).headD 0 * 16384
        startPlan { no := n, cmd := some n, slack := false, table := t, steps := [], queued := false, begun := true, idx := 0
                    moves := 0 }
          (queueGold first t none (some n) s))

/-- A valid profile, or one whose INSTALL has passed the reference check (CODE 2), names a table (R71, R87). -/
def tableProfiled (t : Nat) (s : State) : Bool :=
  let names (p : Profile) : Bool := (List.range p.nlook).any fun l => p.table l == t
  (s.tbl.profiles.any fun p => names p.2) ||
    match s.tbl.prfOp with
    | some o => o.op == 1 && (o.code == 0 || 3 ≤ o.code) && names o.staged
    | none => false

/-- Commands that name a table and are neither complete nor the TABLE_DESTROY itself. -/
def naming (c : Cmd) (s : State) : List Cmd :=
  s.upd.cmds.filter fun e => e.id != c.id && !e.unparsed && !e.isDone && opNamesTable (opOf e.hdr) && tableOf e.hdr == tableOf c.hdr

/-- A table that is being destroyed is freed once the commands accepted before have completed and every row write of it is done;
those accepted after complete with BAD_TABLE. -/
def freeTable (c : Cmd) (s : State) : State :=
  let t := tableOf c.hdr
  match tableAt t s with
  | none => s
  | some d =>
    let late (e : Cmd) : Bool := c.seq < e.seq && e.unbegun s
    if c.count ≠ 0 || s.clk.now ≤ c.mark || (naming c s).any (fun e => !late e) || tableWriting t s ||
      s.arr.mreqs.any (fun q => q.table == t) || !canWrite s then s
    else
      let s := (naming c s).foldl (fun s e => finish e.id 5 0 0 0 s) s
      let s := zeroMasks t (freePans d.pans s)
      let s := showStranded (s.updArr fun a => { a with
        gold := a.gold.filter fun x => x.2.table != t
        stranded := a.stranded.filter fun i => !d.pans.contains (i / 16384) })
      settle (markDead s.clk.pclk (updCmd c.id (fun c => { c with mark := s.clk.pclk + 160, count := 1 }) s))

/-- TABLE_DESTROY (R71): refused with BUSY, or the table is marked as being destroyed. It is freed at a later instant, so that an
INSTALL of the same MCLK cycle goes first (R87). -/
def execTableDestroy (n : Nat) (s : State) : Host.Outcome State Fault Refusal :=
  .next (match readyCmd n [0x02] s with
    | some c =>
      let t := tableOf c.hdr
      match tableLive t s with
      | none => complete n 5 0 0 0 s
      | some d =>
        let m := domAt d.domain s
        if tableProfiled t s || decide (m.st ≠ .idle) || m.recon then complete n 0xb 0 0 0 s
        else
          let s := yieldSlack (s.updTbl fun x => { x with tables := tabInsert x.tables t { d with life := .destroyed } })
          updCmd n (fun c => { c with stage := .running, mark := s.clk.now }) s
    | none => match runningCmd n [0x02] s with
      | some c => freeTable c s
      | none => s)

/-- After the hold a destroyed table's pans and data regions are released, and its TABLE_DESTROY completes; the number is free
again when the completion is written (R71). -/
def execTableRelease (t : Fin 128) (s : State) : Host.Outcome State Fault Refusal :=
  .next (match s.upd.cmds.find? fun c => decide (c.stage = .running) && opOf c.hdr == 2 && tableOf c.hdr == t.val &&
      c.count == 1 && c.mark ≤ s.clk.pclk with
    | none => s
    | some c => match tableAt t.val s with
      | none => s
      | some d =>
        if s.arr.holds.any (fun h => h.table == t.val) || s.arr.mreqs.any (fun q => q.table == t.val) then s
        else
          let s := assignPans d none s
          complete c.id 0 0 0 0 (s.updTbl fun x => { x with tables := tabInsert x.tables t.val { d with life := .released } }))

end Sys2Proof.Machine
end

