-- ==== Sys2Proof/Machine/Session.lean ====
section
/-! DEFINITION. The end of an image session, which ring control and resets also cause (R370). -/

namespace Sys2Proof.Machine

open Sys2Proof

/-- A session ends without a trial: its slot stays EMPTY and ABORTED sets (R369, R370). A window operation that ran ends. -/
def endSession (s : State) : State :=
  if s.fwu.session.isSome then
    let s := s.updFwu fun f => { f with session := none }
    let s := regPut Reg.fwuProg 0 (fieldPut Reg.fwuStat 31 26 0 s)
    raiseInt 18 4 (if flagGet Reg.fwuStat 25 s then
      flagPut Reg.fwuCtl 0 false (fieldPut Reg.fwuStat 25 23 0 s) else s)
  else s

end Sys2Proof.Machine
end

