-- ==== Sys2Proof/Machine/Epochs.lean ====
section
/-! DEFINITION. Epoch domains: batches, commits, flips, retirement, reconciliation and discards (R33, R40, R178 to R187,
R202, R223, R224). -/

namespace Sys2Proof.Machine

open Sys2Proof

/-- An event bit of a domain: 0 FLIP, 8 RETIRE, 16 DISCARD (Table 7.11). -/
def epcEvent (b d : Nat) (s : State) : State := raiseInt 9 (bitMask (b + d)) s

/-- Time-of-day in 2^-16 ns. -/
def todFrac (s : State) : Nat := s.tod.value / 65536

/-- The epoch counter after the next flip. -/
def Domain.next (m : Domain) : Nat := (m.cnt + 1) % 4294967296

/-- The flip of a domain at a recorded T (R178, R183, R184): the batch's journal waits for reconciliation. It ends an entry that asked
epoch control (R343). -/
def flip (d t : Nat) (s : State) : State :=
  let s := updDom d (fun m => { m with
    cnt := m.next, st := .idle, recon := true, owner := 0, t := some t, flipped := true, old := m.journal, journal := [] }) s
  withdraw 4 (epcEvent 0 d s)

/-- The write that gives a journalled slot the E bits of an epoch that stays: both if it is live in it, else none. -/
def settleSlot (n : Nat) (tag : MTag) (kept : Bool) (s : State) (x : Nat × Nat) : State :=
  match tableAt x.2 s, dirAt x.1 s with
  | some t, some e =>
    if e.live n then
      (if e.e0 && e.e1 then s else queueRows t x.2 x.1 (some e.both) 0 none none true none tag s)
    else queueRows t x.2 x.1 none 0 none none kept (some (bucketKey t e.key e.mask)) tag s
  | _, _ => s

/-- The restoring of a batch begins (R182): no ring owns it from now on. Slots live only in the next epoch are free at
once (R163). -/
def startDiscard (d : Nat) (s : State) : State :=
  let m := domAt d s
  updDom d (fun m => { m with discarding := true })
    (m.journal.foldl (fun s x => settleSlot m.cnt (.discard d) false s x) s)

/-- A ring enters OFF: its OPEN and CLOSED batches are discarded (R182). -/
def discardOwned (r : Nat) (s : State) : State :=
  (List.range 8).foldl (fun s d =>
    let m := domAt d s
    if (m.st = .open_ ∨ m.st = .closed) ∧ m.owner = r ∧ !m.discarding then startDiscard d s else s) s

/-- BATCH_BEGIN (Table 7.2, R33). -/
def execBatchBegin (n : Nat) (s : State) : Host.Outcome State Fault Refusal :=
  .next (match readyCmd n [0x20] s with
    | none => s
    | some c =>
      let d := domOf c.hdr
      let m := domAt d s
      if m.st ≠ .idle then complete n 0xb 0 0 0 s
      else complete n 0 0 0 0 (updDom d (fun m => { m with st := .open_, owner := c.ring, hold := m.recon }) s))

/-- The ring owns the domain's batch. -/
def owns (c : Cmd) (m : Domain) : Bool := m.owner == c.ring && !m.discarding

/-- BATCH_END (Table 7.2, R40, R176): to CLOSED after reconciliation and the batch's writes, or a discard. -/
def execBatchEnd (n : Nat) (s : State) : Host.Outcome State Fault Refusal :=
  .next (match readyCmd n [0x21] s with
    | none => s
    | some c =>
      let d := domOf c.hdr
      let m := domAt d s
      if m.st ≠ .open_ ∨ !owns c m then complete n 6 0 0 0 s
      else if optBit c.hdr 51 then
        let s := startDiscard d s
        updCmd n (fun c => { c with stage := .running, mark := discardRows d s }) s
      else if m.recon then s
      else complete n 0 0 0 (journalSlots m.journal s) (updDom d (fun m => { m with st := .closed }) s))

/-- The last restoring write is done: the domain goes to IDLE, and the BATCH_END that asked for it completes (R182). HOLD stays
until RECON clears (R33). -/
def execDiscardDone (d : Fin 8) (s : State) : Host.Outcome State Fault Refusal :=
  .next (
    if (domAt d.val s).discarding && !(s.arr.mreqs.any fun q => decide (q.tag = .discard d.val)) then
      let s := updDom d.val (fun m => { m with st := .idle, owner := 0, journal := [], discarding := false }) s
      let s := epcEvent 16 d.val s
      match s.upd.cmds.find? fun c => decide (c.stage = .running) && opOf c.hdr == 0x21 && domOf c.hdr == d.val with
      | some c => complete c.id 0 0 0 0 s
      | none => s
    else s)

/-- T of a COMMIT_AT in 2^-16 ns (Table 6.9). -/
def commitTime (c : Cmd) : Nat :=
  (bits (c.word 1) 63 16 * 1000000000 + bits (c.word 2) 63 32) * 65536 + bits (c.word 2) 31 16

/-- T in the layout of words 1 and 2 of Table 6.9. -/
def timeWords (t : Nat) : List W64 :=
  let ns := t / 65536
  [pack64 [(16, ns / 1000000000 % 2 ^ 48)], pack64 [(32, ns % 1000000000), (16, t % 65536)]]

/-- Commits of this device go through the ring: those of every manager (R223). -/
def cascadeCommits (s : State) : Bool := isManager s

/-- A manager sends PREPARE and waits for the workers' answers (R223). -/
def sendPrepare (c : Cmd) (t : Nat) (s : State) : State :=
  let d := domOf c.hdr
  let q := s.cas.cseq
  let s := ctlSend 4 31 (d * 2 ^ 29) (pack64 [(32, (domAt d s).cnt)] :: timeWords t) s
  updCmd c.id (fun c => { c with stage := .running }) (s.updCas fun x => { x with
    commit := some { cmd := c.id, dom := d, t := t, cseq := q, acks := [],
                     due := s.clk.now + 1000 * fieldGet Reg.casCmt 31 16 s } })

/-- A commit command that is ready, with its domain: DENIED on a worker, EPOCH_CLOSED unless CLOSED by the ring. -/
def runCommit (n op : Nat) (f : Cmd → Domain → State → State) (s : State) : State :=
  match readyCmd n [op] s with
  | none => s
  | some c =>
    let m := domAt (domOf c.hdr) s
    if isWorker s then complete n 8 0 8 0 s
    else if m.st ≠ .closed ∨ !owns c m then complete n 6 0 0 0 s
    else if s.cas.commit.isSome then s
    else f c m s

/-- The lead of a cascade commit in 2^-16 ns (CAS_CMT.LEAD). -/
def casLead (s : State) : Nat := fieldGet Reg.casCmt 15 0 s * 1000 * 65536

/-- COMMIT (R183, R223). -/
def execCommit (n : Nat) (s : State) : Host.Outcome State Fault Refusal :=
  .next (runCommit n 0x22 (fun c m s =>
    if cascadeCommits s then sendPrepare c (todFrac s + casLead s) s
    else complete n 0 0 0 m.next (flip (domOf c.hdr) (todFrac s) s)) s)

/-- COMMIT_AT (R184, R223). -/
def execCommitAt (n : Nat) (s : State) : Host.Outcome State Fault Refusal :=
  .next (runCommit n 0x23 (fun c m s =>
    let t := commitTime c
    let lead := if cascadeCommits s then casLead s else 1000 * 65536
    if todFrac s + 86400 * 1000000000 * 65536 < t then complete n 9 0 1 0 s
    else if t < todFrac s + lead then complete n 7 0 0 m.cnt s
    else if cascadeCommits s then sendPrepare c t s
    else complete n 0 0 0 m.next (updDom (domOf c.hdr) (fun m => { m with st := .pending, t := some t, owner := 0 }) s)) s)

/-- A PENDING domain flips at the first tick at which time-of-day is at or after T (R184, R197); a dead crossing delivers no
tick, and in SLEEP and DEEP the flip waits for the wake (R324, R339). -/
def execScheduledFlip (d : Fin 8) (s : State) : Host.Outcome State Fault Refusal :=
  .next (
    let m := domAt d.val s
    match m.t with
    | some t => if m.st = .pending ∧ t ≤ todFrac s ∧ !xingDead 43 s ∧ powerState s ≤ 1 then flip d.val t s else s
    | none => s)

/-- No search stamped before T is in an ingress FIFO or in a pipeline up to the end of the Pantry stage (R33). -/
def noneBefore (t : Nat) (s : State) : Bool :=
  ((List.range 4).all fun g => (grpFrames g s).all fun v => t ≤ v.stamp * 65536) &&
  s.pip.flight.all fun f => decide (f.stage = .verified) || t ≤ f.stamp * 65536

/-- The old epoch retires: T is cleared, and the reconciliation of the committed batch starts (R33, R40, R187). -/
def execEpochRetire (d : Fin 8) (s : State) : Host.Outcome State Fault Refusal :=
  .next (
    let m := domAt d.val s
    match m.t with
    | some t =>
      if m.flipped && noneBefore t s then
        let s := updDom d.val (fun m => { m with t := none, flipped := false }) s
        m.old.foldl (fun s x => settleSlot m.cnt (.recon d.val) true s x) s
      else s
    | none => s)

/-- The reconciliation of a domain completes: RECON clears and held batch writes may proceed (R33, R40, R187). -/
def execReconciliationDone (d : Fin 8) (s : State) : Host.Outcome State Fault Refusal :=
  .next (
    let m := domAt d.val s
    if m.recon && m.t.isNone && !(s.arr.mreqs.any fun q => decide (q.tag = .recon d.val)) then
      epcEvent 8 d.val (updDom d.val (fun m => { m with recon := false, hold := false, old := [] }) s)
    else s)

/-- A stopping ring whose commands are complete enters OFF, its batches are discarded and an image session that it holds ends
(R146, R182, R370). -/
def ringOff (r : Nat) (s : State) : State :=
  let q := ringAt r s
  if q.st = 2 ∧ ringIdle r s then
    let s := discardOwned r (updRing r (fun q => { q with st := 0, quiet := false }) s)
    let s := if r = relayRing then s.updCas fun c => { c with relayIn := [] } else s
    if fieldGet Reg.fwuStat 28 26 s = 1 ∧ (s.fwu.session.map (·.ring)) = some r then endSession s else s
  else s

def execRingStopDone (r : Fin 16384) (s : State) : Host.Outcome State Fault Refusal := .next (ringOff r.val s)

/-- STATE of a domain as Table 7.1 codes it. -/
def DomState.code (d : DomState) : Nat := match d with
  | .idle => 0
  | .open_ => 1
  | .closed => 2
  | .pending => 3
  | .prepared => 4

/-- A write to EPC_SEL latches the domain (R201, Tables 7.8 to 7.10). -/
def wrEpcSel (src : Party) (v : Word) (s : State) : State :=
  let d := bits v 2 0
  let m := domAt d s
  let ns := m.t.getD 0 / 65536
  let owner := if m.st = .idle ∨ m.st = .pending then 0 else m.owner
  let slots := journalSlots (if m.recon then m.old else m.journal) s
  [(Reg.epcSel, BitVec.ofNat 32 d), (Reg.epcCnt, BitVec.ofNat 32 m.cnt), (Reg.epcBatch, BitVec.ofNat 32 slots),
   (Reg.epcStat, pack32 [(29, m.st.code), (28, b2n m.recon), (27, b2n m.hold), (0, owner)]),
   (Reg.epcTSecLo, BitVec.ofNat 32 (ns / 1000000000)),
   (Reg.epcTSecHi, pack32 [(16, ns / 1000000000 / 4294967296 % 65536), (0, m.t.getD 0 % 65536)]),
   (Reg.epcTNs, BitVec.ofNat 32 (ns % 1000000000))].foldl (fun s rv => winPut src rv.1 rv.2 s) s

end Sys2Proof.Machine
end

