-- ==== Sys2Proof/Machine/Time.lean ====
section
/-! DEFINITION. Time-of-day: the time clock's tick, SET, STEP and SLEW, PPS_OUT, the pulse inputs and the snapshot window
(R189, R192 to R201). -/

namespace Sys2Proof.Machine

open Sys2Proof

/-- A 32-bit register as a two's-complement number. -/
def signed32 (w : Word) : Int := if w.toNat < 2147483648 then w.toNat else (w.toNat : Int) - 4294967296

/-- Attoseconds as units of 2^-32 ns, rounded down, and whether they are not whole units. -/
def slewUnits (a : Nat) : Nat × Bool := (a * 4294967296 / 1000000000, a * 4294967296 % 1000000000 != 0)

/-- Time-of-day after a change; a value outside the 48 bits of seconds is a free value (log entry 16). -/
def putTod (v : Int) (s : State) : State :=
  if 0 ≤ v ∧ v < (2 ^ 48 * secUnits : Nat) then s.updTod fun t => { t with value := v.toNat }
  else (nextFree s).updTod fun t => { t with value := (Config.freeWord s.clk.free).toNat % (2 ^ 48 * secUnits) }

/-- One tick of the time clock (R193): time-of-day advances by r, and a running slew's remainder counts down. How a slew's
increment is rounded to the accumulator's 32 fraction bits is a free bit (log entry 17). -/
def todTick (s : State) : State :=
  let t := s.tod
  let a := min t.slewRate t.slewLeft.natAbs
  let (u, part) := slewUnits a
  let up := part && Config.freeBit s.clk.free
  let u := u + b2n up
  let inc : Int := 4294967296 + signed32 (regGet Reg.todTrim s) + (if 0 ≤ t.slewLeft then (u : Int) else -u)
  let s := if part then nextFree s else s
  let s := s.updTod fun t => { t with
    prev := t.value
    slewLeft := if 0 ≤ t.slewLeft then t.slewLeft - a else t.slewLeft + a }
  putTod (s.tod.value + inc) s

/-- Attoseconds in 2^-8 ns. -/
def slewUnit : Nat := 3906250

/-- A write to TOD_CTL (R195, R196). -/
def wrTodCtl (src : Party) (v : Word) (s : State) : State :=
  let old := regGet Reg.todCtl s
  if (bit v 0 || bit v 1) && (bit old 0 || bit old 1) then refuseReg 4 src Reg.todCtl v s
  else
    let s := if bit v 2 then
        let amt := signed32 (regGet Reg.todSlewAmt s) * slewUnit
        let s := s.updTod fun t => { t with slewLeft := amt, slewRate := fieldGet Reg.todSlewRate 16 0 s }
        regPut Reg.todSlewAmt 0 (flagPut Reg.todStat 30 (amt != 0) s)
      else s
    if bit v 0 || bit v 1 then
      (regPut Reg.todCtl (old ||| (v &&& 3)) s).updTod fun t => { t with holdTill := some (s.clk.now + 100) }
    else s

/-- TOD_SET_* as a time in 2^-32 ns (Table 7.14). -/
def setValue (s : State) : Nat :=
  let sec := (regGet Reg.todSetSecLo s).toNat + fieldGet Reg.todSetSecHi 31 16 s * 4294967296
  (sec * 1000000000 + (regGet Reg.todSetNs s).toNat) * 4294967296 + fieldGet Reg.todSetSecHi 15 0 s * 65536

/-- TOD_STEP in 2^-32 ns. -/
def stepValue (s : State) : Int :=
  ((regGet Reg.todStepLo s).toNat + signed32 (regGet Reg.todStepHi s) * 4294967296) * 65536

/-- A deframer follows a SET or STEP: its copy takes the new time, unless its crossing is dead, and a backward one ends the order of
stamps that its group keeps (R191, R197; log entry 73). -/
def stepCopy (g : Nat) (back : Bool) (s : State) : State :=
  let s := if xingDead (44 + g) s then s else alignCopy g s
  if back then updGrp g (fun r => { r with lastStamp := 0 }) s else s

/-- A SET or STEP is applied: the W1S bits clear, SET_DONE sets, every stamp from then on follows it, no PPS_OUT pulse comes of it, and the
MP saves the new time-of-day (R195, R197, R198, R382). -/
def applyTod (v : Int) (s : State) : State :=
  let back := decide (v < s.tod.value)
  let s := putTod v s
  let s := s.updTod fun t => { t with prev := t.value, holdTill := none }
  let s := (List.range 4).foldl (fun s g => stepCopy g back s) s
  let s := regPut Reg.todCtl (regGet Reg.todCtl s &&& 4) s
  saveTod (flagPut Reg.todStat 31 false (flagPut Reg.todStat 29 true s))

/-- Some domain has flipped and its T is not cleared (R195). -/
def backwardHeld (s : State) : Bool := (List.range 8).any fun d => (domAt d s).recon && (domAt d s).t.isSome

/-- A requested SET or STEP is applied at its tick; a backward one is held while R195 says so, and STEP_WAIT reads 1. -/
def execTodAdjustApply (s : State) : Host.Outcome State Fault Refusal :=
  .next (
    let c := regGet Reg.todCtl s
    if !bit c 0 && !bit c 1 then s
    else
      let v : Int := if bit c 0 then setValue s else s.tod.value + stepValue s
      let back := if bit c 0 then decide (v < s.tod.value) else decide (stepValue s < 0)
      if back && backwardHeld s then flagPut Reg.todStat 31 true s else applyTod v s)

/-- A slew's remainder has reached 0 (R196). -/
def execSlewDone (s : State) : Host.Outcome State Fault Refusal :=
  .next (if s.tod.slewLeft = 0 then flagPut Reg.todStat 30 false s else s)

/-- TOD_SLEW_AMT as it reads: the staged amount, or the remainder of a running slew in 2^-8 ns; a remainder between two
of them reads as either, a free bit (log entry 17). -/
def readSlewAmt (s : State) : Word × State :=
  if flagGet Reg.todStat 30 s then
    let a := s.tod.slewLeft.natAbs
    let part := a % slewUnit != 0
    let q : Int := a / slewUnit + b2n (part && Config.freeBit s.clk.free)
    (BitVec.ofInt 32 (if 0 ≤ s.tod.slewLeft then q else -q), if part then nextFree s else s)
  else (regGet Reg.todSlewAmt s, s)

/-- Time-of-day counted through a nanosecond of the second in the last tick (R198). -/
def ppsCrossed (ofs : Nat) (s : State) : Bool :=
  let o := ofs * 4294967296
  (s.tod.prev + secUnits - o) / secUnits < (s.tod.value + secUnits - o) / secUnits

/-- PPS_OUT rises (R198). -/
def execPpsOutRise (s : State) : Host.Outcome State Fault Refusal :=
  .next (if flagGet Reg.todPpsOutCfg 31 s && ppsCrossed (fieldGet Reg.todPpsOutOfs 29 0 s) s then
    s.updTod fun t => { t with ppsHigh := true, ppsFall := s.clk.now + 1000 * fieldGet Reg.todPpsOutCfg 15 0 s }
  else s)

/-- PPS_OUT falls after WIDTH µs. -/
def execPpsOutFall (s : State) : Host.Outcome State Fault Refusal :=
  .next (if s.tod.ppsHigh && s.tod.ppsFall ≤ s.clk.now then s.updTod fun t => { t with ppsHigh := false } else s)

/-- A pulse input. -/
def pulseAt (i : Nat) (s : State) : Pulse := tabGet Pulse.idle s.tod.pulses i

def updPulse (i : Nat) (f : Pulse → Pulse) (s : State) : State :=
  s.updTod fun t => { t with pulses := tabMod Pulse.idle t.pulses i f }

/-- Low bit of MISSED_i (Table 7.19). -/
def missedLow (i : Nat) : Nat := 8 + 4 * i

/-- An edge that is not timestamped (R200). -/
def missPulse (i : Nat) (s : State) : State :=
  let lo := missedLow i
  raiseInt 10 (bitMask i) (fieldPut Reg.todPulseStat (lo + 3) lo (min 15 (fieldGet Reg.todPulseStat (lo + 3) lo s + 1)) s)

/-- An active edge on an enabled pulse input: its time is latched and the acknowledge phase opens, or it falls into one and is counted
(R199, R200, Table 7.5). Pulse inputs are not live in OFF (Table 13.1). -/
def execPulseEdge (i : Fin 3) (s : State) : Host.Outcome State Fault Refusal :=
  .next (if !flagGet Reg.todPulseCfg (2 * i.val) s || fieldGet Reg.pwrStat 31 29 s == 4 then s
    else if (pulseAt i.val s).waiting || xingDead (50 + i.val) s then missPulse i.val s
    else updPulse i.val (fun p => { p with
      waiting := true, edge := some (s.tod.value / 4294967296 * 4294967296, s.clk.now) }) s)

/-- The time island writes the capture of a latched edge, while its clock runs and the crossing is alive (step 4 of Table 7.5). -/
def capturePulse (i : Nat) (s : State) : State := match (pulseAt i s).edge with
  | some (v, _) =>
    if xingDead (50 + i) s || !flagGet Reg.todStat 28 s then s
    else updPulse i (fun p => { p with edge := none, cap := v, seq := (p.seq + 1) % 4294967296 }) s
  | none => s

/-- The captures written in a tick: 4 ns after their edges. -/
def pulseTick (s : State) : State :=
  (List.range 3).foldl (fun s i => match (pulseAt i s).edge with
    | some (_, t) => if t + 4 ≤ s.clk.now then capturePulse i s else s
    | none => s) s

/-- A crossing of a pulse input times out: an edge not written is lost and counted (Table 12.5). -/
def dropPulse (i : Nat) (s : State) : State :=
  if (pulseAt i s).edge.isSome then missPulse i (updPulse i (fun p => { p with edge := none }) s) else s

/-- The acknowledge returns, after the capture, and the front end re-arms (Table 7.5). -/
def execPulseRearm (i : Fin 3) (s : State) : Host.Outcome State Fault Refusal :=
  .next (
    let s := capturePulse i.val s
    if (pulseAt i.val s).edge.isSome then s else updPulse i.val (fun p => { p with waiting := false }) s)

/-- A write to TOD_PULSE_STAT: an OVERRUN bit written 1 clears, and its MISSED field with it (R200). -/
def wrPulseStat (v : Word) (s : State) : State :=
  (List.range 3).foldl (fun s i => if bit v i then
    flagPut Reg.todPulseStat i false (fieldPut Reg.todPulseStat (missedLow i + 3) (missedLow i) 0 s) else s) s

/-- The time island re-aligns the copy of each deframer (R189). -/
def execStampRealign (s : State) : Host.Outcome State Fault Refusal :=
  .next (if awake s then (List.range 4).foldl (fun s g => if xingDead (44 + g) s then s else alignCopy g s) s else s)

/-- A write to TOD_SNAP_SEL latches live time-of-day or a capture (R201). -/
def wrSnapSel (src : Party) (v : Word) (s : State) : State :=
  let k := bits v 3 0
  let t := if k = 0 then s.tod.value else (pulseAt (k - 1) s).cap
  let ns := t / 4294967296
  let seq := if k = 0 then 0 else (pulseAt (k - 1) s).seq
  [(Reg.todSnapSel, BitVec.ofNat 32 k), (Reg.todSnapSecLo, BitVec.ofNat 32 (ns / 1000000000)),
   (Reg.todSnapSecHi, pack32 [(16, ns / 1000000000 / 4294967296 % 65536), (0, t / 65536 % 65536)]),
   (Reg.todSnapNs, BitVec.ofNat 32 (ns % 1000000000)), (Reg.todSnapSeq, BitVec.ofNat 32 seq)].foldl
    (fun s rv => winPut src rv.1 rv.2 s) s

end Sys2Proof.Machine
end

