-- ==== Sys2Proof/Machine/Cascade.lean ====
section
/-! DEFINITION. The cascade: ring states, discovery, searches through the ring, cascade commits, admission, remote access
and relays (R203 to R228). -/

namespace Sys2Proof.Machine

open Sys2Proof

/-- The cascade link is UP and the device has a role that uses it (R204). -/
def fclUp (s : State) : Bool := (isManager s || isWorker s) && linkState .fcl s == gUp && !(grpAt LinkId.fcl.key s).parked

/-! Ring states (Table 8.3). -/

/-- The ring state of a manager entered; leaving FORMED is an event, and DOWN clears REFORM (Tables 8.20, 8.23). -/
def enterRing (st : Nat) (s : State) : State :=
  let was := ringState s
  let s := fieldPut Reg.casStat 24 22 st s
  let s := if was = 5 ∧ st ≠ 5 then raiseInt 11 1 s else s
  let s := s.updCas fun c => { c with discoverDue := none }
  if st = 0 then flagPut Reg.casCtl 0 false s else s

/-- CAS_CFG.EN moves the ring: DOWN is left with EN = 1, and FORMED and FAULT with EN = 0 (Table 8.3, which names no other state
for EN = 0; log entry 81). FAULT is also left with REFORM. -/
def ringEnable (s : State) : State :=
  if !isManager s then s
  else if flagGet Reg.casCfg 0 s then
    (if ringState s = 0 then enterRing 1 s else if ringState s = 7 ∧ flagGet Reg.casCtl 0 s then enterRing 0 s else s)
  else if ringState s = 5 ∨ ringState s = 7 then enterRing 0 s else s

/-- The groups bound to a pipeline are DOWN. -/
def pipeDown (p : Nat) (s : State) : Bool :=
  (pipeGroups p s).all fun g => fieldGet (Reg.lnkGrpStat g) 31 29 s == gDown

/-- A write to CAS_CFG (R213, Table 8.15). -/
def wrCasCfg (src : Party) (v : Word) (s : State) : State :=
  let old := regGet Reg.casCfg s
  let casc (p : Nat) : Bool := isManager s && bit old (1 + p)
  if [0, 1].any fun p =>
      !pipeDown p s && (bit old (1 + p) != bit v (1 + p) || (casc p && bits old 7 4 != bits v 7 4)) then
    refuseReg 4 src Reg.casCfg v s
  else
    ringEnable (markDirty (regPut Reg.casCfg (BitVec.ofNat 32 (bits v 7 0)) s))

/-- Every link of the ring is UP: a DISCOVER frame leaves (R209, R210), with DST 31 (DESIGN CHOICE, log entry 79: the rule gives
none). -/
def execRingLinksUp (s : State) : Host.Outcome State Fault Refusal :=
  .next (if fclUp s && isManager s && (ringState s == 1 || ringState s == 6) then
    let s := enterRing 2 s
    ctlSend 9 31 0 [0] (s.updCas fun c => { c with discoverDue := some (s.clk.now + 100000) })
  else s)

/-! Control frames (R211, R212). -/

/-- A frame that fails its CRC. -/
def fclCrc (s : State) : State := raiseInt 11 (bitMask 5) (cntAdd (Reg.casCnt 3) 1 s)

/-- A stray or malformed frame. -/
def fclStray (s : State) : State := cntAdd (Reg.casCnt 11) 1 s

/-- DST, ORIG, CSEQ and ARG of a control header (Table 8.7). -/
def ctlDst (h : W64) : Nat := bits h 59 55
def ctlOrig (h : W64) : Nat := bits h 54 51
def ctlSeq (h : W64) : Nat := bits h 50 39

/-- LEN agrees with the words of a frame, and is what its type needs. -/
def ctlForm (ty : Nat) (lens : List Nat) (ws : List W64) : Bool :=
  let h := ws.headD 0
  bits h 63 60 == ty && ws.length == bits h 38 32 + 2 && lens.contains (bits h 38 32)

/-- A control frame received: checked, removed by the manager, consumed or forwarded by a worker (R211, R212). -/
def ctlReceive (ty : Nat) (lens : List Nat) (ws : List W64) (consume : State → State) (s : State) : State :=
  if !fclUp s then s
  else if !crcGood ws then fclCrc s
  else if !ctlForm ty lens ws then fclStray s
  else
    let d := ctlDst (ws.headD 0)
    if isManager s then (if d = 0 then consume s else s)
    else
      let s := if d = devId s then s else coutSend ws s
      if d = devId s || d = 31 then consume s else s

/-- A worker's ACK of a frame (Table 8.7). -/
def sendAck (h : W64) (result : Nat) (data : List W64) (s : State) : State :=
  coutSend (ctlFrame 5 0 (ctlSeq h) (bits h 63 60 * 2 ^ 28 + result * 2 ^ 24) data s) s

/-! Discovery (R210). -/

/-- A worker appends its DEV_ID to a DISCOVER frame and forwards it. The ring forms anew: the next TIME frame SETs it (R222). -/
def execDiscoverFrame (words : List W64) (s : State) : Host.Outcome State Fault Refusal :=
  .next (
    if !fclUp s || !isWorker s then s
    else if !crcGood words then fclCrc s
    else if !ctlForm 9 [1] words then fclStray s
    else
      let b := words.getD 1 0
      let n := bits b 63 60
      let b := if n < 15 then pack64 [(60, n + 1), (0, bits b 59 0)] ||| pack64 [(56 - 4 * n, devId s)] else b
      coutSend (sealFrame [words.headD 0, b] 0) (s.updCas fun c => { c with aligned := false }))

/-- CAS_WK_k with STATE and CAUSE written. -/
def setWk (k st cause : Nat) (s : State) : State :=
  fieldPut (Reg.casWk k) 28 25 cause (fieldPut (Reg.casWk k) 31 29 st s)

/-- What a manager knows of worker k. -/
def wkAt (k : Nat) (s : State) : WkFacts := tabGet WkFacts.none s.cas.workers k

def updWk (k : Nat) (f : WkFacts → WkFacts) (s : State) : State :=
  s.updCas fun c => { c with workers := tabMod WkFacts.none c.workers k f }

/-- The workers of the ring. -/
def ringList (s : State) : List Nat := (List.range (ringWorkers s)).map (· + 1)

/-- The 64 words of 512 bytes of an image; bytes past its end are 0. -/
def portionWords (im : List Byte) (n : Nat) : List W64 := wordsOf (fun i => im.getD (512 * n + i) 0) 64

/-- The manager serves the image that it booted to a worker, or to every worker for 31, 512 bytes a frame, the header first (R229). -/
def serveImage (dst : Nat) (s : State) : State :=
  let n := (s.fwu.running.length + 511) / 512
  (List.range n).foldl (fun s i =>
    ctlSend 0xb dst (i * 2 ^ 10 + b2n (i + 1 == n)) (portionWords s.fwu.running i) s) s

/-- Discovery ends (R210): LOAD, or FAULT with a code. -/
def discovered (fault count : Nat) (s : State) : State :=
  let s := fieldPut Reg.casStat 21 20 fault (fieldPut Reg.casStat 19 16 count s)
  if fault ≠ 0 then raiseInt 11 (bitMask 4) (enterRing 7 s)
  else
    let s := (ringList (enterRing 3 s)).foldl (fun s k =>
      setWk k 1 0 (updWk k (fun f => { f with
        firmware := false, refused := false, inReset := false, timeBad := true, slotBad := true, doms := [] }) s)) (enterRing 3 s)
    serveImage 31 s

/-- The DISCOVER frame returns to the manager. -/
def execDiscoverReturn (words : List W64) (s : State) : Host.Outcome State Fault Refusal :=
  .next (
    if !fclUp s || !isManager s || ringState s != 2 then s
    else if !crcGood words then fclCrc s
    else if !ctlForm 9 [1] words then fclStray s
    else
      let b := words.getD 1 0
      let n := bits b 63 60
      let ordered := (List.range n).all fun i => bits b (59 - 4 * i) (56 - 4 * i) == i + 1
      discovered (if n = 0 then 1 else if ordered && n == ringWorkers s then 0 else 2) n s)

/-- 100 µs pass without its return. -/
def execDiscoverTimeout (s : State) : Host.Outcome State Fault Refusal :=
  .next (match s.cas.discoverDue with
    | some t => if isManager s && ringState s == 2 && t ≤ s.clk.now then discovered 3 (fieldGet Reg.casStat 19 16 s) s else s
    | none => s)

/-! LOAD, ALIGN and admission (R209, R225). -/

/-- The last cascade commit of a domain was decided GO. -/
def decidedGo (d : Nat) (s : State) : Bool := tabGet false s.cas.goLog d

/-- The STATE frame of a domain (Table 8.7). -/
def sendState (k d : Nat) (s : State) : State :=
  let m := domAt d s
  ctlSend 0xd k (d * 2 ^ 29)
    (pack64 [(32, m.cnt), (29, m.st.code), (28, b2n (decidedGo d s))] :: timeWords (m.t.getD 0)) s

/-- One STATE frame for each domain to a worker. -/
def replayTo (k : Nat) (s : State) : State :=
  (List.range 8).foldl (fun s d => sendState k d s) (updWk k (fun f => { f with doms := [], replay := s.cas.cseq }) s)

/-- The first of the conditions of R225 that a worker fails, as CAUSE of Table 8.17; 0 if it meets all. -/
def wkCause (f : WkFacts) : Nat :=
  if f.refused then 6
  else if !f.firmware || f.inReset then 5
  else if f.timeBad then 3
  else if f.slotBad then 4
  else if !(List.range 8).all f.doms.contains then 1
  else if !f.tables then 2
  else 0

/-- A worker becomes withheld. -/
def withholdWk (k : Nat) (s : State) : State := raiseInt 11 (bitMask 1) (setWk k 3 (wkCause (wkAt k s)) s)

/-- A worker withheld already shows its first failing cause; an admitted one that fails a condition is withheld (R217, R225). -/
def judgeWk (k : Nat) (s : State) : State :=
  let st := fieldGet (Reg.casWk k) 31 29 s
  let c := wkCause (wkAt k s)
  if st = 3 then setWk k 3 c s else if st = 4 ∧ c ≠ 0 then withholdWk k s else s

/-- Every worker runs firmware or has refused it: the ring aligns. -/
def execRingLoadDone (s : State) : Host.Outcome State Fault Refusal :=
  .next (if isManager s && ringState s == 3 && (ringList s).all fun k => (wkAt k s).firmware || (wkAt k s).refused then
    let s := (enterRing 4 s).updCas fun c => { c with timeDue := s.clk.now }
    (ringList s).foldl (fun s k => if (wkAt k s).refused then withholdWk k s else replayTo k (setWk k 2 0 s)) s
  else s)

/-- Every worker is admitted or withheld: the ring is formed. -/
def execRingAlignDone (s : State) : Host.Outcome State Fault Refusal :=
  .next (if isManager s && ringState s == 4 then
    enterRing 5 ((ringList s).foldl (fun s k =>
      let st := fieldGet (Reg.casWk k) 31 29 s
      if st = 4 ∨ st = 3 then s else withholdWk k s) s)
  else s)

/-- A worker meets the conditions of R225 that its own state shows: time, slot and image. -/
def selfAdmit (s : State) : Bool :=
  s.cas.aligned && !s.cas.slotBad && !s.cas.timeBad && !s.cas.imgRefused

/-- A worker is withheld: not admitted, out of slot or time, or past the T of a PREPARED domain (Table 8.12). -/
def workerOff (s : State) : Bool :=
  s.cas.withheld || s.cas.slotBad || s.cas.timeBad ||
    (List.range 8).any fun d => match (domAt d s).t with
      | some t => decide ((domAt d s).st = .prepared) && t ≤ todFrac s
      | none => false

/-- A change of a worker's own state is recorded where it withholds or admits the worker (R225). -/
def noteOff (was : Bool) (s : State) : State :=
  if workerOff s == was then s else raiseInt 11 (bitMask (if was then 2 else 1)) s

/-- A worker is admitted: by the manager, or, on the worker itself, it searches from now on (R225). `reload` says that the
start-up golden reload of the worker has completed, which makes its tables ready unless Table 8.12 asks for ADMIT. -/
def execWorkerAdmit (k : Fin 16) (reload : Bool) (s : State) : Host.Outcome State Fault Refusal :=
  .next (
    if isManager s then
      let st := fieldGet (Reg.casWk k.val) 31 29 s
      let f := wkAt k.val s
      let f := { f with tables := f.tables || (reload && !f.hold) }
      if (ringList s).contains k.val && (st == 2 || st == 3) && wkCause f == 0 then
        raiseInt 11 (bitMask 2) (setWk k.val 4 0 (updWk k.val (fun _ => f) s))
      else s
    else if isWorker s && k.val == devId s && selfAdmit s then
      noteOff (workerOff s) (s.updCas fun c => { c with withheld := false })
    else s)

/-- A write to CAS_CTL (Table 8.20). -/
def wrCasCtl (v : Word) (s : State) : State :=
  let s := fieldPut Reg.casCtl 7 4 (bits v 7 4) s
  let s := if bit v 1 then
      let k := bits v 7 4
      if 0 < k then judgeWk k (updWk k (fun f => { f with tables := true, hold := false }) s) else s
    else s
  if !bit v 0 then s
  else if isManager s && ringState s == 7 then enterRing 0 s
  else if isManager s && ringState s == 0 then s
  else flagPut Reg.casCtl 0 true s

/-! Searches on a worker (R214 to R217, R221). -/

/-- The worker is the last of the ring and forwards no CSEARCH. -/
def lastWorker (s : State) : Bool := devId s == ringWorkers s

/-- A CSEARCH agrees with its own header. -/
def csearchForm (ws : List W64) : Bool :=
  let kw := bits (ws.headD 0) 39 36
  bits (ws.headD 0) 63 60 == 1 && 1 ≤ kw && kw ≤ 10 && ws.length == kw + 2

/-- The distance of two numbers. -/
def natDist (a b : Nat) : Nat := (a - b) + (b - a)

/-- The stamp of a CSEARCH: the time whose NS / 2 modulo 2^25 equals STAMP and which lies nearest time-of-day (R214). -/
def nearestStamp (f : Nat) (s : State) : Nat :=
  let own := s.tod.value / 4294967296
  let sec := own / 1000000000
  let cands := [sec - 1, sec, sec + 1].flatMap fun x =>
    ((List.range 15).map fun m => 2 * (f + m * 33554432)).filterMap fun n =>
      if n < 1000000000 then some (x * 1000000000 + n) else none
  cands.foldl (fun a c => if natDist c own < natDist a own then c else a) (cands.headD 0)

/-- A worker's search that reports every lookup 11: it waits for the incoming candidate to replace it (R216). -/
def deadSearch (h : W64) (s : State) : State :=
  let p : Pipe := if bit h 35 then .b else .a
  let f : Search :=
    { pipe := p, stage := .verified, grp := 4, hdr := h, key := [], stamp := 0, vec := 0, profNo := bits h 47 40,
      prof := Profile.empty, reject := 15, prfBad := false, disp := s.clk.pclk, issue := 0, leave := 0,
      gap := maskGap s.pip.schedActive (Pipe.idx p), lks := [], casc := true, sent := true, candIn := none }
  s.updPip fun x => { x with flight := x.flight ++ [f] }

/-- The cycle in which a search's own candidate is ready. -/
def candDue (f : Search) : Nat := f.disp + 122 + f.gap

/-- The CAND that replaces an incoming one when a worker reports every lookup 11: its own tag, profile and pipeline, and
the number of lookups and words of the incoming frame. -/
def retryCand (f : Search) (incoming : List W64) : List W64 :=
  let h := incoming.headD 0
  let n := bits h 17 14
  let words := incoming.length - 2
  sealFrame (pack64 ([(60, 2), (48, bits f.hdr 59 48), (40, f.profNo), (35, words), (34, Pipe.idx f.pipe), (14, n)] ++
    statusBits 33 (List.replicate n LkRes.retry)) :: List.replicate words 0) 0

/-- The CAND of a worker that reports every lookup 11 and to which no candidate came (R216). The lookups and words are those of its
own copy of the profile; where it has none, or the CSEARCH did not arrive whole, their numbers are free values (log entry 26). -/
def deadCand (f : Search) (s : State) : State :=
  let (n, words, s) := match tabFind s.tbl.profiles f.profNo with
    | some p => (p.nlook, candWords p s, s)
    | none =>
      let x := (Config.freeWord s.clk.free).toNat
      (1 + x % 8, 2 * (1 + x % 8) + x / 8 % (2 + x % 8), nextFree s)
  coutSend (sealFrame (pack64 ([(60, 2), (48, bits f.hdr 59 48), (40, f.profNo), (35, words), (34, Pipe.idx f.pipe), (14, n)] ++
    statusBits 33 (List.replicate n LkRes.retry)) :: List.replicate words 0) 0) s

/-- A worker's search whose incoming candidate did not come merges with none (R215, R216), two cycles past its time. -/
def expireCands (s : State) : State :=
  if !isWorker s then s
  else
    let late (f : Search) : Bool := decide (f.stage = .verified) && f.candIn.isNone && candDue f + 2 < s.clk.pclk
    let s1 := (s.pip.flight.filter late).foldl (fun s f =>
      if f.reject ≠ 0 then deadCand f s else coutSend (candFrame f (mergeCand false [] (f.lks.map (·.res))) s) s) s
    s1.updPip fun x => { x with flight := x.flight.filter fun f => !late f }

/-- A search in slot SLOT of this device's frame: the wait from alignment, if it can be reached (R214, R221). -/
def slotWait (p : Pipe) (slot : Nat) (s : State) : Option Nat :=
  let a := s.clk.pclk + 28
  let t := schedFor a s
  let i := Pipe.idx p
  (List.range (maskGap t i)).find? fun w =>
    slotAt (a + w) s == slot && inMask t i slot && tabGet 0 s.pip.nextIssue i ≤ a + w && !acrossSwitch a w s

/-- A worker dispatches a CSEARCH. -/
def workerSearch (ws : List W64) (s : State) : State :=
  let h := ws.headD 0
  let p : Pipe := if bit h 35 then .b else .a
  let i := Pipe.idx p
  let n := bits h 47 40
  let prof := profileFor n s
  if searchReason n i (bits h 39 36) s ≠ 0 then
    -- "counts the event" names no counter: which one is free (log entry 26)
    deadSearch h (cntAdd (Reg.casCnt ((Config.freeWord s.clk.free).toNat % 12)) 1 (nextFree s))
  else match slotWait p (bits h 34 29) s with
    | none =>
      deadSearch h (noteOff (workerOff s) (cntAdd (Reg.casCnt 10) 1 (s.updCas fun c => { c with slotBad := true })))
    | some w =>
      let a := s.clk.pclk + 28
      let g := maskGap (schedFor a s) i
      let st := nearestStamp (bits h 28 4) s
      let bad := profileBad n (prof.getD Profile.empty) s
      let f : Search :=
        { pipe := p, stage := .dispatched, grp := 4, hdr := h, key := (ws.drop 1).take (bits h 39 36), stamp := st,
          vec := epochVector st s, profNo := n, prof := prof.getD Profile.empty, reject := 0, prfBad := bad,
          disp := s.clk.pclk, issue := a + w, leave := s.clk.pclk + 122 + g, gap := g, lks := [], casc := true,
          sent := true, candIn := none }
      let s := s.updPip fun x => { x with
        flight := x.flight ++ [f]
        nextIssue := tabSet 0 x.nextIssue i (a + w + 1)
        lastAlign := tabSet 0 x.lastAlign i a
        lastGap := tabSet 0 x.lastGap i g }
      if bad then errRecord 0x12 4 2 0 (searchLoc 0 p (bits h 59 48) 0 n 0) (intCount 13 s) else s

/-- A worker receives a CSEARCH. -/
def execCsearch (words : List W64) (s : State) : Host.Outcome State Fault Refusal :=
  .next (
    if !fclUp s then s
    else if !isWorker s then fclStray s
    else
      let s := expireCands s
      let h := words.headD 0
      if workerOff s then (if lastWorker s then s else coutSend words s)
      else if !crcGood words then deadSearch h (fclCrc s)
      else if !csearchForm words then deadSearch h (fclStray s)
      else
        let s := if lastWorker s then s else coutSend words s
        let s := wakeEvent 4 s
        workerSearch words s)

/-- A CAND agrees with its own header (Table 8.6). -/
def candForm (ws : List W64) : Bool :=
  let w := bits (ws.headD 0) 39 35
  bits (ws.headD 0) 63 60 == 2 && 2 ≤ w && w ≤ 24 && ws.length == w + 2

/-- The lookups of a CAND, read with the RSIZE of each. -/
def candLookups (h : W64) : List Nat → Nat → List W64 → List LkRes
  | [], _, _ => []
  | r :: rs, l, ws =>
    let n := if r = 2 then 2 else 1
    let loc := ws.headD 0
    let d (i : Nat) : W64 := ws.getD (1 + i) 0
    let w (x : Nat) : Word := BitVec.ofNat 32 x
    let units : List Word := match r with
      | 0 => [w (d 0).toNat]
      | 1 => [w ((d 0).toNat >>> 32), w (d 0).toNat]
      | _ => [w ((d 0).toNat >>> 32), w (d 0).toNat, w ((d 1).toNat >>> 32), w (d 1).toNat]
    ⟨bits h (33 - 2 * l) (32 - 2 * l), bits loc 62 59, bits loc 58 37, bits loc 36 21, units⟩ ::
      candLookups h rs (l + 1) (ws.drop (1 + n))

/-- A CAND has the TAG, PROFILE and PIPE of a search. -/
def candMatches (h : W64) (f : Search) : Bool :=
  bits h 59 48 == bits f.hdr 59 48 && bits h 47 40 == f.profNo && bits h 34 34 == Pipe.idx f.pipe

/-- The search that an incoming CAND meets: the first it matches, else the first whose candidate is due. -/
def candTarget (good : Bool) (h : W64) (s : State) : Option (Nat × Search × Bool) :=
  let open_ (f : Search) : Bool := f.casc && f.sent && f.candIn.isNone
  let pick (p : Search → Bool) : Option (Nat × Search) := match s.pip.flight.findIdx? fun f => open_ f && p f with
    | some i => s.pip.flight[i]?.map fun f => (i, f)
    | none => none
  match (if good then pick (candMatches h) else none) with
  | some (i, f) => some (i, f, true)
  | none => (pick fun f => candDue f ≤ s.clk.pclk).map fun x => (x.1, x.2, false)

/-- A CAND reaches a device: it is merged with the device's own candidate and sent on, or ends at the manager (R215 to
R217). One that no search of a worker awaits is forwarded, or dropped and counted if it fails the checks of R211. -/
def execCand (words : List W64) (s : State) : Host.Outcome State Fault Refusal :=
  .next (
    if !fclUp s then s
    else if isWorker s && workerOff s && s.pip.flight.isEmpty then coutSend words s
    else
      let s := expireCands s
      let h := words.headD 0
      let crc := crcGood words
      let good := crc && candForm words
      let s := if isManager s then cntWrap (Reg.casCnt 1) 1 s else s
      match candTarget good h s with
      | none =>
        if !crc then fclCrc s
        else if isWorker s && candForm words then coutSend words s
        else fclStray s
      | some (i, f, same) =>
        let s := if !crc then fclCrc s else if !candForm words then fclStray s
          else if !same then cntAdd (Reg.casCnt 5) 1 s else s
        if f.reject ≠ 0 then dropFlight i (coutSend (retryCand f words) s)
        else
          let ci := candLookups h ((List.range f.prof.nlook).map fun l => lkRsize f.prof l s) 0 (words.drop 1)
          let f := { f with candIn := some (same, ci) }
          if isWorker s && decide (f.stage = .verified) then
            dropFlight i (coutSend (candFrame f (mergeCand same ci (f.lks.map (·.res))) s) s)
          else setFlight i f s)

/-! Cascade commits (R223, R224). -/

/-- T of body words in the layout of words 1 and 2 of Table 6.9, in 2^-16 ns. -/
def bodyTime (a b : W64) : Nat := (bits a 63 16 * 1000000000 + bits b 63 32) * 65536 + bits b 31 16

/-- RESULT of a PREPARE, checked in the order of Table 8.8. -/
def prepareResult (m : Domain) (counter t : Nat) (s : State) : Nat :=
  if m.st = .open_ then 1
  else if m.recon then 2
  else if m.cnt ≠ counter then 3
  else if t < todFrac s + 1000 * 65536 then 4
  else if m.st = .prepared ∨ m.st = .pending then 5
  else 0

/-- A worker receives PREPARE. -/
def execCasPrepare (words : List W64) (s : State) : Host.Outcome State Fault Refusal :=
  .next (ctlReceive 4 [3] words (fun s =>
    let h := words.headD 0
    let d := bits h 31 29
    let t := bodyTime (words.getD 2 0) (words.getD 3 0)
    let r := prepareResult (domAt d s) (bits (words.getD 1 0) 63 32) t s
    sendAck h r [] (if r = 0 then updDom d (fun m => { m with before := m.st, st := .prepared, t := some t }) s else s)) s)

/-- A worker receives DECIDE. -/
def execCasDecide (words : List W64) (s : State) : Host.Outcome State Fault Refusal :=
  .next (ctlReceive 6 [0] words (fun s =>
    let h := words.headD 0
    let d := bits h 31 29
    if (domAt d s).st ≠ .prepared then s
    else if bit h 28 then sendAck h 0 [] (updDom d (fun m => { m with st := .pending, owner := 0 }) s)
    else updDom d (fun m => { m with st := m.before, t := none }) s) s)

/-- CAS_CMT_STAT and the end of a cascade commit, with DECIDE sent. -/
def decideCommit (c : CasCommit) (outcome dev code : Nat) (s : State) : State :=
  let s := regPut Reg.casCmtStat (pack32 [(30, outcome), (27, c.dom), (23, dev), (19, code)]) s
  ctlSend 6 31 (c.dom * 2 ^ 29 + (if outcome = 1 then 2 ^ 28 else 0)) [] (s.updCas fun x => { x with
    commit := none, goLog := tabSet false x.goLog c.dom (outcome == 1) })

/-- The command of a commit completes, if it is still in flight. -/
def completeCommit (n status value : Nat) (s : State) : State :=
  if (cmdAt n s).isSome then complete n status 0 0 value s else s

/-- The manager aborts (R224). -/
def abortCommit (c : CasCommit) (outcome dev code : Nat) (s : State) : State :=
  let s := decideCommit c outcome dev code s
  let s := raiseInt 11 (bitMask 3) (cntAdd (Reg.casCnt 8) 1 s)
  completeCommit c.cmd 0xa (domAt c.dom s).cnt s

/-- ACK OK has come from every worker: T is recorded, and GO and the completion leave (R223 step 4). -/
def goCommit (c : CasCommit) (s : State) : State :=
  let v := (domAt c.dom s).next
  let s := updDom c.dom (fun m => { m with st := .pending, t := some c.t, owner := 0 }) s
  completeCommit c.cmd 0 v (decideCommit c 1 0 0 s)

/-- The answer to PREPARE of worker k. -/
def ackPrepare (k cseq result : Nat) (s : State) : State := match s.cas.commit with
  | none => s
  | some c =>
    if c.cseq ≠ cseq || !(ringList s).contains k then s
    else if result ≠ 0 then abortCommit c 2 k result s
    else
      let c := { c with acks := if c.acks.contains k then c.acks else k :: c.acks }
      if (ringList s).all fun j => c.acks.contains j then goCommit c s
      else s.updCas fun x => { x with commit := some c }

/-- EXISTS, GUARDED, WIDTH, DOMAIN, RSIZE and STRIDE of a TBL_CFG (Table 3.4, R220). -/
def tblIdentity (v : Word) : Nat := bits v 31 21

/-- What a worker's answer to a CTRL read says: code and ERR fields. For a status register they are those it shows, which a worker
fixes with the write (log entry 23); for a lookup's table, CODE 2 where it differs from the manager's. -/
def jobAnswer (kind what : Nat) (v : Word) (s : State) : Nat × Nat :=
  if what = 0 then (if kind = 0 then (bits v 11 8, bits v 6 4 * 16 + bits v 2 0) else (bits v 3 0, v.toNat))
  else match s.tbl.prfOp with
    | some o =>
      let own := ((tableWindow (o.staged.table (what - 1)) s).find? fun x => x.1 == Reg.tblCfg).map (·.2)
      (if tblIdentity (own.getD 0) = tblIdentity v then 0 else 2, (what - 1) * 16)
    | none => (0, 0)

/-- An answer reaches the job that asked for it. -/
def answerJob (k cseq : Nat) (v : Word) (s : State) (j : CasJob) : CasJob :=
  match j.asks.find? fun a => a.1 == cseq && a.2.1 == k with
  | some a => { j with asks := j.asks.filter (· != a), answers := j.answers ++ [(k, jobAnswer j.kind a.2.2 v s)] }
  | none => j

/-- A worker's answer to a read of a job. With the last one a schedule's boundary is fixed, and that of a profile operation is the
next frame boundary (R220). -/
def ackJob (k cseq : Nat) (v : Word) (s : State) : State :=
  let was := jobOpen 0 s
  let s := s.updCas fun c => { c with jobs := c.jobs.map (answerJob k cseq v s) }
  let s := if was && !jobOpen 0 s then
      s.updTbl fun x => { x with prfOp := x.prfOp.map fun o => { o with due := boundaryFrom (s.clk.pclk + 1) s } }
    else s
  schedGo s

/-- The remote access in progress ends (R227). -/
def remoteDone (cseq result : Nat) (v : Word) (s : State) : State := match s.cas.remote with
  | some (q, write) =>
    if q ≠ cseq then s
    else
      let s := s.updCas fun c => { c with remote := none }
      let s := flagPut Reg.casRaCtl 31 false (fieldPut Reg.casRaCtl 27 24 result s)
      if write || result ≠ 0 then s else regPut Reg.casRaData v s
  | none => s

/-- What the manager does with an ACK (Table 8.7). -/
def ackEffect (words : List W64) (s : State) : State :=
  let h := words.headD 0
  let k := ctlOrig h
  let result := bits h 27 24
  let data : Word := BitVec.ofNat 32 (words.getD 1 0).toNat
  match bits h 31 28 with
  | 0x4 => ackPrepare k (ctlSeq h) result s
  | 0xa => ackJob k (ctlSeq h) data (remoteDone (ctlSeq h) result data s)
  | 0xb =>
    if !(ringList s).contains k then s
    else if result = 0 then
      let s := updWk k (fun f => { f with firmware := true }) s
      if 4 ≤ ringState s then replayTo k s else s
    else withholdWk k (updWk k (fun f => { f with refused := true }) s)
  | 0xd =>
    let d := (ctlSeq h + 4096 - (wkAt k s).replay % 4096) % 4096
    if d < 8 then judgeWk k (updWk k (fun f => { f with doms := if f.doms.contains d then f.doms else f.doms ++ [d] }) s) else s
  | _ => s

/-- An ACK arrives; a worker forwards it. -/
def recvAck (words : List W64) (s : State) : State :=
  ctlReceive 5 [0, 1] words (fun s => if isManager s then ackEffect words s else s) s

def execCasAck (words : List W64) (s : State) : Host.Outcome State Fault Refusal := .next (recvAck words s)

/-- An answer to PREPARE is missing (R224). No RESULT came from the silent worker: CAS_CMT_STAT.CODE reads 0 (DESIGN CHOICE, log
entry 80). -/
def execPrepareTimeout (s : State) : Host.Outcome State Fault Refusal :=
  .next (match s.cas.commit with
    | some c =>
      if c.due ≤ s.clk.now then
        abortCommit c 3 (((ringList s).find? fun k => !c.acks.contains k).getD 0) 0 s
      else s
    | none => s)

/-! Time and replay (R221, R222, R225). -/

/-- A worker had answered ACK OK to a PREPARE whose commit is not over: it waits for its decision, or its T is not reached. -/
def ackedWk (k : Nat) (s : State) : Bool :=
  s.cas.commit.any (·.acks.contains k) || (List.range 8).any fun d => decide ((domAt d s).st = .pending)

/-- TOD_OFS of Table 8.17: signed, saturating. -/
def todOfs (x : Int) : Nat := (max (-32768) (min 32767 x) % 65536).toNat

/-- What the manager does with what it has learned of a worker (R217, R222, R225, R229): its offset is shown, a worker back from a
warm reset is replayed, one back from a cold reset is served its image first, and a worker that fails a condition of R225 is
withheld. After an ACK to PREPARE a cold reset makes ADMIT necessary (Table 8.12). -/
def seenWorker (w : WorkerSeen) (s : State) : State :=
  let k := w.dev.val
  if !(ringList s).contains k then s
  else
    let s := fieldPut (Reg.casWk k) 15 0 (todOfs w.ofs) s
    let s := updWk k (fun f => { f with
      inReset := decide (w.state = .inReset)
      asleep := decide (w.state = .asleep)
      timeBad := decide (400 < w.ofs.natAbs) || (f.timeBad && decide (30 < w.ofs.natAbs))
      slotBad := !w.slotOk }) s
    let s := match w.state with
      | .warm => replayTo k s
      | .cold => serveImage k (updWk k (fun f => { f with
          firmware := false, refused := false, doms := [], tables := false, hold := f.hold || ackedWk k s }) s)
      | _ => s
    judgeWk k s

/-- The manager sends a TIME frame in ALIGN and every 125 µs after it, unless the crossing from time to the cascade lanes is dead
(R324), and takes note of its workers: `seen` (log entry 82). -/
def execTimeFrameSend (seen : List WorkerSeen) (s : State) : Host.Outcome State Fault Refusal :=
  .next (if awake s && isManager s && (ringState s == 4 || ringState s == 5) then
    seen.foldl (fun s w => seenWorker w s)
      (if s.cas.timeDue ≤ s.clk.now && !xingDead 48 s then
        ctlSend 7 31 (s.clk.slot * 2 ^ 26) (timeWords (todFrac s)) (s.updCas fun c => { c with timeDue := s.clk.now + 125000 })
      else s)
  else s)

/-- 1 ns of time-of-day. -/
def nsUnits : Nat := 4294967296

/-- A worker steers its trim and its slew to remove an offset in 2^-32 ns (R222). The trim and the rate it chooses are free
values within their encodings (log entry 24). -/
def steer (off : Int) (s : State) : State :=
  let trim : Int := ((Config.freeWord s.clk.free).toNat % 8589935 : Nat) - 4294967
  let s := nextFree (regPut Reg.todTrim (BitVec.ofInt 32 trim) s)
  let rate := (Config.freeWord s.clk.free).toNat % 100001
  let left := -(off * 1000000000 / (nsUnits : Int))
  flagPut Reg.todStat 30 (left != 0) ((nextFree s).updTod fun t => { t with slewLeft := left, slewRate := rate })

/-- A worker aligns its frame counter and disciplines its time-of-day by a TIME frame. -/
def timeReceived (words : List W64) (s : State) : State :=
  let carried := bodyTime (words.getD 1 0) (words.getD 2 0) * 65536
  let want := carried + devId s * 26 * nsUnits + Config.ringFlight (devId s)
  let was := workerOff s
  let s := s.updClk fun c => { c with slot := bits (words.headD 0) 31 26 }
  let s := s.updCas fun c => { c with slotBad := false }
  noteOff was (
    if !s.cas.aligned then applyTod want (s.updCas fun c => { c with aligned := true, offset := 0, timeBad := false })
    else
      let off : Int := (s.tod.value : Int) - want
      let s := steer off (s.updCas fun c => { c with offset := off })
      if 40 * nsUnits < off.natAbs then raiseInt 11 (bitMask 7) (s.updCas fun c => { c with timeBad := true })
      else if off.natAbs ≤ 3 * nsUnits then s.updCas fun c => { c with timeBad := false }
      else s)

def execTimeFrame (words : List W64) (s : State) : Host.Outcome State Fault Refusal :=
  .next (ctlReceive 7 [2] words (fun s => if isWorker s then timeReceived words s else s) s)

/-- A worker applies the manager's view of a domain as Table 8.12 gives. -/
def applyState (d counter code t : Nat) (go : Bool) (s : State) : State :=
  let m := domAt d s
  if m.st = .prepared then
    if !go then updDom d (fun m => { m with st := m.before, t := none }) s
    else
      let s := updDom d (fun m => { m with st := .pending, owner := 0 }) s
      if counter = m.next then flip d (m.t.getD t) s else s
  else if m.st = .pending then s
  else
    let s := updDom d (fun m => { m with cnt := counter }) s
    if code = 3 then updDom d (fun m => { m with st := .pending, t := some t, owner := 0 }) s else s

def execStateFrame (words : List W64) (s : State) : Host.Outcome State Fault Refusal :=
  .next (ctlReceive 0xd [3] words (fun s =>
    if isManager s then s
    else
      let h := words.headD 0
      let b := words.getD 1 0
      sendAck h 0 [] (applyState (bits h 31 29) (bits b 63 32) (bits b 31 29)
        (bodyTime (words.getD 2 0) (words.getD 3 0)) (bit b 28) s)) s)

/-! Relays (R228). -/

/-- A relayed command enters a worker's relay ring, where it waits to be served as the commands of every ring do (R149, R228). A ring
that does not run takes none: OFF and STOP fetch no command (R146; log entry 83). -/
def relayCommand (words : List W64) (s : State) : State :=
  let h := words.headD 0
  let ws := (words.drop 1).take (bits h 38 32)
  let q := ringAt relayRing s
  if q.st = 0 ∨ q.st = 2 then fclStray s
  else
    let s := if s.cas.relayIn.isEmpty then ringOpens relayRing s else s
    updRing relayRing (fun q => { q with tail := (q.tail + ws.length / 8) % q.size })
      (s.updCas fun c => { c with relayIn := c.relayIn ++ [(ctlSeq h, ws)] })

/-- A relayed completion is written to the ring of the manager that relayed the command. -/
def relayDone (words : List W64) (s : State) : State :=
  match s.upd.cmds.find? fun c => decide (c.stage = .relayed) && c.mark == ctlSeq (words.headD 0) with
  | none => fclStray s
  | some c =>
    let a := words.getD 1 0
    let b := words.getD 2 0
    complete c.id (bits a 55 48) (bits b 61 40) (bits b 39 32) (bits b 31 0) s

def execRelayFrame (words : List W64) (s : State) : Host.Outcome State Fault Refusal :=
  .next (ctlReceive 0xc [2, 8, 16, 32] words (fun s =>
    if isManager s then relayDone words s
    else if bit (words.headD 0) 31 then relayCommand words s
    else s) s)

/-! Remote access (R227, Table 8.21). -/

/-- A write to CAS_RA_CTL: OP sends a CTRL frame and sets BUSY, on the manager whose window it is (R204, R227). -/
def wrRaCtl (src : Party) (v : Word) (s : State) : State :=
  if flagGet Reg.casRaCtl 31 s then refuseReg 4 src Reg.casRaCtl v s
  else if bits v 1 0 = 0 ∨ bits v 1 0 = 3 ∨ !isManager s then s
  else
    let write := bits v 1 0 == 2
    let k := fieldGet Reg.casRaSel 31 28 s
    let off := fieldGet Reg.casRaSel 23 2 s * 4
    let s := flagPut Reg.casRaCtl 31 true (s.updCas fun c => { c with remote := some (c.cseq, write) })
    if write then ctrlWrite k off (regGet Reg.casRaData s) s else ctrlRead k off s

/-- A write to CAS_RA_SEL or CAS_RA_DATA. -/
def wrRaWindow (src : Party) (off : Nat) (v : Word) (s : State) : State :=
  if flagGet Reg.casRaCtl 31 s then refuseReg 4 src off v s
  else plainWrite off v s

def execCasRaDone (words : List W64) (s : State) : Host.Outcome State Fault Refusal := .next (recvAck words s)

/-- CAS_LAT_p as it reads (Table 8.19). -/
def rdCasLat (p : Nat) (s : State) : Word :=
  if isManager s && flagGet Reg.casCfg (1 + p) s then
    BitVec.ofNat 32 (bits (pipLat (maskGap s.pip.schedActive p) (oppCur s)) 15 0 + ringWorkers s * 2600 + 2000)
  else 0

end Sys2Proof.Machine
end

