-- ==== Sys2Proof/Machine/Dram.lean ====
section
/-! DEFINITION. Memory mode, bank ownership, the DRAM controller and its arbiter (R289 to R316). -/

namespace Sys2Proof.Machine

open Sys2Proof

/-! Memory mode and bank ownership (R296 to R299). -/

/-- GLB_MEM_MODE.MODE: 0 START, 1 SERVICE, 2 RECOVERY. -/
def memMode (s : State) : Nat := fieldGet Reg.glbMemMode 1 0 s

/-- GLB_BANK_OWN_n.OWNER: 0 NONE, 1 MP, 2 HOST, 3 BIST, 4 LOADER. -/
def bankOwner (n : Nat) (s : State) : Nat := fieldGet (Reg.glbBankOwn n) 18 16 s

/-- GLB_BANK_OWN_n.BUSY. -/
def bankBusy (n : Nat) (s : State) : Bool := flagGet (Reg.glbBankOwn n) 31 s

/-- The owner of a bank written. -/
def setOwner (n o : Nat) (s : State) : State := fieldPut (Reg.glbBankOwn n) 18 16 o s

/-- Every bank given to an owner, no handover under way. -/
def ownAll (o : Nat) (s : State) : State :=
  (List.range 72).foldl (fun s n => setOwner n o (flagPut (Reg.glbBankOwn n) 31 false s))
    (s.updDrc fun d => { d with handTo := [] })

/-- Both pipelines are quiesced: dispatch is held and no tag is in flight (R359). -/
def quiesced (s : State) : Bool := s.pip.quiesce && s.pip.flight.isEmpty

/-- Every link that may train starts to (Table 4.6; R98, R204). -/
def startTraining (s : State) : State :=
  [LinkId.fll 0, .fll 1, .fll 2, .fll 3, .fcl].foldl (fun s l =>
    if linkTrains l s && linkState l s == gDown then enterAdapt l (startTx l.key s) else s) s

/-- MODE becomes SERVICE: from START, start-up or a warm reset ends, WARM clears and the links train (Tables 12.10,
12.12). -/
def enterService (s : State) : State :=
  let start := memMode s = 0
  let s := flagPut Reg.glbRstCtl 8 false (fieldPut Reg.glbMemMode 1 0 1 s)
  if start then startTraining s else s

/-- A write to GLB_MEM_MODE (R296). -/
def wrMemMode (src : Party) (v : Word) (s : State) : State :=
  let m := bits v 1 0
  let old := memMode s
  let no (c : Nat) : State := refuseReg c src Reg.glbMemMode v s
  if src ≠ .mp then no 3
  else if m = old then s
  else if m = 1 then
    if (List.range 72).any fun n => bankBusy n s || 3 ≤ bankOwner n s then no 4
    else enterService s
  else if m = 2 ∧ old = 1 then
    if quiesced s then ownAll 1 (fieldPut Reg.glbMemMode 1 0 2 s) else no 4
  else no 4

/-- The owner code of a party: 1 MP, 2 HOST. -/
def ownerCode (src : Party) : Nat := match src with
  | .mp => 1
  | .pcie _ => 2
  | _ => 0

/-- A write to GLB_BANK_OWN_n begins a handover (R297, R298). -/
def wrBankOwn (src : Party) (n : Nat) (v : Word) (s : State) : State :=
  let off := Reg.glbBankOwn n
  let o := bits v 18 16
  let r := bits v 26 24
  let cur := bankOwner n s
  let me := ownerCode src
  if me = 0 ∨ !(me == cur || (cur == 0 && me == 1)) then refuseReg 3 src off v s
  else if memMode s = 1 ∨ bankBusy n s then refuseReg 4 src off v s
  else flagPut off 31 true (fieldPut off 26 24 r (s.updDrc fun d => { d with handTo := tabSet 0 d.handTo n o }))

/-! The mailbox of a boot from the host (R373, Table 11.2). -/

/-- A device that boots from the host, in start-up phase 4. A worker takes its image from its manager. -/
def hostBoots (s : State) : Bool :=
  s.rst.bootSel == 1 && fieldGet Reg.glbBootStat 31 28 s == 4 && fieldGet Reg.casStat 31 30 s != 2

/-- Scratchpad banks 4 to 7 lent to the host. -/
def lendMailbox (s : State) : State := [68, 69, 70, 71].foldl (fun s n => setOwner n 2 s) s

/-- The bytes of the image that the host delivers, as its header gives them. -/
def mailboxSize (s : State) : Nat := 512 + bytesNat ((s.fwu.mailbox.drop 16).take 4)

/-- The whole image has come. -/
def mailboxFull (s : State) : Bool := 512 ≤ s.fwu.mailbox.length && mailboxSize s ≤ s.fwu.mailbox.length

/-- Once the host has handed all four banks back, their 256 KiB are the next portion of the image; while one is missing the banks are
lent again. -/
def mailboxTaken (s : State) : State :=
  if hostBoots s && !mailboxFull s && [68, 69, 70, 71].all (fun n => bankOwner n s == 1 && !bankBusy n s) then
    let s := s.updFwu fun f => { f with mailbox := f.mailbox ++ (List.range 262144).map fun i => memByte s.mem.scratch (262144 + i) }
    if mailboxFull s then s else lendMailbox s
  else s

/-- The last access of the old owner completes. -/
def execBankHandoverDone (n : Fin 72) (s : State) : Host.Outcome State Fault Refusal :=
  .next (if bankBusy n.val s then
    mailboxTaken (flagPut (Reg.glbBankOwn n.val) 31 false (setOwner n.val (tabGet 0 s.drc.handTo n.val)
      (s.updDrc fun d => { d with handTo := tabSet 0 d.handTo n.val 0 })))
  else s)

/-- The bank of a Pantry word (Table 3.8). -/
def pantryBank (w : Nat) : Nat := 8 * (w / 262144) + w % 8

/-- A bank's hardware owner hands it back to RET. -/
def handBack (n : Nat) (s : State) : State := setOwner n (fieldGet (Reg.glbBankOwn n) 26 24 s) s

/-- Every word of a bank is 0 with correct check bits (R298). -/
def clearBank (n : Nat) (s : State) : State :=
  if n < 64 then
    s.updMem fun m => { m with
      pantry := m.pantry.filter fun x => pantryBank (x.1 / 8) != n
      pantrySyn := m.pantrySyn.filter fun x => pantryBank x.1 != n }
  else
    s.updMem fun m => { m with
      scratch := m.scratch.filter fun x => x.1 / 65536 != n - 64
      scratchSyn := m.scratchSyn.filter fun x => x.1 / 8192 != n - 64 }

/-- BIST of a bank ends (R298). -/
def execBistDone (n : Fin 72) (bad : Nat) (s : State) : Host.Outcome State Fault Refusal :=
  .next (if bankOwner n.val s = 3 ∧ !bankBusy n.val s then
    handBack n.val (flagPut (Reg.glbBankOwn n.val) 30 (bad != 0) (clearBank n.val s))
  else s)

/-- Scratchpad words of a bank filled from a firmware image, whose layout in the scratchpad the spec does not give: each
word is a free value (log entry 27). -/
def fillScratch (i : Nat) (s : State) : State :=
  (nextFree s).updMem fun m => { m with
    scratch := (List.range 8192).foldl (fun t w => memSetWord t (8192 * i + w)
      (Config.freeWord (s.clk.free * 65536 + 8192 * i + w))) m.scratch
    scratchSyn := m.scratchSyn.filter fun x => x.1 / 8192 != i }

/-- The words of the data regions in a Pantry bank written from the golden copy (R236, R298). -/
def goldBank (n : Nat) (s : State) : State :=
  let us := s.tbl.tblDram.flatMap fun t => t.2.regions
  let unitBank (u : Nat) : Bool := pantryBank (u / 2) == n
  us.foldl (fun s r => (List.range r.2).foldl (fun s i =>
    if unitBank (r.1 + i) then unitFill (r.1 + i) (tabGet 0 s.arr.goldRec (r.1 + i)) s else s) s) s

/-- The loader finishes filling a bank (R298). -/
def execLoaderDone (n : Fin 72) (s : State) : Host.Outcome State Fault Refusal :=
  .next (if bankOwner n.val s = 4 ∧ !bankBusy n.val s then
    handBack n.val (grantUnit (if n.val < 64 then n.val / 8 else n.val - 56) 4
      (if n.val < 64 then goldBank n.val s else fillScratch (n.val - 64) s))
  else s)

/-! Refresh (R304, R305). -/

/-- The debt of a subchannel. -/
def debtOf (sc : Nat) (s : State) : Nat := fieldGet (Reg.drcRefStat sc) 3 0 s

/-- The debt written, with its highest value since the last read. -/
def setDebt (sc d : Nat) (s : State) : State :=
  let off := Reg.drcRefStat sc
  let s := fieldPut off 3 0 d s
  if fieldGet off 11 8 s < d then fieldPut off 11 8 d s else s

/-- tREFI of a subchannel in ns. -/
def trefi (sc : Nat) (s : State) : Nat := if flagGet (Reg.drcRefStat sc) 31 s then 1950 else 3900

/-- Refreshes above LIMIT are forced. -/
def forceRefresh (sc : Nat) (s : State) : State :=
  let lim := fieldGet Reg.drcRefCfg 2 0 s
  let d := debtOf sc s
  if d ≤ lim then s
  else raiseInt 14 (bitMask 4) (cntAdd (Reg.drcCnt 4) (d - lim) (setDebt sc lim s))

/-- The instant at which the running interval began. -/
def intervalAt (sc : Nat) (s : State) : Nat := tabGet 0 s.drc.interval sc

/-- An interval ends: one more refresh is due. -/
def refreshDue (sc t : Nat) (s : State) : State :=
  forceRefresh sc (setDebt sc (debtOf sc s + 1)
    (s.updDrc fun d => { d with interval := tabSet 0 d.interval sc (intervalAt sc s + t) }))

/-- The DRAM is trained and not in self-refresh. -/
def dramLive (s : State) : Bool := flagGet Reg.drcStat 31 s && !flagGet Reg.drcStat 30 s

def execRefreshTick (sc : Fin 4) (s : State) : Host.Outcome State Fault Refusal :=
  .next (if dramLive s && intervalAt sc.val s + trefi sc.val s ≤ s.clk.now then refreshDue sc.val (trefi sc.val s) s else s)

/-- HOT of a subchannel, in both registers that show it. -/
def setHot (sc : Nat) (b : Bool) (s : State) : State :=
  flagPut Reg.drcStat (20 + sc) b (flagPut (Reg.drcRefStat sc) 31 b s)

/-- A reading of a subchannel is due: every DRC_REF_CFG.POLL µs (R304). -/
def pollDue (sc : Nat) (s : State) : Bool :=
  tabGet 0 s.drc.polled sc + 1000 * fieldGet Reg.drcRefCfg 15 8 s ≤ s.clk.now

/-- A mode-register reading: some device asks for faster than normal, or for more than doubled refresh. -/
def execRefreshPoll (sc : Fin 4) (hot hotter : Bool) (s : State) : Host.Outcome State Fault Refusal :=
  .next (if !dramLive s || !pollDue sc.val s then s
  else
    let s := s.updDrc fun d => { d with polled := tabSet 0 d.polled sc.val s.clk.now }
    let off := Reg.drcRefStat sc.val
    let was := flagGet off 31 s
    let s := flagPut off 30 hotter s
    let s := if hotter then raiseInt 14 (bitMask 3) (cntAdd (Reg.drcCnt 9) 1 s) else s
    if (hot || hotter) && !was then
      let s := forceRefresh sc.val (setDebt sc.val (2 * debtOf sc.val s) (raiseInt 14 (bitMask 2) (setHot sc.val true s)))
      if intervalAt sc.val s + 1950 ≤ s.clk.now then refreshDue sc.val 1950 s else s
    else if !hot && !hotter && was then
      setDebt sc.val ((debtOf sc.val s + 1) / 2) (setHot sc.val false s)
    else s)

/-- The subchannel of a 64-byte line: A[6] selects the channel and A[7] the subchannel in it (R301, R302). -/
def lineSub (line : Nat) : Nat := 2 * (line % 2) + line / 2 % 2

/-- No accepted request waits for a subchannel (R303, R305). -/
def queueEmpty (sc : Nat) (s : State) : Bool :=
  s.drc.queue.all fun q => (List.range q.2).all fun i => lineSub (q.1 + i) != sc

/-- The queue of a subchannel is empty and a refresh is owed. -/
def execRefreshOpportunistic (sc : Fin 4) (s : State) : Host.Outcome State Fault Refusal :=
  .next (if dramLive s && 0 < debtOf sc.val s && queueEmpty sc.val s then
    cntWrap (Reg.drcCnt 5) 1 (fieldPut (Reg.drcRefStat sc.val) 3 0 (debtOf sc.val s - 1) s)
  else s)

/-- A write to DRC_REF_CFG: a lower LIMIT forces refreshes at once. -/
def wrRefCfg (v : Word) (s : State) : State :=
  (List.range 4).foldl (fun s sc => forceRefresh sc s) (plainWrite Reg.drcRefCfg v s)

/-- The trackers after one more activation of a row, and the row's count. A row that is not tracked takes a free entry, or else replaces an
entry with the lowest count and starts from that count (R307); of equal entries a free value says which (assumption 60). -/
def trackRow (sc row pick : Nat) (rat : List (Nat × Nat × Nat)) : List (Nat × Nat × Nat) × Nat :=
  match rat.find? fun e => e.1 == sc && e.2.1 == row with
  | some e => (rat.map fun x => if x.1 = sc ∧ x.2.1 = row then (sc, row, e.2.2 + 1) else x, e.2.2 + 1)
  | none =>
    let mine := rat.filter fun e => e.1 == sc
    if mine.length < 64 then (rat ++ [(sc, row, 1)], 1)
    else
      let low := mine.foldl (fun m e => min m e.2.2) (mine.headD (sc, row, 0)).2.2
      let ties := mine.filter fun e => e.2.2 == low
      match ties[pick % ties.length]? with
      | none => (rat, low)
      | some old => (rat.map fun x => if x = old then (sc, row, low + 1) else x, low + 1)

/-- A row activation: at THRESH the requester that caused it is throttled, and the event is counted (R307). -/
def activateRow (a : RowAct) (s : State) : State :=
  if dramLive s then
    let r := trackRow (lineSub a.line) a.row (Config.freeWord s.clk.free).toNat s.drc.rat
    let s := (nextFree s).updDrc fun d => { d with rat := r.1 }
    if r.2 = fieldGet Reg.drcRatCfg 31 16 s then
      raiseInt 14 (bitMask 1) (cntAdd (Reg.drcCnt 6) 1 (flagPut Reg.drcRatStat a.req.val true s))
    else s
  else s

/-- The window of row-activation counts ends, and throttling with it (R307). -/
def execRatWindowReset (s : State) : Host.Outcome State Fault Refusal :=
  .next (if s.drc.window + 1000000 * fieldGet Reg.drcRatCfg 15 8 s ≤ s.clk.now then
    fieldPut Reg.drcRatStat 7 0 0 (s.updDrc fun d => { d with window := s.clk.now, won := [], rat := [] })
  else s)

/-! Self-refresh (R306). -/

/-- The DRAM enters self-refresh, with the queue drained and every debt paid. -/
def enterSelfRefresh (s : State) : State :=
  let s := s.updDrc fun d => { d with queue := [] }
  let s := (List.range 4).foldl (fun s sc => fieldPut (Reg.drcRefStat sc) 3 0 0 s) s
  cntWrap (Reg.drcCnt 7) 1 (flagPut Reg.drcStat 30 true s)

/-- It leaves self-refresh: every interval restarts with no debt, and the internal freeze ends. -/
def exitSelfRefresh (s : State) : State :=
  let s := (List.range 4).foldl (fun s sc => fieldPut (Reg.drcRefStat sc) 3 0 0 s) s
  let s := s.updDrc fun d => { d with interval := (List.range 4).foldl (fun t sc => tabSet 0 t sc s.clk.now) [] }
  flagPut Reg.arbStat 26 false (flagPut Reg.drcStat 30 false s)

/-! Accesses of the host window and the MP (R294, R295, R302, R303). -/

/-- Bytes of DRAM fitted (Table 11.11). -/
def dramBytes (s : State) : Nat := (fieldGet Reg.drcStat 7 0 s + fieldGet Reg.drcStat 15 8 s) * 1073741824

/-- An address inside one of the areas of Table 11.3. -/
def inAreas (addr : Nat) (s : State) : Bool := (List.range 6).any fun a => inArea a addr s

/-- A byte of DRAM as the host or the MP reads it: 0 beyond the DRAM installed, and in the areas that the device writes a free value
unless one of the two wrote it since (log entry 15). -/
def dramByte (addr : Nat) (s : State) : Byte :=
  if dramBytes s ≤ addr then 0
  else if inAreas addr s then
    (tabFind s.mem.dramSet addr).getD (Config.freeByte (s.clk.free * 34359738368 + addr))
  else memByte s.mem.dram addr

/-- A byte written. In areas 0 to 3, whose layout the spec does not give, a byte reads as a free value whatever the MP stored
(log entry 15). -/
def dramPut (addr : Nat) (b : Byte) (s : State) : State :=
  if inArea 4 addr s || inArea 5 addr s then s.updMem fun m => { m with dramSet := tabInsert m.dramSet addr b }
  else if inAreas addr s then s
  else s.updMem fun m => { m with dram := memSetByte m.dram addr b }

/-- What the two parties wrote in an area is written over by the device. -/
def areaWritten (a : Nat) (s : State) : State :=
  s.updMem fun m => { m with dramSet := m.dramSet.filter fun x => !inArea a x.1 s }

/-- A line of 64 bytes with an uncorrectable error is read: it is counted and recorded (R252, R295). -/
def dramLineBad (line : Nat) (s : State) : State :=
  let ch := line % 2
  errRecord 0x30 7 2 ch (64 * line) (raiseInt 14 1 (cntAdd (Reg.drcCnt (2 + ch)) 1 (intEvent 8 (intCount 17 s))))

/-- A line with an error that ECC corrects is read: it is counted and recorded, and has no other effect (R252, R301, R415). -/
def dramLineSoft (line : Nat) (s : State) : State :=
  errRecord 0x30 1 0 (line % 2) (64 * line) (cntAdd (Reg.drcCnt (line % 2)) 1 (intCount 16 s))

/-- Lines read: what each one's errors do. -/
def readLines (ls : List Nat) (s : State) : State :=
  ls.foldl (fun s l =>
    if tabGet false s.mem.dramBad l then dramLineBad l s
    else if tabGet false s.mem.dramSoft l then dramLineSoft l s else s) s

/-- The units of `size` bytes that hold an enabled byte. -/
def touched (size byte : Nat) (be : List Bool) : List Nat :=
  ((List.range be.length).filter fun i => be.getD i false).foldl (fun a i =>
    let u := (byte + i) / size
    if a.getLast? = some u then a else a ++ [u]) []

/-- Enabled bytes picked by a reader. -/
def picked (byte : Nat) (be : List Bool) (f : Nat → Byte) : List (Option Byte) :=
  (List.range be.length).map fun i => if be.getD i false then some (f (byte + i)) else none

/-- Zeros for the enabled bytes. -/
def readZero (be : List Bool) (s : State) : State := answer (.mem (picked 0 be fun _ => 0) false) s

/-- A bus error of the MP: the first since VALID was cleared is recorded, and the MP takes a precise data abort (R295, Table
11.8). -/
def busError (space cause byte : Nat) (s : State) : State :=
  let s := if flagGet Reg.glbMpFault 31 s then s
    else regPut Reg.glbMpFaultAddr (BitVec.ofNat 32 (byte / 8))
      (regPut Reg.glbMpFault (pack32 [(31, 1), (24, space), (16, cause)]) s)
  answer .abort s

/-- A read of DRAM: the data, with EP set for the host when a line is uncorrectable; the MP's load then returns 0 with a bus
error. -/
def readDram (m : MemMaster) (byte : Nat) (be : List Bool) (s : State) : State :=
  let ls := touched 64 byte be
  let bad := ls.any fun l => tabGet false s.mem.dramBad l
  let out := picked byte be fun b => dramByte b s
  let s := readLines ls (nextFree s)
  match m with
  | .host _ => answer (.mem out bad) s
  | .mp _ => if bad then busError 2 3 byte (readZero be s) else answer (.mem out false) s

/-- The enabled bytes of a line, and whether they cover only whole beats of 4 bytes, or the whole line (R303). -/
def lineWhole (size byte : Nat) (data : List (Option Byte)) (u : Nat) : Bool :=
  (List.range size).all fun k => byte ≤ size * u + k && (data.getD (size * u + k - byte) none).isSome

/-- A line needs to be read before it is written: a beat of 4 bytes is written in part. -/
def lineMerged (byte : Nat) (data : List (Option Byte)) (l : Nat) : Bool :=
  (touched 4 byte (data.map (·.isSome))).any fun u => u / 16 == l && !lineWhole 4 byte data u

/-- Bytes of one line written. A line with an uncorrectable error that would have to be merged keeps its content (R294); one written whole
loses its error, and a merge corrects what ECC corrects. -/
def writeLine (m : MemMaster) (byte : Nat) (data : List (Option Byte)) (s : State) (l : Nat) : State :=
  let merged := lineMerged byte data l
  let s := if merged then readLines [l] s else s
  if merged && tabGet false s.mem.dramBad l then
    match m with
    | .host _ => s
    | .mp _ => busError 2 3 (max byte (64 * l)) s
  else
    let s := (List.range 64).foldl (fun s k =>
      if 64 * l + k < byte then s
      else match data.getD (64 * l + k - byte) none with
        | some b => dramPut (64 * l + k) b s
        | none => s) s
    let whole := lineWhole 64 byte data l
    s.updMem fun x => { x with
      dramBad := if whole then tabSet false x.dramBad l false else x.dramBad
      dramSoft := if whole || merged then tabSet false x.dramSoft l false else x.dramSoft }

/-- A write of DRAM. -/
def writeDram (m : MemMaster) (byte : Nat) (data : List (Option Byte)) (s : State) : State :=
  (touched 64 byte (data.map (·.isSome))).foldl (writeLine m byte data) s

/-- An access of n bytes as requests of 1 to 4 lines: first byte and length of each (R303). -/
def dramPieces (byte n : Nat) : List (Nat × Nat) :=
  let l := byte / 64
  (List.range (((byte + n - 1) / 64 - l) / 4 + 1)).map fun i =>
    let lo := max byte (64 * (l + 4 * i))
    (lo, min (byte + n) (64 * (l + 4 * i + 4)) - lo)

/-- A requester that is not masked raises its line: an entry into self-refresh under way is withdrawn (R306). -/
def dramAsked (r : Nat) (s : State) : State :=
  if flagGet Reg.arbStat 26 s && !flagGet Reg.arbStat (16 + r) s then refuseEntry 9 s else s

/-- The requester of Table 11.4 that a master is: 3 the MP, 1 the host window. -/
def masterOf (m : MemMaster) : Nat := match m with
  | .host _ => 1
  | .mp _ => 3

/-- A read of the host window or the MP waits for the arbiter. -/
def askRead (m : MemMaster) (byte : Nat) (be : List Bool) (s : State) : State :=
  (dramAsked (masterOf m) s).updDrc fun d => { d with waiting := d.waiting ++ (dramPieces byte be.length).map fun x =>
    ⟨m, x.1, (be.drop (x.1 - byte)).take x.2, none⟩ }

/-- A write of the two. -/
def askWrite (m : MemMaster) (byte : Nat) (data : List (Option Byte)) (s : State) : State :=
  (dramAsked (masterOf m) s).updDrc fun d => { d with waiting := d.waiting ++ (dramPieces byte data.length).map fun x =>
    let part := (data.drop (x.1 - byte)).take x.2
    ⟨m, x.1, part.map (·.isSome), some part⟩ }

/-- The requester that brings an access. -/
def DramReq.requester (q : DramReq) : Nat := masterOf q.m

/-- The lines of an access. -/
def DramReq.lines (q : DramReq) : Nat × Nat := (q.byte / 64, (q.byte + q.be.length - 1) / 64 - q.byte / 64 + 1)

/-- The accesses of a requester that wait are given up, at a reset of its island (R312). -/
def dropAsked (r : Nat) (s : State) : State :=
  s.updDrc fun d => { d with waiting := d.waiting.filter fun q => q.requester != r }

/-- An accepted access performed: requests complete in acceptance order, and each sees every earlier write (R303). -/
def performReq (s : State) (q : DramReq) : State := match q.data with
  | none => readDram q.m q.byte q.be s
  | some d => writeDram q.m q.byte d s

/-! The arbiter (R309 to R315). -/

/-- Cycles of the 800 MHz controller clock. -/
def arbCycle (s : State) : Nat := s.clk.now * 4 / 5

/-- The effective priority of a requester (R309). -/
def arbPrio (r : Nat) (s : State) : Nat := tabGet r s.drc.prio r

/-- The requester that owns the port. -/
def arbOwner (s : State) : Option Nat :=
  if flagGet Reg.arbStat 31 s then some (fieldGet Reg.arbStat 30 28 s) else none

/-- ARB_STAT.PENDING follows the changes not in effect. -/
def showPending (s : State) : State :=
  fieldPut Reg.arbStat 7 0 (packNat ((List.range 8).map fun r => (r, b2n (s.drc.change.any fun c => c.1 == r)))) s

/-- A write to ARB_PRIO (R314). -/
def wrArbPrio (src : Party) (v : Word) (s : State) : State :=
  let p (w : Word) (r : Nat) : Nat := bits w (3 * r + 2) (3 * r)
  if !s.drc.change.isEmpty then refuseReg 4 src Reg.arbPrio v s
  else
    let old := regGet Reg.arbPrio s
    let ch := ((List.range 8).filter fun r => p v r != p old r).map fun r =>
      (r, p v r, if arbOwner s = some r then 1 else 2)
    showPending (plainWrite Reg.arbPrio v (s.updDrc fun d => { d with change := ch }))

/-- Changes whose decision has come take effect. -/
def applyChanges (s : State) : State :=
  let ch := s.drc.change.map fun c => (c.1, c.2.1, c.2.2 - 1)
  showPending (s.updDrc fun d => { d with
    change := ch.filter fun c => c.2.2 != 0
    prio := (ch.filter fun c => c.2.2 == 0).foldl (fun t c => tabSet c.1 t c.1 c.2.1) d.prio })

/-- A throttled requester counts as requesting at one decision in each GAP µs (R307). -/
def throttleOpen (r : Nat) (s : State) : Bool :=
  let w := tabGet 0 s.drc.won r
  !flagGet Reg.drcRatStat r s || w == 0 || w - 1 + 1000 * fieldGet Reg.drcRatCfg 7 0 s ≤ s.clk.now

/-- The highest effective priority among requesters; of two equal, the higher number (R309). -/
def arbWinner (rs : List Nat) (s : State) : Option Nat := rs.foldl (fun a r => match a with
  | none => some r
  | some b => if arbPrio b s < arbPrio r s || (arbPrio b s == arbPrio r s && b < r) then some r else some b) none

/-- The cycles from the last decision to this one counted as waits, for requesters that waited throughout (R315). -/
def countWaits (rs : List Nat) (s : State) : State :=
  let c := arbCycle s
  let owner := arbOwner s
  let lim := fieldGet Reg.arbWaitLim 15 0 s
  let s := (s.drc.req.filter fun r => rs.contains r && owner != some r).foldl (fun s r =>
    let s := cntWrap (Reg.arbWait r) (c - s.drc.decided) s
    if lim ≠ 0 ∧ lim < c - tabGet 0 s.drc.waits r then raiseInt 15 (bitMask r) s else s) s
  s.updDrc fun d => { d with
    waits := rs.foldl (fun t r => if d.req.contains r && owner != some r then t else tabSet 0 t r c) d.waits
    req := rs, decided := c }

/-- ARB_BURST of a requester: accepted requests in a grant, 0 for no limit (R311). -/
def burstLimit (r : Nat) (s : State) : Nat := fieldGet (Reg.arbBurst (r / 4)) (8 * (r % 4) + 7) (8 * (r % 4)) s

/-- Requests enter the controller's queue, and the oldest complete: `done` of them, and more where 32 would be exceeded (R303). -/
def queueReqs (rs : List (Nat × Nat)) (done : Nat) (s : State) : State :=
  s.updDrc fun d =>
    let q := d.queue ++ rs
    { d with queue := q.drop (max done (q.length - 32)) }

/-- The owner's grant has ended: its accesses that wait, up to the burst limit, have been accepted and act in that order, and the
other requests of the owner are those of `taken` (R303, R311). A masked owner had none accepted (R312). -/
def endGrant (taken : List DramBurst) (done : Nat) (s : State) : State := match arbOwner s with
  | none => queueReqs [] done s
  | some r =>
    if flagGet Reg.arbStat (16 + r) s then queueReqs [] done s
    else
      let room (n : Nat) : Nat := if burstLimit r s = 0 then n else burstLimit r s
      let mine := s.drc.waiting.filter fun q => q.requester == r
      let mine := mine.take (room mine.length)
      let rest := taken.take (room (mine.length + taken.length) - mine.length)
      let s := s.updDrc fun d => { d with waiting :=
        (d.waiting.filter fun q => q.requester != r) ++ (d.waiting.filter fun q => q.requester == r).drop mine.length }
      mine.foldl performReq
        (queueReqs (mine.map DramReq.lines ++ rest.map fun b => (b.line, b.lines.val + 1)) done s)

/-- The requesters whose lines are up: those the operand names, and the host window and the MP while an access of theirs waits. -/
def requesting (req : List (Fin 8)) (s : State) : List Nat :=
  (List.range 8).filter fun r => (req.any fun q => q.val == r) || s.drc.waiting.any fun q => q.requester == r

/-- A line that was down at the last decision is up: an entry into self-refresh under way is withdrawn (R306). -/
def linesRise (rs : List Nat) (s : State) : State :=
  match rs.find? fun r => !s.drc.req.contains r && !flagGet Reg.arbStat (16 + r) s with
  | some r => dramAsked r s
  | none => s

/-- A decision of the arbiter: the old grant has ended, the lines are sampled, and the winner owns the port (R310, R313). No grant
starts while the arbiter is frozen, and a masked requester's line counts as 0 (R312). The rows that accepted requests activated
since the last decision are counted first (R307). -/
def arbDecide (req : List (Fin 8)) (taken : List DramBurst) (done : Nat) (acts : List RowAct) (s : State) : State :=
  let s := endGrant taken done (acts.foldl (fun s a => activateRow a s) s)
  let rs := requesting req s
  let s := linesRise rs s
  let open_ := rs.filter fun r => !flagGet Reg.arbStat (16 + r) s
  let s := applyChanges (countWaits open_ s)
  let s := fieldPut Reg.arbStat 15 8 (packNat (rs.map fun r => (r, 1))) s
  let s := fieldPut Reg.arbStat 31 28 0 s
  if flagGet Reg.arbCtl 0 s || flagGet Reg.arbStat 26 s then s
  else match arbWinner (open_.filter fun r => throttleOpen r s) s with
    | none => s
    | some r =>
      let s := cntWrap (Reg.arbGrant r) 1 (fieldPut Reg.arbStat 31 28 (8 + r) s)
      let s := cntMax (Reg.arbMaxwait r) (arbCycle s - tabGet 0 s.drc.waits r) s
      s.updDrc fun d => { d with won := tabSet 0 d.won r (s.clk.now + 1) }

def execArbDecision (req : List (Fin 8)) (taken : List DramBurst) (done : Nat) (acts : List RowAct) (s : State) :
    Host.Outcome State Fault Refusal := .next (arbDecide req taken done acts s)

/-- ARB_STAT as it reads: DRAINED when no one owns the port and no accepted request is outstanding (R313). -/
def rdArbStat (s : State) : Word := putBits (regGet Reg.arbStat s) 27 27 (b2n ((arbOwner s).isNone && s.drc.queue.isEmpty))

/-- The statistics flush writes counter snapshots to area 4: a byte there reads as a free value again (log entry 15). -/
def execStatsFlush (s : State) : Host.Outcome State Fault Refusal :=
  .next (if memMode s = 1 ∧ dramLive s then areaWritten 4 (nextFree s) else s)

end Sys2Proof.Machine
end

