-- ==== Sys2Proof/Machine/Firmware.lean ====
section
/-! DEFINITION. Flash directories, image checks, image sessions, the choice of the image to run, and confirmation (R362 to
R376). -/

namespace Sys2Proof.Machine

open Sys2Proof

/-! Image fields (Table 14.2). -/

/-- The n bytes of an image from an offset; bytes it does not have read 0. -/
def imgBytes (im : List Byte) (off n : Nat) : List Byte := (List.range n).map fun i => im.getD (off + i) 0

/-- A field of an image header, most significant byte first. -/
def imgNat (im : List Byte) (off n : Nat) : Nat := bytesNat (imgBytes im off n)

def imgVersion (im : List Byte) : Nat := imgNat im 8 4
def imgArb (im : List Byte) : Nat := imgNat im 12 4

/-- Bytes of the whole image. -/
def imgSize (im : List Byte) : Nat := 512 + imgNat im 16 4

/-- Checks 1 to 6 of Table 14.3: the first that fails, or 0. -/
def headerCode (im : List Byte) (s : State) : Nat :=
  let step := fieldGet Reg.glbId 15 8 s
  let len := imgNat im 16 4
  let rdMin := imgNat im 20 1
  let rdMax := imgNat im 21 1
  let wr := imgNat im 22 1
  let key := imgNat im 23 1
  let pub := imgBytes im 80 96
  if imgNat im 0 4 ≠ 0x46583634 then 1
  else if imgNat im 4 2 ≠ 0x6400 ∨ step < imgNat im 6 1 ∨ imgNat im 7 1 < step then 2
  else if len < 4096 ∨ 16776704 < len ∨ wr < rdMin ∨ rdMax < wr ∨ imgNat im 24 8 ≠ 0 ∨ imgNat im 272 240 ≠ 0 then 3
  else if 3 < key ∨ Config.sha384 pub ≠ Config.keyHash key ∨ Config.keyRevoked key then 4
  else if !Config.ecdsaVerify pub (Config.sha384 (imgBytes im 0 176)) (imgBytes im 176 96) then 5
  else if imgArb im < (vbtGet 2 s).toNat then 6
  else 0

/-- Check 7: the digest of the body. -/
def digestOk (im : List Byte) : Bool :=
  (Config.sha384 (imgBytes im 512 (imgNat im 16 4))).toNat == imgNat im 32 48

/-- HDR_CODE of a whole image. -/
def imageCode (im : List Byte) (s : State) : Nat :=
  let c := headerCode im s
  if c ≠ 0 then c else if digestOk im then 0 else 7

/-! The directory (R364). -/

/-- The current directory's copy, and the directory. -/
def currentDir (s : State) : Option (Nat × FlashDir) := match tabFind s.fwu.dirs 0, tabFind s.fwu.dirs 1 with
  | some a, some b => if newer b.dseq a.dseq then some (1, b) else some (0, a)
  | some a, none => some (0, a)
  | none, some b => some (1, b)
  | none, none => none

/-- The directory; a flash that holds none reads as both slots EMPTY. -/
def dirNow (s : State) : FlashDir := ((currentDir s).map (·.2)).getD ⟨0, 0, 0, [], [], []⟩

/-- A directory written into the older copy with DSEQ + 1. -/
def putDir (f : FlashDir → FlashDir) (s : State) : State :=
  let copy := match currentDir s with
    | some (c, _) => 1 - c
    | none => 0
  let d := f (dirNow s)
  s.updFwu fun w => { w with dirs := tabInsert w.dirs copy { d with dseq := (d.dseq + 1) % 4294967296 } }

/-- The state of a slot: 0 EMPTY, 1 WRITTEN, 2 CONFIRMED, 3 REJECTED. -/
def slotState (n : Nat) (s : State) : Nat := tabGet 0 (dirNow s).st n

def setSlotState (n st : Nat) (s : State) : State := putDir (fun d => { d with st := tabSet 0 d.st n st }) s

/-! VBAT BOOT (Table 14.6). -/

def bootBit (i : Nat) (s : State) : Bool := bit (vbtGet 1 s) i
def confSlot (s : State) : Nat := b2n (bootBit 0 s)
def trialValid (s : State) : Bool := bootBit 1 s
def trialSlot (s : State) : Nat := b2n (bootBit 2 s)
def attempts (s : State) : Nat := bits (vbtGet 1 s) 6 4

/-- FWU_INT_STAT bits. -/
def fwuEvent (b : Nat) (s : State) : State := raiseInt 18 (bitMask b) s

/-! Sessions (R367 to R371). -/

/-- A COMMIT pends with a T less than 1 s away (R371). -/
def commitSoon (s : State) : Bool :=
  (List.range 8).any fun d =>
    let m := domAt d s
    (decide (m.st = .pending) || decide (m.st = .prepared)) &&
      (match m.t with | some t => t < todFrac s + 1000000000 * 65536 | none => false)

/-- DETAIL of the first row of Table 14.4 that refuses, or 0. A confirmation does not look at commits. -/
def fwRefusal (mgr confirm : Bool) (s : State) : Nat :=
  if isWorker s && !mgr then 6
  else if flagGet Reg.prtLock 0 s then 3
  else if flagGet Reg.vbtStat 29 s then 4
  else if !confirm && commitSoon s then 5
  else 0

/-- FWU_STAT.STATE. -/
def sessionState (s : State) : Nat := fieldGet Reg.fwuStat 31 29 s

/-- The blocks of a session as one image. -/
def sessionImage (x : Session) : List Byte := x.blocks.flatMap (·.2)

/-- Bytes held in a session. -/
def sessionHeld (x : Session) : Nat := x.blocks.foldl (fun a b => a + b.2.length) 0

/-- The block reaches past the image, or ends inside it where it may not (R368). -/
def outside (size ofs len : Nat) (last : Bool) : Bool :=
  size < ofs + len || ((len < 4096 || last) && ofs + len != size)

/-- The outcome of a window operation recorded: RESULT and DETAIL; WBUSY, PUSH and the claim end (R372). -/
def windowDone (st d : Nat) (s : State) : State :=
  let s := fieldPut Reg.fwuStat 15 0 (d * 256 + st) s
  flagPut Reg.fwuCtl 0 false (fieldPut Reg.fwuStat 25 23 0 s)

/-- The block that completed an image ends with a status. -/
def lastBlockDone (x : Session) (st d : Nat) (s : State) : State := match x.cmd with
  | some n => match cmdAt n s with
    | some c => complete n st 0 d (if st = 0 then bits (c.word 1) 44 32 else 0) s
    | none => s
  | none => windowDone st d s

/-- A last block that waits for check 7 in a session that ends has been accepted, and completes with status OK: Table 6.12 gives FW_BLOCK
no status for a session ended or replaced meanwhile (DEDUCED, log entry 84). -/
def waiterDone (s : State) : State := match s.fwu.session with
  | some x => if sessionState s = 2 then lastBlockDone x 0 0 s else s
  | none => s

/-- A session opens, in place of the one its holder may have: the target is marked EMPTY and its copy in DRAM goes, and a trial that
waits or runs there is abandoned (R367). -/
def openSession (src ring size : Nat) (s : State) : State :=
  let s := waiterDone s
  let t := 1 - confSlot s
  let s := s.updFwu fun f => { f with store := tabSet [] f.store t [] }
  let s := setSlotState t 0 s
  let s := if trialValid s ∧ trialSlot s = t then vbtField 1 1 1 0 s else s
  let s := fieldPut Reg.fwuStat 31 29 1 (fieldPut Reg.fwuStat 28 26 src (fieldPut Reg.fwuStat 19 16 0 s))
  s.updFwu fun f => { f with session := some { src := src, ring := ring, target := t, size := size, blocks := []
                                               lastAt := s.clk.now, cmd := none } }

/-- A block taken into the session. The outcome is none when it completes the image, which check 7 then decides (R369). -/
def takeBlock (x : Session) (ofs : Nat) (data : List Byte) (cmd : Option Nat) (s : State) :
    Option (Nat × Nat) × State :=
  let x := { x with blocks := tabInsert x.blocks (ofs / 4096) data, lastAt := s.clk.now }
  let full := sessionHeld x == x.size
  let s := regPut Reg.fwuProg (BitVec.ofNat 32 (sessionHeld x)) s
  if full then
    (none, fieldPut Reg.fwuStat 31 29 2 (s.updFwu fun f => { f with session := some { x with cmd := cmd } }))
  else (some (0, 0), s.updFwu fun f => { f with session := some x })

/-- One block delivered by a source (R367 to R371): its status and DETAIL, none while check 7 runs. A block that comes while
the holder's image is being programmed is accepted and changes nothing; one without a session is MALFORMED (log entry 28). -/
def deliver (src ring ofs len : Nat) (last : Bool) (data : List Byte) (cmd : Option Nat) (s : State) :
    Option (Nat × Nat) × State :=
  let r := fwRefusal (src == 4) false s
  let held := match s.fwu.session with
    | some x => x.src != src || x.ring != ring
    | none => false
  if r ≠ 0 then (some (8, r), s)
  else if held then (some (0xb, 0), s)
  else if ofs = 0 then
    let c := headerCode data s
    if c ≠ 0 then (some (8, 7), fieldPut Reg.fwuStat 19 16 c s)
    else if outside (imgSize data) ofs len last then (some (9, 0), s)
    else
      let s := openSession src ring (imgSize data) s
      match s.fwu.session with
      | some x => takeBlock x ofs data cmd s
      | none => (some (9, 0), s)
  else match s.fwu.session with
    | none => (some (9, 0), s)
    | some x =>
      if outside x.size ofs len last then (some (9, 0), s)
      else if sessionState s = 1 then takeBlock x ofs data cmd s
      else (some (0, 0), s)

/-- The source of a command of a ring: the manager through a worker's relay ring, else the ring. -/
def ringSource (r : Nat) (s : State) : Nat := if isWorker s && r == relayRing then 4 else 1

/-- The device asks the host for the data of an FW_BLOCK, once its function may send and 512 reads are not exceeded (R258, R260,
R261). -/
def askBlock (c : Cmd) (s : State) : State :=
  let len := bits (c.word 1) 44 32
  let n := (len + maxRead s - 1) / maxRead s
  if !ringSends c s || 512 < readsOut s + n then s
  else updCmd c.id (fun c => { c with reads := List.range n })
    (hostRead (ringAt c.ring s).func (c.word 2) len c.id s)

/-- FW_BLOCK (R368): its data are asked for, and then delivered. `data` is what host memory returned, none when the read failed. -/
def fwBlock (n : Nat) (data : Option (List Byte)) (s : State) : State := match readyCmd n [0x40] s with
    | none => s
    | some c =>
      if !c.fwReading then askBlock c s
      else match data with
      | none => readFailed c s
      | some data =>
      let len := bits (c.word 1) 44 32
      let bs := (List.range len).map fun i => data.getD i 0
      match deliver (ringSource c.ring s) c.ring (bits (c.word 1) 31 0) len (optBit c.hdr 51) bs (some n) s with
      | (some (st, d), s) => complete n st 0 (if st = 9 then 1 else d) (if st = 0 then len else 0) s
      | (none, s) => updCmd n (fun c => { c with stage := .running }) s

def execFwBlock (n : Nat) (data : Option (List Byte)) (s : State) : Host.Outcome State Fault Refusal := .next (fwBlock n data s)

/-- A command of the queue delivers the data of an FW_BLOCK at offset 0. -/
def opensImage (s : State) (c : Instr) : Option (Nat × Option (List Byte)) := match c with
  | .fwBlock n d => match readyCmd n [0x40] s with
    | some c => if c.fwReading && bits (c.word 1) 31 0 == 0 then some (n, d) else none
    | none => none
  | _ => none

/-- Blocks at offset 0 from rings reach the check before a window's of the same MCLK cycle (R367; log entry 38). -/
def ringsFirst (s : State) : State := (s.pending.filterMap fun c => opensImage s c).foldl (fun s x => fwBlock x.1 x.2 s) s

/-- Check 7 ends; the erasure of the target begins the programming (R369). -/
def execImageVerifyDone (s : State) : Host.Outcome State Fault Refusal :=
  .next (match s.fwu.session with
    | some x =>
      if sessionState s ≠ 2 then s
      else if digestOk (sessionImage x) then
        lastBlockDone x 0 0 (fieldPut Reg.fwuStat 31 29 3 (s.updFwu fun f => { f with
          session := some { x with cmd := none }, slots := tabSet [] f.slots x.target [] }))
      else endSession (lastBlockDone x 8 7 (fieldPut Reg.fwuStat 19 16 7 s))
    | none => s)

/-- The programming of the target ends: `ok` when the read-back agrees with DIGEST at most at the second try. A worker has no
flash, so its read-back fails (R229, R369; log entry 28). -/
def execProgrammingDone (ok : Bool) (s : State) : Host.Outcome State Fault Refusal :=
  .next (match s.fwu.session with
    | some x =>
      if sessionState s ≠ 3 then s
      else if ok && !isWorker s then
        let im := sessionImage x
        let s := s.updFwu fun f => { f with slots := tabSet [] f.slots x.target im, store := tabSet [] f.store x.target im }
        let s := putDir (fun d => { d with st := tabSet 0 d.st x.target 1
                                           ver := tabSet 0 d.ver x.target (imgVersion im)
                                           sarb := tabSet 0 d.sarb x.target (imgArb im) }) s
        let s := vbtField 1 6 4 0 (vbtField 1 2 2 x.target (vbtField 1 1 1 1 s))
        let s := s.updFwu fun f => { f with session := none }
        fwuEvent 1 (regPut Reg.fwuProg 0 (fieldPut Reg.fwuStat 31 26 0 s))
      else
        endSession (fieldPut Reg.fwuStat 19 16 7 (fieldPut Reg.fwuStat 15 0 9 s))
    | none => s)

/-- No block arrives for FWU_CFG.IDLE seconds while the session is RECEIVING (R370). -/
def execSessionIdleTimeout (s : State) : Host.Outcome State Fault Refusal :=
  .next (match s.fwu.session with
    | some x =>
      if sessionState s = 1 ∧ x.lastAt + fieldGet Reg.fwuCfg 7 0 s * 1000000000 ≤ s.clk.now then endSession s else s
    | none => s)

/-! The window (R372). -/

/-- FWU_STAT.CLAIM and SOURCE of a party that writes the window. The manager's writes to a worker are of the register path,
and count as claim 1 (log entry 28). -/
def windowClaim (src : Party) : Nat × Nat := match src with
  | .pcie _ => (1, 2)
  | .smbus => (2, 3)
  | .manager => (1, 4)
  | .mp => (1, 2)

/-- The window belongs to the other source. -/
def claimedByOther (src : Party) (s : State) : Bool :=
  let c := fieldGet Reg.fwuStat 24 23 s
  c != 0 && c != (windowClaim src).1

/-- A write to the window that the lock, another source's claim or a running operation refuses (R283, R372). -/
def windowRefusal (src : Party) (s : State) : Nat :=
  if claimedByOther src s || flagGet Reg.fwuStat 25 s then 4
  else if flagGet Reg.prtLock 0 s then 10
  else 0

/-- A write to FWU_WIN_OFS. -/
def wrWinOfs (src : Party) (v : Word) (s : State) : State :=
  if windowRefusal src s ≠ 0 then refuseReg (windowRefusal src s) src Reg.fwuWinOfs v s
  else
    let s := fieldPut Reg.fwuStat 24 23 (windowClaim src).1 (regPut Reg.fwuWinOfs v s)
    s.updFwu fun f => { f with buffer := [] }

/-- A write to FWU_WIN_LEN. -/
def wrWinLen (src : Party) (v : Word) (s : State) : State :=
  if windowRefusal src s ≠ 0 then refuseReg (windowRefusal src s) src Reg.fwuWinLen v s
  else plainWrite Reg.fwuWinLen v s

/-- FWU_WIN_LEN.LENGTH. -/
def winLength (s : State) : Nat := fieldGet Reg.fwuWinLen 12 0 s

/-- A write to FWU_WIN_DATA appends 4 bytes, the one in [31:24] first. -/
def wrWinData (src : Party) (v : Word) (s : State) : State :=
  if windowRefusal src s ≠ 0 then refuseReg (windowRefusal src s) src Reg.fwuWinData v s
  else if winLength s ≤ s.fwu.buffer.length then refuseReg 4 src Reg.fwuWinData v s
  else s.updFwu fun f => { f with buffer := f.buffer ++ natBytes v.toNat 4 }

/-- The buffer delivered as one block. -/
def pushWindow (src : Party) (s : State) : State :=
  let len := winLength s
  let s := if regGet Reg.fwuWinOfs s = 0 then ringsFirst s else s
  let s := flagPut Reg.fwuCtl 0 true (flagPut Reg.fwuStat 25 true s)
  if len = 0 then windowDone 9 0 s
  else
    let bs := (List.range len).map fun i => s.fwu.buffer.getD i 0
    match deliver (windowClaim src).2 0 (regGet Reg.fwuWinOfs s).toNat len (flagGet Reg.fwuWinLen 31 s) bs none s with
    | (some (st, d), s) => windowDone st d s
    | (none, s) => s

/-- A party ends the sessions that it holds. A ring has no register access of its own, so the host's write ends the session of
a ring (log entry 28). -/
def holdsSession (src : Party) (s : State) : Bool :=
  let h := fieldGet Reg.fwuStat 28 26 s
  h == (windowClaim src).2 || (h == 1 && (windowClaim src).2 == 2)

/-- The holder ends the session (R370). -/
def abortSession (s : State) : State := if s.fwu.session.isSome then endSession (waiterDone s) else s

/-! Confirmation (R376, R377). -/

/-- FWU_BOOT.RUN_SLOT. -/
def runSlot (s : State) : Nat := fieldGet Reg.fwuBoot 30 30 s

/-- FW_CONFIRM or FWU_CTL.CONFIRM: status and DETAIL. -/
def confirmImage (mgr : Bool) (s : State) : (Nat × Nat) × State :=
  let r := fwRefusal mgr true s
  if r ≠ 0 then ((8, r), s)
  else if !runTrial s || !trialValid s then ((3, 0), s)
  else
    let slot := runSlot s
    let s := vbtField 1 6 4 0 (vbtField 1 2 0 slot s)
    let arb := max (vbtGet 2 s).toNat (imgArb s.fwu.running)
    let s := if isManager s then ctrlWrite 31 (Reg.vbtWord 2) (BitVec.ofNat 32 arb) s else s
    let s := vbtPut 2 (BitVec.ofNat 32 arb) s
    let s := putDir (fun d => { d with conf := slot, arb := arb, st := tabSet 0 d.st slot 2 }) s
    ((0, 0), fwuEvent 0 (flagPut Reg.fwuBoot 31 false s))

/-- FW_CONFIRM. -/
def execFwConfirm (n : Nat) (s : State) : Host.Outcome State Fault Refusal :=
  .next (match readyCmd n [0x41] s with
    | none => s
    | some c =>
      let x := confirmImage (ringSource c.ring s == 4) s
      complete n x.1.1 0 x.1.2 0 x.2)

/-! The image to run (R373). -/

/-- FWU_CFG.MAX_ATTEMPTS, from the settings record before it is restored. -/
def maxAttempts (s : State) : Nat :=
  let v := fieldGet Reg.fwuCfg 18 16 s
  if v ≠ 0 then v
  else
    let r := (currentSettings s).map fun x => bits (tabGet 0 x.2.vals Reg.fwuCfg) 18 16
    if r.getD 0 = 0 then 3 else r.getD 0

/-- ok(s): the image of a slot passes every check and the slot is not REJECTED. -/
def slotOk (im : Nat → List Byte) (n : Nat) (s : State) : Bool := imageCode (im n) s == 0 && slotState n s != 3

/-- A trial rejected with a cause. -/
def rejectSlot (n c : Nat) (s : State) : State :=
  setSlotState n 3 (vbtField 1 (17 + 2 * n) (16 + 2 * n) c (vbtField 1 (8 + n) (8 + n) 1 s))

/-- The slot that runs, whether unconfirmed, and the state with the VBAT domain written. -/
def chooseSlot (im : Nat → List Byte) (s : State) : Option (Nat × Bool) × State :=
  let t := trialSlot s
  if trialValid s ∧ attempts s < maxAttempts s ∧ slotOk im t s then
    (some (t, true), vbtField 1 6 4 (attempts s + 1) s)
  else
    let s := if trialValid s then
        fwuEvent 3 (vbtField 1 1 1 0 (rejectSlot t (if maxAttempts s ≤ attempts s then 1 else 3) s))
      else s
    let c := confSlot s
    if slotOk im c s then (some (c, false), s)
    else if slotOk im (1 - c) s then
      (some (1 - c, true), vbtField 1 6 4 1 (vbtField 1 2 2 (1 - c) (vbtField 1 1 1 1 s)))
    else (none, s)

/-- The image of a slot as a warm reset takes it: its copy in DRAM area 3, or flash. -/
def slotImage (n : Nat) (s : State) : List Byte := match tabFind s.fwu.store n with
  | some im => im
  | none => tabGet [] s.fwu.slots n

/-- The running image and what FWU_BOOT says of it. -/
def runImage (im : List Byte) (slot : Nat) (trial host : Bool) (s : State) : State :=
  (regPut Reg.fwuBoot (pack32 [(31, b2n trial), (30, slot), (29, b2n host)]) s).updFwu fun f => { f with
    running := im }

/-- The image of a slot runs, copied into DRAM area 3. -/
def runSlotImage (im : Nat → List Byte) (slot : Nat) (trial : Bool) (s : State) : State :=
  (runImage (im slot) slot trial false s).updFwu fun f => { f with store := tabSet [] f.store slot (im slot) }

/-- A confirmed image raises VBAT ARB to its own (R376). -/
def advanceArb (s : State) : State :=
  if runTrial s || imgArb s.fwu.running ≤ (vbtGet 2 s).toNat then s
  else vbtPut 2 (BitVec.ofNat 32 (imgArb s.fwu.running)) s

/-! A worker's image (R229). -/

/-- The bytes of 64 words, bits [63:56] of word 0 first. -/
def wordsBytes (ws : List W64) : List Byte := ws.flatMap fun w => natBytes w.toNat 8

/-- The portions that came, as one image. -/
def gatheredImage (last : Nat) (s : State) : List Byte :=
  let bs := (List.range (last + 1)).flatMap fun i => wordsBytes (tabGet [] s.cas.img i)
  bs.take (imgSize bs)

/-- Every portion up to the last has come. -/
def gathered (last : Nat) (s : State) : Bool := (List.range (last + 1)).all fun i => (tabFind s.cas.img i).isSome

/-- A worker refuses its image. -/
def refuseImage (h : W64) (s : State) : State := sendAck h 7 [] (s.updCas fun c => { c with imgRefused := true })

/-- One portion of an image. The header opens a new delivery. -/
def takePortion (h : W64) (body : List W64) (s : State) : State :=
  let n := bits h 31 10
  let last := bit h 0
  let s := if n = 0 then s.updCas fun c => { c with imgRefused := false } else s
  if s.cas.imgRefused then s
  else
    let s := s.updCas fun c => { c with img := tabSet [] c.img n body, imgLast := if last then some n else c.imgLast }
    if n = 0 ∧ headerCode (wordsBytes body) s ≠ 0 then refuseImage h s
    else if last && gathered n s then
      let im := gatheredImage n s
      if imageCode im s = 0 then
        sendAck h 0 [] ((runImage im 0 false false s).updCas fun c => { c with img := [] })
      else refuseImage h s
    else s

/-- A portion of the manager's image arrives (R229). -/
def execImgFrame (words : List W64) (s : State) : Host.Outcome State Fault Refusal :=
  .next (ctlReceive 0xb [64] words (fun s =>
    if isWorker s then takePortion (words.headD 0) ((words.drop 1).take 64) s else s) s)

end Sys2Proof.Machine
end

