-- ==== Sys2Proof/Machine/Scour.lean ====
section
/-! DEFINITION. The Scourer: compares with the golden copy, repairs, divergence checks and the M slots of a hob (R30 to R32,
R232 to R242). -/

namespace Sys2Proof.Machine

open Sys2Proof

/-! The golden copy as the array should hold it. -/

/-- The first slot of the entry position that holds a slot, in its own copy: the even pan of a pan pair. -/
def firstSlot (d : TableDesc) (idx : Nat) : Nat :=
  let f := idx - idx % panSlices d.width
  if d.width = 3 then f - (f / 16384 % 2) * 16384 else f

/-- The primary index of an entry position. -/
def primaryOf (d : TableDesc) (idx : Nat) (s : State) : Nat :=
  let f := firstSlot d idx
  if panMirror (idx / 16384) s then twinIndex d f false else f

/-- The position of a slot among the slots of its entry. -/
def slotRel (d : TableDesc) (idx : Nat) : Nat :=
  idx % panSlices d.width + (if d.width = 3 then 4 * (idx / 16384 % 2) else 0)

/-- The descriptor of the table that a pan is assigned to. -/
def panDesc (p : Nat) (s : State) : Option (Nat × TableDesc) :=
  (panTable p s).bind fun t => (tableAt t s).map fun d => (t, d)

/-- What the golden copy holds for a slot: the slice and the rank word; a free slot where it holds no entry (R39). -/
def goldSlot (idx : Nat) (s : State) : Slice × BitVec 17 := match panDesc (idx / 16384) s with
  | none => (Slice.free, 0)
  | some (t, d) => match tabFind s.arr.gold (primaryOf d idx s) with
    | none => (Slice.free, 0)
    | some e =>
      if e.table = t then (entrySlice e (slotRel d idx), if slotRel d idx = 0 then rankWord e.rank else 0)
      else (Slice.free, 0)

/-- The array, a rank word or a record of an entry position was written and its golden copy is not (R237): a golden write under
way, one copy of a guarded entry written before the other, or a new slot whose record and rank are written before its row. -/
def slotPending (idx : Nat) (s : State) : Bool := match panDesc (idx / 16384) s with
  | none => false
  | some (_, d) =>
    let prim := primaryOf d idx s
    let qs := s.arr.mreqs.filter (·.prim == prim)
    s.arr.golds.any (·.idx == prim) ||
      (d.guarded && (qs.filter fun q => q.idx == prim).length != (qs.filter fun q => q.idx != prim).length) ||
      s.upd.plans.any fun p => p.queued && match p.steps.head? with
        | some (.put i _) => i == prim
        | some (.move _ i _) => i == prim
        | _ => false

/-- The four indices of a row. -/
def rowSlots (pan row : Nat) : List Nat := (List.range 4).map (pan * 16384 + row * 4 + ·)

/-- A row has an item whose golden copy is not yet written. -/
def rowPending (pan row : Nat) (s : State) : Bool := (rowSlots pan row).any fun i => slotPending i s

/-! Comparing a row (R236, R415). -/

/-- Ones in the low n bits. -/
def onesIn (w : Nat) : Nat → Nat
  | 0 => 0
  | n + 1 => b2n (w.testBit n) + onesIn w n

/-- The bits of one plane of a slice that differ, its epoch cell and its parity bit counted in. -/
def planeDiff (a b : BitVec 80) (ea eb pa pb : Bool) : Nat :=
  onesIn (a ^^^ b).toNat 80 + b2n (ea != eb) + b2n (pa != pb)

/-- What a compare of a row found. -/
structure RowDiff where
  /-- Bit i: slice i differs. -/
  slices : Nat
  x : Bool
  y : Bool
  rank : Bool
  epoch : Bool
  invalid : Bool
  data : Bool
  /-- Some affected plane or rank word differs in an even number of bits. -/
  even : Bool
  /-- The first slot that differs. -/
  first : Option Nat
  deriving DecidableEq, Repr

/-- One slot of a physical pan compared. -/
def slotDiff (r : RowDiff) (i idx : Nat) (c g : Slice) (w gw : BitVec 17) : RowDiff :=
  let nx := planeDiff c.x g.x c.xe g.xe c.px g.px
  let ny := planeDiff c.y g.y c.ye g.ye c.py g.py
  let nr := onesIn (w ^^^ gw).toNat 17
  let sl := decide (0 < nx ∨ 0 < ny)
  let ep := c.xe != g.xe || c.ye != g.ye
  { slices := if sl then r.slices + 2 ^ i else r.slices
    x := r.x || decide (0 < nx)
    y := r.y || decide (0 < ny)
    rank := r.rank || decide (0 < nr)
    epoch := r.epoch || ep
    invalid := r.invalid || (sl && c.invalid)
    data := r.data || c.x != g.x || c.y != g.y || c.px != g.px || c.py != g.py
    even := r.even || decide ((0 < nx ∧ nx % 2 = 0) ∨ (0 < ny ∧ ny % 2 = 0) ∨ (0 < nr ∧ nr % 2 = 0))
    first := r.first <|> (if sl || decide (0 < nr) then some idx else none) }

/-- A row of the physical pan k compared with the golden copy of its logical pan. -/
def rowDiff (pan row k : Nat) (s : State) : RowDiff :=
  (List.range 4).foldl (fun r i =>
    let idx := pan * 16384 + row * 4 + i
    let key := physKey (pan / 16) k (row * 4 + i)
    let g := goldSlot idx s
    slotDiff r i idx (tabGet Slice.free s.arr.slices key) g.1 (tabGet 0 s.arr.ranks key) g.2)
    ⟨0, false, false, false, false, false, false, false, none⟩

/-- The CODE of a scrub record: the first that applies in the order 6, 4, 3, 5. -/
def RowDiff.code (r : RowDiff) : Nat :=
  if r.invalid then 6 else if r.epoch then 4 else if r.data then 3 else 5

/-- DETAIL of a scrub record (Table 9.8). -/
def RowDiff.detail (r : RowDiff) : Nat :=
  packNat [(0, r.slices), (4, b2n r.x), (5, b2n r.y), (6, b2n r.rank), (7, b2n r.epoch), (8, b2n r.invalid)]

/-- OUTCOME of ARRAY codes 3 to 6 (Table 9.19). -/
def RowDiff.outcome (r : RowDiff) (pan : Nat) (s : State) : Nat := match panTable pan s with
  | none => 1
  | some t => if tableGuarded t s && !r.even then 1 else 2

/-- A row compared with the golden copy (R236). -/
def scrubRow (pan row : Nat) (s : State) : State :=
  let r := rowDiff pan row (physPan pan s) s
  match r.first with
  | none => s
  | some i =>
    let out := r.outcome pan s
    let s := intEvent 1 (intCount 4 s)
    queueRepair i out (errRecord 0x10 r.code out r.detail (arrayLoc i s) s)

/-! Comparing a Pantry word. -/

/-- The rows whose records lie in a word are repaired: one row, or two of neighbouring records. -/
def repairWord (w out : Nat) (s : State) : State :=
  let os := [unitOwner (2 * w) s, unitOwner (2 * w + 1) s].filterMap id
  os.foldl (fun s o => queueEntryRepair o.2.1.width o.2.2.2 out s) s

/-- A Pantry word compared with the golden copy (R236, R415): a miscorrection, or a SECDED error, is recorded and repaired. The
record names the first record that the word holds. -/
def scrubWord (w : Nat) (s : State) : State :=
  let o0 := unitOwner (2 * w) s
  let o1 := unitOwner (2 * w + 1) s
  match o0 <|> o1 with
  | none => s
  | some (t, d, m, idx) =>
    let s := grantUnit (w / 262144) 3 s
    let r := pantryRead w s
    let g (u : Nat) (o : Option (Nat × TableDesc × Bool × Nat)) (v : Nat) : Bool :=
      o.isSome && (tabGet 0 s.arr.goldRec u).toNat != v
    let differs := r.kind != 2 && (g (2 * w) o0 (bits r.val 63 32) || g (2 * w + 1) o1 (bits r.val 31 0))
    let loc := pantryLoc w (some (t, m, idx))
    if differs then
      let s := if r.kind = 1 then intCount 2 s else s
      repairWord w 2 (errRecord 0x11 3 2 0 loc (intEvent 1 (intCount 4 s)))
    else if r.kind = 1 then
      repairWord w 0 (errRecord 0x11 1 0 (packNat [(0, r.syn.toNat), (8, r.at_)]) loc (intCount 2 s))
    else if r.kind = 2 then
      let out := if d.guarded then 1 else 2
      repairWord w out (errRecord 0x11 2 out r.syn.toNat loc (intCount 3 s))
    else s

/-- Some record in a word is not in the golden copy yet (R237). -/
def wordPending (w : Nat) (s : State) : Bool :=
  [unitOwner (2 * w) s, unitOwner (2 * w + 1) s].any fun o => match o with
    | some x => slotPending x.2.2.2 s
    | none => false

/-! The pass of a hob (R32, R236). -/

/-- Rows of a hob's in-use pans. -/
def hobRows : Nat := 65536

/-- The hob in whose pass an item is compared; each hob's pass takes its share of the Pantry's words. -/
def itemHob (i : ScrubItem) : Nat := match i with
  | .row p _ => p.val / 16
  | .word w => w.val / 131072

/-- A pass whose rows are all read and compared ends, and the next begins. -/
def endPass (h : Nat) (s : State) : State :=
  if tabGet 0 s.arr.scrubPos h < hobRows || s.arr.scrubbed.any (fun i => itemHob i == h) then s
  else
    let t := (s.clk.now - tabGet 0 s.arr.scrubAt h) / 1000
    let s := s.updArr fun a => { a with scrubPos := tabSet 0 a.scrubPos h 0, scrubAt := tabSet 0 a.scrubAt h s.clk.now }
    fieldPut Reg.intScrubStat 15 0 (min 65535 (max t (fieldGet Reg.intScrubStat 15 0 s))) s

/-- An item that the pass has read is compared. One whose golden copy is not yet written is skipped, counted, and taken again
before the pass ends (R237). -/
def compareItem (i : ScrubItem) (s : State) : State :=
  let wait := match i with
    | .row p r => rowPending p.val r.val s
    | .word w => wordPending w.val s || !inService s
  if wait then intCount 21 s
  else
    let s := match i with
      | .row p r => scrubRow p.val r.val s
      | .word w => scrubWord w.val s
    endPass (itemHob i) (s.updArr fun a => { a with scrubbed := a.scrubbed.filter (· != i) })

def execScrubCompare (item : ScrubItem) (s : State) : Host.Outcome State Fault Refusal :=
  .next (if awake s && s.arr.scrubbed.contains item then compareItem item s else s)

/-! Repairs (R237 to R239). -/

/-- The first repair of a hob that waits starts once the golden copy of its row is written (R237, R238 step 1). -/
def execRepair (h : Fin 16) (s : State) : Host.Outcome State Fault Refusal :=
  .next (match s.arr.repairs.findIdx? fun r => r.hob == h.val && r.phase == 0 && !rowPending r.pan r.row s with
    | none => s
    | some i => s.updArr fun a => { a with repairs := a.repairs.modify i fun r => { r with phase := 1 } })

/-- The records of a row's entry positions: the descriptor, the first unit and the number of units of each. -/
def rowRecords (pan row : Nat) (s : State) : List (Nat × Nat) := match panDesc pan s with
  | none => []
  | some (_, d) => ((rowSlots pan row).filter fun i => i % panSlices d.width == 0).map fun i =>
      (recordUnit d (firstSlot d i) (panMirror pan s), strideUnits d)

/-- A repair's golden data is written: the row, its rank words and the records of its positions (R238 steps 2 and 3). -/
def writeRepair (pan row : Nat) (s : State) : State :=
  let s := (rowSlots pan row).foldl (fun s i =>
    let g := goldSlot i s
    writeRank i g.2 (writeSlot i g.1 s)) s
  (rowRecords pan row s).foldl (fun s u =>
    unitsWrite 3 u.1 u.2 ((List.range u.2).map fun k => tabGet 0 s.arr.goldRec (u.1 + k)) s) s

/-- A row read back as the golden copy holds it, unless the Spatula has written it since. -/
def readsBack (pan row : Nat) (s : State) : Bool :=
  rowPending pan row s || (rowDiff pan row (physPan pan s) s).first.isNone

/-- The read-back of a repair agrees, or it is a persistent fault (R238 step 4, R239). `stuck` says that a cell of the row does
not hold what was written. -/
def repairEnds (r : Repair) (stuck : Bool) (s : State) : State :=
  let k := r.hob * 17 + physPan r.pan s
  let loc := arrayLoc (r.pan * 16384 + r.row * 4) s
  let ok := !stuck && readsBack r.pan r.row s
  let s := s.updArr fun a => { a with repairs := a.repairs.filter fun x => !(x.pan == r.pan && x.row == r.row) }
  if !ok then persistentFault r.pan (errRecord 0x10 8 3 0 loc s)
  else
    let s := errRecord 0x10 7 0 0 loc (intCount 5 s)
    let recent := (s.arr.repaired.filter fun x => s.clk.now < x.2 + 1000000000) ++ [(k, s.clk.now)]
    let s := s.updArr fun a => { a with repaired := recent }
    if fieldGet Reg.intRemapCfg 7 0 s ≤ (recent.filter fun x => x.1 == k).length then persistentFault r.pan s else s

/-- One M slot used for a repair: the read-back of the last one written, else the next write. -/
def repairSlot (h : Nat) (stuck : Bool) (s : State) : Option State :=
  match s.arr.repairs.find? fun r => r.hob == h && r.phase == 2 with
  | some r => some (repairEnds r stuck s)
  | none => match s.arr.repairs.find? fun r => r.hob == h && r.phase == 1 with
    | none => none
    | some r =>
      let wait := rowPending r.pan r.row s || !inService s
      let s := s.updArr fun a => { a with repairs := a.repairs.map fun x =>
        if x.pan = r.pan ∧ x.row = r.row then { x with phase := if wait then 0 else 2 } else x }
      if wait then none else some (writeRepair r.pan r.row s)

/-! Divergence checks (R242). -/

/-- A checked row that differs from the golden copy is counted, recorded and repaired as a compare of the Scourer is (Table 9.1, R238);
the repair of a row whose golden copy is not yet written waits for it (R237, assumption 43). For a pan pair the row of both pans. -/
def checkRow (width idx : Nat) (s : State) : State :=
  let one (i : Nat) (s : State) : State :=
    let pan := i / 16384
    let row := i % 16384 / 4
    let r := rowDiff pan row (physPan pan s) s
    match r.first with
    | none => s
    | some j =>
      let out := r.outcome pan s
      if rowPending pan row s then queueRepair j out s
      else queueRepair j out (errRecord 0x10 r.code out r.detail (arrayLoc j s) (intEvent 1 (intCount 4 s)))
  let s := one idx s
  if width = 3 then one (idx + 16384) s else s

/-- The first divergence check whose rows are all read compares them (R242). -/
def execDivergenceCheck (s : State) : Host.Outcome State Fault Refusal :=
  .next (match s.arr.divs.findIdx? fun x => x.unread.isEmpty with
    | none => s
    | some i => match s.arr.divs[i]? with
      | none => s
      | some x =>
        let s := s.updArr fun a => { a with divs := a.divs.eraseIdx i }
        match tableAt x.table s with
        | none => s
        | some d => (divRows d x.prim x.mirr).foldl (fun s r => checkRow d.width r s) s)

/-- A row of a divergence check read in an M slot of its hob, at the order of a repair (R31, R242). -/
def divSlot (h : Nat) (s : State) : Option State :=
  let here (x : DivCheck) : Option Nat := x.unread.find? fun i => hobOf i == h
  match s.arr.divs.findIdx? fun x => (here x).isSome with
  | none => none
  | some i => some (s.updArr fun a => { a with divs := a.divs.modify i fun x =>
      { x with unread := x.unread.filter fun r => some r != here x } })

/-! M slots (R30, R31, R236). -/

/-- The rows a hob should have read since the start of its pass (R32, R236). -/
def paceRows (h : Nat) (s : State) : Nat :=
  min hobRows (hobRows * (s.clk.now - tabGet 0 s.arr.scrubAt h) / (fieldGet Reg.intScrubCfg 13 0 s * 1000))

/-- The hob is behind its pace. -/
def behindPace (h : Nat) (s : State) : Bool := tabGet 0 s.arr.scrubPos h < paceRows h s

/-- BEHIND of a hob follows its pace; a rise is reported (R236). -/
def setBehind (h : Nat) (s : State) : State :=
  let b := behindPace h s
  if flagGet Reg.intScrubStat (16 + h) s == b then s
  else
    let s := flagPut Reg.intScrubStat (16 + h) b s
    if b then intEvent 9 s else s

/-- The next row of a hob's pass, with its share of the Pantry's words, is read, to be compared by SCRUB_COMPARE. A pass whose rows
are all read waits for the compares. -/
def scrubRead (h : Nat) (s : State) : State :=
  let n := tabGet 0 s.arr.scrubPos h
  if hobRows ≤ n then s
  else
    let w := 2 * (h * hobRows + n)
    let used (v : Nat) : Bool := inService s && ((unitOwner (2 * v) s).isSome || (unitOwner (2 * v + 1) s).isSome)
    let items := .row (Fin.ofNat 256 (16 * h + n / 4096)) (Fin.ofNat 4096 (n % 4096)) ::
      ([w, w + 1].filter used).map fun v => .word (Fin.ofNat 2097152 v)
    intCount 20 (s.updArr fun a => { a with scrubPos := tabSet 0 a.scrubPos h (n + 1), scrubbed := a.scrubbed ++ items })

/-- The old slot of a move whose copy is under way: row writes of reconciliation and discards wait, to go with the entry. -/
def midMove (idx : Nat) (s : State) : Bool :=
  s.upd.plans.any fun p => match p.steps with
    | .put i _ :: rest => p.queued && leaving i rest == some idx
    | .move i _ _ :: _ => p.queued && i == idx
    | .bits i none (some _) :: _ => i == idx
    | _ => false

/-- The Spatula's first row write that may run in an M slot of the hob in cycle c. -/
def spatulaSlot (h c : Nat) (s : State) : Option State :=
  match s.arr.mreqs.findIdx? fun q => q.hob == h && q.notBefore ≤ c && !(q.tag.planNo.isNone && midMove q.prim s) with
  | none => none
  | some i => match s.arr.mreqs[i]? with
    | none => none
    | some q => some (performRow q c (s.updArr fun a => { a with mreqs := a.mreqs.eraseIdx i }))

/-- The remap of a hob. -/
def hobRemap (h : Nat) (s : State) : Option Remap := s.arr.remaps.find? fun r => r.pan / 16 == h

/-- The remap of a hob changed, or ended. -/
def updRemap (h : Nat) (f : Remap → Option Remap) (s : State) : State :=
  s.updArr fun a => { a with remaps := a.remaps.filterMap fun r => if r.pan / 16 = h then f r else some r }

/-- A row of a logical pan, with its rank words, written from the golden copy into a physical pan (R245). -/
def copyRow (p k row : Nat) (s : State) : State :=
  (rowSlots p row).foldl (fun s i =>
    let g := goldSlot i s
    let key := physKey (p / 16) k (i % 16384)
    putRank key g.2 (putSlice key g.1 s)) s

/-- The remap copier's row in an M slot (Table 9.4, steps 2 and 3). A row that the Spatula has just written is taken again. -/
def copySlot (h : Nat) (s : State) : Option State := match hobRemap h s with
  | none => none
  | some r =>
    if r.step ≠ 1 then none
    else
      let upd (f : Remap → Remap) (s : State) : State := updRemap h (fun r => some (f r)) s
      if r.row < 4096 then
        if rowPending r.pan r.row s then some (upd (fun r => { r with row := r.row + 1, again := r.again ++ [r.row] }) s)
        else some (upd (fun r => { r with row := r.row + 1 }) (copyRow r.pan r.new r.row s))
      else match r.again.find? fun x => !rowPending r.pan x s with
        | some x => some (upd (fun r => { r with again := r.again.filter (· != x) }) (copyRow r.pan r.new x s))
        | none => none

/-- The row of the spare that the Scourer reads and compares in an M slot (Table 9.4, step 4): a row that fails is read once
more. `stuck` says that the read differs from what was written. -/
def verifySlot (h : Nat) (stuck : Bool) (s : State) : Option State := match hobRemap h s with
  | none => none
  | some r =>
    if r.step ≠ 2 || 4096 ≤ r.row || 2 ≤ r.fails || rowPending r.pan r.row s then none
    else if stuck || (rowDiff r.pan r.row r.new s).first.isSome then
      some (updRemap h (fun r => some { r with fails := r.fails + 1 }) s)
    else some (updRemap h (fun r => some { r with row := r.row + 1, fails := 0 }) s)

/-- Slots run at all: not before start-up has released the hobs, in a power state that stops them, or in the gap of an
operating-point change (R296, R339, R356). -/
def slotsRun (s : State) : Bool :=
  decide (8 ≤ fieldGet Reg.glbBootStat 31 28 s) && flagGet Reg.clkStat 0 s && fieldGet Reg.pwrStat 31 29 s ≤ 1 &&
    !s.pip.oppHold

/-- The owner of a hob's slot in a PCLK cycle: the hob's frame count trails that of the pipelines by the 12 cycles of
distribution (R127), and its slot table is the one in force at its own count (R136). -/
def hobOwner (h c : Nat) (s : State) : Nat := slotOwner (schedFor (c - 12) s) h (slotAt (c - 12) s)

/-- The first M slot of a hob not used yet, among the last 64 cycles: not before the last search of the array, nor before the
hob's count passed the last switch of the schedule. -/
def nextMSlot (h : Nat) (s : State) : Option Nat :=
  let lo := max (max (tabGet 0 s.arr.maintAt h) (s.clk.pclk - 63)) (max s.pip.arrayAt (s.pip.switched + 12))
  ((List.range (s.clk.pclk + 1 - lo)).map (lo + ·)).find? fun c => hobOwner h c s == 3

/-- One access in an M slot of a hob, in cycle c: the first requester in the order of Table 1.5 (R31): repair and divergence reads,
scrub behind its pace, the Spatula, the remap copier, scrub on its pace. The compare of a remapped pan goes before the latter. -/
def maintAccess (h c : Nat) (stuck : Bool) (s : State) : State :=
  match repairSlot h stuck s <|> divSlot h s with
  | some s => s
  | none =>
    if behindPace h s then scrubRead h s
    else (spatulaSlot h c s <|> copySlot h s <|> verifySlot h stuck s).getD (scrubRead h s)

/-- One M slot of a hob serves one requester (R30, R31), once the searches up to its cycle are over; then the Spatula's plans go on.
`stuck` is what a read-back finds. -/
def execMaintSlot (h : Fin 16) (stuck : Bool) (s : State) : Host.Outcome State Fault Refusal :=
  .next (
    if !slotsRun s || xingDead (26 + h.val) s then s
    else match nextMSlot h.val s with
    | none => advanceAll s
    | some c =>
      if !searchesDone c s then s
      else
        let s := voteRead 0 (Reg.hobSlot (4 * h.val + slotAt (c - 12) s / 16)) s
        let s := s.updArr fun a => { a with maintAt := tabSet 0 a.maintAt h.val (c + 1) }
        advanceAll (setBehind h.val (maintAccess h.val c stuck s)))

/-! Words rewritten from their copies (R59, R233). -/

/-- A Sieve mask word that failed parity is rewritten from the entry directory. -/
def execSieveWordRewrite (t : Fin 128) (bucket : Option (Fin 1024)) (s : State) :
    Host.Outcome State Fault Refusal :=
  .next (
    let b := match bucket with
      | some b => b.val
      | none => 1024
    if !awake s then s
    else if s.tbl.maskFix.contains (maskKey t.val b) || !(maskAt t.val b s).ok then
      (maskWrite t.val b (tabGet 0 s.tbl.maskDir (maskKey t.val b)) s).updTbl fun x => { x with
        maskFix := x.maskFix.filter (· != maskKey t.val b) }
    else s)

/-- Word w of a profile taken from another. -/
def Profile.takeWord (p q : Profile) (w : Nat) : Profile :=
  if w = 0 then { p with hdr := q.hdr }
  else if w < 9 then { p with lks := p.lks.set (w - 1) (q.lks.getD (w - 1) 0) }
  else { p with segs := p.segs.set (w - 9) (q.segs.getD (w - 9) 0) }

/-- A profile word that failed parity is rewritten from its copy in DRAM; a header word that was lost with the profile's
validity brings it back. -/
def rewriteProfile (n w : Nat) (s : State) : State :=
  if prfWordBad n w s then
    s.updTbl fun x => { x with
      prfBad := tabSet false x.prfBad (prfWord n w) false
      profiles := match tabFind x.prfDram n with
        | some q => tabInsert x.profiles n (((tabFind x.profiles n).getD q).takeWord q w)
        | none => x.profiles }
  else s

/-- A table-descriptor word that failed parity is rewritten from its copy in DRAM; the table's life is as it was. -/
def rewriteTable (t : Nat) (s : State) : State :=
  if tabGet false s.tbl.tblBad t then
    s.updTbl fun x => { x with
      tblBad := tabSet false x.tblBad t false
      tables := match tabFind x.tblDram t, tabFind x.tables t with
        | some d, some o => tabInsert x.tables t { d with life := o.life }
        | _, _ => x.tables }
  else s

/-- A profile or descriptor word that failed parity is rewritten from its copy in DRAM (R233). -/
def execDescriptorWordRewrite (w : DescWord) (s : State) : Host.Outcome State Fault Refusal :=
  .next (if !awake s then s
    else match w with
    | .profile n w => rewriteProfile n.val w.val s
    | .table t => rewriteTable t.val s)

end Sys2Proof.Machine
end

