-- ==== Sys2Proof/Machine/Maint.lean ====
section
/-! DEFINITION. Remaps, migrations, rebalancing, aging, service life, DRAM errors and the INT_ registers (R169, R244 to
R257). -/

namespace Sys2Proof.Machine

open Sys2Proof

/-! Remap (R244 to R246). -/

/-- INT_REMAP_CTL written: PAN, and a request with cause 4 for GO, which clears when it is queued (R244). -/
def wrRemapCtl (v : Word) (s : State) : State :=
  let s := fieldPut Reg.intRemapCtl 7 0 (bits v 7 0) s
  if bit v 8 then requestRemap (bits v 7 0) 4 s else s

/-- HOB_STAT_h.SPARE_PHYS. -/
def sparePhys (h : Nat) (s : State) : Nat := fieldGet (Reg.hobStat h) 28 24 s

/-- REMAP_PHASE of a hob changes. -/
def setPhase (h ph : Nat) (s : State) : State := intEvent 3 (fieldPut (Reg.hobStat h) 31 29 ph s)

/-- A REMAP record (Table 9.8). -/
def remapRecord (code outcome : Nat) (r : Remap) (s : State) : State :=
  errRecord 0x20 code outcome r.cause (packNat [(28, r.pan), (24, r.pan / 16), (5, r.old), (0, r.new)]) s

/-- A physical pan retired, and its hob left without a spare. -/
def retirePan (h k : Nat) (s : State) : State :=
  let s := fieldPut (Reg.hobStat h) k k 1 (fieldPut (Reg.hobStat h) 28 24 0x1f s)
  markDirty (intEvent 4 s)

/-- The first request of the pan's hob starts when no remap runs there (R244, Table 9.4 step 1): the MP records it in the settings
record and with CODE 1, and the copier begins. -/
def execRemapStart (pan : Fin 256) (s : State) : Host.Outcome State Fault Refusal :=
  .next (
    let h := pan.val / 16
    match s.arr.remapReqs.find? fun r => r.1 / 16 == h with
    | some (p, cause) =>
      if p = pan.val ∧ (hobRemap h s).isNone ∧ sparePhys h s ≠ 0x1f then
        let r : Remap := { pan := p, cause := cause, old := physPan p s, new := sparePhys h s, step := 1, row := 0, again := []
                           fails := 0, due := 0 }
        let s := s.updArr fun a => { a with
          remapReqs := a.remapReqs.filter (·.1 != p)
          remaps := a.remaps ++ [r] }
        setPhase h 1 (remapRecord 1 3 r (writeSettings s))
      else s
    | none => s)

/-- Steps 2 and 3 of Table 9.4 are over: every row of the spare is written, and phase 2 begins. -/
def execRemapCopyDone (h : Fin 16) (s : State) : Host.Outcome State Fault Refusal :=
  .next (match hobRemap h.val s with
    | some r =>
      if r.step = 1 ∧ 4096 ≤ r.row ∧ r.again.isEmpty then
        setPhase h.val 2 (updRemap h.val (fun r => some { r with step := 2, row := 0, fails := 0 }) s)
      else s
    | none => s)

/-- Step 4: the compare of the spare ends; a row that fails twice aborts the remap into a migration. -/
def execRemapVerifyDone (h : Fin 16) (s : State) : Host.Outcome State Fault Refusal :=
  .next (match hobRemap h.val s with
    | some r =>
      if r.step ≠ 2 then s
      else if 2 ≤ r.fails then
        let s := setPhase h.val 0 (retirePan h.val r.new (updRemap h.val (fun _ => none) s))
        requestRemap r.pan r.cause (remapRecord 4 3 r s)
      else if 4096 ≤ r.row then updRemap h.val (fun r => some { r with step := 3 }) s
      else s
    | none => s)

/-- Step 5: the settings record names the new pan; the switch waits for the next frame boundary. -/
def execRemapRecordWritten (h : Fin 16) (s : State) : Host.Outcome State Fault Refusal :=
  .next (match hobRemap h.val s with
    | some r =>
      if r.step = 3 then
        writeSettings (updRemap h.val (fun r => some { r with step := 4, due := s.clk.frame + 1 }) s)
      else s
    | none => s)

/-- Step 6: searches use the new pan from the next slot (R51). -/
def execRemapSwitch (h : Fin 16) (s : State) : Host.Outcome State Fault Refusal :=
  .next (match hobRemap h.val s with
    | some r =>
      if r.step = 4 ∧ r.due ≤ s.clk.frame then
        let s := fieldPut (Reg.hobLmap r.pan) 4 0 r.new s
        let s := updRemap h.val (fun r => some { r with step := 5, due := s.clk.pclk + 160 }) s
        remapRecord 2 3 r (setPhase h.val 3 s)
      else s
    | none => s)

/-- Step 7: 160 PCLK after the switch the old pan is retired, in phase 4; and step 8, the MP's record, in phase 0. -/
def execRemapRetire (h : Fin 16) (s : State) : Host.Outcome State Fault Refusal :=
  .next (match hobRemap h.val s with
    | some r =>
      if r.step = 5 ∧ r.due ≤ s.clk.pclk then
        setPhase h.val 4 (retirePan h.val r.old (updRemap h.val (fun r => some { r with step := 6 }) s))
      else if r.step = 6 then setPhase h.val 0 (remapRecord 3 0 r (updRemap h.val (fun _ => none) s))
      else s
    | none => s)

/-! Migration (R247, R248). -/

/-- A CAPACITY record (Table 9.8). -/
def capRecord (code outcome p idx n : Nat) (s : State) : State :=
  errRecord 0x21 code outcome n (packNat [(57, (panTable p s).getD 0), (28, p), (0, idx)]) s

/-- The pan of the primary copy that holds a pan's entries: the first pan of a pan pair. -/
def homePan (d : TableDesc) (p : Nat) (s : State) : Nat :=
  panOf d.width (if panMirror p s then twinIndex d (p * 16384) false else p * 16384)

/-- The entries that a migrating pan holds. -/
def homeEntries (p : Nat) (s : State) : List (Nat × Entry) := match panDesc p s with
  | some (t, d) => panEntries t (homePan d p s) s
  | none => []

/-- A request in a hob without a spare starts a migration, one at a time (R244, R247). -/
def execMigrationStart (pan : Fin 256) (s : State) : Host.Outcome State Fault Refusal :=
  .next (
    let p := pan.val
    if s.arr.remapReqs.any (·.1 == p) && sparePhys (p / 16) s == 0x1f && (hobRemap (p / 16) s).isNone &&
        s.arr.migrating.isEmpty && !panLost p s then
      let s := s.updArr fun a => { a with
        remapReqs := a.remapReqs.filter (·.1 != p)
        migrating := a.migrating ++ [p] }
      let s := regPut Reg.intMig (pack32 [(31, 1), (0, p)]) s
      capRecord 1 3 p 0 (homeEntries p s).length s
    else s)

/-- The number of a plan that belongs to no command. -/
def freshPlan (s : State) : Nat × State := (s.upd.nextId, s.updUpd fun u => { u with nextId := u.nextId + 1 })

/-- An entry moved out of its pan by R164 and R165; none if it waits, false if it found no place. -/
def moveAway (t : Nat) (d : TableDesc) (i : Nat) (e : Entry) (s : State) : Option (Bool × State) :=
  let m := domAt d.domain s
  if m.recon || m.discarding || panBusy d (panOf d.width i) s then none
  else match choosePan d t e.key e.mask (skipPans d t s) s with
    | .error _ => some (false, s)
    | .ok q =>
      if panBusy d q s then none
      else match placeAt d t q e.rank s with
        | none => some (false, s)
        | some pl =>
          let (n, s) := freshPlan s
          some (true, startPlan { no := n, cmd := none, slack := false, table := t,
                                  steps := pl.steps ++ [.put pl.pos e, .bits i none (some pl.pos)],
                                  queued := false, begun := false, idx := pl.pos, moves := 0 } s)

/-- A migrating pan without entries is LOST (R52, R247). -/
def losePan (p : Nat) (s : State) : State :=
  let s := flagPut (Reg.hobLmap p) 11 true (s.updArr fun a => { a with migrating := a.migrating.filter (· != p) })
  let s := regPut Reg.intMig 0 (fieldPut Reg.intCap 31 24 (fieldGet Reg.intCap 31 24 s + 1) s)
  intEvent 5 (capRecord 2 3 p 0 0 (markDirty s))

/-- The next entry of a migrating pan in ascending position; then the pan is LOST, or its stranded entries are reported
(R247, R248). -/
def execMigrateEntry (pan : Fin 256) (s : State) : Host.Outcome State Fault Refusal :=
  .next (
    let p := pan.val
    if !s.arr.migrating.contains p then s
    else match panDesc p s with
    | none => losePan p s
    | some (t, d) =>
      let es := homeEntries p s
      match es.find? fun x => !s.arr.stranded.contains x.1 with
      | some (i, e) => match moveAway t d i e s with
        | none => s
        | some (true, s) => s
        | some (false, s) => showStranded (s.updArr fun a => { a with stranded := a.stranded ++ [i] })
      | none =>
        if es.isEmpty then (if panBusy d (homePan d p s) s then s else losePan p s)
        else if s.arr.told = s.arr.stranded.length then s
        else intEvent 5 (capRecord 3 3 p 0 s.arr.stranded.length (s.updArr fun a => { a with told := a.stranded.length })))

/-- The first stranded entry of a pan that now finds a place moves (R248). -/
def execStrandedRetry (pan : Fin 256) (s : State) : Host.Outcome State Fault Refusal :=
  .next (if !awake s then s
    else match panDesc pan.val s with
    | none => s
    | some (t, d) =>
      let es := homeEntries pan.val s
      let still (i : Nat) : Bool := i / 16384 != homePan d pan.val s || es.any (·.1 == i)
      let s := showStranded (s.updArr fun a => { a with stranded := a.stranded.filter still })
      ((es.filter fun x => s.arr.stranded.contains x.1).findSome? fun x =>
        match moveAway t d x.1 x.2 s with
        | some (true, s) => some (showStranded (s.updArr fun a => { a with stranded := a.stranded.filter (· != x.1) }))
        | _ => none).getD s)

/-! Rebalancing (R169). -/

/-- Position of an index in its pan. -/
def posOf (d : TableDesc) (i : Nat) : Nat := i % 16384 / panSlices d.width

/-- The first run of more than n consecutive occupied positions: its first position and its length. -/
def longRun (n : Nat) : List Nat → Nat → Nat → Option (Nat × Nat)
  | [], a, l => if n < l then some (a, l) else none
  | q :: qs, a, l =>
    if q = a + l then longRun n qs a (l + 1)
    else if n < l then some (a, l)
    else longRun n qs q 1

/-- The moves that spread the slack beside a run: where the run is split and which side moves are open (log entry 22). -/
def spreadMoves (size a l : Nat) (w : W64) : List (Nat × Nat) :=
  let k := w.toNat / 2 % (l - 1) + 1
  let up := (List.range (l - k)).map fun i => (a + l - 1 - i, a + l - i)
  let down := (List.range k).map fun i => (a + i, a + i - 1)
  if a + l < size && (a = 0 || w.toNat % 2 = 0) then up
  else if 0 < a then down
  else []

/-- When no intent waits, a pan with a long run of entries has its slack spread. -/
def execRebalance (pan : Fin 256) (s : State) : Host.Outcome State Fault Refusal :=
  .next (
    if !flagGet Reg.updSlack 16 s || intentWaits s || !s.upd.plans.isEmpty || !s.arr.mreqs.isEmpty then s
    else match panDesc pan.val s with
    | none => s
    | some (t, d) =>
      let p := homePan d pan.val s
      if panBusy d p s then s
      else
        let qs := (panEntries t p s).map fun x => posOf d x.1
        match longRun (fieldGet Reg.updSlack 12 0 s) qs (qs.headD 0) 0 with
        | none => s
        | some (a, l) =>
          let ms := spreadMoves (panSize d.width) a l (Config.freeWord s.clk.free)
          if ms.isEmpty then s
          else
            let at_ (q : Nat) : Nat := p * 16384 + q * panSlices d.width
            let (n, s) := freshPlan (nextFree s)
            startPlan { no := n, cmd := none, slack := true, table := t
                        steps := ms.map fun m => .move (at_ m.1) (at_ m.2) none
                        queued := false, begun := false, idx := 0, moves := ms.length } s)

/-! Aging and service life (R250, R251, R382). -/

/-- The logical pan that a physical pan serves. -/
def servedPan (h k : Nat) (s : State) : Option Nat :=
  ((List.range 16).map (16 * h + ·)).find? fun p => physPan p s == k && !panLost p s

/-- An AGING record. -/
def agingRecord (code outcome h k m : Nat) (s : State) : State := errRecord 0x22 code outcome m (packNat [(24, h), (0, k)]) s

/-- A pan at or below the REMAP threshold: a spare is retired, a serving pan is to be remapped (R250). -/
def agedPan (h k m : Nat) (s : State) : State :=
  if sparePhys h s = k then
    if (hobRemap h s).isSome then s
    else
      let s := agingRecord 2 3 h k m (retirePan h k s)
      errRecord 0x20 5 3 3 (packNat [(24, h), (5, k), (0, 0x1f)]) s
  else match servedPan h k s with
    | none => s
    | some p =>
      let n := s.arr.remapReqs.length
      let s' := requestRemap p 3 s
      if s'.arr.remapReqs.length = n then s' else agingRecord 2 3 h k m s'

/-- One monitor's sample. -/
def agingOne (s : State) (x : Nat × Byte) : State :=
  let m := x.2.toNat
  let h := x.1 / 17
  let k := x.1 % 17
  let s := fieldPut (Reg.intAge x.1) 7 0 m s
  let low := min m (fieldGet (Reg.intAge x.1) 15 8 s)
  let s := fieldPut (Reg.intAge x.1) 15 8 low s
  let hi := 4 * (x.1 % 8) + 3
  let s := if low / 16 < bits (vbtGet (16 + x.1 / 8) s) hi (hi - 3) then
      vbtField (16 + x.1 / 8) hi (hi - 3) (low / 16) s
    else s
  let s := if m ≤ fieldGet Reg.intAgeCfg 15 8 s && !s.arr.warned.contains x.1 then
      agingRecord 1 1 h k m (intEvent 6 (s.updArr fun a => { a with warned := a.warned ++ [x.1] }))
    else s
  if m ≤ fieldGet Reg.intAgeCfg 7 0 s then agedPan h k m s else s

/-- Every second every monitor is sampled; margin n is that of physical pan n % 17 of hob n / 17. -/
def execAgingSample (margins : List Byte) (s : State) : Host.Outcome State Fault Refusal :=
  .next (if awake s then
    ((List.range 272).zip margins).foldl agingOne (s.updPwr fun p => { p with sampleAt := s.clk.now })
  else s)

/-- 2^(f / 40) in units of 2^-32, rounded down, for f = 0 to 39. -/
def lifeTable : List Nat :=
  [4294967296, 4370042001, 4446428990, 4524151200, 4603231970, 4683695047, 4765564595, 4848865196,
   4933621867, 5019860058, 5107605667, 5196885041, 5287724991, 5380152796, 5474196211, 5569883475,
   5667243323, 5766304991, 5867098227, 5969653298, 6074000999, 6180172667, 6288200182, 6398115985,
   6509953083, 6623745058, 6739526082, 6857330923, 6977194956, 7099154176, 7223245205, 7349505307,
   7477972397, 7608685052, 7741682524, 7877004751, 8014692369, 8154786724, 8297329885, 8442364657]

/-- The equivalent age of one minute at a temperature in 0.25 °C, in 2^-32 minutes, rounded down (R251). -/
def lifeStep (temp : Int) : Nat :=
  let x := temp - 360
  let f := lifeTable.getD (x % 40).toNat 0
  if 0 ≤ x then f * 2 ^ (x / 40).toNat else f / 2 ^ (-(x / 40)).toNat

/-- A signed reading of 10 bits. -/
def signed10 (v : Nat) : Int := if v < 512 then v else (v : Int) - 1024

/-- INT_LIFE as a number of minutes. -/
def lifeMinutes (s : State) : Nat := (regGet Reg.intLifeLo s).toNat + (regGet Reg.intLifeHi s).toNat * 4294967296

/-- INT_LIFE written. -/
def putLife (n : Nat) (s : State) : State :=
  regPut Reg.intLifeHi (BitVec.ofNat 32 (n / 4294967296)) (regPut Reg.intLifeLo (BitVec.ofNat 32 n) s)

/-- GLB_TEMP takes a sample of the hottest sensor (R406). -/
def tempSample (hot : Nat) (s : State) : State :=
  let s := fieldPut Reg.glbTemp 9 0 hot s
  if signed10 (fieldGet Reg.glbTemp 25 16 s) < signed10 hot then fieldPut Reg.glbTemp 25 16 hot s else s

/-- A minute in RUN, IDLE or SLEEP at a mean temperature in 0.25 °C; the rounding of the exponential is open (log entry 17).
The last sample of the hottest sensor is shown in GLB_TEMP. -/
def execLifeMinute (temp : Int) (hot : BitVec 10) (s : State) : Host.Outcome State Fault Refusal :=
  .next (
    let s := tempSample hot.toNat s
    if 2 < fieldGet Reg.pwrStat 31 29 s then s
    else
      let n := s.vbt.lifePart + lifeStep temp + b2n (Config.freeBit s.clk.free)
      putLife (lifeMinutes s + n / 4294967296)
        ((nextFree s).updVbt fun b => { b with lifePart := n % 4294967296 }))

/-- The equivalent age written to VBAT (R251). -/
def saveLife (s : State) : State := vbtPut64 5 (lifeMinutes s) s

/-- Every hour; every 24 hours it goes to the settings record too (Table 14.5). -/
def execLifeSave (s : State) : Host.Outcome State Fault Refusal :=
  .next (if !awake s then s
  else if s.vbt.lifeAt + 86400000000000 ≤ s.clk.now then
    markDirty (saveLife (s.updVbt fun v => { v with lifeAt := s.clk.now }))
  else saveLife s)

/-! DRAM errors (R252). -/

/-- The entry whose primary slot is at an index is lost: its slots are freed in every copy, and it is reported. -/
def loseEntry (t : Nat) (d : TableDesc) (prim : Nat) (s : State) : State := match dirAt prim s with
  | none => s
  | some e =>
    let (n, s) := freshPlan s
    capRecord 4 2 (prim / 16384) prim 1
      (queueRows d t prim none 0 none none true (some (bucketKey d e.key e.mask)) (.plan n) s)

/-- A slot whose array copy fails its parity. -/
def slotBad (i : Nat) (s : State) : Bool := !(sliceAt i s).okX || !(sliceAt i s).okY || !rankOk (rankAt i s)

/-- The entries that a golden item belongs to: table, descriptor and primary index. -/
def itemEntries (item : ScrubItem) (s : State) : List (Nat × TableDesc × Nat) := match item with
  | .row p r => match panDesc p.val s with
    | some (t, d) => ((rowSlots p.val r.val).map fun i => (t, d, primaryOf d i s)).eraseDups
    | none => []
  | .word w => ([unitOwner (2 * w.val) s, unitOwner (2 * w.val + 1) s].filterMap fun o =>
      o.map fun x => (x.1, x.2.1, primaryOf x.2.1 x.2.2.2 s)).eraseDups

/-- Those whose array copy fails too: a slot of the row by its parity, or the word by its SECDED. -/
def itemLost (item : ScrubItem) (s : State) : List (Nat × TableDesc × Nat) := match item with
  | .row p r => match panDesc p.val s with
    | some (t, d) => (((rowSlots p.val r.val).filter fun i => slotBad i s).map fun i => (t, d, primaryOf d i s)).eraseDups
    | none => []
  | .word w => if (pantryRead w.val s).kind = 2 then itemEntries item s else []

/-- An entry with its key, mask, rank and E bits as the array holds them in its primary slots. -/
def Entry.fromArray (e : Entry) (d : TableDesc) (prim : Nat) (s : State) : Entry :=
  let cs := (entrySlots d.width prim).map fun i => sliceAt i s
  let join (f : Slice → BitVec 80) : BitVec 640 :=
    BitVec.ofNat 640 ((cs.foldl (fun a c => a * 2 ^ 80 + (f c).toNat) 0) <<< (80 * (8 - cs.length)))
  let c := cs.headD Slice.free
  { e with key := join Slice.x, mask := join fun c => c.x ||| c.y, rank := (rankAt prim s).toNat % 65536, e0 := !c.xe, e1 := !c.ye }

/-- A golden item rewritten from the array: the rows of its entries, or the units of the word after correction. -/
def regainGold (item : ScrubItem) (s : State) : State := match item with
  | .row _ _ => (itemEntries item s).foldl (fun s x => match tabFind s.arr.gold x.2.2 with
      | some e => s.updArr fun a => { a with gold := tabInsert a.gold x.2.2 (e.fromArray x.2.1 x.2.2 s) }
      | none => s) s
  | .word w => ([2 * w.val, 2 * w.val + 1].filter fun u => (unitOwner u s).isSome).foldl (fun s u =>
      s.updArr fun a => { a with goldRec := tabSet 0 a.goldRec u (unitRead u s) }) s

/-- The entry directory rebuilt from the golden rows: the entries with an E bit, after the golden writes under way. -/
def regainDir (s : State) : State :=
  let gold := s.arr.golds.foldl (fun t g => match g.entry with
    | some e => tabInsert t g.idx e
    | none => tabErase t g.idx) s.arr.gold
  s.updArr fun a => { a with dir := gold.filter fun x => x.2.e0 || x.2.e1 }

/-- An uncorrectable error in a 64-byte line, and for the golden copy the item the line holds (Table 9.6). -/
def execDramUncorrectable (line : Nat) (item : Option ScrubItem) (s : State) : Host.Outcome State Fault Refusal :=
  .next (if !awake s then s
  else
    let addr := 64 * line
    let ch := line % 2
    let s := raiseInt 14 1 (cntAdd (Reg.drcCnt (2 + ch)) 1 (intEvent 8 (intCount 17 s)))
    let rec_ (code outcome : Nat) (s : State) : State := errRecord 0x30 code outcome ch addr s
    if inArea 0 addr s then
      match item with
      | none => rec_ 2 0 s
      | some it =>
        let lost := itemLost it s
        if lost.isEmpty then regainGold it (rec_ 2 0 s)
        else lost.foldl (fun s x => loseEntry x.1 x.2.1 x.2.2 s) (rec_ 3 2 s)
    else if inArea 1 addr s then regainDir (rec_ 4 0 s)
    else if inArea 2 addr s then rec_ 5 0 s
    else if inArea 3 addr s && isManager s then rec_ 6 0 s
    else rec_ 7 2 (s.updMem fun m => { m with dramBad := tabSet false m.dramBad line true }))

/-! The INT_ registers that act when written (R253 to R257). -/

/-- INT_ERR_HEAD. -/
def wrErrHead (v : Word) (s : State) : State := errLostRecord (fieldPut Reg.intErrHead 15 0 (bits v 15 0) s)

/-- A VF owns the vector (R272). -/
def vfVector (v : Nat) (s : State) : Bool := vecOwner v s != 0

/-- INT_ERR_CFG: a change of SIZE while EN = 1 is refused; EN from 0 to 1 restarts the ring and writes what was held. -/
def wrErrCfg (src : Party) (v : Word) (s : State) : State :=
  let old := regGet Reg.intErrCfg s
  if bit old 31 && bits v 3 0 != bits old 3 0 then refuseReg 4 src Reg.intErrCfg v s
  else
    let s1 := plainWrite Reg.intErrCfg v s
    if bit v 31 && !bit old 31 then
      let s2 := fieldPut Reg.intErrPtr 15 0 0 (fieldPut Reg.intErrHead 15 0 0 s1)
      let s3 := s2.updErr fun e => { e with phase := true }
      if mayRequest 0 s3 then errFlush s3 else s3
    else s1

/-- INT_ERR_BASE_LO and INT_ERR_BASE_HI are refused while EN = 1 (Table 9.15). -/
def wrErrBase (src : Party) (off : Nat) (v : Word) (s : State) : State :=
  if flagGet Reg.intErrCfg 31 s then refuseReg 4 src off v s else plainWrite off v s

/-- The BLOCK records of rises are written, and the summary message they owe goes out, coalesced over 1 µs (R255). -/
def execIntSumMessage (s : State) : Host.Outcome State Fault Refusal :=
  .next (if !awake s then s
  else
    let s := errBlocks (if s.err.errOwed then errMessage s else s)
    if s.err.sumOwed && flagGet Reg.intSumCfg 31 s then
      if (match s.err.sumAt with | none => true | some t => t + 1000 ≤ s.clk.now) then
        raiseVec (fieldGet Reg.intSumCfg 10 0 s) (s.updErr fun e => { e with sumAt := some s.clk.now, sumOwed := false })
      else s
    else s.updErr fun e => { e with sumOwed := false })

end Sys2Proof.Machine
end

