-- ==== Sys2Proof/Machine/Golden.lean ====
section
/-! DEFINITION. Golden reload (R333) and the wake from a power state (R347 to R350, R353). -/

namespace Sys2Proof.Machine

open Sys2Proof

/-! Golden reload (R333). -/

/-- An entry of the golden copy is live in its domain's current epoch as the golden copy records it. -/
def goldLive (s : State) (x : Nat × Entry) : Bool := match tableAt x.2.table s with
  | some d => x.2.live (tabGet 0 s.arr.goldCnt d.domain)
  | none => false

/-- The entries that a reload places: those live, and of two of one identity, which a move left, the one whose golden write is the
later (R249, R333). -/
def reloadList (s : State) : List (Nat × Entry) :=
  let es := s.arr.gold.filter fun x => goldLive s x
  es.filter fun x => !es.any fun y => y.2.table == x.2.table && y.2.same x.2.key x.2.mask &&
    tabGet 0 s.arr.goldAt x.1 < tabGet 0 s.arr.goldAt y.1

/-- An entry written live in both epochs, after its record: the rank word, the Sieve bits, the row (R27, R333). -/
def reloadEntry (x : Nat × Entry) (s : State) : State := match tableAt x.2.table s with
  | none => s
  | some d =>
    let e := x.2.both
    let s := putRanks d x.1 e.rank s
    let s := (nameEntry d e.table (panOf d.width x.1) e.key e.mask s).1
    dirPut x.1 (some e) ((copies d x.1).foldl (fun s c => writeEntrySlots d.width c (some e) s) s)

/-- A restored profile that fails the CODE 8 test is restored invalid, and PRF_STAT says so (R139). -/
def reloadProfile (x : Nat × Profile) (s : State) : State :=
  let (c, l, k) := prfCheck x.2 s.pip.schedActive s
  if c = 8 then regPut Reg.prfStat (pack32 [(16, x.1), (8, c), (4, l), (0, k)]) s
  else s.updTbl fun t => { t with profiles := tabInsert t.profiles x.1 x.2 }

/-- The words of the data regions written from the golden copy, in the banks that the loader owns (R296); it fills a bank that it
is given later before it hands it back (R298). -/
def reloadRecords (s : State) : State :=
  (List.range 64).foldl (fun s b => if bankOwner b s = 4 && !bankBusy b s then goldBank b s else s) s

/-- Golden reload, in START mode, from the beginning: descriptors, profiles, HOB_LMAP and Sieve maps, then every entry; every
other slot of the array is free. -/
def goldenReload (s : State) : State :=
  let s := s.updArr fun a => { a with slices := [], ranks := [], dir := [] }
  let s := s.updTbl fun t => { t with
    tables := t.tblDram.map fun x => (x.1, { x.2 with life := .exists_ })
    profiles := [], masks := [], maskDir := [], maskFix := [] }
  let s := s.tbl.tables.foldl (fun s x => assignPans x.2 (some x.1) s) s
  let s := s.tbl.prfDram.foldl (fun s x => reloadProfile x s) s
  let s := (reloadList s).foldl (fun s x => reloadEntry x s) (reloadRecords s)
  s.updArr fun a => { a with gold := a.dir }

/-- GLB_BOOT_STAT.PHASE. -/
def startPhase (s : State) : Nat := fieldGet Reg.glbBootStat 31 28 s

/-- Start-up is at golden reload: PHASE 7 with KEPT = 1, RELOADED not yet set. -/
def reloadDue (s : State) : Bool :=
  startPhase s == 7 && flagGet Reg.glbBootStat 23 s && !flagGet Reg.glbBootStat 21 s

/-- The reload writes the array (R333). -/
def execGoldenReload (s : State) : Host.Outcome State Fault Refusal :=
  .next (if reloadDue s && memMode s == 0 then goldenReload s else s)

/-- Every table is done. -/
def execReloadDone (s : State) : Host.Outcome State Fault Refusal :=
  .next (if reloadDue s && s.tbl.tables.length == s.tbl.tblDram.length then flagPut Reg.glbBootStat 21 true s else s)

/-! Wake (R347). -/

/-- A pan is assigned to a table, and a bank is touched by a table's data region (R349). -/
def panInUse (p : Nat) (s : State) : Bool := (panTable p s).isSome

def bankInUse (b : Nat) (s : State) : Bool :=
  s.tbl.tables.any fun t => t.2.regions.any fun r =>
    (List.range r.2).any fun i => pantryBank ((r.1 + i) / 2) == b

/-- A pan reloaded from the golden copy. -/
def reloadPan (p : Nat) (s : State) : State := (List.range 4096).foldl (fun s r => copyRow p (physPan p s) r s) s

/-- The words of a bank that no data region holds, after a loss of supply: free values (R350; log entry 4). -/
def looseBank (b : Nat) (s : State) : State :=
  let rs := s.tbl.tables.flatMap fun t => t.2.regions
  let inRegion (u : Nat) : Bool := rs.any fun r => r.1 ≤ u && u < r.1 + r.2
  let ws := (List.range 32768).map fun i => b / 8 * 262144 + 8 * i + b % 8
  (nextFree s).updMem fun m => { m with
    pantry := ws.foldl (fun t w =>
      if inRegion (2 * w) || inRegion (2 * w + 1) then t
      else memSetWord t w (Config.freeWord (s.clk.free * 4194304 + w))) m.pantry
    pantrySyn := m.pantrySyn.filter fun x => pantryBank x.1 != b }

/-- Bit i of a family of 32-bit registers. -/
def maskBit (r : Nat → Nat) (i : Nat) (s : State) : Bool := flagGet (r (i / 32)) (i % 32) s

/-- SIG_FAIL registers and the count of signature failures (R349). -/
def markFailed (r : Nat → Nat) (k : Nat) (ns : List Nat) (s : State) : State :=
  let s := (List.range k).foldl (fun s i =>
    regPut (r i) (pack32 ((ns.filter fun n => n / 32 == i).map fun n => (n % 32, 1))) s) s
  cntAdd (Reg.pwrCnt 4) ns.length s

/-- A pan or bank keeps its supply in the state left: in SLEEP every one, in DEEP those of the retention masks. -/
def retained (r : Nat → Nat) (st n : Nat) (s : State) : Bool := st == 2 || maskBit r n s

/-- Signature checks and reloads of a wake (R349). `badPans` and `badBanks` are those whose stored bits differ from what was
signed at entry. -/
def checkBanks (st : Nat) (badPans : List (Fin 256)) (badBanks : List (Fin 64)) (s : State) : State :=
  let pans := (List.range 256).filter fun p => panInUse p s
  let banks := (List.range 64).filter fun b => bankInUse b s
  let bp := pans.filter fun p => retained Reg.pwrRetPan st p s && badPans.any fun x => x.val == p
  let bb := banks.filter fun b => retained Reg.pwrRetPty st b s && badBanks.any fun x => x.val == b
  let s := markFailed Reg.pwrSigFailPan 8 bp (markFailed Reg.pwrSigFailPty 2 bb s)
  let s := if bp.isEmpty && bb.isEmpty then s else raiseInt 17 2 s
  let lost := (List.range 64).filter fun b => !retained Reg.pwrRetPty st b s
  let s := lost.foldl (fun s b => looseBank b s) s
  let s := (bb ++ banks.filter fun b => lost.contains b).foldl (fun s b => goldBank b s) s
  (bp ++ pans.filter fun p => !retained Reg.pwrRetPan st p s).foldl (fun s p => reloadPan p s) s

/-- A parked link resumes: its transmitters restart their codeword count, its lanes lock anew, and it has 20 µs for that (R348). -/
def resumeLink (l : LinkId) (s : State) : State :=
  if (grpAt l.key s).parked then
    let s := l.laneList.foldl (fun s n =>
      updLane n (fun x => { x with found := 0, missed := 0, ready := 0, notReady := 0, changed := false }) s) s
    startTx l.key (updGrp l.key (fun r => { r with resumeAt := some (s.clk.now + 20000) }) s)
  else s

def resumeLinks (s : State) : State :=
  [LinkId.fll 0, .fll 1, .fll 2, .fll 3, .fcl].foldl (fun s l => resumeLink l s) s

/-- The operating point in force becomes TARGET at once, during a wake (R358). -/
def oppAtWake (s : State) : State :=
  if s.pwr.oppLater then
    let s := s.updPwr fun p => { p with oppLater := false }
    let o := fieldGet Reg.pwrOppCtl 1 0 s
    let s := if isManager s && ringState s == 5 then ctrlWrite 31 Reg.pwrOppCtl (BitVec.ofNat 32 (4 + o)) s else s
    let s := fieldPut Reg.pwrOppStat 31 24 (4 * o) (setRails (oppVolts o) s)
    markDirty (raiseInt 17 16 (cntAdd (Reg.pwrCnt 5) 1 (flagPut Reg.pwrOppCtl 2 false (showLat s))))
  else s

/-- A manager sends a TIME frame before it dispatches any cascaded search (R353). -/
def wakeTime (s : State) : State :=
  if isManager s && ringState s == 5 then
    ctlSend 7 31 (s.clk.slot * 2 ^ 26) (timeWords (todFrac s)) (s.updCas fun c => { c with timeDue := s.clk.now + 125000 })
  else s

/-- The time spent in DEEP is not counted in the scrub period (R339). -/
def skipDeep (s : State) : State :=
  let d := s.clk.now - s.pwr.deepAt
  s.updArr fun a => { a with scrubAt := (List.range 16).foldl (fun t h => tabSet 0 t h (tabGet 0 a.scrubAt h + d)) a.scrubAt }

/-- A wake ends (Table 13.4): in RUN, or in IDLE after a scrub deadline or a monitor refresh (R342). -/
def wakeEnds (badPans : List (Fin 256)) (badBanks : List (Fin 64)) (s : State) : State := match s.pwr.waking with
  | none => s
  | some st =>
    let s := if st = 3 then
        (List.range 8).foldl (fun s i => fillScratch i s)
          (setRails (oppVolts (oppCur s)) ((skipDeep s).updArr fun a => { a with act := [], actBad := [] }))
      else s
    let s := if 2 ≤ st then
        oppAtWake (resumeLinks (checkBanks st badPans badBanks (flagPut Reg.glbBootStat 22 false (exitSelfRefresh s))))
      else s
    let s := if 2 ≤ st then allOpen s else s
    let s := fieldPut Reg.arbStat 23 16 0 s
    let idle := s.pwr.wakeIdle
    let s := regPut Reg.pwrStat (pack32 [(29, b2n idle), (26, st), (20, s.pwr.sources)]) s
    let s := s.updPwr fun p => { p with waking := none, sources := 0, wakeIdle := false }
    let s := s.updPip fun x => { x with asleep := idle }
    wakeTime (raiseInt 17 8 (if idle then s else flagPut Reg.pwrCtl 0 false s))

/-- The wake sequence completes. -/
def execWakeDone (badPans : List (Fin 256)) (badBanks : List (Fin 64)) (s : State) :
    Host.Outcome State Fault Refusal := .next (wakeEnds badPans badBanks s)

end Sys2Proof.Machine
end

