-- ==== Sys2Proof/Machine/Restore.lean ====
section
/-! DEFINITION. What start-up restores: fuse values, the VBAT domain, the settings record and the schedule (R138 to R140, R198,
R375, R379, R381, R382, R413, R414). -/

namespace Sys2Proof.Machine

open Sys2Proof

/-! Values of M fields when the record names none (Table 16.16). -/

/-- The base in MiB of DRAM area a, placed from address 0 in order, and its size. -/
def areaDefault (a : Nat) : Word :=
  let sizes := [Config.goldMiB.toNat, 128, 4, 32, 1, 16]
  pack32 [(16, sizes.getD a 0), (0, (sizes.take a).foldl (· + ·) 0)]

/-- The default schedule (Table 5.14). -/
def defaultSlot (h : Nat) : Word := if h < 8 then 0xd5555555 else 0xeaaaaaaa

def defaultSchedule : Tab Word :=
  ((List.range 64).map fun i => (i, defaultSlot (i / 4))) ++ (List.range 4).map fun i => (64 + i, 0x7fff7fff)

/-- Registers of a family of n from base b, 4 bytes apart. -/
def inFam (b n off : Nat) : Bool := b ≤ off && off < b + 4 * n

/-- Table 16.16, by register offset; M fields of other registers take 0. -/
def mDefault (off : Nat) : Word :=
  if inFam (Reg.hobLmap 0) 256 off then BitVec.ofNat 32 ((off - Reg.hobLmap 0) / 4 % 16)
  else if inFam (Reg.hobStat 0) 16 off then pack32 [(24, 16)]
  else if inFam (Reg.hobSlot 0) 64 off then defaultSlot ((off - Reg.hobSlot 0) / 16)
  else if inFam (Reg.pipMask 0) 4 off then 0x7fff7fff
  else if inFam (Reg.lnkGrpCtl 0) 4 off then 1
  else if off = Reg.todPpsOutCfg then 100
  else if off = Reg.casCfg then 0x18
  else if inFam (Reg.prtBankOwn 0) 4 off then 0x55555555
  else if off = Reg.prtBankOwn 4 then 0x5555
  else if inFam (Reg.drcArea 0) 6 off then areaDefault ((off - Reg.drcArea 0) / 4)
  else if off = Reg.pwrCfg then 1
  else if off = Reg.pwrTmr 1 then 10
  else if off = Reg.pwrTmr 2 then 10000
  else if off = Reg.pwrTmr 3 then 10000000
  else if off = Reg.pwrTmr 4 then 0x0fffffff
  else if inFam (Reg.pwrRetPan 0) 8 off || inFam (Reg.pwrRetPty 0) 2 off then 0xffffffff
  else if off = Reg.fwuCfg then 0x0003000a
  else 0

/-! The settings record at start-up (R375, R379). -/

/-- The running image reads records of a schema major. -/
def readsMajor (m : Nat) (s : State) : Bool := imgNat s.fwu.running 20 1 ≤ m && m ≤ imgNat s.fwu.running 21 1

/-- The current record, if the running image can read it. -/
def readableRecord (s : State) : Option Settings := match currentSettings s with
  | some (_, r) => if readsMajor r.major s then some r else none
  | none => none

/-- The digest of the record agrees with SDIG_CUR or SDIG_PEND (R379). -/
def trustedRecord (r : Settings) (s : State) : Bool :=
  let w (n : Nat) : Nat := (vbtGet n s).toNat * 4294967296 + (vbtGet (n + 1) s).toNat
  r.digest == w 7 || r.digest == w 9

/-- The register is of the protection group (R278). -/
def prtGroup (off : Nat) : Bool :=
  off == Reg.prtLock || inFam (Reg.prtBankOwn 0) 5 off || inFam (Reg.prtFnRights 1) 63 off || inFam (Reg.prtRgnA 0) 32 off ||
    inFam (Reg.prtTgrant 4) 252 off

/-- The value that start-up gives the M fields of a register. -/
def mValue (r : Option Settings) (trusted : Bool) (off : Nat) : Word := match r with
  | none => mDefault off
  | some r => if prtGroup off && !trusted then mDefault off else (tabFind r.vals off).getD (mDefault off)

/-- The M fields of every register but the schedule, which is written with the operating point (R413). -/
def restoreM (r : Option Settings) (trusted : Bool) (s : State) : State :=
  settingRegs.foldl (fun s x =>
    if (schedIndex x.1).isSome then s
    else regPut x.1 (regGet x.1 s &&& ~~~x.2 ||| mValue r trusted x.1 &&& x.2) s) s

/-- VBT_STAT bits and their events. -/
def vbtFlag (i : Nat) (b : Bool) (s : State) : State := flagPut Reg.vbtStat i b s

/-- The record applied: M fields, queued remaps, DIGEST_BAD and REC_UNREAD. A trusted record's digest becomes SDIG_CUR. None is
trusted where the VBAT domain was not valid (R381). -/
def restoreSettings (valid : Bool) (s : State) : State :=
  let r := readableRecord s
  let trusted := match r with
    | some r => valid && trustedRecord r s
    | none => true
  let s := restoreM r trusted s
  let s := s.updFwu fun f => { f with dirty := false }
  let s := vbtFlag 26 r.isNone s
  let s := if trusted then vbtFlag 27 false s else raiseInt 19 4 (vbtFlag 27 true s)
  match r with
  | none => s
  | some r =>
    let s := (s.updArr fun a => { a with remapReqs := r.remaps }).updHif fun h => { h with subsys := r.subsys }
    if trusted then
      vbtPut 8 (BitVec.ofNat 32 r.digest) (vbtPut 7 (BitVec.ofNat 32 (r.digest / 4294967296)) s)
    else s

/-- A confirmed image that cannot read the record starts with the values of R414 (R375). -/
def unreadRecord (s : State) : State :=
  if runTrial s || (readableRecord s).isSome then s else vbtFlag 26 true (restoreM none true s)

/-- The schedule and the operating point (R139, R354). The record keeps a schedule that fails. -/
def restoreSchedule (s : State) : State :=
  let t : Tab Word := match readableRecord s with
    | some r => (List.range 68).map fun i =>
        let off := if i < 64 then Reg.hobSlot i else Reg.pipMask (i - 64)
        (i, (tabFind r.vals off).getD (mDefault off))
    | none => defaultSchedule
  let t := t.foldl (fun u x => tabSet 0 u x.1 x.2) []
  let s := fieldPut Reg.pwrOppStat 27 26 (fieldGet Reg.pwrOppCtl 1 0 s) (s.updPip fun x => { x with schedKept := t })
  match schedBasic t with
  | none => setSchedule t s
  | some (c, h, p) => setSchedule defaultSchedule (regPut Reg.pipSchedStat (schedStat c 0 0 p h) s)

/-! The VBAT domain at start-up (R381, R382). -/

/-- The domain is valid. -/
def vbtValid (s : State) : Bool := vbtGet 0 s == 0xf1c50b47

/-- BOOT and the anti-rollback index of a domain that is not valid, before an image is chosen: from the directory, and the
larger of the directory's and the record's copies. -/
def initBoot (s : State) : State :=
  if vbtValid s then s
  else
    let arb := max (dirNow s).arb (((currentSettings s).map fun r => r.2.arb).getD 0)
    vbtPut 2 (BitVec.ofNat 32 arb) (vbtPut 1 (BitVec.ofNat 32 (dirNow s).conf) s)

/-- The rest of an invalid domain initialised, MAGIC last. -/
def initVbat (s : State) : State :=
  let r := readableRecord s
  let s := vbtPut 2 (BitVec.ofNat 32 (max (vbtGet 2 s).toNat (imgArb s.fwu.running))) s
  let s := vbtPut 3 (match r with | some r => BitVec.ofNat 32 (b2n r.owner) | none => 1) s
  let s := vbtPut 4 (BitVec.ofNat 32 ((r.map (·.seqReserve)).getD 0)) s
  let s := vbtPut64 5 ((r.map (·.life)).getD 0) s
  let s := (List.range 34).foldl (fun s i => vbtPut (16 + i) 0xffffffff s) s
  let s := (List.range 5).foldl (fun s i => vbtPut (11 + i) 0 s) s
  raiseInt 19 2 (vbtFlag 30 true (vbtPut 0 0xf1c50b47 s))

/-- SDIG_CUR of an initialised domain takes the record's digest, once the record has been judged untrusted. -/
def initDigest (s : State) : State := match currentSettings s with
  | some (_, r) => vbtPut 8 (BitVec.ofNat 32 r.digest) (vbtPut 7 (BitVec.ofNat 32 (r.digest / 4294967296)) s)
  | none => s

/-- INT_AGE_n.MIN from the AGE fields. -/
def restoreAge (s : State) : State :=
  (List.range 272).foldl (fun s n =>
    let a := bits (vbtGet (16 + n / 8) s) (4 * (n % 8) + 3) (4 * (n % 8))
    fieldPut (Reg.intAge n) 15 8 (16 * a + 15) s) s

/-- The 48-bit counter at the last save. -/
def savedRtc (s : State) : Nat := (vbtGet 14 s).toNat + (vbtGet 15 s).toNat * 4294967296

/-- Time-of-day at the last save, in 2^-32 ns. -/
def savedTod (s : State) : Nat :=
  let sec := (vbtGet 11 s).toNat * 65536 + bits (vbtGet 12 s) 31 16
  (sec * 1000000000 + (vbtGet 13 s).toNat) * 4294967296 + bits (vbtGet 12 s) 15 0 * 65536

/-- Time-of-day seeded from the last save, advanced by the counter (R198, R382). -/
def seedTod (s : State) : State :=
  let ticks := (s.vbt.rtc + 2 ^ 48 - savedRtc s) % 2 ^ 48
  s.updTod fun t => { t with value := (savedTod s + ticks * secUnits / 32768) % (2 ^ 48 * secUnits) }

/-- V fields (R413). -/
def restoreVbat (s : State) : State :=
  let s := regPut Reg.prtLock (vbtGet 3 s &&& 1) s
  let s := fieldPut Reg.prtPropStat 15 0 (bits (vbtGet 4 s) 15 0) s
  let s := regPut Reg.intLifeHi (vbtGet 6 s) (regPut Reg.intLifeLo (vbtGet 5 s) s)
  restoreAge s

/-- Step 10 of Table 12.12: the record, the VBAT domain and the time-of-day seed. -/
def restoreAll (s : State) : State :=
  let valid := vbtValid s
  let s := vbtFlag 31 valid s
  let s := if valid then s else initVbat s
  let s := advanceArb (restoreSettings valid s)
  if valid then seedTod (restoreVbat s)
  else (restoreVbat (initDigest s)).updTod fun t => { t with value := 0 }

/-! VBAT work of the MP (R382, R383). -/

/-- The MP measures VBAT, in 10 mV. -/
def execVbatMeasure (volt : Nat) (s : State) : Host.Outcome State Fault Refusal :=
  .next (if !awake s then s
  else
    let low := volt < 250 && !s.rst.aux
    let was := flagGet Reg.vbtStat 29 s
    let s := vbtFlag 29 low (fieldPut Reg.vbtStat 9 0 (min volt 1023) s)
    if low && !was then raiseInt 19 1 s else s)

/-- Every 10 s the MP saves time-of-day and the counter. -/
def execTodSave (s : State) : Host.Outcome State Fault Refusal := .next (if awake s then saveTod s else s)

/-- A VBT_WORD_n write is in progress. -/
def vbtBusy (s : State) : Bool := s.clk.now < s.vbt.busyTill

/-- A write to VBT_WORD_n: words 56 to 63 are free for software (Table 14.17). -/
def wrVbtWord (src : Party) (n : Nat) (v : Word) (s : State) : State :=
  if vbtBusy s then refuseReg 4 src (Reg.vbtWord n) v s
  else if n < 56 then s
  else (vbtPut n v s).updVbt fun b => { b with busyTill := s.clk.now + 91600 }

/-- The domain powers up from below its retention voltage: every word reads 0, and the counter a value the spec does not
give (log entry 4). -/
def execVbatDomainPowerUp (s : State) : Host.Outcome State Fault Refusal :=
  .next ((nextFree s).updVbt fun b => { b with
    words := [], rtc := (Config.freeWord s.clk.free).toNat % 2 ^ 48, rtcPart := 0, busyTill := 0 })

end Sys2Proof.Machine
end

