-- ==== Sys2Proof/Machine/Resets.lean ====
section
/-! DEFINITION. PLLs, crossings, resets and start-up (R317 to R337, R256, R284, R360, R370, R384, R391, R405). -/

namespace Sys2Proof.Machine

open Sys2Proof

/-- The state that an outcome leaves. -/
def after (o : Host.Outcome State Fault Refusal) (s : State) : State := match o with
  | .next t => t
  | _ => s

/-! Begun commands left wholly applied (R148, R331). -/

/-- One piece of the Spatula's work done at once: a row write, a golden write, the end of a hold, or a step of a plan. -/
def drainStep (s : State) : Option State :=
  match s.arr.mreqs.findIdx? fun q => !(q.tag.planNo.isNone && midMove q.prim s) with
  | some i => (s.arr.mreqs[i]?).map fun q =>
      advanceAll (performRow q s.clk.pclk (s.updArr fun a => { a with mreqs := a.mreqs.eraseIdx i }))
  | none => match s.arr.golds with
    | _ :: _ => some (after (execGoldenWriteDone s) s)
    | [] => match s.arr.holds with
      | h :: rest => some (after (execReuseHoldEnd (s.updArr fun a => { a with holds := { h with till := 0 } :: rest })) s)
      | [] => match s.upd.plans.find? fun p => !p.steps.isEmpty with
        | some p => some (after (execSpatulaMove p.no s) (advance p.no s))
        | none => none

def drainN : Nat → State → State
  | 0, s => s
  | k + 1, s => match drainStep s with
    | some t => drainN k t
    | none => s

/-- A bound on the pieces that stand. -/
def drainWork (s : State) : Nat :=
  24 * (s.arr.mreqs.length + s.arr.golds.length + s.arr.holds.length + (s.upd.plans.map fun p => 1 + p.steps.length).sum)

/-- Every begun write done. -/
def drainAll (s : State) : State := drainN (drainWork s) s

/-- A table whose TABLE_CREATE has begun exists; one whose TABLE_DESTROY has begun is gone (R148). -/
def settleTables (s : State) : State :=
  s.tbl.tables.foldl (fun s x => match x.2.life with
    | .created => s.updTbl fun t => { t with tables := tabInsert t.tables x.1 { x.2 with life := .exists_ } }
    | .exists_ => s
    | _ =>
      let s := zeroMasks x.1 (freePans x.2.pans s)
      let s := s.updArr fun a => { a with gold := a.gold.filter fun e => e.2.table != x.1 }
      setTable x.1 none (assignPans x.2 none s)) s

/-- A ring in OFF that keeps its configuration registers. -/
def Ring.stopped (q : Ring) : Ring :=
  { Ring.off with sqb := q.sqb, cqb := q.cqb, cfg := q.cfg, wm := q.wm, coal := q.coal }

/-- Batches without an owner are discarded, and the discards end (R182). -/
def discardBatches (s : State) : State :=
  let ds : List (Fin 8) := [0, 1, 2, 3, 4, 5, 6, 7]
  let s := ds.foldl (fun s d =>
    let m := domAt d.val s
    if (m.st = .open_ ∨ m.st = .closed) ∧ !m.discarding then startDiscard d.val s else s) s
  ds.foldl (fun s d => after (execDiscardDone d s) s) (drainAll s)

/-- The Spatula's work done at a reset, as if no search were left and the Pantry open to it (R148, R331; log entry 38). -/
def undisturbed (f : State → State) (s : State) : State :=
  let p := s.pip
  let m := memMode s
  let t := f (fieldPut Reg.glbMemMode 1 0 1 (s.updPip fun x => { x with flight := [], quiesce := true }))
  fieldPut Reg.glbMemMode 1 0 m (t.updPip fun _ => p)

/-- Every ring in STOP, with no completion to be written. -/
def quietRings (s : State) : State :=
  s.updUpd fun u => { u with rings := u.rings.map fun x => (x.1, { x.2 with st := 2, quiet := true }) }

/-- Every ring enters OFF without a completion: a command that has not begun has no effect, each begun one is left wholly applied,
and batches are discarded; repairs and divergence checks are dropped (R147, R148, R182, R256). -/
def stopCommands (s : State) : State :=
  let s := quietRings s
  let s := (s.upd.rings.map (·.1)).foldl (fun s r => abortReady r s) s
  let s := undisturbed (fun s => drainAll (flushDue s)) s
  let s := settleTables (s.updUpd fun u => { u with cmds := [], due := [], snaps := [], lastServed := [], plans := [] })
  let s := s.updUpd fun u => { u with rings := u.rings.map fun x => (x.1, x.2.stopped) }
  let s := undisturbed discardBatches s
  s.updArr fun a => { a with repairs := [], divs := [] }

/-- Error reporting and the summary are disabled (R256). -/
def reportsOff (s : State) : State :=
  let s := flagPut Reg.intSumCfg 31 false (flagPut Reg.intErrCfg 31 false s)
  s.updErr fun e => { e with sumOwed := false, errOwed := false }

/-- A proposal is discarded (R284). -/
def dropProposal (result : Nat) (s : State) : State :=
  let s := s.updPrt fun p => { p with props := [], deadline := none, alert := false }
  regPut Reg.prtPropStat (pack32 [(26, result), (0, fieldGet Reg.prtPropStat 15 0 s)]) s

/-- Remaps across a warm or PCIe reset (Table 9.5). -/
def settleRemap (s : State) (h : Fin 16) : State := match hobRemap h.val s with
  | none => s
  | some r =>
    if r.step < 4 then
      setPhase h.val 1 (updRemap h.val (fun r => some { r with step := 1, row := 0, again := [], fails := 0 }) s)
    else
      let now (s : State) : State := updRemap h.val (fun r => some { r with due := 0 }) s
      let s := after (execRemapSwitch h (now s)) (now s)
      let s := after (execRemapRetire h (now s)) s
      after (execRemapRetire h s) s

def settleRemaps (s : State) : State := (List.finRange 16).foldl settleRemap s

/-- A cascade commit that is not decided: on leaving the reset the manager sends DECIDE with GO = 0 (Table 8.12). -/
def dropCommit (s : State) : State := match s.cas.commit with
  | some c => ctlSend 6 31 (c.dom * 2 ^ 29) [] (s.updCas fun x => { x with commit := none })
  | none => s

/-! Reset of registers (R330). -/

/-- Registers that a warm reset keeps whole (Table 12.9): identity and boot status, bank owners, HOB_, the shown latency,
time and pulse status, straps, DRAM status, PLLs, VBAT status, error counters and the refusal total. -/
def warmKeeps (worker : Bool) (off : Nat) : Bool :=
  [Reg.glbId, Reg.glbBootStat, Reg.glbTemp, Reg.todStat, Reg.todPulseStat, Reg.casStat, Reg.drcStat, Reg.clkStat,
    Reg.vbtStat, Reg.prtRefTotal, Reg.prtLock, Reg.intErrLost, Reg.intMig, Reg.intLifeLo, Reg.intLifeHi,
    Reg.intCap, Reg.fwuBoot, Reg.prtPropStat, Reg.pwrOppStat].contains off ||
  inFam (Reg.glbBankOwn 0) 72 off || off / 65536 == 3 || inFam (Reg.pipLat 0) 2 off || inFam (Reg.intCnt 0) 32 off ||
  inFam (Reg.intAge 0) 272 off ||
  (worker && (off == Reg.casLinkStat || inFam (Reg.casLaneStat 0) 16 off))

/-- The value of a register after a warm reset: kept, or its reset value with M fields kept. -/
def warmValue (worker : Bool) (off : Nat) (v : Word) : Word :=
  if warmKeeps worker off then v
  else match regDesc off with
    | some d => v &&& d.m ||| d.reset &&& ~~~d.m
    | none => v

def warmRegs (s : State) : State :=
  let w := isWorker s
  s.updRegs fun t => t.foldl (fun u x => tabSet (regReset x.1) u x.1 (warmValue w x.1 x.2)) []

/-- The crossings without a side in a reset island keep their bit: the pulse front ends to time (50 to 52), and on a worker time to the
cascade lanes (48) (R327, R328). -/
def warmDead (s : State) : Word := regGet (Reg.clkXingDead 1) s &&& (if isWorker s then 0x001d0000 else 0x001c0000)

/-- The DRAM drains its queue, enters self-refresh and leaves it: no subchannel owes a refresh or is hot (Table 12.10, R306). -/
def warmDram (s : State) : State :=
  fieldPut Reg.drcStat 23 20 0 (exitSelfRefresh (s.updDrc fun d => { d with
    prio := [], change := [], req := [], waits := [], won := [], window := s.clk.now, rat := [], queue := [] }))

/-! Warm reset (Table 12.10). -/

/-- The links of a warm reset: lane groups empty and DOWN, and a worker's cascade link kept (R217). -/
def warmLinks (s : State) : State :=
  let keep (k : Nat) : Bool := isWorker s && k == LinkId.key .fcl
  let lane (n : Nat) : Bool := isWorker s && 32 ≤ n
  s.updLnk fun l => { l with
    grps := l.grps.filter fun x => keep x.1
    lanes := l.lanes.filter fun x => lane x.1
    frozen := none }

/-- RECON domains retire on leaving the reset, and their reconciliation completes (Table 7.6). -/
def retireDomains (s : State) : State :=
  let ds : List (Fin 8) := [0, 1, 2, 3, 4, 5, 6, 7]
  let s := undisturbed drainAll (ds.foldl (fun s d => after (execEpochRetire d s) s) s)
  ds.foldl (fun s d => after (execReconciliationDone d s) s) s

/-- The cascade agent: a manager's ring is DOWN, a worker is withheld until it is replayed. -/
def warmCascade (s : State) : State :=
  let s := s.updCas fun c => { c with
    coutHeld := [], discoverDue := none, timeDue := 0, jobs := [], remote := none, relayIn := []
    withheld := true, slotBad := false, timeBad := false, aligned := false, img := [], imgLast := none
    imgRefused := false }
  fieldPut Reg.casStat 24 22 0 (fieldPut Reg.casStat 21 12 0 s)

/-- The MP restarts from the image that R373 chooses; a worker keeps its image until the manager serves another, and an image
that the host delivered stays (log entry 29). -/
def warmImage (s : State) : State :=
  if isWorker s || flagGet Reg.fwuBoot 29 s then advanceArb s
  else
    let im (n : Nat) : List Byte := slotImage n s
    match chooseSlot im s with
    | (some (n, trial), s) =>
      let same := s.fwu.running == im n
      let s := advanceArb (runSlotImage im n trial s)
      if same then s else unreadRecord ((List.range 8).foldl (fun s i => fillScratch i s) s)
    | (none, s) => fieldPut Reg.glbBootStat 27 24 3 s

/-- The operating point and the power state after a warm reset: a change under way ends at the point in force, and both rails return
to its voltages (R360). -/
def warmPower (s : State) : State :=
  let s := if s.pwr.oppStep = 0 then s else setRails (oppVolts (fieldGet Reg.pwrOppStat 27 26 s)) s
  let s := regPut Reg.pwrOppStat (regGet Reg.pwrOppStat s &&& 0x0c000000) s
  s.updPwr fun p => { p with
    timers := [], entering := none, waking := none, sources := 0, window := 0, oppStep := 0, oppTries := 0, holdAt := 0
    oppTo := 0, oppLater := false, wakeIdle := false }

/-- A warm reset with its cause (GLB_RST_CAUSE.LAST), up to step 7 of Table 12.10. WARM reads 1 until the MP writes SERVICE. -/
def warmReset (cause : Nat) (s : State) : State :=
  let s := wakeEnds [] [] s
  let s := endSession s
  let s := regPut (Reg.clkXingDead 1) (warmDead s) (warmRegs s)
  let s := s.updMwin fun _ => []
  let s := s.updPip fun x => { x with
    nextDec := [], nextIssue := [], lastAlign := [], lastGap := [], flight := [], switchAt := none, schedReady := false, oppHold := false
    quiesce := false, asleep := false }
  let s := s.updTbl fun t => { t with prfOp := none }
  let s := s.updTod fun t => { t with holdTill := none, copies := [] }
  let s := flagPut Reg.todStat 31 false s
  let s := dropAsked 3 (warmDram s)
  let s := s.updErr fun e => { e with phase := false, rose := [], sumAt := none, sumOwed := false, errAt := none
                                      errOwed := false }
  let s := s.updFwu fun f => { f with buffer := [] }
  let s := warmLinks s
  let s := dropProposal 8 s
  let s := retireDomains (settleRemaps (stopCommands s))
  let s := s.updArr fun a => { a with
    hobFails := [], repaired := [], scrubbed := [], scrubPos := []
    scrubAt := (List.range 16).foldl (fun t h => tabSet 0 t h s.clk.now) [] }
  let s := warmPower (warmCascade (dropCommit s))
  let s := ownAll 1 s
  let s := regPut Reg.glbRstCause (pack32 [(28, cause)]) (regPut Reg.glbRstCtl 0x100 s)
  warmImage s

/-- A warm reset happens once the MP runs firmware, where start-up has not failed, and no other one runs (R329, R336). One during start-up
leaves its phase: a golden reload starts again (Table 12.11). -/
def warmCan (s : State) : Bool :=
  !s.rst.low && 5 ≤ startPhase s && (startPhase s == 8 || fieldGet Reg.glbBootStat 27 24 s == 0) && !flagGet Reg.glbRstCtl 8 s

def warmIf (cause : Nat) (s : State) : State := if warmCan s then warmReset cause s else s

/-- A warm reset with one of the causes of Table 12.7. -/
def execWarmReset (cause : Nat) (s : State) : Host.Outcome State Fault Refusal :=
  .next (if 4 ≤ cause ∧ cause ≤ 6 then warmIf cause s else s)

/-! Cold reset (R328, R330, R332). -/

/-- SR_SAFE after a cold reset: at a RESET_N assertion the trained DRAM enters self-refresh (R308, R332). -/
def srSafeAfter (cause : Nat) (s : State) : Bool :=
  flagGet Reg.glbBootStat 22 s || (cause == 2 && s.rst.aux && flagGet Reg.drcStat 31 s)

/-- The state after reset, with the commands that wait. -/
def resetBase (s : State) : State := { State.reset with pending := s.pending }

/-- A cold reset with its cause: everything but the VBAT domain, the retention flag, the flash and the DRAM behind the flag.
The straps keep their sampled values until RESET_N rises. What has left the block stays as it left. -/
def coldReset (cause : Nat) (s : State) : State :=
  let z := resetBase s
  let z := z.updClk fun c => { c with free := s.clk.free }
  let cnts := if startPhase s = 8 then
      (List.range 8).foldl (fun t d => tabSet 0 t d (domAt d s).cnt) []
    else s.arr.goldCnt
  let z := z.updArr fun a => { a with gold := s.arr.gold, goldRec := s.arr.goldRec, goldCnt := cnts
                                      goldNo := s.arr.goldNo, goldAt := s.arr.goldAt }
  let z := z.updTbl fun t => { t with tblDram := s.tbl.tblDram, prfDram := s.tbl.prfDram }
  let z := z.updMem fun m => { m with dram := s.mem.dram, dramSet := s.mem.dramSet, dramBad := s.mem.dramBad, dramSoft := s.mem.dramSoft }
  let z := z.updLnk fun l => { l with tx := s.lnk.tx }
  let z := z.updCas fun c => { c with out := s.cas.out, withheld := true }
  let z := z.updHif fun h => { h with out := s.hif.out, answers := s.hif.answers }
  let z := z.updPrt fun p => { p with smbOut := s.prt.smbOut }
  let z := z.updPwr fun p => { p with pmbus := s.pwr.pmbus }
  let z := z.updRst fun _ => { s.rst with mpAt := [], low := s.rst.low || cause == 2 }
  let z := z.updFwu fun f => { f with dirs := s.fwu.dirs, recs := s.fwu.recs, slots := s.fwu.slots, store := s.fwu.store }
  let z := z.updVbt fun v => { v with words := s.vbt.words, rtc := s.vbt.rtc, rtcPart := s.vbt.rtcPart }
  let z := regPut Reg.casStat (regGet Reg.casStat s &&& 0xfe000000) z
  regPut Reg.glbRstCause (pack32 [(28, cause)]) (flagPut Reg.glbBootStat 22 (srSafeAfter cause s) z)

/-- A cold reset with one of the causes of Table 12.7. -/
def execColdReset (cause : Nat) (s : State) : Host.Outcome State Fault Refusal :=
  .next (if 1 ≤ cause ∧ cause ≤ 3 then coldReset cause s else s)

/-- VDD_AUX rises: a cold reset of cause 1 (R391). -/
def execVddAuxRise (s : State) : Host.Outcome State Fault Refusal :=
  .next (coldReset 1 (s.updRst fun r => { r with aux := true }))

/-- VDDQ falls and the retention flag clears, or VDD_AUX falls, which also asserts the reset and ends THERMTRIP_N (R391,
R405). -/
def execSupplyFall (vddq : Bool) (s : State) : Host.Outcome State Fault Refusal :=
  .next (
    let s := flagPut Reg.glbBootStat 22 false s
    if vddq then s else coldReset 1 (s.updRst fun r => { r with aux := false, therm := false }))

/-- Thermal shutdown: THERMTRIP_N is low, every addressed rail is switched off, and the device is held in cold reset until VDD_AUX
falls (R405). -/
def execThermalTrip (s : State) : Host.Outcome State Fault Refusal :=
  .next (coldReset 1 (allRails 0x01 0 (s.updRst fun r => { r with therm := true })))

/-! PCIe reset. -/

/-- The PCIe island: configuration space, MSI-X tables, rings and what R256, R284 and R370 name. -/
def pcieReset (s : State) : State :=
  let h := fieldGet Reg.fwuStat 28 26 s
  let s := if h = 1 ∨ h = 2 then endSession s else s
  let s := s.updHif fun x => { x with fns := [], vfEnable := false, numVFs := 0, msix := [], msixPend := [] }
  let s := dropAsked 1 (dropCommit (settleRemaps (stopCommands s)))
  dropProposal 8 (reportsOff s)

def execPcieReset (s : State) : Host.Outcome State Fault Refusal := .next (if s.rst.low then s else pcieReset s)

/-! Crossings (R323 to R327). -/

/-- CLK_XING_DEAD of a crossing written. -/
def setDead (x : Nat) (b : Bool) (s : State) : State := flagPut (Reg.clkXingDead (x / 32)) (x % 32) b s

/-- The crossings that touch an island of GLB_RST_CTL.ISL (Table 12.4). The power controller's crossing touches every island. -/
def islandXings (isl : Nat) : List Nat :=
  58 :: (if isl < 16 then [10 + isl, 26 + isl]
  else if isl < 20 then [isl - 16, isl - 12, 28 + isl, 57]
  else if isl = 20 then [8, 9, 48, 57]
  else if isl = 21 then [26, 27, 28, 29, 30, 31, 32, 33, 34, 35, 36, 37, 38, 39, 40, 41, 42, 49, 54, 57]
  else [43, 44, 45, 46, 47, 48, 49, 50, 51, 52])

/-- One crossing reset and re-armed (Table 12.6): an edge of a pulse input crosses or is lost, and its front end re-arms. Crossings
53 and 56 stay dead until a warm or cold reset (R324). -/
def execCrossingReset (x : Fin 59) (s : State) : Host.Outcome State Fault Refusal :=
  .next (
    let i := x.val - 50
    let s := if 50 ≤ x.val ∧ x.val < 53 then updPulse i (fun p => { p with waiting := false }) (dropPulse i (capturePulse i s)) else s
    if x.val = 53 ∨ x.val = 56 then s else setDead x.val false s)

/-! Island resets (Table 12.8). -/

/-- A lane group's island: DOWN, its FIFO emptied as R115 states. -/
def resetGroup (g : Fin 4) (s : State) : State := enterDown (.fll g) 0 (after (execFifoPtrReset g s) s)

/-- Time-of-day rebuilt to within 1 µs: where in that range is a free value (log entry 4). -/
def rebuildTime (s : State) : State :=
  let us := 1000 * 4294967296
  let d : Int := ((Config.freeWord s.clk.free).toNat % (2 * us + 1) : Nat) - (us : Int)
  flagPut Reg.todStat 29 false (putTod (s.tod.value + d) (nextFree s))

/-- One island reset. A second reset of the MP island within 1 s is a warm reset with LAST 5. -/
def resetIsland (isl : Nat) (s : State) : State :=
  let s := regPut Reg.glbRstCause (regGet Reg.glbRstCause s ||| bitMask isl) s
  let s := (islandXings isl).foldl (fun s x => setDead x false s) s
  if isl < 16 then
    s.updArr fun a => { a with
      repairs := a.repairs.filter fun r => r.hob != isl
      divs := a.divs.filter fun d => hobOf d.prim != isl && hobOf d.mirr != isl }
  else if isl = 16 then resetGroup 0 s
  else if isl = 17 then resetGroup 1 s
  else if isl = 18 then resetGroup 2 s
  else if isl = 19 then resetGroup 3 s
  else if isl = 20 then enterDown .fcl 0 s
  else if isl = 21 then
    let again := s.rst.mpAt.any fun t => s.clk.now < t + 1000000000
    let s := dropAsked 3 (s.updRst fun r => { r with mpAt := [s.clk.now] })
    if again then warmIf 5 s else (List.range 8).foldl (fun s i => fillScratch i s) s
  else rebuildTime s

/-- An island reset, which does not overlap a warm reset that runs (R329; log entry 92). -/
def islandReset (isl : Nat) (s : State) : State := if flagGet Reg.glbRstCtl 8 s then s else resetIsland isl s

/-- A write to GLB_RST_CTL (Table 12.18). With WARM and ISL_GO together the warm reset is done. -/
def wrRstCtl (src : Party) (v : Word) (s : State) : State :=
  if flagGet Reg.glbRstCtl 8 s then refuseReg 4 src Reg.glbRstCtl v s
  else
    let s := fieldPut Reg.glbRstCtl 4 0 (bits v 4 0) s
    if bit v 8 then warmIf 4 s
    else if bit v 7 then islandReset (bits v 4 0) s
    else s

/-- The MP's watchdog runs out (Table 12.8). -/
def execMpWatchdog (s : State) : Host.Outcome State Fault Refusal :=
  .next (if 5 ≤ startPhase s ∧ !s.rst.low ∧ awake s then islandReset 21 s else s)

/-- The islands that a timeout on a crossing resets (Table 12.8). -/
def xingIslands (x : Nat) : List Nat :=
  if 26 ≤ x ∧ x < 42 then [x - 26]
  else if 44 ≤ x ∧ x < 48 then [x - 28]
  else if x = 57 then [16, 17, 18, 19]
  else if x = 48 then [20]
  else if x = 43 ∨ x = 49 ∨ (50 ≤ x ∧ x < 53) then [22]
  else []

/-- A crossing touches an island whose clock is stopped, and so is parked: in SLEEP and DEEP every one but the pulse inputs to the time
island (R326, Table 13.1). -/
def parkedXing (x : Nat) (s : State) : Bool := !awake s && !(50 ≤ x && x < 53)

/-- A crossing times out (R324). The classes K0 and K1 have no monitor, and a parked crossing does not time out (R326). -/
def execCdcTimeout (x : Fin 59) (s : State) : Host.Outcome State Fault Refusal :=
  .next (
    if x.val < 26 || xingDead x.val s || parkedXing x.val s then s
    else
      let s := raiseInt 16 2 (setDead x.val true s)
      let s := intCount 19 (errRecord 0x40 1 3 x.val 0 s)
      let s := if 50 ≤ x.val ∧ x.val < 53 then dropPulse (x.val - 50) s else s
      if x.val = 53 ∨ x.val = 54 then warmIf 6 s
      else if flagGet Reg.clkXingTo 31 s then (xingIslands x.val).foldl (fun s i => islandReset i s) s
      else s)

/-! PLLs (Table 12.1). -/

/-- The CLK_STAT bit of a PLL. -/
def pllBit (p : Pll) : Nat := match p with
  | .array => 0
  | .system => 1
  | .dram => 2
  | .time => 3
  | .fll g => 4 + g.val
  | .fcl => 8
  | .pcie => 9

/-- Lane groups bound to a pipeline go to DOWN and searches in flight are lost, while the pipelines and the hobs are held in island
reset until relock. -/
def arrayLost (s : State) : State :=
  let s := (List.range 16).foldl (fun s h => islandReset h s) s
  let s := ([0, 1, 2, 3] : List (Fin 4)).foldl (fun s g =>
    if grpBinding g.val s < 2 && linkState (.fll g) s != gDown then enterDown (.fll g) 5 s else s) s
  s.updPip fun x => { x with flight := [] }

/-- A PLL loses lock. -/
def execPllUnlock (pll : Pll) (s : State) : Host.Outcome State Fault Refusal :=
  .next (
    if !flagGet Reg.clkStat (pllBit pll) s then s
    else
      let s := raiseInt 16 1 (flagPut Reg.clkStat (pllBit pll) false s)
      match pll with
      | .array => arrayLost s
      | .system => coldReset 3 s
      | .dram => warmIf 6 s
      | .time => flagPut Reg.todStat 28 false s
      | .fll g => if linkState (.fll g) s = gDown then s else enterDown (.fll g) 5 s
      | .fcl => if linkState .fcl s = gDown then s else enterDown .fcl 5 s
      | .pcie => pcieReset s)

/-- It locks again. -/
def execPllRelock (pll : Pll) (s : State) : Host.Outcome State Fault Refusal :=
  .next (
    if startPhase s < 2 then s
    else
      let s := flagPut Reg.clkStat (pllBit pll) true s
      match pll with
      | .time => flagPut Reg.todStat 28 true s
      | _ => s)

/-! Start-up (Table 12.12). -/

/-- RESET_N rises: the straps are sampled and start-up begins (R334, R204). -/
def execResetNRelease (role : BitVec 2) (devId : BitVec 4) (bootSel : BitVec 2) (s : State) :
    Host.Outcome State Fault Refusal :=
  .next (if !s.rst.low then s
  else
    let s := s.updRst fun r => { r with low := false, bootSel := bootSel.toNat }
    regPut Reg.casStat (pack32 [(30, role.toNat), (26, devId.toNat), (25, b2n (role.toNat == 3))]) s)

/-- Start-up may go on: RESET_N high, VDD_AUX up, no thermal trip, and no phase has failed. -/
def starting (s : State) : Bool := !s.rst.low && s.rst.aux && !s.rst.therm && fieldGet Reg.glbBootStat 27 24 s == 0

def setStartPhase (p : Nat) (s : State) : State := fieldPut Reg.glbBootStat 31 28 p s

/-- A phase fails, and start-up stops in it. -/
def startFail (code : Nat) (s : State) : State := fieldPut Reg.glbBootStat 27 24 code s

/-- PHASE 0: fuses; every bank owner becomes MP. -/
def phaseFuses (s : State) : State :=
  let s := fieldPut Reg.hifPciId 15 0 Config.vendorId.toNat s
  let s := (List.range 72).foldl (fun s n => fieldPut (Reg.glbBankOwn n) 3 0
    (if n < 64 then (Config.pantryCols n).val else (Config.scratchCols (n - 64)).val) s) s
  setStartPhase 1 (ownAll 1 s)

/-- PHASE 1: PLLs lock; the regulators answer VOUT_MODE (R357). -/
def phasePlls (e : StartEnv) (s : State) : State :=
  if !e.regulator then startFail 6 s
  else
    let s := [1, 2, 3, 9].foldl (fun s i => flagPut Reg.clkStat i true s) s
    setStartPhase 2 (flagPut Reg.todStat 28 true s)

/-- PHASE 2: BIST of every bank. It leaves every word 0 and shows the banks in which a cell failed; one such bank stops start-up
(R298, R299, Table 11.2). -/
def phaseBist (e : StartEnv) (s : State) : State :=
  let s := s.updMem fun m => { m with pantry := [], pantrySyn := [], scratch := [], scratchSyn := [] }
  let s := (List.range 72).foldl (fun s n => flagPut (Reg.glbBankOwn n) 30 (e.badBanks.any fun b => b.val == n) s) s
  if (List.range 72).any fun n => flagGet (Reg.glbBankOwn n) 30 s then startFail 1 s else setStartPhase 3 s

/-- Areas 0 to 3 as empty, and no DRAM contents kept (R332). -/
def emptyDram (s : State) : State :=
  let s := s.updArr fun a => { a with gold := [], goldRec := [], goldCnt := [], goldAt := [] }
  let s := s.updTbl fun t => { t with tblDram := [], prfDram := [] }
  (s.updMem fun m => { m with dram := [], dramSet := [], dramBad := [], dramSoft := [] }).updFwu fun f => { f with store := [] }

/-- PHASE 3: DRAM training and the decision on retention. Channel 0 is populated (R387). With a boot from the host the mailbox is lent
to it (Table 11.2). -/
def phaseDram (e : StartEnv) (s : State) : State :=
  if !e.trained then startFail 2 s
  else
    let kept := flagGet Reg.glbBootStat 22 s && e.clean
    let s := if kept then flagPut Reg.glbBootStat 23 true s else emptyDram s
    let s := regPut Reg.drcStat (pack32 [(31, 1), (8, (Config.dramGiB 1).val), (0, max 1 (Config.dramGiB 0).val)]) s
    let s := setStartPhase 4 (exitSelfRefresh (flagPut Reg.glbBootStat 22 false s))
    if hostBoots s then lendMailbox s else s

/-- PHASE 4: the image, from the manager, the host or the flash (R373). A reserved BOOT_SEL names no source. -/
def phaseImage (e : StartEnv) (s : State) : State :=
  if isWorker s then
    (if s.fwu.running.isEmpty then (if e.silent then startFail 4 s else s) else setStartPhase 5 (initBoot s))
  else if s.rst.bootSel = 1 then
    if mailboxFull s then
      let im := s.fwu.mailbox.take (mailboxSize s)
      let s := initBoot (s.updFwu fun f => { f with mailbox := [] })
      if imageCode im s = 0 then setStartPhase 5 (runImage im 0 false true s) else startFail 3 s
    else if e.silent then startFail 4 s
    else s
  else if s.rst.bootSel ≠ 0 then startFail 4 s
  else if !e.flash then startFail 3 s
  else
    let s := initBoot s
    let im (n : Nat) : List Byte := tabGet [] s.fwu.slots n
    match chooseSlot im s with
    | (some (n, trial), s) => setStartPhase 5 (runSlotImage im n trial s)
    | (none, s) => startFail 3 s

/-- PHASE 5: firmware in the scratchpad, then the settings record, the VBAT domain and time-of-day. -/
def phaseFirmware (s : State) : State :=
  setStartPhase 6 (restoreAll ((List.range 8).foldl (fun s i => fillScratch i s) s))

/-- PHASE 6: microcode, the array PLL at the operating point, and the schedule. -/
def phaseMicrocode (e : StartEnv) (s : State) : State :=
  if !e.microcode then startFail 5 s else setStartPhase 7 (restoreSchedule (flagPut Reg.clkStat 0 true s))

/-- PHASE 8: SERVICE; the Scourer starts and the links train. -/
def phaseService (s : State) : State :=
  let s := s.updArr fun a => { a with scrubAt := (List.range 16).foldl (fun t h => tabSet 0 t h s.clk.now) [] }
  let s := [4, 5, 6, 7, 8].foldl (fun s i => flagPut Reg.clkStat i true s) s
  enterService (setStartPhase 8 s)

/-- A start-up phase completes, or fails. A worker's boot ROM trains the cascade link in PHASE 4 (R229). PHASE 7 lasts until the
golden reload, if there is one, is done. -/
def execStartUpPhase (env : StartEnv) (s : State) : Host.Outcome State Fault Refusal :=
  .next (
    if !starting s then s
    else match startPhase s with
    | 0 => phaseFuses s
    | 1 => phasePlls env s
    | 2 => phaseBist env s
    | 3 =>
      let s := phaseDram env s
      if isWorker s && startPhase s == 4 then enterAdapt .fcl (flagPut Reg.clkStat 8 true s) else s
    | 4 => phaseImage env s
    | 5 => phaseFirmware s
    | 6 => phaseMicrocode env s
    | 7 => if flagGet Reg.glbBootStat 23 s && !flagGet Reg.glbBootStat 21 s then s else phaseService s
    | _ => s)

/-! What firmware asks of the resets (R374, R375, R377). -/

/-- An unconfirmed image that cannot read the settings record rejects itself and starts a warm reset. -/
def execSchemaFallback (s : State) : Host.Outcome State Fault Refusal :=
  .next (match currentSettings s with
    | some (_, r) =>
      if runTrial s && !readsMajor r.major s && warmCan s then
        warmReset 4 (fwuEvent 3 (vbtField 1 1 1 0 (rejectSlot (runSlot s) 2 s)))
      else s
    | none => s)

/-- ACTIVATE: a warm reset that R373 resolves to the trial; a manager warm-resets its workers too. Otherwise RESULT and
DETAIL. -/
def activate (src : Party) (s : State) : State :=
  let r := fwRefusal (decide (src = .manager)) false s
  let result (st d : Nat) : State := fieldPut Reg.fwuStat 15 0 (d * 256 + st) s
  if r ≠ 0 then result 8 r
  else if !trialValid s then result 3 0
  else if s.fwu.session.isSome then result 0xb 0
  else warmIf 4 (if isManager s then ctrlWrite 31 Reg.glbRstCtl 0x100 s else s)

/-- A write to FWU_CTL: ABORT, then PUSH, CONFIRM and ACTIVATE (Table 14.9). -/
def wrFwuCtl (src : Party) (v : Word) (s : State) : State :=
  let no (c : Nat) : State := refuseReg c src Reg.fwuCtl v s
  if claimedByOther src s then no 4
  else if bit v 0 && windowRefusal src s != 0 then no (windowRefusal src s)
  else if bit v 3 && s.fwu.session.isSome && !holdsSession src s then no 3
  else
    let s := if bit v 3 then abortSession s else s
    let s := if bit v 0 then pushWindow src s else s
    let s := if bit v 1 then
        let x := confirmImage (decide (src = .manager)) s
        fieldPut Reg.fwuStat 15 0 (x.1.2 * 256 + x.1.1) x.2
      else s
    if bit v 2 then activate src s else s

end Sys2Proof.Machine
end

