-- ==== Sys2Proof/Machine/Power.lean ====
section
/-! DEFINITION. Power states: choosing, entering, waking; operating points; the regulators (R338 to R359, R392, R400). -/

namespace Sys2Proof.Machine

open Sys2Proof

/-! Known events (R341). -/

/-- An event at a distance in ns, with its PWR_NEXT.SRC code; distances already past are 0. -/
def soonest (a b : Option (Nat × Nat)) : Option (Nat × Nat) := match a, b with
  | some x, some y => if y.1 < x.1 then some y else some x
  | some x, none => some x
  | none, b => b

/-- The scheduled commits, less 1 µs: the distance in ns of the earliest. -/
def commitEvent (s : State) : Option (Nat × Nat) :=
  (List.range 8).foldl (fun a d =>
    let m := domAt d s
    match m.t with
    | some t => if m.st = .pending ∨ m.st = .prepared then soonest a (some ((t - todFrac s) / 65536 - 1000, 1)) else a
    | none => a) none

/-- PCLK cycles in 100 ns at an operating point. -/
def oppRate (o : Nat) : Nat := match o with
  | 0 => 170
  | 1 => 128
  | _ => 85

/-- The scrub deadline of a hob: the rows left at a quarter of its M slots, before the end of its pass. -/
def scrubDeadline (h : Nat) (s : State) : Nat :=
  let left := hobRows - tabGet 0 s.arr.scrubPos h
  let rate := mSlots s.pip.schedActive h * oppRate (oppCur s)
  tabGet 0 s.arr.scrubAt h + fieldGet Reg.intScrubCfg 13 0 s * 1000 - left * 25600 / rate

def scrubEvent (s : State) : Option (Nat × Nat) :=
  (List.range 16).foldl (fun a h => soonest a (some (scrubDeadline h s - s.clk.now, 2))) none

/-- The next sample of the aging monitors (R250). -/
def monitorEvent (s : State) : Option (Nat × Nat) := some (s.pwr.sampleAt + 1000000000 - s.clk.now, 3)

/-- The next known event that binds a state (Table 13.2). -/
def nextEvent (st : Nat) (s : State) : Option (Nat × Nat) := match st with
  | 2 => soonest (commitEvent s) (soonest (scrubEvent s) (monitorEvent s))
  | 3 => commitEvent s
  | _ => none

/-- PWR_NEXT as it reads. -/
def rdPwrNext (s : State) : Word := match nextEvent 2 s with
  | some (d, k) => pack32 [(28, k), (0, min (d / 1000) 0x0fffffff)]
  | none => 0x0fffffff

/-! Choosing a state (R340, R342). -/

/-- The conditions of R340 for IDLE. -/
def idleHolds (s : State) : Bool :=
  s.pip.flight.isEmpty && (List.range 4).all fun g =>
    let r := grpAt g s
    r.cores.isEmpty && !r.inFrame

/-- The intent engine has no command in flight and no eligible ring (R149). The header of a submitted command it has not read, so
a ring with any slot submitted counts as eligible. -/
def intentQuiet (s : State) : Bool :=
  s.upd.cmds.isEmpty && !relayEligible s &&
    s.upd.rings.all fun x => x.2.st != 1 || !x.2.room || x.2.unfetched == 0 || !mayRequest x.2.func s

/-- The conditions for SLEEP, DEEP and OFF but for the lanes, whose electrical idle is outside the block. -/
def sleepHolds (s : State) : Bool := idleHolds s && intentQuiet s

/-- Timers restart while their conditions fail; the conditions are cumulative (R340). -/
def timerTick (s : State) : State :=
  if !idleHolds s then restartTimers s
  else if !sleepHolds s then
    s.updPwr fun p => { p with timers := [2, 3, 4].foldl (fun t i => tabSet 0 t i s.clk.now) p.timers }
  else s

/-- MAXSTATE, or SLEEP where the rails that the power controller drives do not allow it (R392). -/
def maxState (s : State) : Nat :=
  let m := fieldGet Reg.pwrCfg 2 0 s
  let a (hi lo : Nat) : Bool := fieldGet Reg.pwrPmbAddr hi lo s != 0
  let core := a 30 24 && a 22 16
  if (m = 3 ∧ !core) ∨ (3 < m ∧ !(core && a 14 8 && a 6 0)) then 2 else m

/-- A state's timer has expired: its conditions hold, and TIME with its backoff has passed. -/
def timerOut (st : Nat) (lanesIdle : Bool) (s : State) : Bool :=
  (if st = 1 then idleHolds s else sleepHolds s && lanesIdle) &&
    tabGet 0 s.pwr.timers st + fieldGet (Reg.pwrTmr st) 27 0 s * 100 * 2 ^ backoff st s ≤ s.clk.now

/-- Entry to DEEP and the wake from it, in ns, with the reload of each pan and bank that is not retained (Table 13.1, R347). -/
def deepTime (s : State) : Nat :=
  7000000 +
    36000 * ((List.range 256).filter fun p => panInUse p s && !retained Reg.pwrRetPan 3 p s).length +
    9000 * ((List.range 64).filter fun b => bankInUse b s && !retained Reg.pwrRetPty 3 b s).length

/-- Entry time plus wake time, in ns (Table 13.1), ends no later than the next known event. OFF is not chosen while a commit
is scheduled. -/
def stateFits (st : Nat) (s : State) : Bool := match st with
  | 2 => (match nextEvent 2 s with | some x => 50000 ≤ x.1 | none => true)
  | 3 => (match nextEvent 3 s with | some x => deepTime s ≤ x.1 | none => true)
  | 4 => (commitEvent s).isNone
  | _ => true

/-- The deepest state that R342 allows. -/
def chooseState (lanesIdle : Bool) (s : State) : Option Nat :=
  [4, 3, 2, 1].find? fun st => st ≤ maxState s && timerOut st lanesIdle s && stateFits st s

/-! Entry (R343). -/

/-- An operating-point change is in progress. -/
def oppBusy (s : State) : Bool := flagGet Reg.pwrOppStat 31 s

/-- PRT_PROP_STAT.STATE. -/
def propState (s : State) : Nat := fieldGet Reg.prtPropStat 31 30 s

/-- A pan whose slack is to be spread (R169). -/
def rebalanceDue (s : State) : Bool :=
  flagGet Reg.updSlack 16 s && (List.range 256).any fun p => match panDesc p s with
    | none => false
    | some (t, d) =>
      let qs := (panEntries t (homePan d p s) s).map fun x => posOf d x.1
      (longRun (fieldGet Reg.updSlack 12 0 s) qs (qs.headD 0) 0).isSome

/-- A unit of Table 13.3 refuses an entry to a state. A worker's refusal is told by UNIT_REFUSE; what reaches the DRAM controller
during the entry makes unit 9 withdraw (R306). -/
def unitRefuses (st u : Nat) (s : State) : Bool := match u with
  | 1 => if st = 1 then !idleHolds s else !sleepHolds s
  | 2 => !s.pip.flight.isEmpty
  | 3 => !intentQuiet s
  | 4 => (List.range 8).any fun d => (domAt d s).recon
  | 5 => !(s.upd.plans.isEmpty && s.arr.mreqs.isEmpty && s.arr.remaps.isEmpty && s.arr.remapReqs.isEmpty &&
      s.arr.migrating.isEmpty) || rebalanceDue s
  | 6 => !(s.arr.repairs.isEmpty && s.arr.divs.isEmpty)
  | 7 => propState s != 0 || s.fwu.session.isSome || prfBusy s || schedBusy s || oppBusy s
  | 8 => s.fwu.dirty || vbtBusy s
  | _ => false

/-- The first unit that refuses. -/
def firstRefusal (st : Nat) (s : State) : Option Nat := (entryUnits st).find? fun u => unitRefuses st u s

/-- A manager orders every worker to enter the state, by a CTRL frame. The spec does not give its form: its ARG and its body are free
values (R353; log entry 62). -/
def orderWorkers (s : State) : State :=
  if (ringPeers s).isEmpty then s
  else
    let w := Config.freeWord s.clk.free
    let b := Config.freeWord (s.clk.free + 1)
    ctlSend 0xa 31 (bits w 27 0) [b] (nextFree (nextFree s))

/-- The quiesce phase: the units are asked in order. The first is asked with an order to the workers. -/
def startEntry (st : Nat) (s : State) : State :=
  let s := flagPut Reg.pwrStat 25 true (s.updPwr fun p => { p with entering := some st })
  let s := if 2 ≤ st then flagPut Reg.arbStat 26 true s else s
  let s := if unitRefuses st 1 s then s else orderWorkers s
  match firstRefusal st s with
  | some u => refuseEntry u s
  | none => s

/-- An idle timer expires: the deepest allowed state is chosen and its entry starts. A worker's timers start none (R353). -/
def execPowerTimerExpire (st : Nat) (lanesIdle : Bool) (s : State) : Host.Outcome State Fault Refusal :=
  .next (
    if isWorker s || startPhase s != 8 || 2 ≤ powerState s || s.pwr.entering.isSome || s.pwr.waking.isSome ||
        oppBusy s || !timerOut st lanesIdle s then s
    else match chooseState lanesIdle s with
      | some x => if powerState s < x then startEntry x s else s
      | none => s)

/-- A unit refuses or withdraws its agreement (R344). -/
def execUnitRefuse (unit : Nat) (s : State) : Host.Outcome State Fault Refusal := .next (withdraw unit s)

/-- Until the commit, a unit whose condition no longer holds withdraws (R343). -/
def entryTick (s : State) : State := match s.pwr.entering with
  | some st => match firstRefusal st s with
    | some u => refuseEntry u s
    | none => s
  | none => s

/-- Groups that are UP, and the cascade link, are parked (R348). -/
def parkLinks (s : State) : State :=
  [LinkId.fll 0, .fll 1, .fll 2, .fll 3, .fcl].foldl (fun s l =>
    if linkState l s = gUp then updGrp l.key (fun r => { r with parked := true }) s else s) s

/-- What a state deeper than IDLE does at its commit: for DEEP and OFF the state image goes to area 5 (R350), and the rails go to
0.50 V or off (R392). -/
def commitDeep (st : Nat) (s : State) : State :=
  let s := parkLinks (enterSelfRefresh s)
  if st < 3 then s
  else
    let s := s.updPwr fun p => { p with deepAt := s.clk.now }
    let s := fieldPut Reg.arbStat 23 16 0xff (flagPut Reg.glbBootStat 22 true (areaWritten 5 (nextFree s)))
    if st = 4 then allRails 0x01 0 (saveTod (saveLife s)) else setRails (500, 500) s

/-- A manager notes which workers have entered the state (R353). -/
def noteAsleep (workers : List (Fin 16)) (s : State) : State :=
  (ringPeers s).foldl (fun s k =>
    if workers.any fun w => w.val == k then updWk k (fun f => { f with asleep := true }) s else s) s

/-- A worker has not entered the state, as far as its manager knows (R353). -/
def workerAwake (s : State) : Bool := (ringPeers s).any fun k => !(wkAt k s).asleep

/-- The commit of an entry: every unit has agreed, the first once every worker has entered the state: `workers` are those that have
by now. The entry's backoff returns to 0, and the window of R346 begins. A wake line already low then wakes the device. -/
def execEntryCommit (workers : List (Fin 16)) (s : State) : Host.Outcome State Fault Refusal :=
  .next (match s.pwr.entering with
    | none => s
    | some st => match firstRefusal st s with
      | some u => refuseEntry u s
      | none =>
        let s := noteAsleep workers s
        if workerAwake s then s else
        let s := s.updPwr fun p => { p with entering := none, window := s.clk.now + 6 }
        let s := fieldPut Reg.pwrStat 31 29 st (flagPut Reg.pwrStat 25 false s)
        let s := fieldPut (Reg.pwrTmr st) 31 28 0 (s.updPip fun x => { x with asleep := true })
        let s := if st = 1 then cntWrap (Reg.pwrCnt 0) 1 s
          else if st = 2 then cntAdd (Reg.pwrCnt 1) 1 s
          else if st = 3 then cntAdd (Reg.pwrCnt 2) 1 s
          else s
        let s := if 2 ≤ st then commitDeep st s else s
        if flagGet Reg.pwrCtl 0 s then wakeEvent 0 s else s)

/-! Waking (R342, R345, R348). -/

/-- WAKE_N held low. From OFF it is a cold reset of cause 1 after the regulators are switched on, and LAST reads OFF. -/
def execWakeN (s : State) : Host.Outcome State Fault Refusal :=
  .next (if powerState s = 4 then fieldPut Reg.pwrStat 28 26 4 (coldReset 1 (allRails 0x01 1 s)) else wakeEvent 0 s)

/-- Credits are withheld from the present CUM on, or released (R356, R359). -/
def withhold (s : State) : State := match s.lnk.frozen with
  | some _ => s
  | none => s.updLnk fun l => { l with frozen := some (pipeCum 0 s, pipeCum 1 s) }

def releaseCredits (s : State) : State :=
  if s.pip.quiesce || s.pip.oppHold then s else s.updLnk fun l => { l with frozen := none }

/-- A write to PWR_CTL: QUIESCE is the MP's (R359), WAKE wakes the device and clears in RUN (R345). -/
def wrPwrCtl (src : Party) (v : Word) (s : State) : State :=
  if src ≠ .mp ∧ (bit v 1 ∨ flagGet Reg.pwrCtl 1 s) then refuseReg 3 src Reg.pwrCtl v s
  else
    let s := flagPut Reg.pwrCtl 1 (bit v 1) s
    let s := if bit v 1 then withhold (s.updPip fun x => { x with quiesce := true })
      else releaseCredits (s.updPip fun x => { x with quiesce := false })
    if !bit v 0 then s
    else if powerState s = 0 ∧ s.pwr.entering.isNone then restartTimers s
    else wakeEvent 0 (flagPut Reg.pwrCtl 0 true s)

/-- Activity on a lane in electrical idle of a group that is not DOWN, or of the cascade link (R345). -/
def execLaneActivity (l : LinkId) (s : State) : Host.Outcome State Fault Refusal :=
  .next (match l with
    | .fll _ => if linkState l s = gDown then s else wakeEvent 1 s
    | .fcl => wakeEvent 2 s)

/-- In SLEEP the power controller wakes the device in time for the next known event: 20 µs before it (R342). -/
def execKnownEventWake (s : State) : Host.Outcome State Fault Refusal :=
  .next (if powerState s = 2 ∧ s.pwr.waking.isNone then
    match nextEvent 2 s with
    | some (d, k) =>
      if d ≤ 20000 then (startWake 6 (restartTimers s)).updPwr fun p => { p with wakeIdle := k != 1 } else s
    | none => s
  else s)

/-- A lane of a resuming link has locked on its first alignment block, which agrees with what was parked (R348). -/
def laneResumed (n : Nat) (s : State) : Bool := decide (0 < (laneAt n s).found) && !(laneAt n s).changed

/-- The lag of a resuming lane, of the lags of the link's lanes, differs from the parked one by more than 2 blocks (R348). -/
def skewMoved (skews : List Nat) (l : LinkId) (n : Nat) (s : State) : Bool :=
  let late := skews.foldl max 0
  let now := late - skews.getD (n - l.lane0) late
  let was := fieldGet (laneStat n) 7 0 s
  now + 2 < was || was + 2 < now

/-- A parked link has relocked and its paths are measured again. A lane whose skew has moved keeps no lock (R348). -/
def execLaneResume (l : LinkId) (path : Nat) (skews : List Nat) (s : State) : Host.Outcome State Fault Refusal :=
  .next (
    let r := grpAt l.key s
    if r.parked && r.resumeAt.isSome && l.laneList.all (fun n => laneResumed n s && decide (2 ≤ (laneAt n s).ready)) then
      let moved := l.laneList.filter fun n => skewMoved skews l n s
      if !moved.isEmpty then moved.foldl (fun s n => updLane n (fun x => { x with changed := true }) s) s
      else
      let s := updGrp l.key (fun r => { r with parked := false, resumeAt := none }) s
      match l with
      | .fll g => alignCopy g.val (fieldPut (Reg.todPath g.val) 15 0 path s)
      | .fcl => s
    else s)

/-- A lane has not locked 20 µs after resume: FAULT 5 (R348). -/
def execResumeTimeout (l : LinkId) (s : State) : Host.Outcome State Fault Refusal :=
  .next (match (grpAt l.key s).resumeAt with
    | some t => if t ≤ s.clk.now && !l.laneList.all (fun n => laneResumed n s) then enterDown l 5 s else s
    | none => s)

/-! Operating points (R354 to R358). -/

/-- A change ends with a RESULT. -/
def oppDone (result : Nat) (s : State) : State :=
  let s := s.updPwr fun p => { p with oppStep := 0, oppTries := 0 }
  let s := flagPut Reg.pwrOppCtl 2 false (flagPut Reg.pwrOppStat 31 false (fieldPut Reg.pwrOppStat 25 24 result s))
  raiseInt 17 16 (cntAdd (Reg.pwrCnt 5) 1 s)

/-- A change starts: a higher point begins with the voltage, a lower one with the PLL. -/
def startOpp (o : Nat) (s : State) : State :=
  if o = oppCur s then oppDone 0 s
  else
    let s := flagPut Reg.pwrOppCtl 2 true (flagPut Reg.pwrOppStat 31 true s)
    let up := decide (o < oppCur s)
    let s := if up then setRails (oppVolts o) s else s
    s.updPwr fun p => { p with oppStep := if up then 1 else 2, oppTries := 0, oppTo := o, oppAt := s.clk.now }

/-- A write to PWR_OPP_CTL. A manager gives the same order to its workers (R356). -/
def wrOppCtl (src : Party) (v : Word) (s : State) : State :=
  if bit v 2 && (oppBusy s || s.pwr.oppLater) then refuseReg 4 src Reg.pwrOppCtl v s
  else
    let s := markDirty (fieldPut Reg.pwrOppCtl 1 0 (bits v 1 0) s)
    if !bit v 2 then s
    else if 2 ≤ powerState s then
      flagPut Reg.pwrOppCtl 2 true (s.updPwr fun p => { p with oppLater := true })
    else
      let s := if isManager s && ringState s == 5 then ctrlWrite 31 Reg.pwrOppCtl (v &&& 7) s else s
      startOpp (bits v 1 0) (refuseEntry 7 s)

/-- A rail is not confirmed after every attempt (R357). -/
def railFails (s : State) : State := raiseInt 17 4 (cntAdd (Reg.pwrCnt 6) 1 s)

/-- A confirmation of the new rail voltages, or of what failed in it. -/
def confirmRails (ok : Bool) (s : State) : State :=
    if ok then
      (if s.pwr.oppStep = 1 then s.updPwr fun p => { p with oppStep := 2, oppTries := 0 } else oppDone 0 s)
    else if s.pwr.oppTries + 1 < fieldGet Reg.pwrPmbCfg 17 16 s then
      s.updPwr fun p => { p with oppTries := p.oppTries + 1 }
    else oppDone 1 (railFails s)

/-- A rail that the device addresses reads within PWR_PMB_CFG.TOL of what it was told; a regulator that does not answer does not
(R357, R400). The board confirms a rail of its own. -/
def railNear (r told : Nat) (read : Option Nat) (s : State) : Bool :=
  let tol := fieldGet Reg.pwrPmbCfg 7 0 s
  railAddr r s == 0 || (match read with
    | some v => decide (v ≤ told + tol) && decide (told ≤ v + tol)
    | none => false)

/-- Both rails are confirmed: `volts` is what READ_VOUT of VDD_ARRAY and VDD_CORE returned, in mV. -/
def railsOk (volts : Option (Nat × Nat)) (s : State) : Bool :=
  let v := oppVolts s.pwr.oppTo
  railNear 0 v.1 (volts.map (·.1)) s && railNear 1 v.2 (volts.map (·.2)) s

/-- SETTLE has passed: READ_VOUT of both rails, and its confirmation. -/
def execOppVoltageConfirm (volts : Option (Nat × Nat)) (s : State) : Host.Outcome State Fault Refusal :=
  .next (if (s.pwr.oppStep ≠ 1 ∧ s.pwr.oppStep ≠ 4) ∨ s.clk.now < s.pwr.oppAt + 1000 * fieldGet Reg.pwrPmbCfg 15 8 s then s
    else confirmRails (railsOk volts s) (readRails s))

/-- The array PLL has locked its idle output: credits are withheld and dispatch stops. -/
def execOppPllLock (s : State) : Host.Outcome State Fault Refusal :=
  .next (if s.pwr.oppStep = 2 then
    withhold ((s.updPip fun x => { x with oppHold := true }).updPwr fun p => { p with oppStep := 3, holdAt := s.clk.now })
  else s)

/-- At a frame boundary, once the searches in flight have left, the clocks switch and PIP_LAT changes; dispatch resumes and the
credits are released. -/
def execOppSwitch (s : State) : Host.Outcome State Fault Refusal :=
  .next (if s.pwr.oppStep = 3 ∧ s.pip.flight.isEmpty ∧ s.clk.slot = 0 then
    let raising := s.pwr.oppTo < oppCur s
    let hold := min ((s.clk.now - s.pwr.holdAt) / 10) 0xffff
    let s := fieldPut Reg.pwrOppStat 15 0 hold (fieldPut Reg.pwrOppStat 27 26 s.pwr.oppTo s)
    let s := releaseCredits ((showLat s).updPip fun x => { x with oppHold := false })
    let s := markDirty s
    if raising then oppDone 0 s
    else setRails (oppVolts s.pwr.oppTo) (s.updPwr fun p => { p with oppStep := 4, oppTries := 0, oppAt := s.clk.now })
  else s)

/-- PMB_ALERT_N low: STATUS_WORD of every addressed regulator is read, and a fault counts as a failed confirmation (R357,
R400). -/
def execPmbAlert (fault : Bool) (s : State) : Host.Outcome State Fault Refusal :=
  .next (
    let s := allRails 0x79 0 s
    if !fault then s
    else if s.pwr.oppStep = 1 ∨ s.pwr.oppStep = 4 then confirmRails false s
    else railFails s)

/-- PWR_STAT as it reads: QUIESCED once no tag is in flight (R359). -/
def rdPwrStat (s : State) : Word := putBits (regGet Reg.pwrStat s) 24 24 (b2n (quiesced s))

end Sys2Proof.Machine
end

