-- ==== Sys2Proof/Machine/Protect.lean ====
section
/-! DEFINITION. Functions and their resets, MSI-X, two-party changes, the refusal log and the SMBus target (R261, R262,
R272 to R286, R399, R411). -/

namespace Sys2Proof.Machine

open Sys2Proof

/-! Functions (R261, R262, R274). -/

/-- A ring acts as STOP for the reset of its function: no completion is written and no message is owed, reads outstanding are given
up, and it enters OFF once every begun command has finished (R147, R262). -/
def flrRing (s : State) (x : Nat × Ring) : State :=
  let r := x.1
  let s := stopRing r (updRing r (fun q => { q with quiet := q.st != 0, owed := 0, oldest := 0, urgent := false }) s)
  if (ringAt r s).st = 2 then
    let s := s.updUpd fun u => { u with cmds := u.cmds.filter fun c => !(c.ring == r && c.unparsed) }
    ringOff r (settle s)
  else s

/-- The rings of a function. -/
def fnRings (f : Nat) (s : State) : List (Nat × Ring) := s.upd.rings.filter fun x => x.2.func == f

/-- The MSI-X vectors of a function masked, and nothing pending (R262). -/
def maskVectors (f : Nat) (s : State) : State :=
  let vs := (List.range 2048).filter fun v => vecOwner v s == f
  s.updHif fun h => { h with
    msix := h.msix.foldl (fun t x => if vs.contains x.1 then tabSet ⟨0, 0, true⟩ t x.1 { x.2 with mask := true } else t) h.msix
    msixPend := h.msixPend.filter fun x => !vs.contains x.1 }

/-- A function-level reset of one function's rings, vectors and configuration space (R262). -/
def flr (f : Nat) (s : State) : State :=
  let s := (fnRings f s).foldl flrRing s
  updFn f (fun _ => FnCfg.reset) (maskVectors f s)

/-- An FLR of a VF. -/
def execVfFlr (f : Fin 64) (s : State) : Host.Outcome State Fault Refusal :=
  .next (if f.val ≠ 0 ∧ fnEnabled f.val s then flr f.val s else s)

/-- An FLR of the PF: every VF and the PF itself, error reporting off, and any proposal discarded (R262, R284). -/
def execPfFlr (s : State) : Host.Outcome State Fault Refusal :=
  .next (
    let s := (List.range 64).foldl (fun s f => flr (63 - f) s) s
    let s := s.updHif fun h => { h with vfEnable := false, numVFs := 0 }
    dropProposal 8 (reportsOff s))

/-- The PF writes VF Enable and NumVFs: every VF that ceases to exist is reset (R262). -/
def execVfDisable (vfEnable : Bool) (numVFs : Nat) (s : State) : Host.Outcome State Fault Refusal :=
  .next (
    if 63 < numVFs then s
    else
      let lives (f : Nat) : Bool := vfEnable && f ≤ numVFs
      let gone := ((List.range 64).drop 1).filter fun f => fnEnabled f s && !lives f
      (gone.foldl (fun s f => flr f s) s).updHif fun h => { h with vfEnable := vfEnable, numVFs := numVFs })

/-- Software writes a function's control fields: Bus Master Enable, the power state, MSI-X Enable, Function Mask and the request
sizes. What waited for the function is written, and its rings may be served again (R258, R261, R274). -/
def writeFn (f : Nat) (c : FnControl) (s : State) : State :=
  let was := mayRequest f s
  let s := updFn f (fun x => { bme := c.bme, d3hot := c.d3, msixEn := c.msixEn, fnMask := c.fnMask, mps := c.mps.val,
                               mrrs := c.mrrs.val, errs := x.errs &&& ~~~c.clearErr }) s
  let s := if !was && mayRequest f s then fnOpens f s else s
  let s := if f = 0 ∧ errOn s then errFlush s else s
  settle s

def execBusMasterEnable (f : Fin 64) (c : FnControl) (s : State) : Host.Outcome State Fault Refusal :=
  .next (if fnEnabled f.val s then writeFn f.val c s else s)

/-- A vector that is pending is sent once nothing masks it (R274). -/
def execMsixPendingSend (vec : Fin 2048) (s : State) : Host.Outcome State Fault Refusal :=
  .next (
    if tabGet false s.hif.msixPend vec.val && vecOpen vec.val s then
      vecSend vec.val (s.updHif fun h => { h with msixPend := tabSet false h.msixPend vec.val false })
    else s)

/-- A device read gets no completion within the range: the function's error status shows it, and the read has failed (R258,
R261). -/
def execCompletionTimeout (n : Nat) (s : State) : Host.Outcome State Fault Refusal :=
  .next (match cmdAt n s with
    | some c =>
      if decide (c.stage = .fetched) || c.fwReading then
        readFailed c (updFn (ringAt c.ring s).func (fun x => { x with errs := x.errs ||| bitMask 14 }) s)
      else s
    | none => s)

/-! Two-party changes (R278 to R284). -/

/-- The words of a proposal: the header, then the entries in staging order (R280). -/
def proposalWords (seq : Nat) (es : List (Nat × Word)) : List W64 :=
  pack64 [(48, seq % 65536), (40, es.length)] :: es.map fun e => pack64 [(32, e.1), (0, e.2.toNat)]

/-- PRT_PROP_STAT.SEQ. -/
def propSeq (s : State) : Nat := fieldGet Reg.prtPropStat 15 0 s

/-- PRT_PROP_STAT.STATE and N written. -/
def setProp (st n : Nat) (s : State) : State :=
  fieldPut Reg.prtPropStat 21 17 n (fieldPut Reg.prtPropStat 31 30 st s)

/-- The buffer is emptied and STATE is IDLE, with RESULT and ERR_ENTRY. -/
def propIdle (result errEntry : Nat) (s : State) : State :=
  let s := s.updPrt fun p => { p with props := [], deadline := none, alert := false }
  setProp 0 0 (fieldPut Reg.prtPropStat 25 22 errEntry (fieldPut Reg.prtPropStat 29 26 result s))

/-- A waiting proposal ends (R282). -/
def propEnds (result : Nat) (s : State) : State := raiseInt 20 4 (propIdle result 0 s)

/-- A waiting proposal whose 100 ms have passed. -/
def propLate (s : State) : Bool := propState s == 2 && (match s.prt.deadline with
  | some t => t ≤ s.clk.now
  | none => false)

/-- From the cycle in which the 100 ms have passed, the proposal has expired (R282). -/
def propNow (s : State) : State := if propLate s then propEnds 5 s else s

/-- A write to a protection-group register: the PF stages it, any other source is refused (R279). -/
def wrProtect (src : Party) (off : Nat) (v : Word) (s : State) : State :=
  let s := propNow s
  match src with
  | .pcie _ =>
    if propState s = 2 ∨ 16 ≤ s.prt.props.length then refuseReg 11 src off v s
    else
      let s := s.updPrt fun p => { p with props := p.props ++ [(off, v)] }
      setProp 1 s.prt.props.length s
  | _ => refuseReg 3 src off v s

/-- The value a register takes once the entries apply: the last entry that names it, else its own. -/
def proposed (es : List (Nat × Word)) (off : Nat) (s : State) : Word := match es.reverse.find? fun e => e.1 == off with
  | some e => e.2
  | none => regGet off s

/-- Pages of a space (Table 10.18). -/
def spacePages (space : Nat) : Nat := match space with
  | 0 => 4096
  | 2 => 8388608
  | _ => 128

/-- The region i = 8 m + r holds a reserved encoding once the entries apply. -/
def regionBad (es : List (Nat × Word)) (i : Nat) (s : State) : Bool :=
  let a := proposed es (Reg.prtRgnA i) s
  let b := proposed es (Reg.prtRgnB i) s
  bits b 22 0 < bits a 22 0 || spacePages (bits a 30 29) ≤ bits b 22 0

/-- A word of bank codes holds 0b11 in one of its n fields. -/
def bankCodeBad (v : Word) (n : Nat) : Bool := (List.range n).any fun i => bits v (2 * i + 1) (2 * i) == 3

/-- An entry holds a reserved encoding (R279 check 2, R411). -/
def entryBad (es : List (Nat × Word)) (e : Nat × Word) (s : State) : Bool :=
  if !prtGroup e.1 then true
  else if Reg.prtRgnA 0 ≤ e.1 ∧ e.1 < Reg.prtRgnA 16 then regionBad es ((e.1 - Reg.prtRgnA 0) / 8) s
  else if Reg.prtBankOwn 0 ≤ e.1 ∧ e.1 < Reg.prtBankOwn 5 then
    bankCodeBad e.2 (if e.1 = Reg.prtBankOwn 4 then 8 else 16)
  else false

/-- ERR_ENTRY of the first check of R279 that fails. -/
def submitFault (s : State) : Option Nat :=
  let es := s.prt.props
  if es.isEmpty || propSeq s == 65535 then some 0
  else match es.findIdx? fun e => entryBad es e s with
    | some i => some i
    | none => if flagGet Reg.prtLock 0 s then es.findIdx? fun e => e.1 != Reg.prtLock else none

/-- SUBMIT: the buffer is refused, or waits 100 ms for the board controller (R279, R280, R381). -/
def submit (s : State) : State := match submitFault s with
  | some e => propIdle 2 e s
  | none =>
    let seq := propSeq s + 1
    let s := vbtPut 4 (BitVec.ofNat 32 seq) (fieldPut Reg.prtPropStat 15 0 seq s)
    let s := if seqReserve s ≤ seq then markDirty s else s
    let reserve := ((currentSettings s).map fun c => c.2.seqReserve).getD 0
    let s := if reserve ≤ seq then s.updFwu fun f => { f with dirty := true } else s
    let s := regPut Reg.prtPropDigest (proposalDigest (proposalWords seq s.prt.props)) s
    let s := s.updPrt fun p => { p with deadline := some (s.clk.now + 100000000), alert := true }
    raiseInt 20 2 (setProp 2 s.prt.props.length s)

/-- CANCEL: a wait ends with RESULT 6, a staged buffer is emptied (R279, R282). -/
def cancel (s : State) : State :=
  if propState s = 2 then propEnds 6 s else if propState s = 1 then propIdle 6 0 s else s

/-- Only a PCI Express function reaches PRT_PROP_CTL (R279). -/
def isPcie (src : Party) : Bool := match src with
  | .pcie _ => true
  | _ => false

/-- A write to PRT_PROP_CTL. With both bits, the CANCEL ends the wait or the staging and the SUBMIT finds an empty buffer. -/
def wrPropCtl (src : Party) (v : Word) (s : State) : State :=
  let s := propNow s
  if !isPcie src && bits v 1 0 != 0 then refuseReg 3 src Reg.prtPropCtl v s
  else if bit v 0 && propState s == 2 && !bit v 1 then refuseReg 11 src Reg.prtPropCtl v s
  else
    let s := if bit v 1 then cancel s else s
    if bit v 0 then submit s else s

/-- The entries applied in staging order. PRT_LOCK also goes to VBAT word 3, and the settings record is written later
(R282). -/
def applyProposal (s : State) : State :=
  let s := s.prt.props.foldl (fun s e => match regDesc e.1 with
    | some d => regPut e.1 (e.2 &&& (if e.1 = Reg.prtLock then 1 else if e.1 = Reg.prtBankOwn 4 then 0xffff else d.m)) s
    | none => s) s
  let s := s.updFwu fun f => { f with dirty := true }
  if s.prt.props.any fun e => e.1 == Reg.prtLock then vbtPut 3 (regGet Reg.prtLock s) s else s

/-- The proposal expires (R282). -/
def execPropExpire (s : State) : Host.Outcome State Fault Refusal := .next (propNow s)

/-! The SMBus target (R281, R282, R399). -/

/-- The device answers SMBus: out of reset, from start-up phase 1 on, and not in OFF (Table 15.4). -/
def smbReady (s : State) : Bool := !s.rst.low && s.rst.aux && !s.rst.therm && 1 ≤ startPhase s && powerState s != 4

/-- A command the target refuses (R281, R286). -/
def smbRefuse (code : Nat) (write : Bool) (data : Nat) (s : State) : State :=
  smbAnswer .nack (refuse 12 .smbus 4 write code data s)

/-- The bytes of words, most significant first. -/
def busWords (ws : List W64) : List Byte := ws.flatMap fun w => natBytes w.toNat 8

/-- The waiting proposal's words, or a header with N = 0. -/
def readProposal (s : State) : State :=
  let s := propNow s
  smbAnswer (.data (busWords (proposalWords (propSeq s) (if propState s = 2 then s.prt.props else [])))) s

/-- PROP_READ. -/
def execPropRead (s : State) : Host.Outcome State Fault Refusal := .next (if !smbReady s then s else readProposal s)

/-- A command that waits is the PF's CANCEL. No time passes while commands wait, so it comes in this same MCLK cycle. -/
def isCancel (c : Instr) : Bool := match c with
  | .propCancel (.pcie f) v => f == 0 && bit v 1
  | .registerWrite a v => decide (a.src = .pcie 0) && decide (a.space = .bar0) && a.full && !a.poisoned &&
      (a.len == 4 || a.len == 8) && a.off == Reg.prtPropCtl && bit v 1
  | _ => false

/-- CONFIRM (R282). A CANCEL of the same cycle wins: the CONFIRM is taken and writes nothing, and the wait is the CANCEL's to
end. -/
def confirmProposal (seq : Nat) (digest : Word) (s : State) : State :=
  let s := propNow s
  if propState s ≠ 2 ∨ seq ≠ propSeq s then smbRefuse 0x11 true (seq * 65536 + digest.toNat / 65536) s
  else
    let s := smbAnswer .ack s
    if s.pending.any isCancel then s
    else if digest ≠ regGet Reg.prtPropDigest s then propEnds 4 s
    else if flagGet Reg.vbtStat 29 s && s.prt.props.any (fun e => e.1 == Reg.prtLock) then propEnds 7 s
    else propEnds 1 (applyProposal s)

def execConfirm (seq : BitVec 16) (digest : Word) (s : State) : Host.Outcome State Fault Refusal :=
  .next (if !smbReady s then s else confirmProposal seq.toNat digest s)

/-- REJECT (R282). -/
def rejectProposal (seq : Nat) (s : State) : State :=
  let s := propNow s
  if propState s ≠ 2 ∨ seq ≠ propSeq s then smbRefuse 0x12 true (seq * 65536) s
  else propEnds 3 (smbAnswer .ack s)

def execReject (seq : BitVec 16) (s : State) : Host.Outcome State Fault Refusal :=
  .next (if !smbReady s then s else rejectProposal seq.toNat s)

/-- STATUS. -/
def execStatus (s : State) : Host.Outcome State Fault Refusal :=
  .next (if !smbReady s then s else smbAnswer (.data (natBytes (regGet Reg.prtPropStat (propNow s)).toNat 4)) (propNow s))

/-- Words A and B of the entry written AGE refusals ago; an entry not yet written reads 0 (R286). -/
def refusalEntry (age : Nat) (s : State) : W64 × W64 := s.prt.log.getD age (0, 0)

/-- REF_READ: the 8 newest entries. -/
def execRefRead (s : State) : Host.Outcome State Fault Refusal :=
  .next (if !smbReady s then s
    else smbAnswer (.data (busWords ((List.range 8).flatMap fun i => [(refusalEntry i s).1, (refusalEntry i s).2]))) s)

/-- A read of the Alert Response Address: the device answers with its own address while it drives SMBALERT_N, and releases the
line. -/
def execAlertResponse (s : State) : Host.Outcome State Fault Refusal :=
  .next (if smbReady s && s.prt.alert then
    smbAnswer (.data [BitVec.ofNat 8 (0x50 + devId s)]) (s.updPrt fun p => { p with alert := false })
  else s)

/-- The command codes of Table 10.7. -/
def smbCodes : List Nat := [0x10, 0x11, 0x12, 0x18, 0x20, 0x21, 0x30]

/-- A command with a wrong PEC byte is NACKed and reported; one with an undefined code is NACKed at the code byte and
refused. -/
def execSmbPecError (code : Byte) (s : State) : Host.Outcome State Fault Refusal :=
  .next (if !smbReady s then s
    else if smbCodes.contains code.toNat then smbAnswer .nack (raiseInt 20 8 s)
    else smbRefuse code.toNat false 0 s)

/-- SMB_SCL low for 25 ms: the transaction is given up and both lines are released; what the state holds of SMBus, commands
that arrived whole, does not change. -/
def execSmbSclTimeout (s : State) : Host.Outcome State Fault Refusal := .next s

/-! The refusal-log window (R286). -/

/-- A write to PRT_REF_SEL latches an entry into the party's copy of the window. -/
def wrRefSel (src : Party) (v : Word) (s : State) : State :=
  let e := refusalEntry (bits v 4 0) s
  let half (w : W64) (hi : Bool) : Word := BitVec.ofNat 32 (if hi then w.toNat >>> 32 else w.toNat)
  [(Reg.prtRefSel, BitVec.ofNat 32 (bits v 4 0)), (Reg.prtRefALo, half e.1 false), (Reg.prtRefAHi, half e.1 true),
   (Reg.prtRefBLo, half e.2 false), (Reg.prtRefBHi, half e.2 true)].foldl (fun s rv => winPut src rv.1 rv.2 s) s

end Sys2Proof.Machine
end

