-- ==== Sys2Proof/Machine/Bar4.lean ====
section
/-! DEFINITION. The Pantry, the scratchpad, the activity bits, their aliases and the DRAM, as the host reaches them through BAR4
and the MP by its loads and stores (R64, R65, R264, R267, R275 to R277, R289 to R295, R300). -/

namespace Sys2Proof.Machine

open Sys2Proof

/-! The map (Table 10.4). -/

/-- The row of an offset: 0 Pantry, 1 scratchpad, 2 activity bits, 3 set alias, 4 clear alias, 5 DRAM aperture, 6 none. -/
def bar4Row (off : Nat) : Nat :=
  if off < 0x1000000 then 0
  else if 0x1000000 ≤ off ∧ off < 0x1080000 then 1
  else if 0x1800000 ≤ off ∧ off < 0x1880000 then 2
  else if 0x4000000 ≤ off ∧ off < 0x8000000 then 3
  else if 0x8000000 ≤ off ∧ off < 0xc000000 then 4
  else if 0xc000000 ≤ off ∧ off < 0x10000000 then 5
  else 6

/-- The plain offset that an offset acts on (R264). -/
def plainOff (off : Nat) : Nat := match bar4Row off with
  | 3 => off - 0x4000000
  | 4 => off - 0x8000000
  | _ => off

/-- The space of a row (Table 10.18): 0 Pantry, 1 scratchpad, 2 DRAM, 3 activity bits; none for the alias ranges and where nothing
answers. -/
def rowSpace (row : Nat) : Option Nat := match row with
  | 0 => some 0
  | 1 => some 1
  | 2 => some 3
  | 5 => some 2
  | _ => none

/-- The byte of its space that a plain offset reaches: for the aperture a DRAM byte address. -/
def spaceByte (off : Nat) (s : State) : Nat := match bar4Row off with
  | 1 => off - 0x1000000
  | 2 => off - 0x1800000
  | 5 => fieldGet Reg.hifDramWin 8 0 s * 0x4000000 + (off - 0xc000000)
  | _ => off

/-- Bytes of a space. -/
def spaceBytes (space : Nat) (s : State) : Nat := match space with
  | 0 => 0x1000000
  | 2 => dramBytes s
  | _ => 0x80000

/-! What lets an access through. -/

/-- An access of n bytes from a byte of a space; `alias_` is 0 for a plain one, 1 for the set and 2 for the clear alias. -/
structure MemAcc where
  m : MemMaster
  space : Nat
  byte : Nat
  len : Nat
  alias_ : Nat
  deriving DecidableEq, Repr

/-- The number of a master in Table 11.1, 0 the host and 1 the MP; so are the region registers numbered (R275). -/
def masterNo (m : MemMaster) : Nat := match m with
  | .host _ => 0
  | .mp _ => 1

/-- Region r of master m covers n bytes of a space and carries the right (R275). -/
def regionCovers (m r space byte n : Nat) (write : Bool) (s : State) : Bool :=
  let a := regGet (Reg.prtRgnA (8 * m + r)) s
  let b := regGet (Reg.prtRgnB (8 * m + r)) s
  bit a 31 && bits a 30 29 == space && bit a (if write then 28 else 27) && bits a 22 0 * 4096 ≤ byte &&
    byte + n ≤ (bits b 22 0 + 1) * 4096

/-- One region of a master allows the access. -/
def regionAllows (a : MemAcc) (write : Bool) (s : State) : Bool :=
  (List.range 8).any fun r => regionCovers (masterNo a.m) r a.space a.byte a.len write s

/-- The banks of an access to the Pantry or the scratchpad, as GLB_BANK_OWN_n numbers them. -/
def accessBanks (a : MemAcc) : List Nat :=
  if a.space = 0 then
    ((List.range (a.len / 8 + 2)).filter fun i => a.byte / 8 + i ≤ (a.byte + a.len - 1) / 8).map fun i => pantryBank (a.byte / 8 + i)
  else if a.space = 1 then [64 + a.byte / 65536, 64 + (a.byte + a.len - 1) / 65536]
  else []

/-- PRT_BANK_OWN_k's code of a bank (R300). -/
def bankCode (b : Nat) (s : State) : Nat := fieldGet (Reg.prtBankOwn (b / 16)) (2 * (b % 16) + 1) (2 * (b % 16)) s

/-- A master may reach what the access covers: bank ownership in START and RECOVERY, when only the MP reaches the DRAM and the
activity bits (R296, R297); regions and the in-service ownership in SERVICE (R275, R300). -/
def masterReaches (a : MemAcc) (write : Bool) (s : State) : Bool :=
  let mp := masterNo a.m
  if memMode s = 1 then
    regionAllows a write s && (accessBanks a).all fun b => bankCode b s != 1 + mp
  else if a.space ≤ 1 then (accessBanks a).all fun b => bankOwner b s == 2 - mp && !bankBusy b s
  else mp == 1

/-- A Pantry byte range meets a table data region (R78). -/
def inTables (byte n : Nat) (s : State) : Bool :=
  ((List.range (n / 8 + 2)).filter fun i => byte / 8 + i ≤ (byte + n - 1) / 8).any fun i =>
    let w := byte / 8 + i
    (unitOwner (2 * w) s).isSome || (unitOwner (2 * w + 1) s).isSome

/-- DRAM areas that only the device writes (R276, R302). -/
def inDeviceArea (byte n : Nat) (s : State) : Bool :=
  (List.range 4).any fun a =>
    let r := regGet (Reg.drcArea a) s
    let lo := bits r 15 0 * 1048576
    let hi := lo + bits r 31 16 * 1048576
    byte < hi && lo < byte + n

/-- A write to data that the device manages (R65, R276, R300): a table data region, the activity bits but through the clear alias,
and for the host the DRAM areas of R276. R65 names no master, so the MP's stores to the activity bits are refused as the host's are
(DEDUCED, log entry 87). -/
def deviceData (a : MemAcc) (s : State) : Bool :=
  (a.space == 0 && inTables a.byte a.len s) || (a.space == 3 && a.alias_ != 2) ||
    (a.space == 2 && masterNo a.m == 0 && inDeviceArea a.byte a.len s)

/-- An alias write has one of the shapes of R267. -/
def aliasShaped (off : Nat) (data : List (Option Byte)) : Bool :=
  data.all (·.isSome) && ((data.length == 4 && off % 4 == 0) || (data.length == 8 && off % 8 == 0))

/-- The access that a BAR4 offset makes, none where nothing answers (R264). -/
def bar4Access (fn : Fin 64) (off n : Nat) (s : State) : Option MemAcc :=
  let a := plainOff off
  let al := match bar4Row off with
    | 3 => 1
    | 4 => 2
    | _ => 0
  (rowSpace (bar4Row a)).bind fun sp =>
    if al ≠ 0 ∧ sp = 2 then none else some ⟨.host fn, sp, spaceByte a s, n, al⟩

/-- The cause for which a host access to BAR4 is refused: the first of Table 10.9. `shaped` is that an alias write has an allowed
shape. A write longer than Max Payload Size and a read of more than 4,096 bytes are of an extent not allowed (R267; DEDUCED, log
entry 85). -/
def bar4Refusal (fn : Fin 64) (off n : Nat) (write : Bool) (shaped poisoned : Bool) (s : State) : Nat :=
  let row := bar4Row off
  let a := plainOff off
  let al := row == 3 || row == 4
  let crosses := bar4Row (off + n - 1) != row || (al && bar4Row (a + n - 1) != bar4Row a)
  let extent := crosses || (if write then maxPayload s < n else 4096 < n)
  if fn.val ≠ 0 then 3
  else if 2 ≤ powerState s then 4
  else match bar4Access fn off n s with
    | none => if write && !crosses then 5 else if extent then 6 else 0
    | some x =>
      if write && !crosses && x.space == 2 && spaceBytes 2 s < x.byte + n then 5
      else if extent || (write && al && !shaped) then 6
      else if !masterReaches x write s then 7
      else if write && deviceData x s then 8
      else if write && poisoned then 13
      else 0

/-- The MP executes loads and stores: out of reset, and not in SLEEP, DEEP or OFF. -/
def mpRuns (s : State) : Bool := !s.rst.low && s.rst.aux && !s.rst.therm && powerState s < 2

/-- The cause for which a load or store of the MP is refused. An alias acts on the Pantry, the scratchpad and, for the clear alias,
the activity bits (R264). -/
def mpRefusal (x : MemAcc) (write shaped : Bool) (s : State) : Nat :=
  if spaceBytes x.space s < x.byte + x.len ∨ (x.alias_ ≠ 0 ∧ x.space = 2) then 5
  else if write && x.alias_ != 0 && !shaped then 6
  else if !masterReaches x write s then 7
  else if write && deviceData x s then 8
  else 0

/-! Words of the memories. -/

/-- A management read of a Pantry word that finds an error: counted and recorded; an uncorrectable word of a data region is
repaired as after a verify failure (Table 9.1, R295, R415). -/
def pantryManaged (w : Nat) (r : SecRead) (s : State) : State :=
  if r.kind = 0 then s
  else
    let o := unitOwner (2 * w) s <|> unitOwner (2 * w + 1) s
    let loc := pantryLoc w (o.map fun x => (x.1, x.2.2.1, x.2.2.2))
    if r.kind = 1 then errRecord 0x11 1 0 (packNat [(0, r.syn.toNat), (8, r.at_)]) loc (intCount 2 s)
    else match o with
      | some x =>
        let out := if x.2.1.guarded then 1 else 2
        queueEntryRepair x.2.1.width x.2.2.2 out (errRecord 0x11 2 out r.syn.toNat loc (intCount 3 s))
      | none => errRecord 0x11 2 1 r.syn.toNat loc (intCount 3 s)

/-- A scratchpad word read. -/
def scratchRead (w : Nat) (s : State) : SecRead := secded (memWord s.mem.scratch w) (tabGet 0 s.mem.scratchSyn w)

/-- A scratchpad word written with its check bits. -/
def scratchWrite (w : Nat) (v : W64) (s : State) : State :=
  s.updMem fun m => { m with scratch := memSetWord m.scratch w v, scratchSyn := tabSet 0 m.scratchSyn w 0 }

/-- A management read of a scratchpad word that finds an error; an uncorrectable one resets the MP island (R295). -/
def scratchManaged (w : Nat) (r : SecRead) (s : State) : State :=
  if r.kind = 0 then s
  else if r.kind = 1 then errRecord 0x31 1 0 0 (8 * w) (intCount 18 s)
  else islandReset 21 (errRecord 0x31 2 3 0 (8 * w) s)

/-- A word of the Pantry (space 0) or the scratchpad read, with what its errors do. -/
def managedRead (space w : Nat) (s : State) : SecRead × State :=
  if space = 0 then (pantryRead w s, pantryManaged w (pantryRead w s) s)
  else (scratchRead w s, scratchManaged w (scratchRead w s) s)

/-- A word of the two written. -/
def managedWrite (space w : Nat) (v : W64) (s : State) : State := if space = 0 then pantryWrite w v s else scratchWrite w v s

/-- A word changed by a read-modify-write: an uncorrectable error stops it, and an MP store to the Pantry then ends in a bus error
(R292 to R295). -/
def managedModify (m : MemMaster) (space w : Nat) (f : W64 → W64) (s : State) : State :=
  let r := managedRead space w s
  if r.1.kind = 2 then (if masterNo m = 1 ∧ space = 0 then busError 0 2 (8 * w) r.2 else r.2)
  else managedWrite space w (f r.1.val) r.2

/-- The arbitration unit of a block of 64 bytes: units 0 to 7 are the Pantry groups, 8 to 15 the scratchpad banks (R291). -/
def blockUnit (space blk : Nat) : Nat := if space = 0 then blk / 32768 else 8 + blk / 1024

/-- The accesses of one request, cut at 64-byte boundaries, each granted among its rivals (R291, R292). `cycles` is what each lasts. -/
def grantBlocks (x : MemAcc) (blks : List Nat) (cycles : Nat) (rivals : List (List (Fin 5))) (s : State) : State :=
  (blks.zip (List.range blks.length)).foldl (fun s b =>
    contend (blockUnit x.space b.1) (masterNo x.m) (rivals.getD b.2 []) cycles s) s

/-- A byte of the activity bits (R64). -/
def activityByte (b : Nat) (s : State) : Byte :=
  BitVec.ofNat 8 (packNat ((List.range 8).map fun j => (j, b2n (tabGet true s.arr.act (8 * b + j)))))

/-! Reads (R267, R295). -/

/-- A read of Pantry or scratchpad bytes: corrected data, or for the host the stored data with EP set. A load of the MP that finds an
uncorrectable Pantry word returns 0 with a bus error; an uncorrectable scratchpad word resets the MP, which takes no data. -/
def readWords (x : MemAcc) (be : List Bool) (rivals : List (List (Fin 5))) (s : State) : State :=
  let ws := touched 8 x.byte be
  let val (w : Nat) : SecRead := if x.space = 0 then pantryRead w s else scratchRead w s
  let out := picked x.byte be fun b => BitVec.ofNat 8 ((val (b / 8)).val.toNat >>> (8 * (b % 8)))
  let bad := ws.find? fun w => (val w).kind == 2
  let s := ws.foldl (fun s w => (managedRead x.space w s).2) (grantBlocks x (touched 64 x.byte be) 1 rivals s)
  match x.m, bad with
  | .mp _, some w => if x.space = 0 then busError 0 2 (8 * w) (readZero be s) else s
  | _, _ => answer (.mem out bad.isSome) s

/-- A read of activity bytes. -/
def readActivity (byte : Nat) (be : List Bool) (s : State) : State :=
  let s := (touched 4 byte be).foldl (fun s i => fixActivity i s) s
  answer (.mem (picked byte be fun b => activityByte b s) false) s

/-- The crossings that an access passes: the host's 53 to the memories and 55 to the DRAM, the MP's 54 to the DRAM (Table 12.4). -/
def memDead (x : MemAcc) (s : State) : Bool := match x.m with
  | .host _ => xingDead (if x.space = 2 then 55 else 53) s
  | .mp _ => x.space == 2 && xingDead 54 s

/-- An allowed read. One of the DRAM waits for the arbiter (R303). -/
def memRead (x : MemAcc) (be : List Bool) (rivals : List (List (Fin 5))) (s : State) : State :=
  if x.space ≤ 1 then readWords x be rivals s
  else if x.space = 3 then readActivity x.byte be s
  else askRead x.m x.byte be s

/-- A host read of BAR4. -/
def bar4Read (fn : Fin 64) (off : Nat) (be : List Bool) (rivals : List (List (Fin 5))) (s : State) : State :=
  let n := be.length
  if !linkUp s || n == 0 || 0x10000000 < off + n then s
  else
    let x := bar4Access fn off n s
    let c := bar4Refusal fn off n false true false s
    if x.any fun x => memDead x s then readZero be s
    else if c ≠ 0 then readZero be (refuse c (.pcie fn) 2 false off 0 s)
    else match x with
      | some x => memRead x be rivals s
      | none => readZero be s

/-- A refused load or store of the MP: logged, and a bus error (R285, R286, R295). -/
def mpRefuse (c : Nat) (x : MemAcc) (write : Bool) (data : Nat) (s : State) : State :=
  busError x.space 1 x.byte (refuse c .mp 5 write x.byte data s)

/-- A load of the MP. On a dead crossing it takes the bus error too (Table 12.5); which CAUSE is recorded the spec does not say, so it is a
free value among the three (log entry 88). -/
def mpLoad (space byte : Nat) (be : List Bool) (rivals : List (List (Fin 5))) (s : State) : State :=
  let x : MemAcc := ⟨.mp 0, space, byte, be.length, 0⟩
  if !mpRuns s || be.isEmpty then s
  else if memDead x s then busError space (1 + (Config.freeWord s.clk.free).toNat % 3) byte (nextFree (readZero be s))
  else
    let c := mpRefusal x false true s
    if c ≠ 0 then mpRefuse c x false 0 (readZero be s) else memRead x be rivals s

def execBar4Read (m : MemMaster) (off : Nat) (be : List Bool) (rivals : List (List (Fin 5))) (s : State) :
    Host.Outcome State Fault Refusal :=
  .next (match m with
    | .host fn => bar4Read fn off be rivals s
    | .mp space => mpLoad space.val off be rivals s)

/-! Writes (R267, R292 to R294). -/

/-- The enabled bytes of word w laid over its value; `data` starts at a byte address. -/
def mergeWord (byte : Nat) (data : List (Option Byte)) (w : Nat) (old : W64) : W64 :=
  (List.range 8).foldl (fun v k =>
    if 8 * w + k < byte then v
    else match data.getD (8 * w + k - byte) none with
      | some b => putBits v (8 * k + 7) (8 * k) b.toNat
      | none => v) old

/-- The bytes that are enabled. -/
def enables (data : List (Option Byte)) : List Bool := data.map (·.isSome)

/-- Words of the Pantry or the scratchpad written. An access that covers part of a word lasts two cycles (R292). -/
def writeWords (x : MemAcc) (data : List (Option Byte)) (rivals : List (List (Fin 5))) (s : State) : State :=
  let ws := touched 8 x.byte (enables data)
  let cycles := if ws.all fun w => lineWhole 8 x.byte data w then 1 else 2
  ws.foldl (fun s w =>
    if lineWhole 8 x.byte data w then managedWrite x.space w (mergeWord x.byte data w 0) s
    else managedModify x.m x.space w (mergeWord x.byte data w) s)
    (grantBlocks x (touched 64 x.byte (enables data)) cycles rivals s)

/-- The words of an alias write as values: bits not written are 0. -/
def aliasWord (byte : Nat) (data : List (Option Byte)) (w : Nat) : W64 := mergeWord byte data w 0

/-- A write of the set or the clear alias to the Pantry or the scratchpad (R293). -/
def writeAlias (x : MemAcc) (data : List (Option Byte)) (rivals : List (List (Fin 5))) (s : State) : State :=
  let d := aliasWord x.byte data (x.byte / 8)
  managedModify x.m x.space (x.byte / 8) (fun v => if x.alias_ = 1 then v ||| d else v &&& ~~~d)
    (grantBlocks x [x.byte / 64] 2 rivals s)

/-- A write of the clear alias to the activity bits (R65). -/
def clearAlias (byte : Nat) (data : List (Option Byte)) (s : State) : State :=
  let s := (touched 4 byte (enables data)).foldl (fun s i => fixActivity i s) s
  clearActivity ((List.range (8 * data.length)).filterMap fun i => match data.getD (i / 8) none with
    | some b => if bit b (i % 8) then some (8 * byte + i) else none
    | none => none) s

/-- The first 32 bits of written data, as the refusal log keeps them. -/
def firstBits (data : List (Option Byte)) : Nat :=
  packNat ((List.range 4).map fun k => (8 * k, ((data.getD k none).getD 0).toNat))

/-- An allowed write. One of the DRAM waits for the arbiter (R303). -/
def memWrite (x : MemAcc) (data : List (Option Byte)) (rivals : List (List (Fin 5))) (s : State) : State :=
  if x.space = 3 then clearAlias x.byte data s
  else if x.space = 2 then askWrite x.m x.byte data s
  else if x.alias_ ≠ 0 then writeAlias x data rivals s
  else writeWords x data rivals s

/-- A host write of BAR4. -/
def bar4Write (fn : Fin 64) (off : Nat) (data : List (Option Byte)) (poisoned : Bool) (rivals : List (List (Fin 5)))
    (s : State) : State :=
  let n := data.length
  let x := bar4Access fn off n s
  if !linkUp s || n == 0 || 0x10000000 < off + n || (x.any fun x => memDead x s) then s
  else
    let c := bar4Refusal fn off n true (aliasShaped off data) poisoned s
    if c = 13 then refusePoison (.pcie fn) 2 off (firstBits data) s
    else if c ≠ 0 then refuse c (.pcie fn) 2 true off (firstBits data) s
    else match x with
      | some x => memWrite x data rivals s
      | none => s

/-- A store of the MP, plain or through an alias. -/
def mpStore (space byte alias_ : Nat) (data : List (Option Byte)) (rivals : List (List (Fin 5))) (s : State) : State :=
  let x : MemAcc := ⟨.mp 0, space, byte, data.length, alias_⟩
  if !mpRuns s || data.isEmpty || memDead x s then s
  else
    let c := mpRefusal x true (aliasShaped byte data) s
    if c ≠ 0 then mpRefuse c x true (firstBits data) s else memWrite x data rivals s

/-- A write to a plain row, or a store of the MP; an offset of an alias is no such command (log entry 2). -/
def execBar4Write (m : MemMaster) (off : Nat) (data : List (Option Byte)) (poisoned : Bool) (rivals : List (List (Fin 5)))
    (s : State) : Host.Outcome State Fault Refusal :=
  .next (match m with
    | .host fn => if bar4Row off = 3 ∨ bar4Row off = 4 then s else bar4Write fn off data poisoned rivals s
    | .mp space => mpStore space.val off 0 data rivals s)

/-- A write to the set alias. -/
def execAliasSetWrite (m : MemMaster) (off : Nat) (data : List (Option Byte)) (poisoned : Bool) (rivals : List (List (Fin 5)))
    (s : State) : Host.Outcome State Fault Refusal :=
  .next (match m with
    | .host fn => if bar4Row off = 3 then bar4Write fn off data poisoned rivals s else s
    | .mp space => mpStore space.val off 1 data rivals s)

/-- A write to the clear alias, for the host one of the Pantry or the scratchpad. -/
def execAliasClearWrite (m : MemMaster) (off : Nat) (data : List (Option Byte)) (poisoned : Bool) (rivals : List (List (Fin 5)))
    (s : State) : Host.Outcome State Fault Refusal :=
  .next (match m with
    | .host fn => if bar4Row off = 4 ∧ bar4Row (plainOff off) ≠ 2 then bar4Write fn off data poisoned rivals s else s
    | .mp space => mpStore space.val off 2 data rivals s)

/-- A host write to the clear alias of the activity bits. -/
def execActivityClear (fn : Fin 64) (off : Nat) (data : List (Option Byte)) (poisoned : Bool) (s : State) :
    Host.Outcome State Fault Refusal :=
  .next (if bar4Row off = 4 ∧ bar4Row (plainOff off) = 2 then bar4Write fn off data poisoned [] s else s)

end Sys2Proof.Machine
end

