-- ==== Sys2Proof/Machine/Registers.lean ====
section
/-! DEFINITION. Accesses to BAR0 and VF BAR0: who may write what, reserved encodings, what a write does and what a read
returns (R10 to R13, R226, R265, R268, R272, R285, R324, R336, R352, R408 to R412). -/

namespace Sys2Proof.Machine

open Sys2Proof

/-! Who reaches a register. -/

/-- The party exists and its path carries accesses: the link and SMBus are up, the MP runs, the manager belongs to a ring's
worker. A VF's register space ends at 64 KiB (Table 10.3). -/
def partyReaches (src : Party) (off : Nat) (s : State) : Bool := match src with
  | .pcie f => linkUp s && (f.val == 0 || (fnEnabled f.val s && off < 65536))
  | .manager => linkUp s && isWorker s
  | .smbus => smbReady s
  | .mp => linkUp s

/-- Registers that each party of a worker has its own copy of: the window selects, what they latch and the ring staging
(R412). -/
def isWindow (off : Nat) : Bool :=
  inFam Reg.sveMapSel 4 off || off / 65536 == 5 || inFam Reg.updRingSel 13 off || inFam Reg.epcSel 7 off ||
    inFam Reg.todSnapSel 6 off || off == Reg.prtRefSel || inFam Reg.prtRefALo 4 off

/-- Groups of a worker that the manager owns (Table 8.14). -/
def managerGroup (off : Nat) : Bool :=
  [0, 1, 2, 3, 4, 5, 6, 9, 10, 11, 16, 17, 18].contains (off / 65536)

/-- Whether a write takes the manager's part: on a worker the window writes of both parties are served, and UPD_RING_CTL and
UPD_RING_STAT belong to the owner of the ring that the party's UPD_RING_SEL names (R226, R412). The MP is no party of the
ownership (log entry 30). -/
def ownerOk (src : Party) (off : Nat) (s : State) : Bool :=
  if !isWorker s then true
  else match src with
    | .mp => true
    | .smbus => false
    | _ =>
      let mgr := decide (src = .manager)
      if off = Reg.updRingCtl ∨ off = Reg.updRingStat then mgr == (selRing src s == relayRing)
      else if isWindow off then true
      else mgr == managerGroup off

/-- Registers served in SLEEP and DEEP (Table 13.6). -/
def servedAsleep (off : Nat) : Bool :=
  [10, 13, 17, 19].contains (off / 65536) || [Reg.glbId, Reg.glbRstCause, Reg.glbBootStat, Reg.glbTemp].contains off

/-- The crossings between the management clock and a register (Table 12.4). -/
def regXings (off : Nat) : List Nat := match off / 65536 with
  | 1 => [57]
  | 2 => [42]
  | 3 =>
    if inFam (Reg.hobStat 0) 16 off then [26 + (off - Reg.hobStat 0) / 4]
    else if inFam (Reg.hobSlot 0) 64 off then [26 + (off - Reg.hobSlot 0) / 16]
    else [26 + (off - Reg.hobLmap 0) / 64]
  | 4 => [42]
  | 5 => [42]
  | 6 => [42]
  | 7 => [42]
  | 9 => [42]
  | 10 => [49]
  | 11 => [57]
  | 19 => [56]
  | _ => []

/-- An access is lost on a dead crossing of its path (R324). -/
def accessLost (src : Party) (off : Nat) (s : State) : Bool :=
  (isPcie src && xingDead 53 s) || (regXings off).any fun x => xingDead x s

/-! Reserved encodings (Table 0.8). -/

/-- HIF_VF_VEC_f would overlap another VF's range or run beyond vector 2,047 (R272). -/
def vecBad (off : Nat) (v : Word) (s : State) : Bool :=
  let lo := bits v 26 16
  let hi := lo + bits v 11 0
  2048 < hi || s.regs.any fun x =>
    Reg.hifVfVec 1 ≤ x.1 && x.1 ≤ Reg.hifVfVec 63 && x.1 != off &&
      overlap lo (hi - lo) (bits x.2 26 16) (bits x.2 11 0) && hi != lo && bits x.2 11 0 != 0

/-- No field of 3 bits repeats in ARB_PRIO (R314). -/
def prioPerm (v : Word) : Bool :=
  (List.range 8).all fun x => (List.range 8).any fun r => bits v (3 * r + 2) (3 * r) == x

/-- A LANE_CFG value leaves the main cursor, 64 less the other taps, below 32 (Table 4.20). -/
def cursorBad (v : Word) : Bool := 32 < bits v 23 20 + bits v 19 14 + bits v 13 8

/-- A write holds a reserved encoding, as the field map of its register says. CAS_CFG.WORKERS = 0 ("0 reserved; manager only", Table 8.15)
is taken as reserved on a manager alone, since the field has no use in another role (DESIGN CHOICE, log entry 86). -/
def reservedWrite (off : Nat) (v : Word) (s : State) : Bool := match off / 65536 with
  | 0 =>
    (off == Reg.glbMemMode && bits v 1 0 == 3) || (off == Reg.glbRstCtl && bit v 7 && 22 < bits v 4 0) ||
      (inFam (Reg.glbBankOwn 0) 72 off && (4 < bits v 18 16 || (bits v 26 24 != 1 && bits v 26 24 != 2)))
  | 1 =>
    (off == Reg.lnkGrpMap && (List.range 4).any fun g => bits v (2 * g + 1) (2 * g) == 3) ||
      (inFam (Reg.lnkLaneCfg 0) 32 off && cursorBad v)
  | 8 =>
    (off == Reg.updRingCfg && 10 < bits v 3 0) ||
      (off == Reg.updSlack && (bits v 12 0 < 8 || 4096 < bits v 12 0))
  | 10 =>
    (off == Reg.todCtl && bit v 0 && bit v 1) || (off == Reg.todSetNs && 1000000000 ≤ v.toNat) ||
      (off == Reg.todTrim && 4294967 < (signed32 v).natAbs) ||
      (off == Reg.todSlewRate && (bits v 16 0 == 0 || 100000 < bits v 16 0)) ||
      (off == Reg.todPpsOutCfg && bits v 15 0 == 0) || (off == Reg.todPpsOutOfs && 1000000000 ≤ bits v 29 0) ||
      (off == Reg.todSnapSel && 3 < bits v 3 0)
  | 11 =>
    (off == Reg.casCfg && isManager s && bits v 7 4 == 0) || (inFam (Reg.casLaneCfg 0) 16 off && cursorBad v) ||
      (off == Reg.casCmt && (bits v 15 0 < 20 || bits v 15 0 < bits v 31 16 + 20)) ||
      (off == Reg.casRaSel && bits v 31 28 == 0)
  | 12 =>
    (off == Reg.intSumCfg && vfVector (bits v 10 0) s) ||
      (off == Reg.intScrubCfg && (bits v 13 0 < 4000 || 12000 < bits v 13 0)) ||
      (off == Reg.intRemapCfg && bits v 7 0 == 0) || (off == Reg.intAgeCfg && bits v 15 8 ≤ bits v 7 0) ||
      (off == Reg.intErrCfg && (8 < bits v 3 0 || vfVector (bits v 29 19) s)) ||
      (off == Reg.intErrHead && errRingSize s ≤ bits v 15 0)
  | 13 => inFam (Reg.hifVfVec 1) 63 off && vecBad off v s
  | 14 =>
    (off == Reg.drcRefCfg && (bits v 15 8 == 0 || 4 < bits v 2 0)) ||
      (off == Reg.drcRatCfg && (bits v 31 16 == 0 || bits v 15 8 == 0 || bits v 7 0 == 0))
  | 15 => off == Reg.arbPrio && !prioPerm v
  | 16 => off == Reg.clkXingTo && bits v 7 0 == 0
  | 17 =>
    (off == Reg.pwrCfg && 4 < bits v 2 0) || (inFam (Reg.pwrTmr 1) 4 off && bits v 27 0 == 0) ||
      (off == Reg.pwrOppCtl && bits v 1 0 == 3) ||
      (off == Reg.pwrPmbCfg && (bits v 17 16 == 0 || bits v 15 8 == 0 || bits v 7 0 == 0))
  | 18 =>
    (off == Reg.fwuWinOfs && v.toNat % 4096 != 0) ||
      (off == Reg.fwuWinLen && (bits v 12 0 == 0 || 4096 < bits v 12 0)) ||
      (off == Reg.fwuCfg && (bits v 18 16 == 0 || bits v 7 0 == 0))
  | _ => false

/-- The party has no write there: its group belongs to another (R226), or SMBus writes outside FWU_ (R281). -/
def partyRefusal (src : Party) (off : Nat) (s : State) : Nat :=
  if !ownerOk src off s then 2 else if src = .smbus ∧ off / 65536 ≠ 18 then 3 else 0

/-- The registers of the FWU window, whose claim decides between the sources (R287, R372). -/
def winReg (off : Nat) : Bool := [Reg.fwuWinOfs, Reg.fwuWinLen, Reg.fwuWinData, Reg.fwuCtl].contains off

/-- No source holds the window. -/
def windowFree (s : State) : Bool := fieldGet Reg.fwuStat 24 23 s == 0

/-- A command that waits is a PCI Express write to the window. No time passes while commands wait, so it comes in this same MCLK
cycle. -/
def isWindowWrite (c : Instr) : Bool := match c with
  | .fwuWinOfsWrite (.pcie f) _ | .fwuWinDataWrite (.pcie f) _ | .fwuPush (.pcie f) _ | .fwuAbort (.pcie f) _
  | .fwuActivate (.pcie f) _ | .fwuConfirm (.pcie f) _ => f == 0
  | .registerWrite a _ => decide (a.src = .pcie 0) && decide (a.space = .bar0) && a.full && !a.poisoned && winReg a.off
  | _ => false

/-- Both sources write the unclaimed window in one MCLK cycle: the PCI Express write has it (R287). -/
def smbYields (src : Party) (off : Nat) (s : State) : Bool :=
  decide (src = .smbus) && winReg off && windowFree s && (s.pending.any isWindowWrite || s.prt.pcieWin == some s.clk.now)

/-- The cause for which a write is refused before its register acts: the first of Table 10.9. -/
def writeRefusal (src : Party) (off : Nat) (v : Word) (s : State) : Nat :=
  let blk := off / 65536
  if reservedWrite off v s then 1
  else if partyRefusal src off s ≠ 0 then partyRefusal src off s
  else if smbYields src off s then 4
  else if startPhase s < 5 ∧ blk ≠ 0 ∧ blk ≠ 18 then 4
  else if (powerState s = 2 ∨ powerState s = 3) ∧ !servedAsleep off then 4
  else 0

/-! What a write does. -/

/-- A staging register of the ring window written in the party's copy (Tables 6.16 to 6.19). -/
def wrStage (src : Party) (off : Nat) (v : Word) (s : State) : State := match regDesc off with
  | some d => winPut src off (rwWrite d (winGet src off s) v) s
  | none => s

/-- TOD_SET_* and TOD_STEP_* keep their value while a SET or STEP is pending (R195). -/
def wrTodStage (src : Party) (off : Nat) (v : Word) (s : State) : State :=
  if bits (regGet Reg.todCtl s) 1 0 ≠ 0 then refuseReg 4 src off v s else plainWrite off v s

/-- TOD_PPS_OUT_CFG: with EN = 0 the pin is low (R198). -/
def wrPpsCfg (v : Word) (s : State) : State :=
  let s := plainWrite Reg.todPpsOutCfg v s
  if bit v 31 then s else s.updTod fun t => { t with ppsHigh := false }

/-- HIF_VF_VEC_f is refused while VF Enable is set (R272). -/
def wrVfVec (src : Party) (off : Nat) (v : Word) (s : State) : State :=
  if s.hif.vfEnable then refuseReg 4 src off v s else plainWrite off v s

/-- CLK_XING_MODE is refused in SERVICE (R322). -/
def wrXingMode (src : Party) (v : Word) (s : State) : State :=
  if memMode s = 1 then refuseReg 4 src Reg.clkXingMode v s else plainWrite Reg.clkXingMode v s

def wrGlb (src : Party) (off : Nat) (v : Word) (s : State) : State :=
  if off = Reg.glbRstCtl then wrRstCtl src v s
  else if off = Reg.glbMemMode then wrMemMode src v s
  else if inFam (Reg.glbBankOwn 0) 72 off then wrBankOwn src ((off - Reg.glbBankOwn 0) / 4) v s
  else plainWrite off v s

def wrLnk (src : Party) (off : Nat) (v : Word) (s : State) : State :=
  if off = Reg.lnkGrpMap then wrGrpMap src v s
  else if inFam (Reg.lnkGrpCtl 0) 4 off then wrGrpCtl ⟨(off - Reg.lnkGrpCtl 0) / 4 % 4, Nat.mod_lt _ (by decide)⟩ v s
  else plainWrite off v s

def wrPip (src : Party) (off : Nat) (v : Word) (s : State) : State :=
  if off = Reg.pipSchedCtl then wrSchedCtl src v s
  else if (schedIndex off).isSome then wrSched src off v s
  else plainWrite off v s

def wrPrf (src : Party) (off : Nat) (v : Word) (s : State) : State :=
  if off = Reg.prfCtl then wrPrfCtl src v s
  else if off = Reg.prfStgHdr ∨ inFam (Reg.prfStgLk 0) 8 off ∨ inFam (Reg.prfStgSeg 0) 64 off then wrPrfStage src off v s
  else plainWrite off v s

def wrUpd (src : Party) (off : Nat) (v : Word) (s : State) : State :=
  if off = Reg.updRingSel then wrRingSel src v s
  else if off = Reg.updRingCtl then wrRingCtl src v s
  else if off = Reg.updRingStat then wrRingStat src v s
  else if inFam Reg.updRingSqbLo 7 off then wrStage src off v s
  else plainWrite off v s

def wrTod (src : Party) (off : Nat) (v : Word) (s : State) : State :=
  if off = Reg.todCtl then wrTodCtl src v s
  else if inFam Reg.todSetSecLo 3 off ∨ inFam Reg.todStepLo 2 off then wrTodStage src off v s
  else if off = Reg.todPulseStat then wrPulseStat v s
  else if off = Reg.todPpsOutCfg then wrPpsCfg v s
  else if off = Reg.todSnapSel then wrSnapSel src v s
  else plainWrite off v s

def wrCas (src : Party) (off : Nat) (v : Word) (s : State) : State :=
  if off = Reg.casCfg then wrCasCfg src v s
  else if off = Reg.casCtl then wrCasCtl v s
  else if off = Reg.casRaCtl then wrRaCtl src v s
  else if off = Reg.casRaSel ∨ off = Reg.casRaData then wrRaWindow src off v s
  else plainWrite off v s

def wrInt (src : Party) (off : Nat) (v : Word) (s : State) : State :=
  if off = Reg.intRemapCtl then wrRemapCtl v s
  else if off = Reg.intErrBaseLo ∨ off = Reg.intErrBaseHi then wrErrBase src off v s
  else if off = Reg.intErrCfg then wrErrCfg src v s
  else if off = Reg.intErrHead then wrErrHead v s
  else plainWrite off v s

def wrFwu (src : Party) (off : Nat) (v : Word) (s : State) : State :=
  if off = Reg.fwuCtl then wrFwuCtl src v s
  else if off = Reg.fwuWinOfs then wrWinOfs src v s
  else if off = Reg.fwuWinLen then wrWinLen src v s
  else if off = Reg.fwuWinData then wrWinData src v s
  else plainWrite off v s

def wrPrt (src : Party) (off : Nat) (v : Word) (s : State) : State :=
  if prtGroup off then wrProtect src off v s
  else if off = Reg.prtPropCtl then wrPropCtl src v s
  else if off = Reg.prtRefSel then wrRefSel src v s
  else plainWrite off v s

/-- The effect of an accepted write on its register. -/
def regEffect (src : Party) (off : Nat) (v : Word) (s : State) : State := match off / 65536 with
  | 0 => wrGlb src off v s
  | 1 => wrLnk src off v s
  | 2 => wrPip src off v s
  | 3 => if (schedIndex off).isSome then wrSched src off v s else plainWrite off v s
  | 4 => if off = Reg.sveMapSel then wrMapSel src v s else plainWrite off v s
  | 5 => if off = Reg.tblSel then wrTblSel src v s else plainWrite off v s
  | 6 => wrPrf src off v s
  | 8 => wrUpd src off v s
  | 9 => if off = Reg.epcSel then wrEpcSel src v s else plainWrite off v s
  | 10 => wrTod src off v s
  | 11 => wrCas src off v s
  | 12 => wrInt src off v s
  | 13 => if inFam (Reg.hifVfVec 1) 63 off then wrVfVec src off v s else plainWrite off v s
  | 14 => if off = Reg.drcRefCfg then wrRefCfg v s else plainWrite off v s
  | 15 => if off = Reg.arbPrio then wrArbPrio src v s else plainWrite off v s
  | 16 => if off = Reg.clkXingMode then wrXingMode src v s else plainWrite off v s
  | 17 =>
    if off = Reg.pwrCtl then wrPwrCtl src v s
    else if off = Reg.pwrOppCtl then wrOppCtl src v s
    else plainWrite off v s
  | 18 => wrFwu src off v s
  | 19 => if inFam (Reg.vbtWord 0) 64 off then wrVbtWord src ((off - Reg.vbtWord 0) / 4) v s else plainWrite off v s
  | 20 => wrPrt src off v s
  | _ => plainWrite off v s

/-- A register of the settings record that changed is written to flash later (R378). -/
def noteSetting (off : Nat) (before after : State) : State := match regDesc off with
  | some d => if (regGet off before ^^^ regGet off after) &&& d.m = 0 then after else markDirty after
  | none => after

/-- A PCI Express and an SMBus write of one FWU_ register in the same MCLK cycle both take effect, the SMBus one last, whichever
command stands first; of the window registers the claim decides (R287). This is the SMBus write that a write follows so. -/
def smbOwed (src : Party) (off : Nat) (s : State) : Option Word := match s.prt.smbWrote with
  | some (t, o, w) => if off / 65536 == 18 && isPcie src && t == s.clk.now && o == off && !winReg off then some w else none
  | none => none

/-- The SMBus write of the same cycle once more, after the PCI Express one. -/
def afterSmb (src : Party) (off : Nat) (s : State) : State := match smbOwed src off s with
  | some w => regEffect .smbus off w s
  | none => s

/-- What R287 needs to know of an accepted write. -/
def noteWrite (src : Party) (off : Nat) (v : Word) (s : State) : State := if off / 65536 ≠ 18 then s else match src with
  | .smbus => s.updPrt fun p => { p with smbWrote := some (s.clk.now, off, v) }
  | .pcie _ => if winReg off && windowFree s then s.updPrt fun p => { p with pcieWin := some s.clk.now } else s
  | _ => s

/-- A 32-bit write of a BAR0 register. -/
def regWrite (src : Party) (off : Nat) (v : Word) (s : State) : State :=
  if accessLost src off s then s
  else match writeRefusal src off v s with
    | 0 => noteSetting off s (afterSmb src off (regEffect src off v (noteWrite src off v s)))
    | c => refuseReg c src off v (if smbYields src off s then fieldPut Reg.fwuStat 24 23 1 s else s)

/-! What a read returns. -/

/-- UPD_NOTE_SUM_k (Table 6.23). -/
def rdNoteSum (k : Nat) (s : State) : Word :=
  pack32 ((List.range 32).map fun i => (i, b2n (s.upd.rings.any fun x =>
    x.1 / 32 == 32 * k + i && (x.2.flt || x.2.cqHigh || x.2.sqLow))))

/-- FWU_VER_s and FWU_RUN_ARB (Table 14.12). -/
def rdFwuVer (k : Nat) (s : State) : Word :=
  if k = 2 then BitVec.ofNat 32 (imgVersion s.fwu.running)
  else if slotState k s = 0 then 0
  else BitVec.ofNat 32 (tabGet 0 (dirNow s).ver k)

/-- A register as it reads: composed from the state, or as stored. -/
def regValue (src : Party) (off : Nat) (s : State) : Word :=
  if isWindow off then winGet src off s
  else match off / 65536 with
    | 1 =>
      if inFam (Reg.lnkCrd 0) 2 off then
        let p := (off - Reg.lnkCrd 0) / 4
        pack32 [(16, pipeCum p s), (15, b2n (pipeOcc p s == 0)), (0, pipeOcc p s)]
      else if inFam (Reg.lnkFifoStat 0) 4 off then
        let r := grpAt ((off - Reg.lnkFifoStat 0) / 4) s
        pack32 [(16, ptrDist r.wp r.rp), (0, ptrDist r.cp r.rp)]
      else regGet off s
    | 2 => match schedIndex off with
      | some i => rdSched i s
      | none => regGet off s
    | 3 => match schedIndex off with
      | some i => rdSched i s
      | none => regGet off s
    | 4 =>
      if inFam (Reg.sveTcfg 0) 128 off then rdTcfg ((off - Reg.sveTcfg 0) / 4) s
      else rdTpos ((off - Reg.sveTpos0 0) / 32) ((off - Reg.sveTpos0 0) % 32 / 4) s
    | 6 => if inFam (Reg.prfValid 0) 8 off then rdValid ((off - Reg.prfValid 0) / 4) s else regGet off s
    | 8 =>
      if inFam (Reg.updNoteSum 0) 16 off then rdNoteSum ((off - Reg.updNoteSum 0) / 4) s
      else if off = Reg.updInflight then
        let w := putBits (regGet off s) 12 0 s.upd.cmds.length
        putBits w 28 16 (max (bits w 28 16) s.upd.cmds.length)
      else regGet off s
    | 10 => if off = Reg.todSlewAmt then (readSlewAmt s).1 else regGet off s
    | 11 => if inFam (Reg.casLat 0) 2 off then rdCasLat ((off - Reg.casLat 0) / 4) s else regGet off s
    | 12 => if off = Reg.intSum then intSum s else regGet off s
    | 15 => if off = Reg.arbStat then rdArbStat s else regGet off s
    | 17 =>
      if off = Reg.pwrStat then rdPwrStat s
      else if off = Reg.pwrNext then rdPwrNext s
      else regGet off s
    | 18 =>
      if off = Reg.fwuBoot then if isWorker s then 0 else putBits (regGet off s) 19 0 (vbtGet 1 s).toNat
      else if inFam (Reg.fwuVer 0) 3 off then rdFwuVer ((off - Reg.fwuVer 0) / 4) s
      else if off = Reg.fwuRunArb then BitVec.ofNat 32 (imgArb s.fwu.running)
      else regGet off s
    | 19 =>
      if off = Reg.vbtStat then putBits (putBits (regGet off s) 28 28 (b2n s.rst.aux)) 25 25 (b2n (vbtBusy s))
      else if off = Reg.vbtRtcLo then BitVec.ofNat 32 s.vbt.rtc
      else if off = Reg.vbtRtcHi then BitVec.ofNat 32 (s.vbt.rtc / 4294967296 % 65536)
      else if inFam (Reg.vbtWord 0) 64 off then vbtGet ((off - Reg.vbtWord 0) / 4) s
      else regGet off s
    | _ => regGet off s

/-- What a read leaves: RC fields cleared, and one more free value read by TOD_SLEW_AMT (R12). PEAK of UPD_INFLIGHT starts
again at the commands in flight (Table 6.24). -/
def readClears (off : Nat) (s : State) : State :=
  let s := if off = Reg.todSlewAmt then (readSlewAmt s).2 else s
  let s := match regDesc off with
    | some d => if d.rc = 0 then s else regPut off (regGet off s &&& ~~~d.rc) s
    | none => s
  if off = Reg.updInflight then fieldPut Reg.updInflight 28 16 s.upd.cmds.length s else s

/-- The function of a party: 0 for those that are no VF. -/
def Party.fn (p : Party) : Fin 64 := match p with
  | .pcie f => f
  | _ => 0

/-- A read refused: on SMBus the access is the command REG_READ. -/
def refuseRead (cause : Nat) (src : Party) (off : Nat) (s : State) : State := match src with
  | .smbus => refuse cause src 4 false 0x20 0 s
  | .mp => refuse cause src 5 false off 0 s
  | _ => refuse cause src (if (Party.fn src).val = 0 then 0 else 3) false off 0 s

/-- A 32-bit read of a BAR0 register: until PHASE 5 it returns the reset value, except to SMBus; asleep, a register that is not
served reads 0 (R336, R352). -/
def regRead (src : Party) (off : Nat) (s : State) : Word × State :=
  if accessLost src off s then (0, s)
  else if startPhase s < 5 ∧ src ≠ .smbus then (regReset off, s)
  else if (powerState s = 2 ∨ powerState s = 3) ∧ !servedAsleep off ∧ !(src == .smbus && off == Reg.prtPropStat) then
    (0, if src = .smbus then s else refuseRead 4 src off s)
  else (regValue src off s, readClears off s)

/-! The MSI-X tables and pending bits (R263, R272, R274). -/

/-- Word k of a vector's entry. -/
def msixWord (v k : Nat) (s : State) : Word :=
  let e := msixEntry v s
  match k with
  | 0 => BitVec.ofNat 32 e.addr.toNat
  | 1 => BitVec.ofNat 32 (e.addr.toNat >>> 32)
  | 2 => e.data
  | _ => BitVec.ofNat 32 (b2n e.mask)

/-- Word k of a vector's entry written. -/
def msixPut (v k : Nat) (w : Word) (s : State) : State :=
  s.updHif fun h => { h with msix := tabMod ⟨0, 0, true⟩ h.msix v fun e => match k with
    | 0 => { e with addr := putBits e.addr 31 0 w.toNat }
    | 1 => { e with addr := putBits e.addr 63 32 w.toNat }
    | 2 => { e with data := w }
    | _ => { e with mask := bit w 0 } }

/-- 32 pending bits from a vector up, of those that a function owns. -/
def pendingWord (f base first n : Nat) (s : State) : Word :=
  pack32 ((List.range 32).map fun i =>
    let v := base + first + i
    (i, b2n (first + i < n && vecOwner v s == f && tabGet false s.hif.msixPend v)))

/-- BASE and COUNT of a VF's vectors. -/
def vfVectors (f : Nat) (s : State) : Nat × Nat :=
  (fieldGet (Reg.hifVfVec f) 26 16 s, fieldGet (Reg.hifVfVec f) 11 0 s)

/-- HIF_VF_INFO (Table 10.14). -/
def vfInfo (f : Nat) (s : State) : Word :=
  let b := vfVectors f s
  pack32 [(24, f), (12, b.2), (0, b.1)]

/-- The PF's table of 2,048 entries and its pending bits. -/
def pfMsix : Nat := 0x0d8000
def pfPba : Nat := 0x0d7000

/-- Something answers at an aligned offset of a function's BAR0. -/
def holdsReg (f off : Nat) (s : State) : Bool :=
  if f = 0 then inFam pfMsix 8192 off || inFam pfPba 64 off || (regDesc off).isSome
  else
    let n := max (vfVectors f s).2 1
    off == 0 || inFam 0x8000 (4 * n) off || inFam 0x7000 (2 * ((n + 63) / 64)) off

/-- A write to a VF's BAR0. A VF with no vector has one entry, which never signals and keeps nothing. -/
def vfWrite (f : Fin 64) (off : Nat) (v : Word) (s : State) : State :=
  if !holdsReg f.val off s then refuse 5 (.pcie f) 3 true off v.toNat s
  else if off < 0x8000 ∨ (vfVectors f.val s).2 = 0 then s
  else msixPut ((vfVectors f.val s).1 + (off - 0x8000) / 16) (off % 16 / 4) v s

/-- A read of a VF's BAR0. -/
def vfRead (f : Fin 64) (off : Nat) (s : State) : Word × State :=
  if !holdsReg f.val off s then (0, refuse 5 (.pcie f) 3 false off 0 s)
  else if off = 0 then (vfInfo f.val s, s)
  else if off < 0x8000 then (pendingWord f.val (vfVectors f.val s).1 (8 * (off - 0x7000)) (vfVectors f.val s).2 s, s)
  else if (vfVectors f.val s).2 = 0 then (0, s)
  else (msixWord ((vfVectors f.val s).1 + (off - 0x8000) / 16) (off % 16 / 4) s, s)

/-- A 32-bit write at an aligned offset of a party's register space. -/
def write32 (src : Party) (off : Nat) (v : Word) (s : State) : State :=
  if (Party.fn src).val ≠ 0 then (if xingDead 53 s then s else vfWrite (Party.fn src) off v s)
  else if (regDesc off).isSome then regWrite src off v s
  else if partyRefusal src off s ≠ 0 then refuseReg (partyRefusal src off s) src off v s
  else if inFam pfMsix 8192 off then
    if xingDead 53 s then s
    else if vecOwner ((off - pfMsix) / 16) s ≠ 0 then refuseReg 3 src off v s
    else if startPhase s < 5 then refuseReg 4 src off v s
    else msixPut ((off - pfMsix) / 16) (off % 16 / 4) v s
  else if inFam pfPba 64 off then s
  else refuseReg 5 src off v s

/-- A 32-bit read at an aligned offset of a party's register space. -/
def read32 (src : Party) (off : Nat) (s : State) : Word × State :=
  if (Party.fn src).val ≠ 0 then (if xingDead 53 s then (0, s) else vfRead (Party.fn src) off s)
  else if inFam pfMsix 8192 off then
    let v := (off - pfMsix) / 16
    (if xingDead 53 s || startPhase s < 5 || vecOwner v s != 0 then 0 else msixWord v (off % 16 / 4) s, s)
  else if inFam pfPba 64 off then
    (if xingDead 53 s || startPhase s < 5 then 0 else pendingWord 0 0 (8 * (off - pfPba)) 2048 s, s)
  else if (regDesc off).isNone then (0, refuseRead 5 src off s)
  else regRead src off s

/-- The refusals counted so far. -/
def refusals (s : State) : Word := regGet Reg.prtRefTotal s

/-- The form of an access that R265 performs: 1 for 32 bits, 2 for 64 bits, 0 for any other. -/
def accessForm (a : Access) : Nat :=
  if !a.full then 0
  else if a.len = 4 ∧ a.off % 4 = 0 then 1
  else if a.len = 8 ∧ a.off % 8 = 0 then 2
  else 0

/-- An access that is not performed touches a register. -/
def touchesReg (a : Access) (s : State) : Bool :=
  (List.range (a.len / 4 + 2)).any fun i =>
    a.off / 4 + i ≤ (a.off + a.len - 1) / 4 && holdsReg (Party.fn a.src).val (4 * (a.off / 4 + i)) s

/-- The cause of an access that is not performed: NOREG comes before WIDTH in Table 10.9. -/
def formCause (a : Access) (s : State) : Nat := if touchesReg a s then 6 else 5

/-- The space of Table 10.10 in which a party's access is logged: the MP's is 5. -/
def logSpace (src : Party) : Nat := match src with
  | .mp => 5
  | _ => if (Party.fn src).val = 0 then 0 else 3

/-- The cause of a write that is not performed for its form: ownership comes before the form in Table 10.9. -/
def writeFormCause (a : Access) (s : State) : Nat :=
  let c := if (Party.fn a.src).val = 0 then partyRefusal a.src a.off s else 0
  if c ≠ 0 then c else formCause a s

/-- One 32-bit half of a write. With poisoned data it is not performed: what else refuses it comes first, and otherwise it is refused
for the poison (R262, R285). -/
def halfWrite (a : Access) (off : Nat) (v : Word) (s : State) : State :=
  let t := write32 a.src off v s
  if a.poisoned ∧ refusals t = refusals s then refusePoison a.src (logSpace a.src) off v.toNat s else t

/-- A write of BAR0 or VF BAR0. -/
def barWrite (a : Access) (v : W64) (s : State) : State :=
  if !partyReaches a.src a.off s || a.len == 0 then s
  else
    let lo := BitVec.ofNat 32 v.toNat
    let hi := BitVec.ofNat 32 (v.toNat >>> 32)
    match accessForm a with
      | 0 => refuse (writeFormCause a s) a.src (logSpace a.src) true a.off lo.toNat s
      | 1 => halfWrite a a.off lo s
      | _ => halfWrite a (a.off + 4) hi (halfWrite a a.off lo s)

/-- A read of BAR0 or VF BAR0. -/
def barRead (a : Access) (s : State) : State :=
  if !partyReaches a.src a.off s || a.len == 0 then s
  else match accessForm a with
    | 0 => answer (.reg a.src 0) (refuseRead (formCause a s) a.src a.off s)
    | 1 =>
      let r := read32 a.src a.off s
      answer (.reg a.src r.1) r.2
    | _ =>
      let r := read32 a.src a.off s
      let q := read32 a.src (a.off + 4) r.2
      answer (.reg a.src q.1) (answer (.reg a.src r.1) q.2)

/-! The configuration space (R258, R259, R272). -/

/-- A double word of a function's configuration space: the identity of R259 at the standard offsets, then the capabilities, at offsets
of the model's own (PRESUMED, log entry 85): power management, device control, the MSI-X control with its Table Size, the error
status, and SR-IOV. Any other is a free value. -/
def cfgWord (f off : Nat) (s : State) : Word :=
  let c := fnCfg f s
  let vectors := if f = 0 then 2048 else max (vfVectors f s).2 1
  match off with
  | 0x00 => pack32 [(16, if f = 0 then 0x6400 else 0x6401), (0, fieldGet Reg.hifPciId 15 0 s)]
  | 0x04 => pack32 [(2, b2n c.bme)]
  | 0x08 => pack32 [(8, 0x0b4000), (0, fieldGet Reg.glbId 15 8 s)]
  | 0x2c => s.hif.subsys
  | 0x44 => pack32 [(0, if c.d3hot then 3 else 0)]
  | 0x78 => pack32 [(12, c.mrrs), (5, c.mps)]
  | 0xb0 => pack32 [(31, b2n c.msixEn), (30, b2n c.fnMask), (16, vectors - 1)]
  | 0x104 => c.errs
  | 0x168 => pack32 [(0, b2n (f == 0 && s.hif.vfEnable))]
  | 0x16c => if f = 0 then pack32 [(16, 63), (0, 63)] else 0
  | 0x170 => if f = 0 then pack32 [(0, s.hif.numVFs)] else 0
  | 0x174 => if f = 0 then pack32 [(16, 1), (0, 1)] else 0
  | 0x178 => if f = 0 then pack32 [(16, 0x6401)] else 0
  | _ => Config.freeWord s.clk.free |>.setWidth 32

/-- A read of a function's configuration space, of one double word. -/
def cfgRead (a : Access) (s : State) : State := match a.src with
  | .pcie f =>
    if linkUp s && fnEnabled f.val s && a.off % 4 == 0 && a.len == 4 && a.off < 4096 then
      answer (.reg a.src (cfgWord f.val a.off s)) (nextFree s)
    else s
  | _ => s

/-! Accesses by space. -/

/-- A write that an access makes. The doorbells are the functions' (Table 10.3); the configuration space is written by commands of its own
(log entry 85). -/
def accessWrite (a : Access) (v : W64) (s : State) : State := match a.space, a.src with
  | .bar0, _ => barWrite a v s
  | .bar2, .pcie f => doorbellWrite f a.off a.len a.full v a.poisoned s
  | _, _ => s

/-- A read that an access makes. The doorbells read 0 at any width, and nothing is refused (R144, R266). -/
def accessRead (a : Access) (s : State) : State := match a.space, a.src with
  | .bar0, _ => barRead a s
  | .bar2, .pcie f => if linkUp s && fnEnabled f.val s then answer (.doorbell f.val) s else s
  | .bar2, _ => s
  | .config, _ => cfgRead a s

/-- A write by its register's own command. -/
def rowWrite (src : Party) (off : Nat) (v : Word) (s : State) : State :=
  if partyReaches src off s then write32 src off v s else s

end Sys2Proof.Machine
end

