-- ==== Sys2Proof/Machine/RegRows.lean ====
section
/-! DEFINITION. The commands that are register accesses: a party's write to one register, BAR0 accesses, REG_READ and
REG_WRITE on SMBus (R281), and CTRL frames (Table 8.7). A row that is one register's write performs the whole write that
the operand v makes. -/

namespace Sys2Proof.Machine

open Sys2Proof

/-- A write to INT_REMAP_CTL (R244). -/
def execIntRemapGo (src : Party) (v : Word) (s : State) : Host.Outcome State Fault Refusal :=
  .next (rowWrite src Reg.intRemapCtl v s)

/-- A write to INT_ERR_HEAD (R253). -/
def execIntErrHeadWrite (src : Party) (v : Word) (s : State) : Host.Outcome State Fault Refusal :=
  .next (rowWrite src Reg.intErrHead v s)

/-- A write to INT_ERR_CFG (R253). -/
def execIntErrCfgWrite (src : Party) (v : Word) (s : State) : Host.Outcome State Fault Refusal :=
  .next (rowWrite src Reg.intErrCfg v s)

/-- A write to LNK_GRP_CTL_g with EN set (R98). -/
def execGroupEnable (src : Party) (g : Fin 4) (v : Word) (s : State) : Host.Outcome State Fault Refusal :=
  .next (rowWrite src (Reg.lnkGrpCtl g.val) v s)

/-- A write to LNK_GRP_CTL_g with RETRAIN set (R101). -/
def execRetrain (src : Party) (g : Fin 4) (v : Word) (s : State) : Host.Outcome State Fault Refusal :=
  .next (rowWrite src (Reg.lnkGrpCtl g.val) v s)

/-- A write to LNK_GRP_CTL_g with EN clear (R101). -/
def execGroupDisable (src : Party) (g : Fin 4) (v : Word) (s : State) : Host.Outcome State Fault Refusal :=
  .next (rowWrite src (Reg.lnkGrpCtl g.val) v s)

/-- A write to LNK_GRP_MAP (R98). -/
def execLnkGrpMapWrite (src : Party) (v : Word) (s : State) : Host.Outcome State Fault Refusal :=
  .next (rowWrite src Reg.lnkGrpMap v s)

/-- A write to PIP_SCHED_CTL (R130). -/
def execSchedSwitch (src : Party) (v : Word) (s : State) : Host.Outcome State Fault Refusal :=
  .next (rowWrite src Reg.pipSchedCtl v s)

/-- A write to PRF_CTL with OP INSTALL (R85). -/
def execPrfInstall (src : Party) (v : Word) (s : State) : Host.Outcome State Fault Refusal :=
  .next (rowWrite src Reg.prfCtl v s)

/-- A write to PRF_CTL with OP FETCH (R85). -/
def execPrfFetch (src : Party) (v : Word) (s : State) : Host.Outcome State Fault Refusal :=
  .next (rowWrite src Reg.prfCtl v s)

/-- A write to PRF_CTL with OP INVALIDATE (R85). -/
def execPrfInvalidate (src : Party) (v : Word) (s : State) : Host.Outcome State Fault Refusal :=
  .next (rowWrite src Reg.prfCtl v s)

/-- A write to TBL_SEL. -/
def execTblSelWrite (src : Party) (v : Word) (s : State) : Host.Outcome State Fault Refusal :=
  .next (rowWrite src Reg.tblSel v s)

/-- A write to SVE_MAP_SEL. -/
def execSveMapSelWrite (src : Party) (v : Word) (s : State) : Host.Outcome State Fault Refusal :=
  .next (rowWrite src Reg.sveMapSel v s)

/-- A write to UPD_RING_SEL. -/
def execUpdRingSelWrite (src : Party) (v : Word) (s : State) : Host.Outcome State Fault Refusal :=
  .next (rowWrite src Reg.updRingSel v s)

/-- A write to UPD_RING_CTL with APPLY set. -/
def execRingApply (src : Party) (v : Word) (s : State) : Host.Outcome State Fault Refusal :=
  .next (rowWrite src Reg.updRingCtl v s)

/-- A write to UPD_RING_CTL with START set. -/
def execRingStart (src : Party) (v : Word) (s : State) : Host.Outcome State Fault Refusal :=
  .next (rowWrite src Reg.updRingCtl v s)

/-- A write to UPD_RING_CTL with STOP set. -/
def execRingStop (src : Party) (v : Word) (s : State) : Host.Outcome State Fault Refusal :=
  .next (rowWrite src Reg.updRingCtl v s)

/-- A write to TOD_CTL with SET set. -/
def execTodSet (src : Party) (v : Word) (s : State) : Host.Outcome State Fault Refusal :=
  .next (rowWrite src Reg.todCtl v s)

/-- A write to TOD_CTL with STEP set. -/
def execTodStep (src : Party) (v : Word) (s : State) : Host.Outcome State Fault Refusal :=
  .next (rowWrite src Reg.todCtl v s)

/-- A write to TOD_CTL with SLEW set. -/
def execTodSlew (src : Party) (v : Word) (s : State) : Host.Outcome State Fault Refusal :=
  .next (rowWrite src Reg.todCtl v s)

/-- A write to TOD_SNAP_SEL. -/
def execTodSnapSelWrite (src : Party) (v : Word) (s : State) : Host.Outcome State Fault Refusal :=
  .next (rowWrite src Reg.todSnapSel v s)

/-- A write to EPC_SEL. -/
def execEpcSelWrite (src : Party) (v : Word) (s : State) : Host.Outcome State Fault Refusal :=
  .next (rowWrite src Reg.epcSel v s)

/-- A write to CAS_CFG (R213). -/
def execCasEnable (src : Party) (v : Word) (s : State) : Host.Outcome State Fault Refusal :=
  .next (rowWrite src Reg.casCfg v s)

/-- A write to CAS_CTL with REFORM set. -/
def execCasReform (src : Party) (v : Word) (s : State) : Host.Outcome State Fault Refusal :=
  .next (rowWrite src Reg.casCtl v s)

/-- A write to CAS_CTL with ADMIT set. -/
def execCasAdmit (src : Party) (v : Word) (s : State) : Host.Outcome State Fault Refusal :=
  .next (rowWrite src Reg.casCtl v s)

/-- A write to CAS_RA_CTL with OP READ (R227). -/
def execCasRaRead (src : Party) (v : Word) (s : State) : Host.Outcome State Fault Refusal :=
  .next (rowWrite src Reg.casRaCtl v s)

/-- A write to CAS_RA_CTL with OP WRITE (R227). -/
def execCasRaWrite (src : Party) (v : Word) (s : State) : Host.Outcome State Fault Refusal :=
  .next (rowWrite src Reg.casRaCtl v s)

/-- A write to PRT_PROP_CTL with SUBMIT set (R282). -/
def execPropSubmit (src : Party) (v : Word) (s : State) : Host.Outcome State Fault Refusal :=
  .next (rowWrite src Reg.prtPropCtl v s)

/-- A write to PRT_PROP_CTL with CANCEL set (R282). -/
def execPropCancel (src : Party) (v : Word) (s : State) : Host.Outcome State Fault Refusal :=
  .next (rowWrite src Reg.prtPropCtl v s)

/-- A write to PRT_REF_SEL (R286). -/
def execPrtRefSelWrite (src : Party) (v : Word) (s : State) : Host.Outcome State Fault Refusal :=
  .next (rowWrite src Reg.prtRefSel v s)

/-- A write to GLB_MEM_MODE. -/
def execGlbMemModeWrite (src : Party) (v : Word) (s : State) : Host.Outcome State Fault Refusal :=
  .next (rowWrite src Reg.glbMemMode v s)

/-- A write to GLB_BANK_OWN_n. -/
def execBankOwnWrite (src : Party) (n : Fin 72) (v : Word) (s : State) : Host.Outcome State Fault Refusal :=
  .next (rowWrite src (Reg.glbBankOwn n.val) v s)

/-- A write to ARB_PRIO. -/
def execArbPrioWrite (src : Party) (v : Word) (s : State) : Host.Outcome State Fault Refusal :=
  .next (rowWrite src Reg.arbPrio v s)

/-- A write to GLB_RST_CTL. -/
def execIslandReset (src : Party) (v : Word) (s : State) : Host.Outcome State Fault Refusal :=
  .next (rowWrite src Reg.glbRstCtl v s)

/-- A write to PWR_CTL with WAKE set. -/
def execPwrWake (src : Party) (v : Word) (s : State) : Host.Outcome State Fault Refusal :=
  .next (rowWrite src Reg.pwrCtl v s)

/-- A write to PWR_OPP_CTL with GO set. -/
def execOppGo (src : Party) (v : Word) (s : State) : Host.Outcome State Fault Refusal :=
  .next (rowWrite src Reg.pwrOppCtl v s)

/-- A write to PWR_CTL with QUIESCE set. -/
def execPwrQuiesce (src : Party) (v : Word) (s : State) : Host.Outcome State Fault Refusal :=
  .next (rowWrite src Reg.pwrCtl v s)

/-- A write to FWU_WIN_OFS. -/
def execFwuWinOfsWrite (src : Party) (v : Word) (s : State) : Host.Outcome State Fault Refusal :=
  .next (rowWrite src Reg.fwuWinOfs v s)

/-- A write to FWU_WIN_DATA. -/
def execFwuWinDataWrite (src : Party) (v : Word) (s : State) : Host.Outcome State Fault Refusal :=
  .next (rowWrite src Reg.fwuWinData v s)

/-- A write to FWU_CTL with PUSH set. -/
def execFwuPush (src : Party) (v : Word) (s : State) : Host.Outcome State Fault Refusal :=
  .next (rowWrite src Reg.fwuCtl v s)

/-- A write to FWU_CTL with ABORT set. -/
def execFwuAbort (src : Party) (v : Word) (s : State) : Host.Outcome State Fault Refusal :=
  .next (rowWrite src Reg.fwuCtl v s)

/-- A write to FWU_CTL with ACTIVATE set. -/
def execFwuActivate (src : Party) (v : Word) (s : State) : Host.Outcome State Fault Refusal :=
  .next (rowWrite src Reg.fwuCtl v s)

/-- A write to FWU_CTL with CONFIRM set. -/
def execFwuConfirm (src : Party) (v : Word) (s : State) : Host.Outcome State Fault Refusal :=
  .next (rowWrite src Reg.fwuCtl v s)

/-- A write to VBT_WORD_n. -/
def execVbtWordWrite (src : Party) (n : Fin 64) (v : Word) (s : State) : Host.Outcome State Fault Refusal :=
  .next (rowWrite src (Reg.vbtWord n.val) v s)

/-- A write of a register that a proposal stages: the value joins the writer's proposal (R282). -/
def execProposalStage (src : Party) (off : Nat) (v : Word) (s : State) : Host.Outcome State Fault Refusal :=
  .next (if prtGroup off then rowWrite src off v s else s)

/-- REGISTER_WRITE (R265, R266). -/
def execRegisterWrite (a : Access) (v : W64) (s : State) : Host.Outcome State Fault Refusal := .next (accessWrite a v s)

/-- REGISTER_READ (R265, R266). -/
def execRegisterRead (a : Access) (s : State) : Host.Outcome State Fault Refusal := .next (accessRead a s)

/-! SMBus (R281, Table 10.7). -/

/-- The cause of an access at an offset that is not a multiple of 4: no register, or the width. -/
def smbFormCause (off : Nat) : Nat := if (regDesc (off / 4 * 4)).isNone then 5 else 6

/-- REG_READ: refused and NACKed, or answered with four bytes, most significant first. -/
def smbRead (off : Nat) (s : State) : State :=
  if off % 4 ≠ 0 then smbAnswer .nack (refuseRead (smbFormCause off) .smbus off s)
  else
    let r := read32 .smbus off s
    if refusals r.2 ≠ refusals s then smbAnswer .nack r.2 else smbAnswer (.data (natBytes r.1.toNat 4)) r.2

def execRegRead (off : BitVec 24) (s : State) : Host.Outcome State Fault Refusal :=
  .next (if !smbReady s then s else smbRead off.toNat s)

/-- REG_WRITE: performed and acknowledged, or refused and NACKed, for the owner or the right before the form (R285). -/
def smbWrite (off : Nat) (v : Word) (s : State) : State :=
  let c := partyRefusal .smbus off s
  let t := if off % 4 ≠ 0 then refuseReg (if c ≠ 0 then c else smbFormCause off) .smbus off v s else write32 .smbus off v s
  smbAnswer (if refusals t = refusals s then .ack else .nack) t

def execRegWrite (off : BitVec 24) (v : Word) (s : State) : Host.Outcome State Fault Refusal :=
  .next (if !smbReady s then s else smbWrite off.toNat v s)

/-! CTRL frames on a worker (R212, R227, Table 8.7). -/

/-- RESULT of a CTRL access: 6 where it was refused, 0 otherwise (Table 8.8). -/
def ctrlResult (t s : State) : Nat := if refusals t = refusals s then 0 else 6

/-- What a CTRL frame does on the worker that it names: its register access as the manager's, then the ACK. VBT_WORD_2 takes the
least minimum version that the manager serves (R229, R364). -/
def ctrlAccess (words : List W64) (s : State) : State :=
  let h := words.headD 0
  let off := bits h 23 2 * 4
  let v : Word := BitVec.ofNat 32 (words.getD 1 0).toNat
  if bit h 31 then
    if off = Reg.vbtWord 2 then sendAck h 0 [] (vbtPut 2 v s)
    else
      let t := write32 .manager off v s
      sendAck h (ctrlResult t s) [] t
  else
    let r := read32 .manager off s
    sendAck h (ctrlResult r.2 s) [BitVec.ofNat 64 r.1.toNat] r.2

/-- A worker's entry to a power state that its manager orders: its units are asked as for a timer's expiry (R353). -/
def enterOrdered (st : Nat) (s : State) : State :=
  if startPhase s != 8 || 2 ≤ powerState s || st ≤ powerState s || s.pwr.entering.isSome || s.pwr.waking.isSome || oppBusy s then s
  else startEntry st s

/-- A CTRL frame. An order to enter a power state, whose form the spec does not give, is told by the second operand (R353, assumption
62); it is acknowledged. -/
def execCtrlFrame (words : List W64) (order : Option (Fin 5)) (s : State) : Host.Outcome State Fault Refusal :=
  .next (ctlReceive 0xa [1] words (fun s =>
    if !isWorker s then s
    else match order with
      | none => ctrlAccess words s
      | some st => sendAck (words.headD 0) 0 [] (enterOrdered st.val s)) s)

end Sys2Proof.Machine
end

