-- ==== Sys2Proof/Machine/Receive.lean ====
section
/-! DEFINITION. What the lanes of a link bring: the frames of the lookup link (R102, R109) and of the cascade link (R207, R211). -/

namespace Sys2Proof.Machine

open Sys2Proof

/-- A whole frame of the cascade link goes to the meaning of its TYPE (Table 8.4). Reserved types are dropped and counted (R211). -/
def fclFrame (ws : List W64) (s : State) : State := match bits (ws.headD 0) 63 60 with
  | 0x1 => after (execCsearch ws s) s
  | 0x2 => after (execCand ws s) s
  | 0x4 => after (execCasPrepare ws s) s
  | 0x5 => after (execCasAck ws s) s
  | 0x6 => after (execCasDecide ws s) s
  | 0x7 => after (execTimeFrame ws s) s
  | 0x9 => if isManager s then after (execDiscoverReturn ws s) s else after (execDiscoverFrame ws s) s
  | 0xa => after (execCtrlFrame ws none s) s
  | 0xb => after (execImgFrame ws s) s
  | 0xc => after (execRelayFrame ws s) s
  | 0xd => after (execStateFrame ws s) s
  | _ => if crcGood ws then fclStray s else fclCrc s

/-- One word received on the cascade link in UP (Table 4.7). -/
def fclWord (mw : Bool × W64) (s : State) : State :=
  let r := grpAt LinkId.fcl.key s
  let upd (f : GrpSt → GrpSt) (s : State) : State := updGrp LinkId.fcl.key f s
  if r.inFrame then
    let ws := r.open_ ++ [mw.2]
    if mw.1 then fclFrame ws (upd (fun r => { r with inFrame := false, open_ := [] }) s)
    else upd (fun r => { r with open_ := ws }) s
  else if !mw.1 then fclStray s
  else if mw.2 = 0 then s
  else if bits mw.2 63 60 = 0 then fclStray s
  else upd (fun r => { r with inFrame := true, open_ := [mw.2] }) s

/-- The stream blocks that the cascade link receives: block n on lane n mod 16, framed in UP (R207, R211). -/
def fclReceive (blocks : List LaneBlock) (s : State) : State :=
  blocks.foldl (fun s b =>
    let (ws, s) := rxBlock .fcl b s
    if fclUp s then ws.foldl (fun s w => fclWord w s) s else s) s

/-- The stream blocks a link receives, up to and with a trailer, and what its lanes counted meanwhile, lane by lane: RS symbols that
FEC corrected, or on the cascade link fill bits in error (Table 4.22, R207). -/
def execFrameReceive (l : LinkId) (blocks : List LaneBlock) (corrected : List Nat) (s : State) :
    Host.Outcome State Fault Refusal :=
  .next (match l with
    | .fll g => fllReceive g blocks (fecCorrected g.val corrected s)
    | .fcl => if linkTrains .fcl s then fclReceive blocks (cntAdd (Reg.casCnt 4) corrected.sum s) else s)

end Sys2Proof.Machine
end

