-- ==== Sys2Proof/Machine/Dispatch.lean ====
section
/-! DEFINITION. The dispatcher: one arm per command, each a direct call of its meaning or a rejection by name. -/

namespace Sys2Proof.Machine

open Sys2Proof

def exec (i : Instr) (s : State) : Host.Outcome State Fault Refusal :=
  match i with
  | .dispatch p => Sys2Proof.Machine.execDispatch p s
  | .arraySearch p badPans => Sys2Proof.Machine.execArraySearch p badPans s
  | .verify p => Sys2Proof.Machine.execVerify p s
  | .responseLeave p => Sys2Proof.Machine.execResponseLeave p s
  | .sieveWordRewrite t bucket => Sys2Proof.Machine.execSieveWordRewrite t bucket s
  | .descriptorWordRewrite w => Sys2Proof.Machine.execDescriptorWordRewrite w s
  | .maintSlot h stuck => Sys2Proof.Machine.execMaintSlot h stuck s
  | .scrubCompare item => Sys2Proof.Machine.execScrubCompare item s
  | .repair h => Sys2Proof.Machine.execRepair h s
  | .divergenceCheck => Sys2Proof.Machine.execDivergenceCheck s
  | .reuseHoldEnd => Sys2Proof.Machine.execReuseHoldEnd s
  | .spatulaMove n => Sys2Proof.Machine.execSpatulaMove n s
  | .rebalance pan => Sys2Proof.Machine.execRebalance pan s
  | .goldenWriteDone => Sys2Proof.Machine.execGoldenWriteDone s
  | .intRemapGo src v => Sys2Proof.Machine.execIntRemapGo src v s
  | .remapStart pan => Sys2Proof.Machine.execRemapStart pan s
  | .remapCopyDone h => Sys2Proof.Machine.execRemapCopyDone h s
  | .remapVerifyDone h => Sys2Proof.Machine.execRemapVerifyDone h s
  | .remapRecordWritten h => Sys2Proof.Machine.execRemapRecordWritten h s
  | .remapSwitch h => Sys2Proof.Machine.execRemapSwitch h s
  | .remapRetire h => Sys2Proof.Machine.execRemapRetire h s
  | .migrationStart pan => Sys2Proof.Machine.execMigrationStart pan s
  | .migrateEntry pan => Sys2Proof.Machine.execMigrateEntry pan s
  | .strandedRetry pan => Sys2Proof.Machine.execStrandedRetry pan s
  | .agingSample margins => Sys2Proof.Machine.execAgingSample margins s
  | .lifeMinute temp hot => Sys2Proof.Machine.execLifeMinute temp hot s
  | .lifeSave => Sys2Proof.Machine.execLifeSave s
  | .dramUncorrectable line item => Sys2Proof.Machine.execDramUncorrectable line item s
  | .intErrHeadWrite src v => Sys2Proof.Machine.execIntErrHeadWrite src v s
  | .intErrCfgWrite src v => Sys2Proof.Machine.execIntErrCfgWrite src v s
  | .intSumMessage => Sys2Proof.Machine.execIntSumMessage s
  | .groupEnable src g v => Sys2Proof.Machine.execGroupEnable src g v s
  | .adaptDone l => Sys2Proof.Machine.execAdaptDone l s
  | .codewordLock l => Sys2Proof.Machine.execCodewordLock l s
  | .deskew l skews => Sys2Proof.Machine.execDeskew l skews s
  | .groupUp l paths => Sys2Proof.Machine.execGroupUp l paths s
  | .trainingTimeout l => Sys2Proof.Machine.execTrainingTimeout l s
  | .linkFault l why => Sys2Proof.Machine.execLinkFault l why s
  | .retrain src g v => Sys2Proof.Machine.execRetrain src g v s
  | .groupDisable src g v => Sys2Proof.Machine.execGroupDisable src g v s
  | .drainDone g => Sys2Proof.Machine.execDrainDone g s
  | .autoRetrain l => Sys2Proof.Machine.execAutoRetrain l s
  | .alignmentBlock n body placed => Sys2Proof.Machine.execAlignmentBlock n body placed s
  | .frameReceive l blocks corrected => Sys2Proof.Machine.execFrameReceive l blocks corrected s
  | .codewordUncorrectable g lane => Sys2Proof.Machine.execCodewordUncorrectable g lane s
  | .poisonBoundaryDrop g => Sys2Proof.Machine.execPoisonBoundaryDrop g s
  | .fifoPtrReset g => Sys2Proof.Machine.execFifoPtrReset g s
  | .creditFrame g => Sys2Proof.Machine.execCreditFrame g s
  | .lnkGrpMapWrite src v => Sys2Proof.Machine.execLnkGrpMapWrite src v s
  | .schedSwitch src v => Sys2Proof.Machine.execSchedSwitch src v s
  | .schedSwitchBoundary elsewhere => Sys2Proof.Machine.execSchedSwitchBoundary elsewhere s
  | .prfInstall src v => Sys2Proof.Machine.execPrfInstall src v s
  | .prfFetch src v => Sys2Proof.Machine.execPrfFetch src v s
  | .prfInvalidate src v => Sys2Proof.Machine.execPrfInvalidate src v s
  | .profileSwitch elsewhere => Sys2Proof.Machine.execProfileSwitch elsewhere s
  | .tblSelWrite src v => Sys2Proof.Machine.execTblSelWrite src v s
  | .sveMapSelWrite src v => Sys2Proof.Machine.execSveMapSelWrite src v s
  | .doorbellSqTail fn off size full v poisoned => Sys2Proof.Machine.execDoorbellSqTail fn off size full v poisoned s
  | .doorbellCqHead fn off size full v poisoned => Sys2Proof.Machine.execDoorbellCqHead fn off size full v poisoned s
  | .updRingSelWrite src v => Sys2Proof.Machine.execUpdRingSelWrite src v s
  | .ringApply src v => Sys2Proof.Machine.execRingApply src v s
  | .ringStart src v => Sys2Proof.Machine.execRingStart src v s
  | .ringStop src v => Sys2Proof.Machine.execRingStop src v s
  | .ringStopDone r => Sys2Proof.Machine.execRingStopDone r s
  | .intentSchedule heads => Sys2Proof.Machine.execIntentSchedule heads s
  | .descriptorArrive n data => Sys2Proof.Machine.execDescriptorArrive n data s
  | .ringInterrupt r => Sys2Proof.Machine.execRingInterrupt r s
  | .heldCommandRelease d => Sys2Proof.Machine.execHeldCommandRelease d s
  | .tableCreate n => Sys2Proof.Machine.execTableCreate n s
  | .tableDestroy n => Sys2Proof.Machine.execTableDestroy n s
  | .tableRelease t => Sys2Proof.Machine.execTableRelease t s
  | .insert n => Sys2Proof.Machine.execInsert n s
  | .delete n => Sys2Proof.Machine.execDelete n s
  | .modifyData n => Sys2Proof.Machine.execModifyData n s
  | .modifyRank n => Sys2Proof.Machine.execModifyRank n s
  | .read n => Sys2Proof.Machine.execRead n s
  | .batchBegin n => Sys2Proof.Machine.execBatchBegin n s
  | .batchEnd n => Sys2Proof.Machine.execBatchEnd n s
  | .commit n => Sys2Proof.Machine.execCommit n s
  | .commitAt n => Sys2Proof.Machine.execCommitAt n s
  | .fence n => Sys2Proof.Machine.execFence n s
  | .fenceComplete n => Sys2Proof.Machine.execFenceComplete n s
  | .snapshot n => Sys2Proof.Machine.execSnapshot n s
  | .fwBlock n data => Sys2Proof.Machine.execFwBlock n data s
  | .fwConfirm n => Sys2Proof.Machine.execFwConfirm n s
  | .scheduledFlip d => Sys2Proof.Machine.execScheduledFlip d s
  | .epochRetire d => Sys2Proof.Machine.execEpochRetire d s
  | .reconciliationDone d => Sys2Proof.Machine.execReconciliationDone d s
  | .discardDone d => Sys2Proof.Machine.execDiscardDone d s
  | .todSet src v => Sys2Proof.Machine.execTodSet src v s
  | .todStep src v => Sys2Proof.Machine.execTodStep src v s
  | .todAdjustApply => Sys2Proof.Machine.execTodAdjustApply s
  | .todSlew src v => Sys2Proof.Machine.execTodSlew src v s
  | .slewDone => Sys2Proof.Machine.execSlewDone s
  | .ppsOutRise => Sys2Proof.Machine.execPpsOutRise s
  | .ppsOutFall => Sys2Proof.Machine.execPpsOutFall s
  | .pulseEdge n => Sys2Proof.Machine.execPulseEdge n s
  | .pulseRearm n => Sys2Proof.Machine.execPulseRearm n s
  | .stampRealign => Sys2Proof.Machine.execStampRealign s
  | .todSnapSelWrite src v => Sys2Proof.Machine.execTodSnapSelWrite src v s
  | .epcSelWrite src v => Sys2Proof.Machine.execEpcSelWrite src v s
  | .casEnable src v => Sys2Proof.Machine.execCasEnable src v s
  | .ringLinksUp => Sys2Proof.Machine.execRingLinksUp s
  | .discoverFrame words => Sys2Proof.Machine.execDiscoverFrame words s
  | .discoverReturn words => Sys2Proof.Machine.execDiscoverReturn words s
  | .discoverTimeout => Sys2Proof.Machine.execDiscoverTimeout s
  | .ringLoadDone => Sys2Proof.Machine.execRingLoadDone s
  | .ringAlignDone => Sys2Proof.Machine.execRingAlignDone s
  | .casReform src v => Sys2Proof.Machine.execCasReform src v s
  | .casAdmit src v => Sys2Proof.Machine.execCasAdmit src v s
  | .workerAdmit k reload => Sys2Proof.Machine.execWorkerAdmit k reload s
  | .csearch words => Sys2Proof.Machine.execCsearch words s
  | .cand words => Sys2Proof.Machine.execCand words s
  | .casPrepare words => Sys2Proof.Machine.execCasPrepare words s
  | .casAck words => Sys2Proof.Machine.execCasAck words s
  | .casDecide words => Sys2Proof.Machine.execCasDecide words s
  | .prepareTimeout => Sys2Proof.Machine.execPrepareTimeout s
  | .timeFrameSend seen => Sys2Proof.Machine.execTimeFrameSend seen s
  | .timeFrame words => Sys2Proof.Machine.execTimeFrame words s
  | .stateFrame words => Sys2Proof.Machine.execStateFrame words s
  | .ctrlFrame words order => Sys2Proof.Machine.execCtrlFrame words order s
  | .relayFrame words => Sys2Proof.Machine.execRelayFrame words s
  | .imgFrame words => Sys2Proof.Machine.execImgFrame words s
  | .casRaRead src v => Sys2Proof.Machine.execCasRaRead src v s
  | .casRaWrite src v => Sys2Proof.Machine.execCasRaWrite src v s
  | .casRaDone words => Sys2Proof.Machine.execCasRaDone words s
  | .bar4Read m off be rivals => Sys2Proof.Machine.execBar4Read m off be rivals s
  | .bar4Write m off data poisoned rivals => Sys2Proof.Machine.execBar4Write m off data poisoned rivals s
  | .aliasSetWrite m off data poisoned rivals => Sys2Proof.Machine.execAliasSetWrite m off data poisoned rivals s
  | .aliasClearWrite m off data poisoned rivals => Sys2Proof.Machine.execAliasClearWrite m off data poisoned rivals s
  | .activityClear fn off data poisoned => Sys2Proof.Machine.execActivityClear fn off data poisoned s
  | .vfFlr f => Sys2Proof.Machine.execVfFlr f s
  | .pfFlr => Sys2Proof.Machine.execPfFlr s
  | .vfDisable vfEnable numVFs => Sys2Proof.Machine.execVfDisable vfEnable numVFs s
  | .busMasterEnable f c => Sys2Proof.Machine.execBusMasterEnable f c s
  | .msixPendingSend vec => Sys2Proof.Machine.execMsixPendingSend vec s
  | .proposalStage src off v => Sys2Proof.Machine.execProposalStage src off v s
  | .propSubmit src v => Sys2Proof.Machine.execPropSubmit src v s
  | .propCancel src v => Sys2Proof.Machine.execPropCancel src v s
  | .propRead => Sys2Proof.Machine.execPropRead s
  | .confirm seq digest => Sys2Proof.Machine.execConfirm seq digest s
  | .reject seq => Sys2Proof.Machine.execReject seq s
  | .propExpire => Sys2Proof.Machine.execPropExpire s
  | .status => Sys2Proof.Machine.execStatus s
  | .regRead off => Sys2Proof.Machine.execRegRead off s
  | .regWrite off v => Sys2Proof.Machine.execRegWrite off v s
  | .refRead => Sys2Proof.Machine.execRefRead s
  | .alertResponse => Sys2Proof.Machine.execAlertResponse s
  | .smbPecError code => Sys2Proof.Machine.execSmbPecError code s
  | .smbSclTimeout => Sys2Proof.Machine.execSmbSclTimeout s
  | .prtRefSelWrite src v => Sys2Proof.Machine.execPrtRefSelWrite src v s
  | .settingsWrite => Sys2Proof.Machine.execSettingsWrite s
  | .glbMemModeWrite src v => Sys2Proof.Machine.execGlbMemModeWrite src v s
  | .bankOwnWrite src n v => Sys2Proof.Machine.execBankOwnWrite src n v s
  | .bankHandoverDone n => Sys2Proof.Machine.execBankHandoverDone n s
  | .bistDone n bad => Sys2Proof.Machine.execBistDone n bad s
  | .loaderDone n => Sys2Proof.Machine.execLoaderDone n s
  | .refreshTick sc => Sys2Proof.Machine.execRefreshTick sc s
  | .refreshPoll sc hot hotter => Sys2Proof.Machine.execRefreshPoll sc hot hotter s
  | .refreshOpportunistic sc => Sys2Proof.Machine.execRefreshOpportunistic sc s
  | .ratWindowReset => Sys2Proof.Machine.execRatWindowReset s
  | .arbDecision req taken done acts => Sys2Proof.Machine.execArbDecision req taken done acts s
  | .arbPrioWrite src v => Sys2Proof.Machine.execArbPrioWrite src v s
  | .statsFlush => Sys2Proof.Machine.execStatsFlush s
  | .pllUnlock pll => Sys2Proof.Machine.execPllUnlock pll s
  | .pllRelock pll => Sys2Proof.Machine.execPllRelock pll s
  | .cdcTimeout x => Sys2Proof.Machine.execCdcTimeout x s
  | .crossingReset x => Sys2Proof.Machine.execCrossingReset x s
  | .coldReset cause => Sys2Proof.Machine.execColdReset cause s
  | .warmReset cause => Sys2Proof.Machine.execWarmReset cause s
  | .pcieReset => Sys2Proof.Machine.execPcieReset s
  | .islandReset src v => Sys2Proof.Machine.execIslandReset src v s
  | .mpWatchdog => Sys2Proof.Machine.execMpWatchdog s
  | .startUpPhase env => Sys2Proof.Machine.execStartUpPhase env s
  | .goldenReload => Sys2Proof.Machine.execGoldenReload s
  | .reloadDone => Sys2Proof.Machine.execReloadDone s
  | .vddAuxRise => Sys2Proof.Machine.execVddAuxRise s
  | .supplyFall vddq => Sys2Proof.Machine.execSupplyFall vddq s
  | .powerTimerExpire st lanesIdle => Sys2Proof.Machine.execPowerTimerExpire st lanesIdle s
  | .unitRefuse unit => Sys2Proof.Machine.execUnitRefuse unit s
  | .entryCommit workers => Sys2Proof.Machine.execEntryCommit workers s
  | .wakeN => Sys2Proof.Machine.execWakeN s
  | .pwrWake src v => Sys2Proof.Machine.execPwrWake src v s
  | .laneActivity l => Sys2Proof.Machine.execLaneActivity l s
  | .knownEventWake => Sys2Proof.Machine.execKnownEventWake s
  | .wakeDone badPans badBanks => Sys2Proof.Machine.execWakeDone badPans badBanks s
  | .laneResume l path skews => Sys2Proof.Machine.execLaneResume l path skews s
  | .resumeTimeout l => Sys2Proof.Machine.execResumeTimeout l s
  | .oppGo src v => Sys2Proof.Machine.execOppGo src v s
  | .oppVoltageConfirm volts => Sys2Proof.Machine.execOppVoltageConfirm volts s
  | .oppPllLock => Sys2Proof.Machine.execOppPllLock s
  | .oppSwitch => Sys2Proof.Machine.execOppSwitch s
  | .pwrQuiesce src v => Sys2Proof.Machine.execPwrQuiesce src v s
  | .pmbAlert fault => Sys2Proof.Machine.execPmbAlert fault s
  | .thermalTrip => Sys2Proof.Machine.execThermalTrip s
  | .fwuWinOfsWrite src v => Sys2Proof.Machine.execFwuWinOfsWrite src v s
  | .fwuWinDataWrite src v => Sys2Proof.Machine.execFwuWinDataWrite src v s
  | .fwuPush src v => Sys2Proof.Machine.execFwuPush src v s
  | .fwuAbort src v => Sys2Proof.Machine.execFwuAbort src v s
  | .fwuActivate src v => Sys2Proof.Machine.execFwuActivate src v s
  | .fwuConfirm src v => Sys2Proof.Machine.execFwuConfirm src v s
  | .sessionIdleTimeout => Sys2Proof.Machine.execSessionIdleTimeout s
  | .imageVerifyDone => Sys2Proof.Machine.execImageVerifyDone s
  | .programmingDone ok => Sys2Proof.Machine.execProgrammingDone ok s
  | .schemaFallback => Sys2Proof.Machine.execSchemaFallback s
  | .vbatMeasure volt => Sys2Proof.Machine.execVbatMeasure volt s
  | .todSave => Sys2Proof.Machine.execTodSave s
  | .vbtWordWrite src n v => Sys2Proof.Machine.execVbtWordWrite src n v s
  | .registerWrite a v => Sys2Proof.Machine.execRegisterWrite a v s
  | .registerRead a => Sys2Proof.Machine.execRegisterRead a s
  | .resetNRelease role devId bootSel => Sys2Proof.Machine.execResetNRelease role devId bootSel s
  | .completionTimeout n => Sys2Proof.Machine.execCompletionTimeout n s
  | .completionWriteRefused r => Sys2Proof.Machine.execCompletionWriteRefused r s
  | .snapshotDone n => Sys2Proof.Machine.execSnapshotDone n s
  | .vbatDomainPowerUp => Sys2Proof.Machine.execVbatDomainPowerUp s

end Sys2Proof.Machine
end

