-- ==== Sys2Proof/Machine/Tick.lean ====
section
/-! DEFINITION. What 1 ns of time does by itself: the step of an empty queue (log entry 1). -/

namespace Sys2Proof.Machine

open Sys2Proof

/-- PCLK runs in RUN and IDLE (Table 13.1) while the array PLL is locked (Table 12.1). The frame counter counts its cycles modulo 64
(R127). -/
def pclkTick (s : State) : State :=
  if awake s && flagGet Reg.clkStat 0 s then
    s.updClk fun c =>
      let ph := c.pphase + oppRate (oppCur s)
      let n := ph / 100
      { c with pclk := c.pclk + n, pphase := ph % 100, slot := (c.slot + n) % 64, frame := c.frame + (c.slot + n) / 64 }
  else s

/-- Time-of-day, in units of 2^-32 ns, that k REFCLK cycles of 6.4 ns are worth. -/
def refclkUnits (k : Nat) : Nat := k * (64 * 4294967296) / 10

/-- Time-of-day without the time PLL: 6.4 ns on each REFCLK cycle (Table 12.1). -/
def refclkTick (s : State) : State :=
  let a := s.clk.now * 10 / 64
  let b := (s.clk.now + 1) * 10 / 64
  if a = b then s
  else
    let s := s.updTod fun t => { t with prev := t.value }
    putTod ((s.tod.value + (refclkUnits b - refclkUnits a) : Nat) : Int) s

/-- The time clock (R193), while the device is not in OFF. -/
def timeTick (s : State) : State :=
  if powerState s = 4 then s
  else if flagGet Reg.todStat 28 s then todTick s
  else refclkTick s

/-- The 32,768 Hz counter of the battery domain, 48 bits (Table 14.16). -/
def rtcTick (s : State) : State :=
  s.updVbt fun v => { v with
    rtc := (v.rtc + (v.rtcPart + 32768) / 1000000000) % 2 ^ 48
    rtcPart := (v.rtcPart + 32768) % 1000000000 }

/-- BEHIND of every hob follows its pace while the Scourer runs (R236, R257). -/
def paceTick (s : State) : State := if slotsRun s then (List.range 16).foldl (fun s h => setBehind h s) s else s

/-- 1 ns. -/
def tick (s : State) : State :=
  paceTick (schedTick (pulseTick (entryTick (timerTick (expireCands (ringEnable (rtcTick ((timeTick (pclkTick s)).updClk fun c => { c with now := c.now + 1 }))))))))

end Sys2Proof.Machine
end

