-- ==== Sys2Proof/Machine/Pins.lean ====
section
/-! DEFINITION. What the device does to its pins: a view of the state, which no command reads (R204, R394, R395, R399, R405, Table 15.4). -/

namespace Sys2Proof.Machine

open Sys2Proof

/-- The pin types of Table 15.4. -/
inductive Pin where
  | linkTx (l : LinkId)
  | linkRx (l : LinkId)
  | pcieLane
  | ddrDq (ch : Fin 2)
  /-- CA, CS_N and CK. -/
  | ddrCommand (ch : Fin 2)
  | ddrReset (ch : Fin 2)
  /-- QSPI_CS_N and QSPI_IO. -/
  | qspiIo
  | qspiSck
  | qspiReset
  | ppsOut
  | smbData
  | thermTrip
  /-- SMBALERT_N, PMB_SCL, PMB_SDA and JTAG_TDO. -/
  | openDrain
  /-- RESET_N, PERST_N, SMB_SCL, PMB_ALERT_N, PPS_IN, EVT_IN0, EVT_IN1 and JTAG_TCK. -/
  | input
  /-- WAKE_N, JTAG_TMS and JTAG_TDI. -/
  | inputUp
  /-- The straps and JTAG_TRST_N. -/
  | inputDown
  deriving DecidableEq, Repr

/-- What the device does to a pin. -/
inductive Drive where
  /-- The function of the pin drives it. -/
  | active
  | highZ
  | released
  | failsafe
  | noPull
  | weakUp
  | weakDown
  | low
  | high
  | squelched
  | electricalIdle
  /-- 50 Ω to the common mode on die, with activity detection or without. -/
  | terminated (detect : Bool)
  /-- As the PCI Express Base Specification requires during fundamental reset. -/
  | pcieReset
  /-- The levels that JESD79-5 requires for self-refresh. -/
  | selfRefresh
  deriving DecidableEq, Repr

/-- RESET_N is low, or the thermal shutdown holds the device in cold reset. -/
def pinsReset (s : State) : Bool := s.rst.low || s.rst.therm

/-- A channel of the DRAM is populated: channel 0 always is (R387). -/
def populated (ch : Fin 2) : Bool := ch.val == 0 || (Config.dramGiB 1).val != 0

/-- The function enables a link's pins: the link trains, and its state is not DOWN. -/
def linkDriven (l : LinkId) (s : State) : Bool := !pinsReset s && linkTrains l s && linkState l s != gDown

/-- The DRAM is held in self-refresh, by the controller or by the retention flag (R395). -/
def dramHeld (s : State) : Bool := flagGet Reg.drcStat 30 s || flagGet Reg.glbBootStat 22 s

/-- What each pin does while VDD_AUX and the pin's own rail are present (Table 15.4, columns 3 to 5). -/
def drivePowered (p : Pin) (s : State) : Drive := match p with
  | .linkTx l => if linkDriven l s then (if awake s then .active else .electricalIdle) else .squelched
  | .linkRx l => if linkDriven l s then (if awake s then .active else .terminated true) else .terminated false
  | .pcieLane => if pinsReset s then .pcieReset else .active
  | .ddrDq ch => if populated ch && dramLive s then .active else .highZ
  | .ddrCommand ch =>
    if !populated ch then .low else if dramLive s then .active else if dramHeld s then .selfRefresh else .low
  | .ddrReset ch => if !populated ch then .low else if dramLive s || dramHeld s then .high else .low
  | .qspiIo => if pinsReset s || startPhase s < 4 || !awake s then .weakUp else .active
  | .qspiSck => if pinsReset s || startPhase s < 4 || !awake s then .weakDown else .active
  | .qspiReset => if pinsReset s || startPhase s < 4 then .low else if awake s then .active else .high
  | .ppsOut => if !pinsReset s && flagGet Reg.todPpsOutCfg 31 s && s.tod.ppsHigh then .high else .low
  | .smbData => if smbReady s then .active else .released
  | .thermTrip => if s.rst.therm then .low else .released
  | .openDrain => if pinsReset s then .released else .active
  | .input => .noPull
  | .inputUp => .weakUp
  | .inputDown => .weakDown

/-- What each pin does with its own rail off, VDD_AUX present (Table 15.4, column 2). The rail of the DRAM is not the device's to switch, so
R395 governs its pins. -/
def driveOff (p : Pin) (s : State) : Drive := match p with
  | .linkTx _ | .linkRx _ | .pcieLane | .ddrDq _ | .qspiIo | .qspiSck | .qspiReset => .highZ
  | .ddrCommand _ | .ddrReset _ => drivePowered p s
  | .ppsOut => .weakDown
  | .smbData | .thermTrip | .openDrain => .released
  | .input | .inputUp | .inputDown => .failsafe

/-- What each pin does without VDD_AUX (Table 15.4, column 1): nothing drives (R394). -/
def driveUnpowered (p : Pin) : Drive := match p with
  | .smbData | .thermTrip | .openDrain => .released
  | .input | .inputUp | .inputDown => .failsafe
  | _ => .highZ

/-- What the device does to a pin (Table 15.4). -/
def pinDrive (p : Pin) (s : State) : Drive :=
  if !s.rst.aux then driveUnpowered p else if powerState s = 4 then driveOff p s else drivePowered p s

end Sys2Proof.Machine
end

