-- ==== Sys2Proof/Safety.lean ====
section
/-! DEFINITION. What counts as a safe run, what every step keeps, and which components of the state a command changes. -/

namespace Sys2Proof

/-- A step of the block answers a next state. -/
def Safe (s : Machine.State) : Prop := ∃ t, Machine.step s = .next t

/-- Every step of the first k answers a next state. -/
def SafeFor (k : Nat) (s : Machine.State) : Prop := ∃ t, Sys2Proof.core.run k s = .next t

end Sys2Proof

namespace Sys2Proof.Machine

open Sys2Proof

/-- Registers as stored: offsets rising, and every reserved bit 0 (R9). -/
def regsOk (t : Tab Word) : Bool := tabRising t && t.all fun x => x.2 &&& ~~~(regLive x.1) == 0

/-- Every table of HifSt is listed by rising keys. -/
def HifSt.sorted (a : HifSt) : Prop :=
    tabRising a.fns = true ∧ tabRising a.msix = true ∧ tabRising a.msixPend = true

/-- Every table of ErrSt is listed by rising keys. -/
def ErrSt.sorted (a : ErrSt) : Prop :=
    tabRising a.last = true ∧ tabRising a.suppressed = true

/-- Every table of ArrSt is listed by rising keys. -/
def ArrSt.sorted (a : ArrSt) : Prop :=
    tabRising a.slices = true ∧ tabRising a.ranks = true ∧ tabRising a.act = true ∧ tabRising a.actBad = true ∧
    tabRising a.goldRec = true ∧ tabRising a.goldCnt = true ∧ tabRising a.maintAt = true ∧ tabRising a.scrubPos = true ∧
    tabRising a.scrubAt = true ∧ tabRising a.goldAt = true

/-- Every table of TblSt is listed by rising keys. -/
def TblSt.sorted (a : TblSt) : Prop :=
    tabRising a.masks = true ∧ tabRising a.maskDir = true ∧ tabRising a.tblBad = true ∧ tabRising a.prfBad = true

/-- Every table of MemSt is listed by rising keys. -/
def MemSt.sorted (a : MemSt) : Prop :=
    tabRising a.pantrySyn = true ∧ tabRising a.scratchSyn = true ∧ tabRising a.dramBad = true ∧
    tabRising a.dramSoft = true ∧ tabRising a.dramSet = true ∧ tabRising a.rotate = true

/-- Every table of LnkSt is listed by rising keys. -/
def LnkSt.sorted (a : LnkSt) : Prop :=
    tabRising a.grps = true ∧ tabRising a.lanes = true

/-- Every table of PipSt is listed by rising keys. -/
def PipSt.sorted (a : PipSt) : Prop :=
    tabRising a.nextDec = true ∧ tabRising a.nextIssue = true ∧ tabRising a.lastAlign = true ∧ tabRising a.lastGap = true ∧
    tabRising a.schedActive = true ∧ tabRising a.schedShadow = true ∧ tabRising a.schedKept = true

/-- Every table of UpdSt is listed by rising keys. -/
def UpdSt.sorted (a : UpdSt) : Prop :=
    tabRising a.rings = true ∧ tabRising a.lastServed = true

/-- Every table of EpcSt is listed by rising keys. -/
def EpcSt.sorted (a : EpcSt) : Prop :=
    tabRising a.doms = true

/-- Every table of TodSt is listed by rising keys. -/
def TodSt.sorted (a : TodSt) : Prop :=
    tabRising a.copies = true ∧ tabRising a.pulses = true

/-- Every table of CasSt is listed by rising keys. -/
def CasSt.sorted (a : CasSt) : Prop :=
    tabRising a.workers = true ∧ tabRising a.img = true ∧ tabRising a.goLog = true

/-- Every table of DrcSt is listed by rising keys. -/
def DrcSt.sorted (a : DrcSt) : Prop :=
    tabRising a.interval = true ∧ tabRising a.prio = true ∧ tabRising a.waits = true ∧ tabRising a.won = true ∧
    tabRising a.handTo = true

/-- Every table of PwrSt is listed by rising keys. -/
def PwrSt.sorted (a : PwrSt) : Prop :=
    tabRising a.timers = true

/-- Every table of FwuSt is listed by rising keys. -/
def FwuSt.sorted (a : FwuSt) : Prop :=
    tabRising a.dirs = true ∧ tabRising a.recs = true ∧ tabRising a.slots = true ∧ tabRising a.store = true

/-- Every table of VbtSt is listed by rising keys. -/
def VbtSt.sorted (a : VbtSt) : Prop :=
    tabRising a.words = true

/-- What every step keeps: the memories in their canonical form; no reserved bit of a register set, in either copy of a
window (R9); the frame counter below 64 (R127); time-of-day within its 48 bits of seconds (R192); and every sparse table
listed by rising keys. -/
structure Inv (s : State) : Prop where
  pantry : Memory.wf s.mem.pantry = true
  scratch : Memory.wf s.mem.scratch = true
  dram : Memory.wf s.mem.dram = true
  regs : regsOk s.regs = true
  mwin : regsOk s.mwin = true
  slot : s.clk.slot < 64
  tod : s.tod.value < 2 ^ 48 * secUnits
  hifTabs : s.hif.sorted
  errTabs : s.err.sorted
  arrTabs : s.arr.sorted
  tblTabs : s.tbl.sorted
  memTabs : s.mem.sorted
  lnkTabs : s.lnk.sorted
  pipTabs : s.pip.sorted
  updTabs : s.upd.sorted
  epcTabs : s.epc.sorted
  todTabs : s.tod.sorted
  casTabs : s.cas.sorted
  drcTabs : s.drc.sorted
  pwrTabs : s.pwr.sorted
  fwuTabs : s.fwu.sorted
  vbtTabs : s.vbt.sorted

/-- The components of the state. -/
inductive Comp where
  | pending
  | clk
  | regs
  | mwin
  | arr
  | tbl
  | mem
  | lnk
  | pip
  | upd
  | epc
  | tod
  | cas
  | hif
  | prt
  | err
  | drc
  | rst
  | pwr
  | fwu
  | vbt
  deriving DecidableEq, Repr

/-- A component is the same in two states. -/
def Comp.same : Comp → State → State → Prop
  | .pending, s, t => t.pending = s.pending
  | .clk, s, t => t.clk = s.clk
  | .regs, s, t => t.regs = s.regs
  | .mwin, s, t => t.mwin = s.mwin
  | .arr, s, t => t.arr = s.arr
  | .tbl, s, t => t.tbl = s.tbl
  | .mem, s, t => t.mem = s.mem
  | .lnk, s, t => t.lnk = s.lnk
  | .pip, s, t => t.pip = s.pip
  | .upd, s, t => t.upd = s.upd
  | .epc, s, t => t.epc = s.epc
  | .tod, s, t => t.tod = s.tod
  | .cas, s, t => t.cas = s.cas
  | .hif, s, t => t.hif = s.hif
  | .prt, s, t => t.prt = s.prt
  | .err, s, t => t.err = s.err
  | .drc, s, t => t.drc = s.drc
  | .rst, s, t => t.rst = s.rst
  | .pwr, s, t => t.pwr = s.pwr
  | .fwu, s, t => t.fwu = s.fwu
  | .vbt, s, t => t.vbt = s.vbt

/-- Every component but those listed is the same in two states. -/
def Only (cs : List Comp) (s t : State) : Prop := ∀ c : Comp, c ∉ cs → c.same s t

/-- Every component but the queue. -/
def Comp.all : List Comp :=
  [.clk, .regs, .mwin, .arr, .tbl, .mem, .lnk, .pip, .upd, .epc,
    .tod, .cas, .hif, .prt, .err, .drc, .rst, .pwr, .fwu, .vbt]

/-- The components that a command may change, beside the queue, which none does: a command that resets, or that starts a reset,
  may change them all; an access to any register may too. -/
def writes : Instr → List Comp
  | .smbSclTimeout =>
    []
  | .repair .. =>
    [.arr]
  | .msixPendingSend .. =>
    [.hif]
  | .creditFrame .. =>
    [.lnk]
  | .refRead | .alertResponse =>
    [.prt]
  | .knownEventWake =>
    [.pwr]
  | .adaptDone .. | .codewordLock .. | .slewDone | .refreshOpportunistic .. | .pllRelock .. | .reloadDone =>
    [.regs]
  | .sieveWordRewrite .. | .descriptorWordRewrite .. =>
    [.tbl]
  | .ppsOutRise | .ppsOutFall | .pulseRearm .. | .stampRealign =>
    [.tod]
  | .heldCommandRelease .. | .fence .. | .completionWriteRefused .. =>
    [.upd]
  | .todSave =>
    [.vbt]
  | .epochRetire .. =>
    [.arr, .epc]
  | .statsFlush =>
    [.clk, .mem]
  | .vbatDomainPowerUp =>
    [.clk, .vbt]
  | .lifeSave | .settingsWrite =>
    [.fwu, .vbt]
  | .ratWindowReset =>
    [.regs, .drc]
  | .vbatMeasure .. =>
    [.regs, .err]
  | .drainDone .. | .autoRetrain .. | .alignmentBlock .. | .codewordUncorrectable .. =>
    [.regs, .lnk]
  | .bistDone .. =>
    [.regs, .mem]
  | .resetNRelease .. =>
    [.regs, .rst]
  | .ringInterrupt .. =>
    [.upd, .hif]
  | .remapRecordWritten .. =>
    [.arr, .fwu, .vbt]
  | .loaderDone .. =>
    [.clk, .regs, .mem]
  | .lifeMinute .. =>
    [.clk, .regs, .vbt]
  | .oppPllLock =>
    [.lnk, .pip, .pwr]
  | .remapCopyDone .. =>
    [.regs, .arr, .err]
  | .ringLinksUp | .discoverFrame .. | .discoverReturn .. | .discoverTimeout | .ringLoadDone | .ringAlignDone
  | .workerAdmit .. | .timeFrameSend .. =>
    [.regs, .cas, .err]
  | .bankHandoverDone .. =>
    [.regs, .drc, .fwu]
  | .reconciliationDone .. =>
    [.regs, .epc, .err]
  | .refreshTick .. | .refreshPoll .. =>
    [.regs, .err, .drc]
  | .sessionIdleTimeout =>
    [.regs, .err, .fwu]
  | .oppVoltageConfirm .. | .pmbAlert .. =>
    [.regs, .err, .pwr]
  | .intSumMessage =>
    [.regs, .hif, .err]
  | .deskew .. | .trainingTimeout .. | .linkFault .. | .poisonBoundaryDrop .. | .fifoPtrReset .. | .resumeTimeout .. =>
    [.regs, .lnk, .err]
  | .groupUp .. | .laneResume .. =>
    [.regs, .lnk, .tod]
  | .propRead | .reject .. | .propExpire | .status | .smbPecError .. =>
    [.regs, .prt, .err]
  | .profileSwitch .. =>
    [.regs, .tbl, .cas]
  | .pulseEdge .. | .crossingReset .. =>
    [.regs, .tod, .err]
  | .regRead .. =>
    [.clk, .regs, .prt, .err]
  | .divergenceCheck | .remapSwitch .. | .migrationStart .. =>
    [.regs, .arr, .hif, .err]
  | .goldenReload =>
    [.regs, .arr, .tbl, .mem]
  | .imgFrame .. =>
    [.regs, .cas, .err, .fwu]
  | .casPrepare .. | .casDecide .. =>
    [.regs, .epc, .cas, .err]
  | .programmingDone .. =>
    [.regs, .err, .fwu, .vbt]
  | .responseLeave .. =>
    [.regs, .lnk, .pip, .err]
  | .schedSwitchBoundary .. =>
    [.regs, .pip, .cas, .fwu]
  | .unitRefuse .. | .laneActivity .. =>
    [.regs, .pip, .err, .pwr]
  | .todAdjustApply =>
    [.clk, .regs, .lnk, .tod, .vbt]
  | .cand .. =>
    [.clk, .regs, .pip, .cas, .err]
  | .remapVerifyDone .. | .remapRetire .. =>
    [.regs, .arr, .hif, .err, .fwu]
  | .scrubCompare .. =>
    [.regs, .arr, .mem, .hif, .err]
  | .intErrHeadWrite .. | .intErrCfgWrite .. | .proposalStage .. | .fwuWinOfsWrite .. | .fwuWinDataWrite .. =>
    [.regs, .hif, .prt, .err, .fwu]
  | .frameReceive (.fll _) .. =>
    [.regs, .lnk, .pip, .err, .pwr]
  | .scheduledFlip .. =>
    [.regs, .pip, .epc, .err, .pwr]
  | .confirm .. =>
    [.regs, .prt, .err, .fwu, .vbt]
  | .intentSchedule .. | .descriptorArrive .. | .tableRelease .. | .read .. | .fenceComplete .. | .snapshot ..
  | .completionTimeout .. | .snapshotDone .. =>
    [.regs, .tbl, .upd, .cas, .hif]
  | .powerTimerExpire .. =>
    [.clk, .regs, .pip, .cas, .err, .pwr]
  | .remapStart .. =>
    [.regs, .arr, .hif, .err, .fwu, .vbt]
  | .intRemapGo .. =>
    [.regs, .arr, .hif, .prt, .err, .fwu]
  | .spatulaMove .. | .dramUncorrectable .. =>
    [.regs, .arr, .mem, .upd, .hif, .err]
  | .verify .. =>
    [.regs, .arr, .pip, .cas, .hif, .err]
  | .arraySearch .. =>
    [.regs, .arr, .tbl, .pip, .hif, .err]
  | .tableDestroy .. =>
    [.regs, .arr, .tbl, .upd, .cas, .hif]
  | .casEnable .. | .casReform .. | .casAdmit .. | .casRaRead .. | .casRaWrite .. =>
    [.regs, .cas, .hif, .prt, .err, .fwu]
  | .bankOwnWrite .. | .arbPrioWrite .. =>
    [.regs, .hif, .prt, .err, .drc, .fwu]
  | .propSubmit .. | .propCancel .. | .vbtWordWrite .. =>
    [.regs, .hif, .prt, .err, .fwu, .vbt]
  | .groupEnable .. | .retrain .. | .groupDisable .. | .lnkGrpMapWrite .. =>
    [.regs, .lnk, .hif, .prt, .err, .fwu]
  | .dispatch .. =>
    [.regs, .lnk, .pip, .cas, .hif, .err]
  | .oppSwitch =>
    [.regs, .lnk, .pip, .err, .pwr, .fwu]
  | .tblSelWrite .. | .sveMapSelWrite .. | .updRingSelWrite .. | .todSnapSelWrite .. | .epcSelWrite ..
  | .prtRefSelWrite .. =>
    [.regs, .mwin, .hif, .prt, .err, .fwu]
  | .stateFrame .. =>
    [.regs, .pip, .epc, .cas, .err, .pwr]
  | .prepareTimeout | .relayFrame .. | .busMasterEnable .. =>
    [.regs, .tbl, .upd, .cas, .hif, .err]
  | .batchBegin .. | .commitAt .. =>
    [.regs, .tbl, .upd, .epc, .cas, .hif]
  | .todSet .. | .todStep .. | .todSlew .. =>
    [.regs, .tod, .hif, .prt, .err, .fwu]
  | .timeFrame .. =>
    [.clk, .regs, .lnk, .tod, .cas, .err, .vbt]
  | .csearch .. =>
    [.clk, .regs, .pip, .cas, .hif, .err, .pwr]
  | .agingSample .. =>
    [.regs, .arr, .hif, .err, .pwr, .fwu, .vbt]
  | .batchEnd .. =>
    [.regs, .arr, .tbl, .upd, .epc, .cas, .hif]
  | .ringStopDone .. =>
    [.regs, .arr, .upd, .epc, .cas, .err, .fwu]
  | .glbMemModeWrite .. =>
    [.regs, .lnk, .hif, .prt, .err, .drc, .fwu]
  | .imageVerifyDone =>
    [.regs, .tbl, .upd, .cas, .hif, .err, .fwu]
  | .fwBlock .. =>
    [.regs, .tbl, .upd, .cas, .hif, .fwu, .vbt]
  | .discardDone .. =>
    [.regs, .tbl, .upd, .epc, .cas, .hif, .err]
  | .arbDecision .. =>
    [.clk, .regs, .mem, .pip, .hif, .err, .drc, .pwr]
  | .registerRead .. =>
    [.clk, .regs, .tbl, .upd, .cas, .hif, .prt, .err]
  | .reuseHoldEnd | .goldenWriteDone | .strandedRetry .. | .tableCreate .. | .insert .. | .delete ..
  | .modifyData .. | .modifyRank .. =>
    [.regs, .arr, .tbl, .mem, .upd, .cas, .hif, .err]
  | .pwrWake .. | .pwrQuiesce .. =>
    [.regs, .lnk, .pip, .hif, .prt, .err, .pwr, .fwu]
  | .oppGo .. =>
    [.regs, .pip, .cas, .hif, .prt, .err, .pwr, .fwu]
  | .schedSwitch .. =>
    [.regs, .tbl, .pip, .cas, .hif, .prt, .err, .fwu]
  | .casAck .. | .casRaDone .. =>
    [.regs, .tbl, .pip, .upd, .epc, .cas, .hif, .err]
  | .fwConfirm .. =>
    [.regs, .tbl, .upd, .cas, .hif, .err, .fwu, .vbt]
  | .prfInstall .. | .prfFetch .. | .prfInvalidate .. =>
    [.regs, .tbl, .upd, .cas, .hif, .prt, .err, .fwu]
  | .rebalance .. =>
    [.clk, .regs, .arr, .tbl, .mem, .upd, .cas, .hif, .err]
  | .migrateEntry .. =>
    [.regs, .arr, .tbl, .mem, .upd, .cas, .hif, .err, .fwu]
  | .vfFlr .. | .vfDisable .. =>
    [.regs, .arr, .tbl, .upd, .epc, .cas, .hif, .err, .fwu]
  | .doorbellSqTail .. | .doorbellCqHead .. =>
    [.regs, .tbl, .pip, .upd, .cas, .hif, .prt, .err, .pwr]
  | .commit .. =>
    [.regs, .tbl, .pip, .upd, .epc, .cas, .hif, .err, .pwr]
  | .entryCommit .. =>
    [.clk, .regs, .mem, .lnk, .pip, .cas, .err, .drc, .pwr, .vbt]
  | .maintSlot .. =>
    [.regs, .arr, .tbl, .mem, .pip, .upd, .epc, .cas, .hif, .err]
  | .ringApply .. | .ringStart .. | .ringStop .. | .pfFlr =>
    [.regs, .arr, .tbl, .upd, .epc, .cas, .hif, .prt, .err, .fwu]
  | .wakeDone .. =>
    [.clk, .regs, .arr, .mem, .lnk, .pip, .upd, .cas, .err, .drc, .pwr, .fwu]
  | .startUpPhase .. =>
    [.clk, .regs, .arr, .tbl, .mem, .lnk, .pip, .tod, .hif, .err, .drc, .fwu, .vbt]
  | .pcieReset =>
    [.regs, .arr, .tbl, .mem, .pip, .upd, .epc, .cas, .hif, .prt, .err, .drc, .fwu]
  | .warmReset .. | .schemaFallback =>
    [.clk, .regs, .mwin, .arr, .tbl, .mem, .lnk, .pip, .upd, .epc, .tod, .cas, .hif, .prt, .err, .drc, .pwr,
      .fwu, .vbt]
  | .frameReceive .fcl .. | .ctrlFrame .. | .bar4Read .. | .bar4Write .. | .aliasSetWrite .. | .aliasClearWrite ..
  | .activityClear .. | .regWrite .. | .pllUnlock .. | .cdcTimeout .. | .coldReset .. | .islandReset ..
  | .mpWatchdog | .vddAuxRise | .supplyFall .. | .wakeN | .thermalTrip | .fwuPush .. | .fwuAbort ..
  | .fwuActivate .. | .fwuConfirm .. | .registerWrite .. =>
    Comp.all

/-- Every register but those listed holds the same value in two states. -/
def RegsBut (offs : List Nat) (s t : State) : Prop := ∀ off, off ∉ offs → regGet off t = regGet off s

/-- A write of v to the register at off reaches it and is refused by no check made before its register acts: the writer is
the PF, the manager, SMBus or the MP, its path is up and no crossing on it is dead, and no cause of Table 10.9 holds. -/
def Accepts (src : Party) (off : Nat) (v : Word) (s : State) : Prop :=
  (Party.fn src).val = 0 ∧ partyReaches src off s = true ∧ accessLost src off s = false ∧ writeRefusal src off v s = 0

/-- What refusing an access does (R285, R286): one more in PRT_REF_TOTAL and in the cause's own counter, REFUSED set, a newest
entry of the log laid out as Table 10.10, and nothing else. -/
structure RefusedAs (cause : Nat) (src : Party) (space : Nat) (write : Bool) (off data : Nat) (s t : State) : Prop where
  total : regGet Reg.prtRefTotal t = regGet Reg.prtRefTotal s + 1
  count : (regGet (Reg.prtRefCnt cause) t).toNat = min ((regGet (Reg.prtRefCnt cause) s).toNat + 1) 0xffffffff
  stat : regGet Reg.prtIntStat t = regGet Reg.prtIntStat s ||| 1
  log : ∃ a b : W64, t.prt.log = ((a, b) :: s.prt.log).take 32 ∧
    bits a 63 32 = (regGet Reg.prtRefTotal t).toNat ∧ bits a 31 28 = cause ∧ bits a 27 25 = (Party.source src).1 ∧
    bits a 24 19 = (Party.source src).2 ∧ bits a 18 16 = space ∧ bit a 15 = write ∧
    bits b 63 32 = off ∧ bits b 31 0 = (if write then data else 0)
  others : RegsBut [Reg.prtRefCnt cause, Reg.prtRefTotal, Reg.prtIntStat] s t
  only : Only [.regs, .prt, .err] s t

end Sys2Proof.Machine
end

