-- ==== Sys2Proof/Certificates/Slice0/Obligations.lean ====
section
/-! DEFINITION. The statements about the block, for the provers. Each names in its docstring the rules of spec/ that it rests on. -/

open Sys2Proof Sys2Proof.Machine

/-- The registers that a write changes by its access codes alone, one of each block that has such registers. -/
def plainOffsets : List Nat :=
  [Reg.lnkIntStat, Reg.lnkIntEn, Reg.lnkLaneCfg 0, Reg.lnkLaneCfg 31, Reg.prfStat, Reg.updSlack, Reg.epcIntStat, Reg.epcIntEn,
    Reg.todTrim, Reg.todSlewAmt, Reg.todPulseCfg, Reg.casCmt, Reg.casIntStat, Reg.intSumCfg, Reg.intScrubCfg, Reg.intIntStat,
    Reg.intIntEn, Reg.intAge 0, Reg.hifPciId, Reg.drcRatCfg, Reg.drcIntStat, Reg.arbBurst 0, Reg.arbIntEn, Reg.clkXingTo,
    Reg.clkIntStat, Reg.pwrCfg, Reg.pwrTmr 1, Reg.pwrTmr 4, Reg.pwrIntStat, Reg.fwuIntStat, Reg.fwuIntEn, Reg.vbtIntStat,
    Reg.prtIntStat, Reg.prtIntEn, Reg.prtRefTotal]

/-- What a write of v makes of bit i of a register, by the bit's access code: an RW bit takes the written bit, a W1C bit written 1
clears, a W1S bit written 1 sets, every other bit keeps its value (R12). -/
def accessBit (d : RegDesc) (v : Word) (i : Nat) (old : Bool) : Bool :=
  if bit d.rw i then bit v i
  else if bit d.w1c i then old && !bit v i
  else if bit d.w1s i then old || bit v i
  else old

/-- The first condition of R225 that a worker fails, as CAUSE of Table 8.17; 0 if it meets all. -/
def firstCause (f : WkFacts) : Nat :=
  if f.refused = true then 6 else if f.firmware = false ∨ f.inReset = true then 5 else if f.timeBad = true then 3
  else if f.slotBad = true then 4 else if ∃ d : Fin 8, d.val ∉ f.doms then 1 else if f.tables = false then 2 else 0

/-- STATE and CAUSE of a worker once the manager has judged it by the conditions of R225. -/
def judged (was : Nat × Nat) (f : WkFacts) : Nat × Nat :=
  if was.1 = 3 ∨ (was.1 = 4 ∧ firstCause f ≠ 0) then (3, firstCause f) else was

/-- The step: with a command at the front of the queue, the step is that command's effect on the state with the rest of the
queue. -/
def Obligations.StepRunsTheFrontCommand : Prop :=
  ∀ (c : Instr) (rest : List Instr) (s : State), s.pending = c :: rest → step s = exec c { s with pending := rest }

/-- Log entry 1 (the model's choice): on an empty queue the step is 1 ns of time. PCLK runs in RUN and IDLE, while the array
PLL is locked, at 1.70, 1.28 and 0.85 GHz, and the frame counter counts its cycles modulo 64 (R127). The queue stays empty,
the 32.768 kHz counter counts, and nothing else but the time-driven components changes. Where the spec leaves a corner open
the model's choice is that of log entries 1 and 33. -/
def Obligations.AnEmptyQueueLetsOneNanosecondPass : Prop :=
  ∀ s : State, s.pending = [] → ∃ t, step s = .next t ∧
    t.pending = [] ∧ t.clk.now = s.clk.now + 1 ∧
    (awake s = true → flagGet Reg.clkStat 0 s = true → 100 * t.clk.pclk + t.clk.pphase = 100 * s.clk.pclk + s.clk.pphase + oppRate (oppCur s) ∧
      t.clk.pphase < 100 ∧ t.clk.slot = (s.clk.slot + (t.clk.pclk - s.clk.pclk)) % 64) ∧
    (awake s = false ∨ flagGet Reg.clkStat 0 s = false → t.clk.pclk = s.clk.pclk ∧ t.clk.slot = s.clk.slot) ∧
    t.vbt.rtc = (s.vbt.rtc + (s.vbt.rtcPart + 32768) / 1000000000) % 2 ^ 48 ∧ t.vbt.rtcPart = (s.vbt.rtcPart + 32768) % 1000000000 ∧
    Only [.clk, .regs, .pip, .tod, .cas, .err, .pwr, .vbt] s t

/-- The state after reset meets the invariant. -/
def Obligations.ResetMeetsTheInvariant : Prop :=
 Machine.Inv State.reset

/-- Every step keeps the invariant: memories in canonical form, reserved bits 0, the frame counter below 64 and time-of-day
within 48 bits of seconds. -/
def Obligations.EveryStepKeepsTheInvariant : Prop :=
  ∀ s t : State, Machine.Inv s → step s = .next t → Machine.Inv t

/-- The frame of every command: it changes only the components that `writes` lists for it, and never the queue. -/
def Obligations.EveryCommandChangesOnlyItsComponents : Prop :=
  ∀ (c : Instr) (s t : State), exec c s = .next t → Only (writes c) s t ∧ t.pending = s.pending

/-- No command stops the block: each answers a next state, whatever its operands and the state. The queue is first in, first
out: two waiting commands are run in their order, each on what the one before left. -/
def Obligations.EveryCommandCompletesInTheOrderQueued : Prop :=
  (∀ (c : Instr) (s : State), ∃ t, exec c s = .next t) ∧
  (∀ (c d : Instr) (rest : List Instr) (s : State), s.pending = c :: d :: rest →
      ∃ t u, step s = .next t ∧ exec c { s with pending := d :: rest } = .next t ∧ t.pending = d :: rest ∧
        step t = .next u ∧ exec d { t with pending := rest } = .next u ∧ u.pending = rest)

/-- After reset every register whose field map gives a value other than 0 reads that value (R11), every memory byte reads 0
(log entry 7, the model's choice), no search, command or entry is in flight, and the queue is empty. Where the spec leaves a
corner open the model's choice is that of log entries 3, 6, 7 and 10. -/
def Obligations.ResetLeavesTheFieldMapsValues : Prop :=
  regGet Reg.glbId State.reset = 0x64000200 ∧ (∀ n : Fin 72, regGet (Reg.glbBankOwn n.val) State.reset = 0x01000000) ∧
  regGet Reg.lnkGrpMap State.reset = 0x50 ∧ (∀ g : Fin 4, regGet (Reg.lnkGrpCtl g.val) State.reset = 2) ∧
  (∀ p : Fin 2, regGet (Reg.lnkCrd p.val) State.reset = 0x8000) ∧ regGet Reg.updSlack State.reset = 0x00010040 ∧
  regGet Reg.todSlewRate State.reset = 1000 ∧ regGet Reg.casCmt State.reset = 0x006400c8 ∧
  regGet Reg.intScrubCfg State.reset = 12000 ∧ regGet Reg.intRemapCfg State.reset = 0x80000010 ∧
  regGet Reg.intAgeCfg State.reset = 0x6040 ∧ regGet Reg.intErrCfg State.reset = 0x640 ∧
  (∀ i : Fin 272, regGet (Reg.intAge i.val) State.reset = 0xff) ∧ regGet Reg.hifPciId State.reset = 0x64000000 ∧
  regGet Reg.drcRefCfg State.reset = 0x1004 ∧ regGet Reg.drcRatCfg State.reset = 0x10002001 ∧
  regGet Reg.arbPrio State.reset = 0x00fac688 ∧ (∀ i : Fin 2, regGet (Reg.arbBurst i.val) State.reset = 0x10101010) ∧
  regGet Reg.arbStat State.reset = 0x08000000 ∧ regGet Reg.clkXingMode State.reset = 2 ∧
  regGet Reg.clkXingTo State.reset = 0x80000004 ∧ regGet Reg.pwrNext State.reset = 0x0fffffff ∧
  regGet Reg.pwrPmbCfg State.reset = 0x0003640f ∧
  (∀ a, memByte State.reset.mem.pantry a = 0 ∧ memByte State.reset.mem.scratch a = 0 ∧ memByte State.reset.mem.dram a = 0) ∧
  State.reset.pip.flight = [] ∧ State.reset.upd.cmds = [] ∧ State.reset.arr.dir = [] ∧ State.reset.pending = []

/-- R12 and R287: an accepted aligned 32-bit write of a register with no behaviour of its own changes each bit by its access
code; where an SMBus write of the register came in the same MCLK cycle, that one acts last. No other register changes and no
other component but the note that a setting waits to be saved and that of an SMBus write. -/
def Obligations.RegisterWritesFollowTheAccessCodes : Prop :=
  ∀ (a : Access) (v : W64) (s : State) (d : RegDesc), Machine.Inv s → a.space = .bar0 → a.full = true → a.len = 4 → a.poisoned = false →
    a.off ∈ plainOffsets → regDesc a.off = some d → Accepts a.src a.off (BitVec.ofNat 32 v.toNat) s →
    ∃ t, exec (.registerWrite a v) s = .next t ∧
      (∀ i, i < 32 → bit (regGet a.off t) i = (match smbOwed a.src a.off s with
        | some w => accessBit d w i (accessBit d (BitVec.ofNat 32 v.toNat) i (bit (regGet a.off s) i))
        | none => accessBit d (BitVec.ofNat 32 v.toNat) i (bit (regGet a.off s) i))) ∧
      RegsBut [a.off] s t ∧ Only [.regs, .fwu, .prt] s t ∧ t.prt = { s.prt with smbWrote := t.prt.smbWrote }

/-- R285 and R286 of a register write: a full aligned 32-bit write that reaches a register and is refused before the register
acts is recorded with the first cause that applies, and changes nothing else. Where the spec leaves a corner open the model's
choice is that of log entry 30. -/
def Obligations.RefusedRegisterWritesAreOnlyRecorded : Prop :=
  ∀ (a : Access) (v : W64) (s : State), Machine.Inv s → a.space = .bar0 → a.full = true → a.len = 4 → a.off % 4 = 0 →
    (Party.fn a.src).val = 0 → a.src ≠ .smbus → partyReaches a.src a.off s = true → (regDesc a.off).isSome = true →
    accessLost a.src a.off s = false → writeRefusal a.src a.off (BitVec.ofNat 32 v.toNat) s ≠ 0 →
    ∃ t, exec (.registerWrite a v) s = .next t ∧
      RefusedAs (writeRefusal a.src a.off (BitVec.ofNat 32 v.toNat) s) a.src (logSpace a.src) true a.off (v.toNat % 2 ^ 32) s t

/-- R265: an aligned 64-bit access is performed as two 32-bit accesses, the lower offset first, with nothing between them.
R265 and R285: an access of any other form is not performed. It touches no register's RC field, a read of it returns 0, and
it is refused with cause WIDTH where a register stands, NOREG where none does; a write that its party's ownership or rights
refuse is refused for that. -/
def Obligations.AccessesOfOtherFormsAreSplitOrNotPerformed : Prop :=
  (∀ (a : Access) (v : W64) (s : State), a.space = .bar0 → a.full = true → a.len = 8 → a.off % 8 = 0 →
      partyReaches a.src a.off s = true →
      (∃ t u, exec (.registerWrite { a with len := 4 } v) s = .next t ∧ exec (.registerWrite a v) s = .next u ∧
        (partyReaches a.src (a.off + 4) t = true →
          exec (.registerWrite { a with len := 4, off := a.off + 4 } (v >>> 32)) t = .next u)) ∧
      (∃ x y t u, read32 a.src a.off s = (x, t) ∧ read32 a.src (a.off + 4) t = (y, u) ∧
        exec (.registerRead a) s = .next (answer (.reg a.src y) (answer (.reg a.src x) u)))) ∧
  (∀ (a : Access) (v : W64) (s : State), Machine.Inv s → a.space = .bar0 → a.len ≠ 0 → accessForm a = 0 → a.src ≠ .smbus → a.off < 2 ^ 32 →
      partyReaches a.src a.off s = true →
      (∃ t, exec (.registerWrite a v) s = .next t ∧
        RefusedAs (if (Party.fn a.src).val = 0 ∧ partyRefusal a.src a.off s ≠ 0 then partyRefusal a.src a.off s
          else if touchesReg a s then 6 else 5) a.src (logSpace a.src) true a.off (v.toNat % 2 ^ 32) s t) ∧
      (∃ t u, exec (.registerRead a) s = .next t ∧ t = answer (.reg a.src 0) u ∧
        RefusedAs (if touchesReg a s then 6 else 5) a.src (logSpace a.src) false a.off 0 s u))

/-- R12, R265, R336 and R352: an aligned 32-bit read of a served register answers its value and clears its RC fields; no
other register changes, and a register without RC fields keeps its value; PEAK of UPD_INFLIGHT starts again at the commands
in flight. Before PHASE 5 the reset value is answered. In SLEEP and DEEP a register that is not served answers 0, refused
with cause 4. Where the spec leaves a corner open the model's choice is that of log entry 49. -/
def Obligations.RegisterReadsAnswerAndClear : Prop :=
  ∀ (a : Access) (s : State) (d : RegDesc), Machine.Inv s → a.space = .bar0 → a.full = true → a.len = 4 → a.off % 4 = 0 →
    (Party.fn a.src).val = 0 → a.src ≠ .smbus → partyReaches a.src a.off s = true → regDesc a.off = some d →
    accessLost a.src a.off s = false →
    let asleep := (powerState s = 2 ∨ powerState s = 3) ∧ servedAsleep a.off = false
    (startPhase s < 5 → exec (.registerRead a) s = .next (answer (.reg a.src d.reset) s)) ∧
    (5 ≤ startPhase s → ¬asleep →
      ∃ t, exec (.registerRead a) s = .next (answer (.reg a.src (regValue a.src a.off s)) t) ∧
        regGet a.off t = (let w := regGet a.off s &&& ~~~d.rc
          if a.off = Reg.updInflight then putBits w 28 16 s.upd.cmds.length else w) ∧ RegsBut [a.off] s t ∧
        Only (if a.off = Reg.todSlewAmt then [.clk, .regs] else [.regs]) s t) ∧
    (5 ≤ startPhase s → asleep →
      ∃ t, exec (.registerRead a) s = .next (answer (.reg a.src 0) t) ∧ RefusedAs 4 a.src (logSpace a.src) false a.off 0 s t)

/-- R36 and R38: each cell, data or epoch, matches a key bit according to Table 2.2, and a slice matches only when all 80
data cells and the epoch cell match; the slices of an entry all get its epoch bits by Table 2.3. So a slice written from an
entry compares, under the key bit of epoch e, exactly the subkey bits whose mask bit is 1; an entry written into the slots of
its index in one pan is what a search of that pan compares there; and written as free it matches no subkey. -/
def Obligations.AWrittenEntryIsWhatIsSearched : Prop :=
  (let cell (x y k : Bool) : Bool := match x, y with
      | false, false => true
      | true, false => k
      | false, true => !k
      | true, true => false
    (∀ (c : Slice) (k : BitVec 80) (epoch : Bool), c.matches k epoch = true ↔
      (∀ i, i < 80 → cell (c.x.getLsbD i) (c.y.getLsbD i) (k.getLsbD i) = true) ∧ cell c.xe c.ye epoch = true) ∧
    (∀ (e : Entry) (i : Nat), (entrySlice e i).xe = !e.e0 ∧ (entrySlice e i).ye = !e.e1 ∧
      (entrySlice e i).okX = true ∧ (entrySlice e i).okY = true) ∧
    (∀ (e : Entry) (i : Nat) (k : BitVec 80) (epoch : Bool), (entrySlice e i).matches k epoch = true ↔
      ((if epoch then e.e1 else e.e0) = true ∧ k &&& keySlice e.mask i = keySlice e.key i &&& keySlice e.mask i))) ∧
  (∀ (width idx : Nat) (e : Entry) (k : BitVec 640) (epoch : Bool) (s : State), Machine.Inv s → width < 3 → idxAligned width idx = true →
      let t := writeEntrySlots width idx (some e) s
      let u := writeEntrySlots width idx none s
      (entryMatches width (idx / 16384) (idx % 16384) k epoch t = true ↔
        ((if epoch then e.e1 else e.e0) = true ∧ ∀ i, i < panSlices width →
          keySlice k i &&& keySlice e.mask i = keySlice e.key i &&& keySlice e.mask i)) ∧
      entryMatches width (idx / 16384) (idx % 16384) k epoch u = false ∧
      (∀ x, x ∉ entrySlots width idx → (∀ r ∈ s.arr.remaps, r.pan ≠ idx / 16384) →
        slotKey x s ∉ (entrySlots width idx).map (slotKey · s) → sliceAt x t = sliceAt x s ∧ sliceAt x u = sliceAt x s))

/-- R48: the tournament's winner is the report of a hit that no other hit beats, by lower rank and then lower index; without
a hit there is no winner; and every arrangement of the same reports of different indices gives the same winner. -/
def Obligations.TournamentPicksTheBestReport : Prop :=
  ∀ rs : List Report,
    ((∀ r ∈ rs, r.hit = false) → tournament rs = Report.miss) ∧
    ((∃ r ∈ rs, r.hit = true) → tournament rs ∈ rs ∧ (tournament rs).hit = true ∧
      ∀ r ∈ rs, r.hit = true → (tournament rs).rank < r.rank ∨ ((tournament rs).rank = r.rank ∧ (tournament rs).index ≤ r.index)) ∧
    (∀ qs, qs.Perm rs → (∀ a ∈ rs, ∀ b ∈ rs, a.hit = true → b.hit = true → a.index = b.index → a = b) →
      tournament qs = tournament rs)

/-- R47: an activated pan reports the entry at the lowest position, of those aligned for its width, of which every slice
matches, with the rank stored beside it; a pan in which none matches reports a miss. -/
def Obligations.APanReportsItsLowestMatch : Prop :=
  ∀ (width p : Nat) (k : BitVec 640) (e : Bool) (s : State), Machine.Inv s →
    let holds (pos : Nat) : Prop := idxAligned width (p * 16384 + pos) = true ∧ entryMatches width p pos k e s = true
    (∀ pos, pos < 16384 → holds pos → (∀ q, q < pos → ¬ holds q) →
      panReport width p k e s = ⟨true, false, p * 16384 + pos, bits (rankAt (p * 16384 + pos) s) 15 0⟩) ∧
    ((∀ pos, pos < 16384 → ¬ holds pos) → panReport width p k e s = Report.miss)

/-- DISPATCH (R20 to R23, R88, R112, R116, R132, R138). In its next decision cycle c a pipeline decides on its first visible
search: an accepted one enters flight with its epoch vector, its issue slot and the cycle in which its response leaves, and
its core words leave the FIFO; one whose tag is in flight is discarded and counted; one that cannot go, or any while dispatch
is stopped, is held and counted. R20, R21, R23, R88, R116, R132 and R133: a search that nothing holds is dispatched. Dispatch
runs, no tag of any pipeline is in flight, no switch of the schedule is ahead, the slot of its alignment is in the mask and
not claimed, its profile takes it, and the word positions of its response are offered and free: it issues 28 cycles after its
decision, and its response leaves 144 + G cycles after it. R21, R88, R116, R132, R136, R233: what an acceptance means. The
tag was not in flight; the issue slot is the first of the pipeline's mask that no earlier search has claimed, less than G
cycles after alignment and not past a switch that comes after the alignment; and the search gets the REASON of the first
check it fails, none where the profile's header word fails parity. Where the spec leaves a corner open the model's choice is
that of log entries 38, 41, 66, 75, 76, 77 and 78. -/
def Obligations.DispatchDecidesOnTheFirstVisibleSearch : Prop :=
  (∀ (p : Pipe) (v : Visible) (s : State), Machine.Inv s → firstVisible (Pipe.idx p) s = some v →
      let c := max (tabGet 0 s.pip.nextDec (Pipe.idx p)) v.visAt
      let h := (frameWords v.cores).headD 0
      let n := v.cores.length
      c ≤ s.clk.pclk →
      (∀ reason w, dispatchStopped s = false → decideSearch p v c s = .accept reason w →
        ∃ t f, exec (.dispatch p) s = .next t ∧ t.pip.flight = s.pip.flight ++ [f] ∧ f.pipe = p ∧ f.stage = .dispatched ∧
          f.hdr = h ∧ f.key = ((frameWords v.cores).drop 1).take (bits h 39 36) ∧ f.stamp = v.stamp ∧ f.vec = epochVector v.stamp s ∧
          f.reject = reason ∧ f.disp = c ∧ f.issue = c + 28 + w ∧ f.gap = maskGap (schedFor (c + 28) s) (Pipe.idx p) ∧
          f.leave = c + 144 + f.gap + (if cascaded p s then cascadeCycles s else 0) ∧
          (grpAt v.grp t).cores = (grpAt v.grp s).cores.drop n ∧
          (grpAt v.grp t).rp = ((grpAt v.grp s).rp + n) % 2048 ∧ tabGet 0 t.pip.nextDec (Pipe.idx p) = c + 1 ∧
          Only [.regs, .lnk, .pip, .cas, .hif, .err] s t) ∧
      (dispatchStopped s = false → decideSearch p v c s = .busy →
        ∃ t, exec (.dispatch p) s = .next t ∧ t.pip.flight = s.pip.flight ∧
          (grpAt v.grp t).cores = (grpAt v.grp s).cores.drop n ∧ tabGet 0 t.pip.nextDec (Pipe.idx p) = c + 1 ∧
          Only [.regs, .lnk, .pip, .hif, .err] s t) ∧
      ((dispatchStopped s = true ∨ ∃ a b, decideSearch p v c s = .hold a b) →
        ∃ t, exec (.dispatch p) s = .next t ∧ t.pip.flight = s.pip.flight ∧ t.lnk = s.lnk ∧
          regGet (Reg.pipQwait (Pipe.idx p)) t = regGet (Reg.pipQwait (Pipe.idx p)) s + 1 ∧ tabGet 0 t.pip.nextDec (Pipe.idx p) = c + 1 ∧
          Only [.regs, .pip, .hif, .err] s t)) ∧
  (∀ (p : Pipe) (v : Visible) (q : Profile) (s : State), Machine.Inv s → firstVisible (Pipe.idx p) s = some v →
      let i := Pipe.idx p
      let c := max (tabGet 0 s.pip.nextDec i) v.visAt
      let h := (frameWords v.cores).headD 0
      let g := maskGap s.pip.schedActive i
      let pos := txPos (c + 144 + g) s
      c ≤ s.clk.pclk → dispatchStopped s = false → s.pip.flight = [] → s.pip.switchAt = none → isManager s = false →
      tabGet 0 s.pip.lastAlign i + tabGet 0 s.pip.lastGap i < c + 28 → tabGet 0 s.pip.nextIssue i ≤ c + 28 →
      inMask s.pip.schedActive i (slotAt (c + 28) s) = true →
      tabFind s.tbl.profiles (bits h 47 40) = some q → prfWordBad (bits h 47 40) 0 s = false → q.enables i = true → q.keyWords = bits h 39 36 →
      (grpAt v.grp s).txHeld = [] → (∀ k, k < profWords q s + 2 → alignPos (grpAt v.grp s) (pos + k) = false) →
      ∃ t f, exec (.dispatch p) s = .next t ∧ t.pip.flight = [f] ∧ f.pipe = p ∧ f.grp = v.grp ∧ f.stage = .dispatched ∧ f.hdr = h ∧
        f.stamp = v.stamp ∧ f.vec = epochVector v.stamp s ∧ f.prof = q ∧ f.reject = 0 ∧ f.disp = c ∧ f.issue = c + 28 ∧
        f.leave = c + 144 + g ∧ (grpAt v.grp t).cores = (grpAt v.grp s).cores.drop v.cores.length ∧
        tabGet 0 t.pip.nextDec i = c + 1 ∧ tabGet 0 t.pip.nextIssue i = c + 29 ∧ Only [.regs, .lnk, .pip, .hif, .err] s t) ∧
  (∀ (p : Pipe) (v : Visible) (c reason w : Nat) (s : State), decideSearch p v c s = .accept reason w →
      let h := (frameWords v.cores).headD 0
      let sched := schedFor (c + 28) s
      (∀ f ∈ s.pip.flight, f.pipe = p → bits f.hdr 59 48 = bits h 59 48 → f.leave ≤ c) ∧
      w < maskGap sched (Pipe.idx p) ∧ inMask sched (Pipe.idx p) (slotAt (c + 28 + w) s) = true ∧ tabGet 0 s.pip.nextIssue (Pipe.idx p) ≤ c + 28 + w ∧
      (∀ u, u < w → tabGet 0 s.pip.nextIssue (Pipe.idx p) ≤ c + 28 + u → inMask sched (Pipe.idx p) (slotAt (c + 28 + u) s) = false) ∧
      acrossSwitch (c + 28) w s = false ∧
      reason = (if prfWordBad (bits h 47 40) 0 s = true then 0 else match tabFind s.tbl.profiles (bits h 47 40) with
        | none => 1
        | some q => if bit q.hdr (22 + (Pipe.idx p)) = false then 2 else if bits q.hdr 11 8 = bits h 39 36 then 0 else 3))

/-- ARRAY_SEARCH, VERIFY and RESPONSE_LEAVE (R23 to R26, R48, R49, R77, R82, R116, R124). The array gives each lookup the
winner among its activated pans; verify sets the status of an unguarded lookup: a miss 00, a hit whose slices, rank word and
record read good 01, any other hit 11; and the response leaves in the cycle that dispatch fixed, while a quiet search that
misses everywhere sends nothing and gives its word positions back, and a response of a group that is not UP or DRAIN is
dropped and counted. Where the spec leaves a corner open the model's choice is that of log entry 38. -/
def Obligations.SearchesPassTheirStages : Prop :=
  ∀ (p : Pipe) (i : Nat) (f : Search) (s : State), Machine.Inv s →
    (stageSearch p .dispatched s = some (i, f) → f.issue + 12 ≤ s.clk.pclk → f.reject = 0 → f.prfBad = false →
      let outs := (List.range f.prof.nlook).map fun l => sieveLookup f l s
      (∀ o ∈ outs, o.fail = 0) → (outs.map fun o => o.prim.length + o.mirr.length).sum ≤ 24 →
      ∃ t, exec (.arraySearch p []) s = .next t ∧ t.pip.flight = s.pip.flight.set i { f with stage := .searched, lks := outs.map fun o =>
          match o.desc with
          | some d => ⟨o.table, false, tournament ((reporters d.width o.prim).map fun q => panReport d.width q o.key (bit f.vec d.domain) s),
              tournament ((reporters d.width o.mirr).map fun q => panReport d.width q o.key (bit f.vec d.domain) s), LkRes.none⟩
          | none => ⟨o.table, true, Report.miss, Report.miss, LkRes.none⟩ } ∧
        Only [.regs, .pip, .hif, .err] s t ∧ (s.pip.voteBad = [] → Only [.pip] s t)) ∧
    (∀ k d, stageSearch p .searched s = some (i, f) → f.disp + 122 + f.gap ≤ s.clk.pclk → f.reject = 0 → f.sent = false → f.lks = [k] →
      k.retry = false → tableAt k.table s = some d → d.guarded = false → k.prim.bad = false →
      let slots := entrySlots d.width k.prim.index
      let u := recordUnit d k.prim.index false
      let good := (∀ x ∈ slots, (sliceAt x s).okX = true ∧ (sliceAt x s).okY = true) ∧ rankOk (rankAt k.prim.index s) = true ∧
        ∀ w ∈ unitWords u (resultUnits d), (pantryRead w s).kind ≠ 2
      ∃ t r, exec (.verify p) s = .next t ∧ t.pip.flight = s.pip.flight.set i { f with stage := .verified, lks := [{ k with res := r }] } ∧
        (k.prim.hit = false → r = ⟨0, 0, 0, 0, []⟩ ∧ Only [.pip] s t) ∧
        (k.prim.hit = true → good → r = ⟨1, resultSrc s, k.prim.index, k.prim.rank, (List.range (resultUnits d)).map fun j => unitRead (u + j) s⟩ ∧
          (∀ x ∈ slots, tabGet true t.arr.act x = true)) ∧
        (k.prim.hit = true → ¬ good → r.status = 3)) ∧
    (stageSearch p .verified s = some (i, f) → f.leave ≤ s.clk.pclk → f.grp < 4 → f.casc = false →
      let st := fieldGet (Reg.lnkGrpStat f.grp) 31 29 s
      let rs := f.lks.map (·.res)
      let quiet := f.reject = 0 ∧ bits f.hdr 63 60 = 2 ∧ ∀ r ∈ rs, r.status = 0
      ∃ t, exec (.responseLeave p) s = .next t ∧ t.pip.flight = s.pip.flight.eraseIdx i ∧
        (quiet → t.lnk.tx = s.lnk.tx ∧ t.regs = s.regs ∧
          (grpAt f.grp t).txHeld = (grpAt f.grp s).txHeld.filter fun h => h.1 != txPos f.leave s) ∧
        (¬ quiet → (st = 5 ∨ st = 6) →
          t.lnk.tx = s.lnk.tx ++ [(f.grp, if f.reject = 0 then resultFrame f rs s else rejectFrame f s)] ∧
          regGet (Reg.lnkCnt (16 * f.grp + 14)) t = regGet (Reg.lnkCnt (16 * f.grp + 14)) s + 1) ∧
        (¬ quiet → st ≠ 5 → st ≠ 6 → t.lnk.tx = s.lnk.tx ∧
          (regGet (Reg.lnkCnt (16 * f.grp + 13)) t).toNat = min ((regGet (Reg.lnkCnt (16 * f.grp + 13)) s).toNat + 1) 0xffffffff) ∧
        Only [.regs, .lnk, .pip, .err] s t)

/-- R187: at retirement the domain's recorded T is cleared; every search then selects the epoch that the flip made current,
whatever its stamp; and when reconciliation completes, RECON clears and RETIRE_d sets. Beside it, of R22, R33, R40, R178,
R182 and R184: bit d of a search's epoch vector is the low bit of the epoch live at its stamp, the next one from a recorded T
on and the old one before it; a PENDING domain flips when time-of-day reaches its T; retirement waits for the last search
stamped before T and has the journalled slots settled; and a discarded batch leaves the domain IDLE. -/
def Obligations.EpochsFlipRetireAndReconcile : Prop :=
  (∀ (stamp d : Nat) (s : State), d < 8 →
      let m := domAt d s
      let odd := (epochVector stamp s).getLsbD d
      (m.t = none → odd = decide (m.cnt % 2 = 1)) ∧
      (∀ t, m.t = some t → m.flipped = false → m.st ≠ .prepared →
        odd = decide ((if t ≤ stamp * 65536 then m.cnt + 1 else m.cnt) % 2 = 1)) ∧
      (∀ t, m.t = some t → m.flipped = true → 0 < m.cnt →
        odd = decide ((if t ≤ stamp * 65536 then m.cnt else m.cnt - 1) % 2 = 1))) ∧
  (∀ (d : Fin 8) (s : State), Machine.Inv s →
      let m := domAt d.val s
      let others (t : State) : Prop := ∀ k, k ≠ d.val → domAt k t = domAt k s
      (∀ t, m.t = some t → m.st = .pending → t ≤ todFrac s → xingDead 43 s = false → powerState s ≤ 1 → s.pwr.entering = none →
        ∃ u, exec (.scheduledFlip d) s = .next u ∧ domAt d.val u = { m with cnt := (m.cnt + 1) % 2 ^ 32, st := .idle, recon := true, owner := 0, flipped := true, old := m.journal, journal := [] } ∧ bit (regGet Reg.epcIntStat u) d.val = true ∧ others u ∧
          RegsBut [Reg.epcIntStat] s u ∧ Only [.regs, .epc, .err] s u) ∧
      (∀ t, m.t = some t → m.st = .pending → todFrac s < t → exec (.scheduledFlip d) s = .next s) ∧
      (∀ t, m.t = some t → m.flipped = true → noneBefore t s = true →
        ∃ u, exec (.epochRetire d) s = .next u ∧ domAt d.val u = { m with t := none, flipped := false } ∧ others u ∧
          (∀ x td e, x ∈ m.old → tableAt x.2 s = some td → dirAt x.1 s = some e → (e.live m.cnt = false ∨ (e.e0 && e.e1) = false) →
            ∃ q ∈ u.arr.mreqs, q.idx = x.1 ∧ q.tag = .recon d.val ∧ q.entry = (if e.live m.cnt then some e.both else none)) ∧
          u.arr.slices = s.arr.slices ∧ u.arr.dir = s.arr.dir ∧ Only [.arr, .epc] s u) ∧
      (∀ t, m.t = some t → noneBefore t s = false → exec (.epochRetire d) s = .next s) ∧
      (m.recon = true → m.t = none → (∀ q ∈ s.arr.mreqs, q.tag ≠ .recon d.val) →
        ∃ u, exec (.reconciliationDone d) s = .next u ∧ domAt d.val u = { m with recon := false, hold := false, old := [] } ∧
          bit (regGet Reg.epcIntStat u) (8 + d.val) = true ∧ others u ∧ RegsBut [Reg.epcIntStat] s u ∧ Only [.regs, .epc, .err] s u) ∧
      (m.discarding = true → (∀ q ∈ s.arr.mreqs, q.tag ≠ .discard d.val) →
        ∃ t u, exec (.discardDone d) s = .next t ∧ domAt d.val u = { m with st := .idle, owner := 0, journal := [], discarding := false } ∧ bit (regGet Reg.epcIntStat u) (16 + d.val) = true ∧ others u ∧ Only [.regs, .epc, .err] s u ∧
          ((∀ c ∈ s.upd.cmds, c.stage ≠ .running) → t = u) ∧
          (∀ c, s.upd.cmds.find? (fun c => decide (c.stage = .running) && opOf c.hdr == 0x21 && domOf c.hdr == d.val) = some c →
            t = complete c.id 0 0 0 0 u)))

/-- BATCH_BEGIN, BATCH_END, COMMIT and COMMIT_AT (R178 to R184, Tables 6.9 and 7.2): a batch opens on an IDLE domain, whose
owner its ring becomes, and any other domain is BUSY; its end closes it with the number of its slots, or discards it; a
commit by its ring flips the domain at once, with T the time-of-day, or records T for later, and on a manager the workers are
asked first; T too early is LATE_TIME and T more than a day ahead malformed. -/
def Obligations.BatchesOpenCloseAndCommit : Prop :=
  ∀ (n : Nat) (c : Cmd) (s : State), Machine.Inv s →
    let d := domOf c.hdr
    let m := domAt d s
    let prepared (at_ : Nat) (t : State) : Prop := (cmdAt n t).map (·.stage) = some .running ∧ domAt d t = m ∧
      t.cas.commit = some { cmd := n, dom := d, t := at_, cseq := s.cas.cseq, acks := [],
                            due := s.clk.now + 1000 * fieldGet Reg.casCmt 31 16 s }
    let only (u : State) : Prop := (∀ k, k ≠ d → domAt k u = domAt k s) ∧ Only [.epc] s u
    (readyCmd n [0x20] s = some c →
      (m.st ≠ .idle → exec (.batchBegin n) s = .next (complete n 0xb 0 0 0 s)) ∧
      (m.st = .idle → ∃ u, exec (.batchBegin n) s = .next (complete n 0 0 0 0 u) ∧
        domAt d u = { m with st := .open_, owner := c.ring, hold := m.recon } ∧ only u)) ∧
    (readyCmd n [0x21] s = some c →
      ((m.st ≠ .open_ ∨ m.owner ≠ c.ring ∨ m.discarding = true) → exec (.batchEnd n) s = .next (complete n 6 0 0 0 s)) ∧
      (m.st = .open_ → m.owner = c.ring → m.discarding = false → optBit c.hdr 51 = false →
        (m.recon = true → exec (.batchEnd n) s = .next s) ∧
        (m.recon = false → ∃ u, exec (.batchEnd n) s = .next (complete n 0 0 0 (journalSlots m.journal s) u) ∧
          domAt d u = { m with st := .closed } ∧ only u)) ∧
      (m.st = .open_ → m.owner = c.ring → m.discarding = false → optBit c.hdr 51 = true →
        ∃ t, exec (.batchEnd n) s = .next t ∧ domAt d t = { m with discarding := true } ∧
          (cmdAt n t).map (·.stage) = some .running ∧ (∀ k, k ≠ d → domAt k t = domAt k s) ∧ t.arr.slices = s.arr.slices ∧
          Only [.arr, .upd, .epc] s t)) ∧
    (readyCmd n [0x22] s = some c → isWorker s = false →
      ((m.st ≠ .closed ∨ owns c m = false) → exec (.commit n) s = .next (complete n 6 0 0 0 s)) ∧
      (m.st = .closed → owns c m = true → s.cas.commit.isSome = true → exec (.commit n) s = .next s) ∧
      (m.st = .closed → owns c m = true → s.cas.commit = none → cascadeCommits s = true →
        ∃ t, exec (.commit n) s = .next t ∧ prepared (todFrac s + casLead s) t) ∧
      (m.st = .closed → owns c m = true → s.cas.commit = none → cascadeCommits s = false → s.pwr.entering = none →
        ∃ u, exec (.commit n) s = .next (complete n 0 0 0 ((m.cnt + 1) % 2 ^ 32) u) ∧
          domAt d u = { m with cnt := (m.cnt + 1) % 2 ^ 32, st := .idle, recon := true, owner := 0, t := some (todFrac s), flipped := true, old := m.journal, journal := [] } ∧
          (∀ k, k ≠ d → domAt k u = domAt k s) ∧ bit (regGet Reg.epcIntStat u) d = true ∧ RegsBut [Reg.epcIntStat] s u ∧
          Only [.regs, .err, .epc] s u)) ∧
    (readyCmd n [0x23] s = some c → isWorker s = false → s.cas.commit = none → m.st = .closed → owns c m = true →
      let t := (bits (c.word 1) 63 16 * 1000000000 + bits (c.word 2) 63 32) * 65536 + bits (c.word 2) 31 16
      let now := todFrac s
      let lead := if cascadeCommits s then casLead s else 1000 * 65536
      (now + 86400 * 1000000000 * 65536 < t → exec (.commitAt n) s = .next (complete n 9 0 1 0 s)) ∧
      (t < now + lead → lead ≤ 86400 * 1000000000 * 65536 → exec (.commitAt n) s = .next (complete n 7 0 0 m.cnt s)) ∧
      (now + lead ≤ t → t ≤ now + 86400 * 1000000000 * 65536 → cascadeCommits s = true →
        ∃ u, exec (.commitAt n) s = .next u ∧ prepared t u) ∧
      (now + lead ≤ t → cascadeCommits s = false → t ≤ now + 86400 * 1000000000 * 65536 →
        ∃ u, exec (.commitAt n) s = .next (complete n 0 0 0 ((m.cnt + 1) % 2 ^ 32) u) ∧
          domAt d u = { m with st := .pending, t := some t, owner := 0 } ∧ only u))

/-- SIEVE_WORD_REWRITE and DESCRIPTOR_WORD_REWRITE (R59, R233): the word that fails parity takes its copy's value, with good
parity, and no other word changes, where PCLK runs. -/
def Obligations.BadWordsAreRewrittenFromTheirCopies : Prop :=
  ∀ s : State, Machine.Inv s → awake s = true →
    (∀ (t : Fin 128) (bucket : Option (Fin 1024)), let b := (bucket.map Fin.val).getD 1024
      (maskAt t.val b s).ok = false →
      ∃ u, exec (.sieveWordRewrite t bucket) s = .next u ∧ (maskAt t.val b u).mask = tabGet 0 s.tbl.maskDir (maskKey t.val b) ∧
        (maskAt t.val b u).ok = true ∧ maskKey t.val b ∉ u.tbl.maskFix ∧
        (∀ x c, maskKey x c ≠ maskKey t.val b → maskAt x c u = maskAt x c s) ∧ u.tbl.tables = s.tbl.tables ∧ Only [.tbl] s u) ∧
    (∀ (n : Fin 256) (w : Fin 73) (p q : Profile), prfWordBad n.val w.val s = true → tabFind s.tbl.prfDram n.val = some q →
      tabFind s.tbl.profiles n.val = some p →
      ∃ u p', exec (.descriptorWordRewrite (.profile n w)) s = .next u ∧ tabFind u.tbl.profiles n.val = some p' ∧
        (w.val = 0 → p' = { p with hdr := q.hdr }) ∧
        (1 ≤ w.val → w.val < 9 → p' = { p with lks := p.lks.set (w.val - 1) (q.lks.getD (w.val - 1) 0) }) ∧
        (9 ≤ w.val → p' = { p with segs := p.segs.set (w.val - 9) (q.segs.getD (w.val - 9) 0) }) ∧
        (∀ k, tabGet false u.tbl.prfBad k = if k = prfWord n.val w.val then false else tabGet false s.tbl.prfBad k) ∧
        (∀ k, k ≠ n.val → tabFind u.tbl.profiles k = tabFind s.tbl.profiles k) ∧ u.tbl.tables = s.tbl.tables ∧ Only [.tbl] s u) ∧
    (∀ (n : Fin 128) (d o : TableDesc), tabGet false s.tbl.tblBad n.val = true → tabFind s.tbl.tblDram n.val = some d →
      tableAt n.val s = some o →
      ∃ u, exec (.descriptorWordRewrite (.table n)) s = .next u ∧ tableAt n.val u = some { d with life := o.life } ∧
        tabGet false u.tbl.tblBad n.val = false ∧ (∀ k, k ≠ n.val → tableAt k u = tableAt k s ∧
          tabGet false u.tbl.tblBad k = tabGet false s.tbl.tblBad k) ∧ u.tbl.profiles = s.tbl.profiles ∧ Only [.tbl] s u)

/-- DRAM_UNCORRECTABLE (R252, Table 9.6): every error is counted for its channel and in INT_CNT_17 and raises its event.
Outside the device's areas the line is marked. In the golden area an item whose array copy is good is rewritten from the
array, and an entry whose array copy fails too is freed in every copy. In the directory's area the directory is rebuilt from
the golden rows. Where the spec leaves a corner open the model's choice is that of log entry 46. -/
def Obligations.DramErrorsAreCountedAndHandledByRegion : Prop :=
  ∀ (line : Nat) (item : Option ScrubItem) (s : State), Machine.Inv s → awake s = true →
    let addr := 64 * line
    ∃ t, exec (.dramUncorrectable line item) s = .next t ∧
      (regGet (Reg.drcCnt (2 + line % 2)) t).toNat = min ((regGet (Reg.drcCnt (2 + line % 2)) s).toNat + 1) 0xffffffff ∧
      (regGet (Reg.intCnt 17) t).toNat = min ((regGet (Reg.intCnt 17) s).toNat + 1) 0xffffffff ∧
      bit (regGet Reg.drcIntStat t) 0 = true ∧ bit (regGet Reg.intIntStat t) 8 = true ∧
      t.arr.slices = s.arr.slices ∧ t.mem.dram = s.mem.dram ∧
      (inArea 0 addr s = false → inArea 1 addr s = false → inArea 2 addr s = false → (inArea 3 addr s && isManager s) = false →
        tabGet false t.mem.dramBad line = true ∧ (∀ k, k ≠ line → tabGet false t.mem.dramBad k = tabGet false s.mem.dramBad k) ∧
        t.arr = s.arr) ∧
      (∀ it, inArea 0 addr s = true → item = some it → itemLost it s = [] → t.arr.mreqs = s.arr.mreqs ∧ t.arr.dir = s.arr.dir ∧
        (∀ p r n d prim e, it = .row p r → itemEntries it s = [(n, d, prim)] → tabFind s.arr.gold prim = some e →
          tabFind t.arr.gold prim = some (e.fromArray d prim s)) ∧
        (∀ w u, it = .word w → u / 2 = w.val → (unitOwner u s).isSome = true → tabGet 0 t.arr.goldRec u = unitRead u s)) ∧
      (∀ it n d prim e, inArea 0 addr s = true → item = some it → itemLost it s = [(n, d, prim)] → dirAt prim s = some e →
        ∀ c ∈ copies d prim, ∃ q ∈ t.arr.mreqs, q.idx = c ∧ q.table = n ∧ q.entry = none) ∧
      (inArea 0 addr s = false → inArea 1 addr s = true → s.arr.golds = [] →
        t.arr.dir = s.arr.gold.filter fun x => x.2.e0 || x.2.e1) ∧
      Only [.regs, .arr, .mem, .upd, .hif, .err] s t

/-- MAINT_SLOT (R28 to R31, R35, R39, R236, R238, R242, R245, Table 1.5): the first M slot not used serves, in this order,
the read-back of a repair, the write of a repair from the golden copy, a row of a divergence check, a scrub read of a hob
behind its pace, the Spatula's first row write, the remap copier, and a scrub read; then the Spatula's plans go on. A row
write that clears the E bits carries the data cells of the golden copy and starts the hold of 160 PCLK. Where the spec leaves
a corner open the model's choice is that of log entries 43 and 64. -/
def Obligations.AnMSlotServesTheFirstRequester : Prop :=
  ∀ (h : Fin 16) (stuck : Bool) (c : Nat) (s : State), Machine.Inv s → slotsRun s = true → xingDead (26 + h.val) s = false →
    nextMSlot h.val s = some c → searchesDone c s = true →
    let serves (P : State → Prop) : Prop := ∃ t u, exec (.maintSlot h stuck) s = .next t ∧ t = advanceAll u ∧
      (s.upd.plans = [] → t = u) ∧ tabGet 0 u.arr.maintAt h.val = c + 1 ∧ P u
    let back := s.arr.repairs.find? fun r => r.hob == h.val && r.phase == 2
    let next := s.arr.repairs.find? fun r => r.hob == h.val && r.phase == 1
    let noDiv := ∀ x ∈ s.arr.divs, ∀ i ∈ x.unread, hobOf i ≠ h.val
    let row := s.arr.mreqs.findIdx? fun q => q.hob == h.val && q.notBefore ≤ c && !(q.tag.planNo.isNone && midMove q.prim s)
    (∀ r, back = some r →
      let agrees := rowPending r.pan r.row s = true ∨ (rowDiff r.pan r.row (physPan r.pan s) s).first = none
      serves fun u => u.arr.repairs = s.arr.repairs.filter (fun x => !(x.pan == r.pan && x.row == r.row)) ∧
        (stuck = true ∨ ¬ agrees → bit (regGet Reg.intIntStat u) 2 = true) ∧
        (stuck = false → agrees → (regGet (Reg.intCnt 5) u).toNat = min ((regGet (Reg.intCnt 5) s).toNat + 1) 0xffffffff) ∧
        u.arr.slices = s.arr.slices ∧ Only [.regs, .arr, .pip, .hif, .err] s u) ∧
    (∀ r, back = none → next = some r → rowPending r.pan r.row s = false → inService s = true →
      serves fun u => (∀ i ∈ rowSlots r.pan r.row, sliceAt i u = (goldSlot i s).1 ∧ rankAt i u = (goldSlot i s).2) ∧
        u.arr.repairs = s.arr.repairs.map (fun x => if x.pan = r.pan ∧ x.row = r.row then { x with phase := 2 } else x) ∧
        u.arr.dir = s.arr.dir ∧ u.arr.gold = s.arr.gold ∧ Only [.regs, .arr, .mem, .pip, .err, .hif] s u) ∧
    (∀ x rest i, back = none → next = none → s.arr.divs = x :: rest → x.unread.find? (fun i => hobOf i == h.val) = some i →
      serves fun u => u.arr.divs = { x with unread := x.unread.filter (· != i) } :: rest ∧ u.arr.slices = s.arr.slices ∧
        Only [.regs, .arr, .pip, .hif, .err] s u) ∧
    (back = none → next = none → noDiv → (behindPace h.val s = true ∨ (row = none ∧ hobRemap h.val s = none)) →
      tabGet 0 s.arr.scrubPos h.val < 65536 →
      serves fun u => regGet (Reg.intCnt 20) u = regGet (Reg.intCnt 20) s + 1 ∧
        u.arr = { s.arr with maintAt := u.arr.maintAt, scrubPos := u.arr.scrubPos, scrubbed := u.arr.scrubbed } ∧
        tabGet 0 u.arr.scrubPos h.val = tabGet 0 s.arr.scrubPos h.val + 1 ∧
        (∃ more, u.arr.scrubbed = s.arr.scrubbed ++ .row (Fin.ofNat 256 (16 * h.val + tabGet 0 s.arr.scrubPos h.val / 4096))
          (Fin.ofNat 4096 (tabGet 0 s.arr.scrubPos h.val % 4096)) :: more) ∧
        Only [.regs, .arr, .pip, .hif, .err] s u) ∧
    (∀ i q d, back = none → next = none → noDiv → behindPace h.val s = false → row = some i → s.arr.mreqs[i]? = some q →
      tableAt q.table s = some d →
      let dead := (goldEntry q.prim s).map fun e => { e with e0 := false, e1 := false }
      serves fun u =>
        (∀ e, q.tag ≠ .free → q.entry = some e → u.arr.mreqs = s.arr.mreqs.eraseIdx i ∧ u.arr.holds = s.arr.holds ∧
          (d.width < 3 → ∀ j, j < panSlices d.width → sliceAt (q.idx + j) u = entrySlice e j) ∧
          (q.idx = q.prim → dirAt q.prim u = some e ∧ u.arr.golds = s.arr.golds ++ [⟨q.prim, q.table, some e, q.tag.planNo⟩])) ∧
        (q.tag ≠ .free → q.entry = none →
          u.arr.holds = s.arr.holds ++ [⟨c + 160, q.idx, q.table, q.kept, q.movedTo, q.bucket⟩] ∧
          (d.width < 3 → ∀ j, j < panSlices d.width →
            sliceAt (q.idx + j) u = (match dead with | some e => entrySlice e j | none => Slice.free)) ∧
          (q.idx = q.prim → u.arr.golds = s.arr.golds ++ [⟨q.prim, q.table, dead, q.tag.planNo⟩])) ∧
        (q.tag = .free → u.arr.mreqs = s.arr.mreqs.eraseIdx i ∧ u.arr.holds = s.arr.holds ∧ u.arr.dir = s.arr.dir ∧
          (d.width < 3 → ∀ j, j < panSlices d.width → sliceAt (q.idx + j) u = Slice.free ∧ rankAt (q.idx + j) u = 0) ∧
          (q.idx = q.prim → u.arr.golds = s.arr.golds ++ [⟨q.prim, q.table, none, none⟩])) ∧
        Only [.regs, .arr, .pip, .upd, .epc, .hif, .err] s u) ∧
    (∀ r, back = none → next = none → noDiv → behindPace h.val s = false → row = none → hobRemap h.val s = some r → r.step = 1 →
      r.row < 4096 → rowPending r.pan r.row s = false →
      serves fun u => (∀ i, i < 4 →
          tabGet Slice.free u.arr.slices (physKey h.val r.new (4 * r.row + i)) = (goldSlot (r.pan * 16384 + 4 * r.row + i) s).1 ∧
          tabGet 0 u.arr.ranks (physKey h.val r.new (4 * r.row + i)) = (goldSlot (r.pan * 16384 + 4 * r.row + i) s).2) ∧
        hobRemap h.val u = some { r with row := r.row + 1 } ∧ u.arr.gold = s.arr.gold ∧ Only [.regs, .arr, .pip, .hif, .err] s u)

/-- SCRUB_COMPARE, REPAIR and DIVERGENCE_CHECK (R236 to R238, R242): an item that the pass has read is compared; one not yet
in the golden copy is skipped and counted, to be taken again; one that agrees changes nothing but the pass; a difference is
counted, raises its event and is queued for repair; the last compare of a pass whose rows are all read ends it; a repair
starts once its row's golden copy is written; a divergence check whose rows are read queues the repair of each that differs.
Where the spec leaves a corner open the model's choice is that of log entries 43 and 65. -/
def Obligations.TheScourerFindsAndQueues : Prop :=
  ∀ s : State, Machine.Inv s →
    (∀ (p : Fin 256) (row : Fin 4096), awake s = true → ScrubItem.row p row ∈ s.arr.scrubbed → let d := rowDiff p.val row.val (physPan p.val s) s
      let left := s.arr.scrubbed.filter (· != .row p row)
      (rowPending p.val row.val s = true → ∃ t, exec (.scrubCompare (.row p row)) s = .next t ∧
        regGet (Reg.intCnt 21) t = regGet (Reg.intCnt 21) s + 1 ∧ RegsBut [Reg.intCnt 21] s t ∧ Only [.regs] s t) ∧
      (rowPending p.val row.val s = false → d.first = none → tabGet 0 s.arr.scrubPos (p.val / 16) < 65536 →
        exec (.scrubCompare (.row p row)) s = .next (s.updArr fun a => { a with scrubbed := left })) ∧
      (rowPending p.val row.val s = false → d.first = none → 65536 ≤ tabGet 0 s.arr.scrubPos (p.val / 16) →
        (∀ x ∈ left, itemHob x ≠ p.val / 16) →
        ∃ t, exec (.scrubCompare (.row p row)) s = .next t ∧ tabGet 0 t.arr.scrubPos (p.val / 16) = 0 ∧
          tabGet 0 t.arr.scrubAt (p.val / 16) = s.clk.now ∧
          fieldGet Reg.intScrubStat 15 0 t = min 65535 (max ((s.clk.now - tabGet 0 s.arr.scrubAt (p.val / 16)) / 1000)
            (fieldGet Reg.intScrubStat 15 0 s)) ∧ RegsBut [Reg.intScrubStat] s t ∧ Only [.regs, .arr] s t) ∧
      (rowPending p.val row.val s = false → d.first.isSome = true → repairCount (p.val / 16) s < 64 →
        ∃ t, exec (.scrubCompare (.row p row)) s = .next t ∧
          (regGet (Reg.intCnt 4) t).toNat = min ((regGet (Reg.intCnt 4) s).toNat + 1) 0xffffffff ∧
          bit (regGet Reg.intIntStat t) 1 = true ∧ (∃ r ∈ t.arr.repairs, r.pan = p.val ∧ r.row = row.val) ∧
          t.arr.slices = s.arr.slices ∧ t.arr.scrubbed = left ∧ Only [.regs, .arr, .hif, .err] s t)) ∧
    (∀ (w : Fin 2097152) n d m idx, awake s = true → ScrubItem.word w ∈ s.arr.scrubbed → inService s = true → unitOwner (2 * w.val) s = some (n, d, m, idx) →
      unitOwner (2 * w.val + 1) s = some (n, d, m, idx) → slotPending idx s = false → d.width < 3 →
      repairCount (idx / 16384 / 16) s < 64 → tabGet 0 s.arr.scrubPos (w.val / 131072) < 65536 →
      let r := pantryRead w.val s
      let agrees := bits r.val 63 32 = (tabGet 0 s.arr.goldRec (2 * w.val)).toNat ∧ bits r.val 31 0 = (tabGet 0 s.arr.goldRec (2 * w.val + 1)).toNat
      ∃ t, exec (.scrubCompare (.word w)) s = .next t ∧ t.mem.pantry = s.mem.pantry ∧
        t.arr.scrubbed = s.arr.scrubbed.filter (· != .word w) ∧
        (r.kind = 0 → agrees → t.arr = { s.arr with scrubbed := t.arr.scrubbed } ∧ t.regs = s.regs) ∧
        ((r.kind = 2 ∨ r.kind = 1 ∨ ¬ agrees) → ∃ x ∈ t.arr.repairs, x.pan = idx / 16384 ∧ x.row = idx % 16384 / 4) ∧
        Only [.regs, .arr, .mem, .hif, .err] s t) ∧
    (∀ (h : Fin 16) i, s.arr.repairs.findIdx? (fun r => r.hob == h.val && r.phase == 0 && !rowPending r.pan r.row s) = some i →
      ∃ t, exec (.repair h) s = .next t ∧ t.arr.repairs = s.arr.repairs.modify i (fun r => { r with phase := 1 }) ∧
        t.arr = { s.arr with repairs := t.arr.repairs } ∧ Only [.arr] s t) ∧
    (∀ x rest d, s.arr.divs = x :: rest → x.unread = [] → tableAt x.table s = some d → d.width < 3 → (∀ h, repairCount h s < 60) →
      ∃ t, exec .divergenceCheck s = .next t ∧ t.arr.divs = rest ∧
        (∀ i ∈ divRows d x.prim x.mirr, (rowDiff (i / 16384) (i % 16384 / 4) (physPan (i / 16384) s) s).first.isSome = true →
          ∃ r ∈ t.arr.repairs, r.pan = i / 16384 ∧ r.row = i % 16384 / 4) ∧
        t.arr = { s.arr with divs := t.arr.divs, repairs := t.arr.repairs } ∧ Only [.regs, .arr, .hif, .err] s t)

/-- REUSE_HOLD_END, SPATULA_MOVE, REBALANCE and GOLDEN_WRITE_DONE (R27, R29, R39, R66, R166, R169, R171): a hold ends 160
PCLK after the write that made its slot not live, once the searches of its time are over, and a slot it kept is to take the
free content; a move copies record and rank and queues the new slot's row writes with the old slot's E bits, the clearing of
the old slot coming next; rebalancing starts single-step moves, and only when no intent waits and nothing else is planned; a
golden write that is the last a finished plan waits for completes its command. Where the spec leaves a corner open the
model's choice is that of log entries 22, 63, 64 and 71. -/
def Obligations.TheSpatulaMovesHoldsAndMirrors : Prop :=
  ∀ s : State, Machine.Inv s →
    (∀ i h d, s.arr.holds.findIdx? (fun h => h.till ≤ s.clk.pclk && searchesDone h.till s) = some i → s.arr.holds[i]? = some h →
      tableAt h.table s = some d →
      ∃ t u, exec .reuseHoldEnd s = .next t ∧ t = advanceAll u ∧ (s.upd.plans = [] → t = u) ∧ u.arr.holds = s.arr.holds.eraseIdx i ∧
        u.arr.mreqs = s.arr.mreqs ++ (if h.kept then
          [⟨hobOf h.idx, s.clk.pclk, h.idx, (primaryIndex d h.idx).getD h.idx, h.table, none, none, none, false, none, .free⟩] else []) ∧
        (∀ m, h.movedTo = some m → (∀ x ∈ entrySlots d.width m, x ∉ entrySlots d.width h.idx) →
          (∀ x ∈ entrySlots d.width h.idx ++ entrySlots d.width m, tabGet false s.arr.actBad (x / 32) = false) →
          (∀ x ∈ entrySlots d.width h.idx, tabGet true u.arr.act x = false) ∧
          (∀ x ∈ (entrySlots d.width h.idx).zip (entrySlots d.width m),
            tabGet true u.arr.act x.2 = (tabGet true s.arr.act x.1 || tabGet true s.arr.act x.2))) ∧
        u.arr.slices = s.arr.slices ∧ u.arr.dir = s.arr.dir ∧ Only [.regs, .arr, .tbl] s u) ∧
    (∀ n p src dst rank rest d e, planAt n s = some p → p.steps = .move src dst rank :: rest → p.queued = false →
      tableAt p.table s = some d → d.width < 3 → (d.stride = 0 ∨ d.base % 2 = 0) →
      d.guarded = false → slotClear d dst s = true → slotClear d src s = true → (∀ h ∈ s.arr.holds, h.movedTo ≠ some src) →
      dirAt src s = some e → canWrite s = true → (p.slack = true → intentWaits s = false) →
      ∃ t, exec (.spatulaMove n) s = .next t ∧
        planAt n t = some { p with steps := .move src dst rank :: .bits src none (some dst) :: rest, queued := true, begun := true } ∧
        t.arr.mreqs = s.arr.mreqs ++ [⟨hobOf dst, s.clk.pclk, dst, dst, p.table, some { e with rank := rank.getD e.rank }, some src, none,
          true, none, .plan n⟩] ∧
        rankAt dst t = rankWord (rank.getD e.rank) ∧
        (∀ i, i < strideUnits d → unitRead (recordUnit d dst false + i) t = e.record.getD i 0) ∧
        t.arr.slices = s.arr.slices ∧ t.arr.holds = s.arr.holds ∧ t.arr.golds = s.arr.golds ∧
        Only [.regs, .arr, .mem, .upd, .hif, .err] s t) ∧
    (∀ (pan : Fin 256) n d a l, panDesc pan.val s = some (n, d) → flagGet Reg.updSlack 16 s = true → intentWaits s = false →
      s.upd.plans = [] → s.arr.mreqs = [] →
      let p := homePan d pan.val s
      let qs := (panEntries n p s).map fun x => posOf d x.1
      panBusy d p s = false → longRun (fieldGet Reg.updSlack 12 0 s) qs (qs.headD 0) 0 = some (a, l) → 2 ≤ l →
      (0 < a ∨ a + l < panSize d.width) →
      ∃ t q, exec (.rebalance pan) s = .next t ∧ t.upd.plans = [q] ∧ q.cmd = none ∧ q.slack = true ∧ q.table = n ∧ q.steps ≠ [] ∧
        (∀ st ∈ q.steps, ∃ x y, st = .move (p * 16384 + x * panSlices d.width) (p * 16384 + y * panSlices d.width) none ∧
          (y = x + 1 ∨ x = y + 1) ∧ a ≤ x ∧ x < a + l) ∧ Only [.clk, .upd] s t) ∧
    (∀ g rest, s.arr.golds = g :: rest →
      ∃ t u, exec .goldenWriteDone s = .next t ∧ t = (match g.plan with | some n => advance n u | none => u) ∧
        u.arr.golds = rest ∧ u.arr.slices = s.arr.slices ∧ Only [.arr] s u ∧
        (∀ e, g.entry = some e → tabFind u.arr.gold g.idx = some e) ∧
        (g.entry = none → tabRising s.arr.gold = true → tabFind u.arr.gold g.idx = none) ∧
        (∀ e d, g.entry = some e → tableAt g.table s = some d → d.guarded = false →
          ∀ i, i < strideUnits d → tabGet 0 u.arr.goldRec (recordUnit d g.idx false + i) = e.record.getD i 0) ∧
        (∀ n p k, g.plan = some n → planAt n s = some p → p.steps = [] → p.queued = false → p.cmd = some k →
          (∀ x ∈ rest, x.plan ≠ some p.no) → t = complete k 0 p.idx 0 p.moves (dropPlan p.no u)) ∧
        (∀ n, g.plan = some n → planAt n s = none → t = u))

/-- The remap of a pan (R51, R244 to R246, Table 9.4): a write of INT_REMAP_CTL.GO queues a request; a request of a hob that
has a spare and no remap starts; the copy leaves the spare holding the pan's entries; the compare goes on, or retires the
spare and asks again; the settings record schedules the switch for the next frame boundary; the switch makes searches use the
spare; 160 PCLK later the old pan is retired, in phase 4; and the MP's record ends the remap. Where the spec leaves a corner
open the model's choice is that of log entry 44. -/
def Obligations.ARemapGoesThroughItsPhases : Prop :=
  ∀ s : State, Machine.Inv s →
    (∀ src v, Accepts src Reg.intRemapCtl v s → bit v 8 = true →
      let p := bits v 7 0
      ∃ t, exec (.intRemapGo src v) s = .next t ∧ fieldGet Reg.intRemapCtl 7 0 t = p ∧
        ((∃ r ∈ t.arr.remapReqs, r.1 = p) ∨ (∃ r ∈ s.arr.remaps, r.pan = p) ∨ p ∈ s.arr.migrating) ∧
        ((∀ r ∈ s.arr.remapReqs, r.1 ≠ p) → (∀ r ∈ s.arr.remaps, r.pan ≠ p) → p ∉ s.arr.migrating →
          t.arr.remapReqs = s.arr.remapReqs ++ [(p, 4)]) ∧
        t.arr.remaps = s.arr.remaps ∧ RegsBut [Reg.intRemapCtl] s t ∧ Only [.regs, .arr, .fwu] s t) ∧
    (∀ (pan : Fin 256) cause, s.arr.remapReqs.find? (fun r => r.1 / 16 == pan.val / 16) = some (pan.val, cause) →
      hobRemap (pan.val / 16) s = none → sparePhys (pan.val / 16) s ≠ 0x1f →
      ∃ t, exec (.remapStart pan) s = .next t ∧
        t.arr.remaps = s.arr.remaps ++ [⟨pan.val, cause, physPan pan.val s, sparePhys (pan.val / 16) s, 1, 0, [], 0, 0⟩] ∧
        t.arr.remapReqs = s.arr.remapReqs.filter (·.1 != pan.val) ∧ t.fwu.dirty = false ∧
        fieldGet (Reg.hobStat (pan.val / 16)) 31 29 t = 1 ∧ bit (regGet Reg.intIntStat t) 3 = true ∧ t.arr.slices = s.arr.slices ∧
        Only [.regs, .arr, .hif, .err, .fwu, .vbt] s t) ∧
    (∀ (h : Fin 16) r, hobRemap h.val s = some r →
      (r.step = 1 → 4096 ≤ r.row → r.again = [] → ∃ t, exec (.remapCopyDone h) s = .next t ∧
        hobRemap h.val t = some { r with step := 2, row := 0, fails := 0 } ∧ fieldGet (Reg.hobStat h.val) 31 29 t = 2 ∧
        t.arr.slices = s.arr.slices ∧ t.arr.dir = s.arr.dir ∧ t.arr.gold = s.arr.gold ∧ Only [.regs, .arr, .err] s t) ∧
      (r.step = 1 → r.row < 4096 ∨ r.again ≠ [] → exec (.remapCopyDone h) s = .next s) ∧
      (r.step = 2 → r.fails < 2 → 4096 ≤ r.row → ∃ t, exec (.remapVerifyDone h) s = .next t ∧
        hobRemap h.val t = some { r with step := 3 } ∧ Only [.arr] s t) ∧
      (r.step = 2 → r.fails < 2 → r.row < 4096 → exec (.remapVerifyDone h) s = .next s) ∧
      (r.step = 2 → 2 ≤ r.fails → r.new < 17 → ∃ t, exec (.remapVerifyDone h) s = .next t ∧ hobRemap h.val t = none ∧
        sparePhys h.val t = 0x1f ∧ flagGet (Reg.hobStat h.val) r.new t = true ∧ fieldGet (Reg.hobStat h.val) 31 29 t = 0 ∧
        ((∃ q ∈ t.arr.remapReqs, q.1 = r.pan) ∨ r.pan ∈ s.arr.migrating) ∧ t.fwu.dirty = true ∧
        Only [.regs, .arr, .hif, .err, .fwu] s t) ∧
      (r.step = 3 → ∃ t, exec (.remapRecordWritten h) s = .next t ∧
        hobRemap h.val t = some { r with step := 4, due := s.clk.frame + 1 } ∧ t.regs = s.regs ∧ Only [.arr, .fwu, .vbt] s t) ∧
      (r.step = 4 → r.due ≤ s.clk.frame → r.new < 32 → r.pan < 256 → ∃ t, exec (.remapSwitch h) s = .next t ∧ physPan r.pan t = r.new ∧
        hobRemap h.val t = some { r with step := 5, due := s.clk.pclk + 160 } ∧ fieldGet (Reg.hobStat h.val) 31 29 t = 3 ∧
        (∀ p, p < 256 → p ≠ r.pan → regGet (Reg.hobLmap p) t = regGet (Reg.hobLmap p) s) ∧ t.arr.slices = s.arr.slices ∧
        Only [.regs, .arr, .hif, .err] s t) ∧
      (r.step = 5 → r.due ≤ s.clk.pclk → r.old < 17 → ∃ t, exec (.remapRetire h) s = .next t ∧
        hobRemap h.val t = some { r with step := 6 } ∧ flagGet (Reg.hobStat h.val) r.old t = true ∧ sparePhys h.val t = 0x1f ∧
        fieldGet (Reg.hobStat h.val) 31 29 t = 4 ∧ t.fwu.dirty = true ∧ Only [.regs, .arr, .hif, .err, .fwu] s t) ∧
      (r.step = 6 → ∃ t, exec (.remapRetire h) s = .next t ∧ hobRemap h.val t = none ∧ fieldGet (Reg.hobStat h.val) 31 29 t = 0 ∧
        Only [.regs, .arr, .hif, .err] s t))

/-- MIGRATION_START, MIGRATE_ENTRY and STRANDED_RETRY (R52, R247, R248): without a spare the pan of a request migrates, one
pan at a time; an entry that finds a place is put there and freed here, live in the epochs it is live in, and one that finds
none is stranded; an empty pan becomes LOST; and a stranded entry that finds a place later is stranded no more. Where the
spec leaves a corner open the model's choice is that of log entry 45. -/
def Obligations.AMigrationEmptiesAPan : Prop :=
  ∀ (pan : Fin 256) (s : State), Machine.Inv s →
    let p := pan.val
    ((∃ c, (p, c) ∈ s.arr.remapReqs) → sparePhys (p / 16) s = 0x1f → hobRemap (p / 16) s = none → s.arr.migrating = [] →
      panLost p s = false →
      ∃ t, exec (.migrationStart pan) s = .next t ∧ t.arr.migrating = [p] ∧ t.arr.remapReqs = s.arr.remapReqs.filter (·.1 != p) ∧
        flagGet Reg.intMig 31 t = true ∧ fieldGet Reg.intMig 7 0 t = p ∧ t.arr.slices = s.arr.slices ∧
        Only [.regs, .arr, .hif, .err] s t) ∧
    (p ∈ s.arr.migrating → (panDesc p s = none ∨
        ∃ n d, panDesc p s = some (n, d) ∧ homeEntries p s = [] ∧ panBusy d (homePan d p s) s = false) →
      ∃ t, exec (.migrateEntry pan) s = .next t ∧ panLost p t = true ∧ p ∉ t.arr.migrating ∧ regGet Reg.intMig t = 0 ∧
        fieldGet Reg.intCap 31 24 t = (fieldGet Reg.intCap 31 24 s + 1) % 256 ∧ bit (regGet Reg.intIntStat t) 5 = true ∧
        t.fwu.dirty = true) ∧
    (∀ n d i e, p ∈ s.arr.migrating → panDesc p s = some (n, d) →
      (homeEntries p s).find? (fun x => !s.arr.stranded.contains x.1) = some (i, e) →
      (∀ q pl, (domAt d.domain s).recon = false → (domAt d.domain s).discarding = false → panBusy d (panOf d.width i) s = false →
        choosePan d n e.key e.mask (skipPans d n s) s = .ok q → panBusy d q s = false → placeAt d n q e.rank s = some pl →
        (∀ x ∈ s.upd.plans, x.no ≠ s.upd.nextId) →
        ∃ t, exec (.migrateEntry pan) s = .next t ∧ t.upd.nextId = s.upd.nextId + 1 ∧ t.arr.stranded = s.arr.stranded ∧
          ∃ x ∈ t.upd.plans, x.no = s.upd.nextId ∧ x.cmd = none ∧ x.table = n ∧ x.idx = pl.pos ∧
            x.steps = pl.steps ++ [.put pl.pos e, .bits i none (some pl.pos)] ∧
            (x.queued = true → ∀ c ∈ copies d pl.pos, ∃ m ∈ t.arr.mreqs, m.idx = c ∧ m.prim = pl.pos ∧ m.entry = some e ∧
              m.movedFrom = some i ∧ m.tag = .plan x.no)) ∧
      (moveAway n d i e s = none → exec (.migrateEntry pan) s = .next s) ∧
      (∀ w, moveAway n d i e s = some (false, w) → ∃ t, exec (.migrateEntry pan) s = .next t ∧ t.arr.stranded = s.arr.stranded ++ [i] ∧
        fieldGet Reg.intCap 23 0 t = (s.arr.stranded.length + 1) % 2 ^ 24 ∧ t.arr.slices = s.arr.slices ∧ Only [.regs, .arr] s t)) ∧
    (∀ n d, panDesc p s = some (n, d) → p ∈ s.arr.migrating → homeEntries p s ≠ [] →
      (∀ x ∈ homeEntries p s, x.1 ∈ s.arr.stranded) → s.arr.told ≠ s.arr.stranded.length →
      ∃ t, exec (.migrateEntry pan) s = .next t ∧ bit (regGet Reg.intIntStat t) 5 = true ∧
        t.arr = { s.arr with told := s.arr.stranded.length } ∧ Only [.regs, .arr, .hif, .err] s t) ∧
    (∀ n d, awake s = true → panDesc p s = some (n, d) → (∀ x ∈ homeEntries p s, x.1 ∉ s.arr.stranded) →
      ∃ t, exec (.strandedRetry pan) s = .next t ∧ (∀ i ∈ t.arr.stranded, i ∈ s.arr.stranded) ∧
        fieldGet Reg.intCap 23 0 t = t.arr.stranded.length % 2 ^ 24 ∧ t.arr.slices = s.arr.slices ∧ Only [.regs, .arr] s t) ∧
    (∀ n d i e w, awake s = true → panDesc p s = some (n, d) → homeEntries p s = [(i, e)] → i ∈ s.arr.stranded →
      (∀ j ∈ s.arr.stranded, j ≠ i → j / 16384 ≠ homePan d p s) →
      let s' := showStranded s
      moveAway n d i e s' = some (true, w) →
      exec (.strandedRetry pan) s = .next (showStranded (w.updArr fun a => { a with stranded := a.stranded.filter (· != i) })))

/-- AGING_SAMPLE, LIFE_MINUTE and LIFE_SAVE (R250, R251, R382, R406): every margin sampled is shown with the least seen; a
margin above both thresholds reports nothing; a minute adds 2^((T - 90 degrees) / 10 degrees) minutes of age, rounded down or
up (log entry 17), in RUN, IDLE and SLEEP alone; the age is written whole into two VBAT words, and every 24 hours the
settings record is to follow. Where the spec leaves a corner open the model's choice is that of log entries 17 and 47. -/
def Obligations.AgeIsSampledAndCounted : Prop :=
  ∀ s : State, Machine.Inv s →
    (∀ margins : List Byte, awake s = true → margins.length = 272 →
      (∀ n, n < 272 → fieldGet Reg.intAgeCfg 15 8 s < (margins.getD n 0).toNat ∧ fieldGet Reg.intAgeCfg 7 0 s < (margins.getD n 0).toNat) →
      ∃ t, exec (.agingSample margins) s = .next t ∧ t.pwr.sampleAt = s.clk.now ∧ t.arr = s.arr ∧
        (∀ n, n < 272 → fieldGet (Reg.intAge n) 7 0 t = (margins.getD n 0).toNat ∧
          fieldGet (Reg.intAge n) 15 8 t = min (margins.getD n 0).toNat (fieldGet (Reg.intAge n) 15 8 s)) ∧
        Only [.regs, .pwr, .vbt, .fwu] s t) ∧
    (∀ (temp : Int) (hot : BitVec 10), powerState s ≤ 2 →
      ∃ t, exec (.lifeMinute temp hot) s = .next t ∧ fieldGet Reg.glbTemp 9 0 t = hot.toNat ∧
        (∃ b : Bool, lifeMinutes t * 2 ^ 32 + t.vbt.lifePart =
          (lifeMinutes s * 2 ^ 32 + s.vbt.lifePart + lifeStep temp + b2n b) % 2 ^ 96) ∧ t.vbt.lifePart < 2 ^ 32 ∧
        RegsBut [Reg.glbTemp, Reg.intLifeLo, Reg.intLifeHi] s t ∧ Only [.clk, .regs, .vbt] s t) ∧
    (∀ (temp : Int) (hot : BitVec 10), 2 < powerState s →
      ∃ t, exec (.lifeMinute temp hot) s = .next t ∧ lifeMinutes t = lifeMinutes s ∧ t.vbt = s.vbt) ∧
    (awake s = true → ∃ t, exec .lifeSave s = .next t ∧ (vbtGet 5 t).toNat + (vbtGet 6 t).toNat * 2 ^ 32 = lifeMinutes s ∧
      (∀ n, n ≠ 5 → n ≠ 6 → vbtGet n t = vbtGet n s) ∧
      (s.vbt.lifeAt + 86400000000000 ≤ s.clk.now → t.vbt.lifeAt = s.clk.now ∧ t.fwu.dirty = true) ∧
      (s.clk.now < s.vbt.lifeAt + 86400000000000 → t.fwu = s.fwu) ∧ Only [.fwu, .vbt] s t)

/-- INT_ERR_HEAD_WRITE, INT_ERR_CFG_WRITE and INT_SUM_MESSAGE (R253, R255): a head written is the consumer's place, and a
CLASS 0x7F record of what was dropped follows where there is room; EN from 0 to 1 starts the ring empty with PHASE 1, and a
change of SIZE while EN = 1 is refused; rising enabled blocks write their BLOCK records and send one summary message, at most
one in 1 µs. Where the spec leaves a corner open the model's choice is that of log entry 18. -/
def Obligations.TheErrorRingIsConfiguredAndReported : Prop :=
  ∀ s : State, Machine.Inv s →
    (∀ src v, Accepts src Reg.intErrHead v s → s.err.dropped = 0 →
      ∃ t, exec (.intErrHeadWrite src v) s = .next t ∧ fieldGet Reg.intErrHead 15 0 t = bits v 15 0 ∧
        RegsBut [Reg.intErrHead] s t ∧ Only [.regs, .fwu] s t) ∧
    (∀ src v, Accepts src Reg.intErrHead v s → 0 < s.err.dropped → errOn s = true →
      let u := fieldPut Reg.intErrHead 15 0 (bits v 15 0) s
      errRoom u = true → fieldGet Reg.intErrPtr 15 0 s < errRingSize s →
      ∃ t, exec (.intErrHeadWrite src v) s = .next t ∧ t.err.dropped = 0 ∧ t.err.seq = (s.err.seq + 1) % 4294967296 ∧
        t.hif.out.length ≥ s.hif.out.length + 4 ∧
        fieldGet Reg.intErrPtr 15 0 t = (fieldGet Reg.intErrPtr 15 0 s + 1) % errRingSize s % 65536) ∧
    (∀ src v, Accepts src Reg.intErrCfg v s → flagGet Reg.intErrCfg 31 s = false → bit v 31 = true → mayRequest 0 s = false →
      ∃ t, exec (.intErrCfgWrite src v) s = .next t ∧ regGet Reg.intErrCfg t = v &&& regLive Reg.intErrCfg ∧
        fieldGet Reg.intErrPtr 15 0 t = 0 ∧ fieldGet Reg.intErrHead 15 0 t = 0 ∧ t.err.phase = true ∧ t.err.held = s.err.held ∧
        RegsBut [Reg.intErrCfg, Reg.intErrPtr, Reg.intErrHead] s t ∧ Only [.regs, .err, .fwu] s t) ∧
    (∀ src v, Accepts src Reg.intErrCfg v s → flagGet Reg.intErrCfg 31 s = false → bit v 31 = true → mayRequest 0 s = true →
      s.err.held = [] → s.err.dropped = 0 →
      ∃ t, exec (.intErrCfgWrite src v) s = .next t ∧ errOn t = true ∧ fieldGet Reg.intErrPtr 15 0 t = 0 ∧ t.err.phase = true) ∧
    (∀ src v, Accepts src Reg.intErrCfg v s → src ≠ .smbus → flagGet Reg.intErrCfg 31 s = true → bits v 3 0 ≠ fieldGet Reg.intErrCfg 3 0 s →
      ∃ t, exec (.intErrCfgWrite src v) s = .next t ∧ RefusedAs 4 src (logSpace src) true Reg.intErrCfg v.toNat s t) ∧
    (awake s = true → s.err.rose = [] → s.err.dropped = 0 → s.err.errOwed = false → s.err.sumOwed = true → flagGet Reg.intSumCfg 31 s = true →
      (∀ x, s.err.sumAt = some x → x + 1000 ≤ s.clk.now) →
      let vec := fieldGet Reg.intSumCfg 10 0 s
      ∃ t, exec .intSumMessage s = .next t ∧ t.err.sumAt = some s.clk.now ∧ t.err.sumOwed = false ∧ t.err.rose = [] ∧
        (vecOpen vec s = true → tabGet false s.hif.msixPend vec = false →
          t.hif.out = s.hif.out ++ [.msix (vecOwner vec s) vec (msixEntry vec s).addr (msixEntry vec s).data]) ∧
        (vecOpen vec s = false → t.hif.out = s.hif.out ∧ tabGet false t.hif.msixPend vec = true)) ∧
    (∀ r, awake s = true → s.err.rose = [r] → s.err.dropped = 0 → s.err.errOwed = false → errOn s = true → errRoom s = true →
      let w := errWords s.err.phase { r with suppr := tabGet 0 s.err.suppressed r.key }
      ∃ t a more, exec .intSumMessage s = .next t ∧ t.err.rose = [] ∧
        t.hif.out = s.hif.out ++ [.write 0 (a + 24) [w.getD 3 0], .write 0 (a + 16) [w.getD 2 0], .write 0 (a + 8) [w.getD 1 0],
          .write 0 a [w.getD 0 0]] ++ more ∧ tabGet 0 t.err.suppressed r.key = 0) ∧
    (∀ x, s.err.rose = [] → s.err.dropped = 0 → s.err.errOwed = false → s.err.sumOwed = true → flagGet Reg.intSumCfg 31 s = true →
      s.err.sumAt = some x → s.clk.now < x + 1000 → exec .intSumMessage s = .next s)

/-- The ring's part of R254: within INT_ERR_CFG.HOLDOFF µs of the last record of the same class and code, a further one with
OUTCOME 0 or 1 is counted and not written; the next one that is written, or held while EN = 0, carries their number in SUPPR;
one that finds no room is counted in INT_ERR_LOST and leaves that number for the next; records with OUTCOME 2 and 3 are never
suppressed. Where the spec leaves a corner open the model's choice is that of log entry 18. -/
def Obligations.RepeatedRecordsAreSuppressed : Prop :=
  ∀ (cls code outcome detail loc : Nat) (s : State), Machine.Inv s → s.err.rose = [] → s.err.dropped = 0 →
    let k := 256 * cls + code
    let last := tabGet 0 s.err.last k
    let n := tabGet 0 s.err.suppressed k
    let early := 0 < last ∧ s.clk.now < last - 1 + fieldGet Reg.intErrCfg 11 4 s * 1000
    let t := errRecord cls code outcome detail loc s
    (outcome ≤ 1 → early → t.regs = s.regs ∧ t.hif = s.hif ∧ t.err.seq = s.err.seq ∧ tabGet 0 t.err.suppressed k = n + 1 ∧
      Only [.err] s t) ∧
    ((2 ≤ outcome ∨ ¬ early) → t.err.seq = (s.err.seq + 1) % 4294967296 ∧
      (errOn s = true → errRoom s = true → tabGet 0 t.err.last k = s.clk.now + 1 ∧ tabGet 0 t.err.suppressed k = 0 ∧
        ∃ a w0 w1 w2 w3 more, t.hif.out = s.hif.out ++ [.write 0 (a + 24) [w3], .write 0 (a + 16) [w2], .write 0 (a + 8) [w1], .write 0 a [w0]] ++ more ∧
          bits w1 15 0 = min n 0xffff ∧ more.length ≤ 1) ∧
      (errOn s = false → s.err.held.length < 64 → tabGet 0 t.err.suppressed k = 0 ∧ t.hif = s.hif ∧
        ∃ r, t.err.held = s.err.held ++ [r] ∧ r.suppr = n ∧ r.seq = s.err.seq ∧ r.cls = cls ∧ r.code = code ∧ r.outcome = outcome ∧
          r.detail = detail ∧ r.loc = loc) ∧
      ((errOn s = true ∧ errRoom s = false) ∨ (errOn s = false ∧ 64 ≤ s.err.held.length) →
        t.err.dropped = 1 ∧ t.hif = s.hif ∧ tabGet 0 t.err.suppressed k = n))

/-- The training events of a link (R97 to R101, R208): each state of Table 4.5 is left as it says, with the fault code where
there is one, and a link that enters DOWN by a fault may train again 1 ms later. Where the spec leaves a corner open the
model's choice is that of log entries 39 and 72. -/
def Obligations.ALinkTrainsAndFallsAsItsTableSays : Prop :=
  ∀ (l : LinkId) (s : State), Machine.Inv s →
    let fault (c : Instr) (code : Nat) : Prop := ∃ t, exec c s = .next t ∧ linkState l t = 0 ∧ fieldGet l.stat 26 24 t = code ∧
      (grpAt l.key t).retryAt = some (s.clk.now + 1000000) ∧ (grpAt l.key t).limitAt = none ∧ (∀ k, k ≠ l → linkState k t = linkState k s)
    let trains (c : Instr) : Prop := ∃ t, exec c s = .next t ∧ linkState l t = 1 ∧
      (grpAt l.key t).limitAt = some (s.clk.now + 30000000) ∧ (∀ k, k ≠ l → linkState k t = linkState k s)
    (awake s = true → linkState l s = 1 → ∃ t, exec (.adaptDone l) s = .next t ∧ linkState l t = 2 ∧
      (∀ n ∈ l.laneList, fieldGet (laneStat n) 31 30 t = 3) ∧ Only [.regs] s t) ∧
    (awake s = true → linkState l s = 2 → allFound l s = true → ∃ t, exec (.codewordLock l) s = .next t ∧ linkState l t = 3 ∧
      (∀ n ∈ l.laneList, flagGet (laneStat n) 29 t = true) ∧ Only [.regs] s t) ∧
    (∀ skews, awake s = true → linkState l s = 3 → identityOk l s = true → skewSpan skews ≤ l.skewMax →
      ∃ t, exec (.deskew l skews) s = .next t ∧ linkState l t = 4 ∧ (grpAt l.key t).limitAt = none ∧
        (∀ i, i < l.lanes → fieldGet (laneStat (l.lane0 + i)) 7 0 t =
          (skews.foldl max 0 - skews.getD i (skews.foldl max 0)) % 256) ∧
        (∀ n ∈ l.laneList, (laneAt n t).ready = 0 ∧ (laneAt n t).ident = laneIdent n s) ∧ Only [.regs, .lnk] s t) ∧
    (∀ skews, awake s = true → linkState l s = 3 → identityOk l s = false → fault (.deskew l skews) 3) ∧
    (∀ skews, awake s = true → linkState l s = 3 → identityOk l s = true → l.skewMax < skewSpan skews → fault (.deskew l skews) 4) ∧
    (∀ path, awake s = true → linkState l s = 4 → (∀ n ∈ l.laneList, 2 ≤ (laneAt n s).ready) →
      ∃ t, exec (.groupUp l path) s = .next t ∧ linkState l t = 5 ∧ (grpAt l.key t).inFrame = false ∧
        (l = .fcl → t.lnk.tx = s.lnk.tx) ∧
        (∀ g, l = .fll g → fieldGet (Reg.todPath g.val) 15 0 t = path % 65536 ∧
          tabGet (0, 0) t.tod.copies g.val = (s.tod.value, s.clk.now) ∧
          t.lnk.tx = s.lnk.tx ++ [(g.val, sealFrame [pack64 [(60, 0xc)]] (trailerLow (grpBinding g.val s) s))]) ∧
        Only [.regs, .lnk, .tod] s t) ∧
    (∀ x, awake s = true → (grpAt l.key s).limitAt = some x → x ≤ s.clk.now → 1 ≤ linkState l s → linkState l s ≤ 3 →
      fault (.trainingTimeout l) (if linkState l s = 1 then 1 else 2)) ∧
    (linkState l s = 5 → (grpAt l.key s).parked = false → fault (.linkFault l .alignment) 5 ∧
      (∀ i : Fin 16, i.val < l.lanes → fault (.linkFault l (.signal i)) 5 ∧
        ∃ t, exec (.linkFault l (.signal i)) s = .next t ∧ fieldGet (laneStat (l.lane0 + i.val)) 31 29 t = 0 ∧
          flagGet l.stat i.val t = false) ∧
      ((∃ n ∈ l.laneList, (laneAt n s).changed = true) → fault (.linkFault l .identity) 3) ∧
      ((∃ n ∈ l.laneList, 2 ≤ (laneAt n s).notReady) → fault (.linkFault l .farEnd) 6)) ∧
    (linkState l s = 5 → (grpAt l.key s).parked = true → ∀ why, why ≠ .ringLink → exec (.linkFault l why) s = .next s) ∧
    (linkState .fcl s = 5 → isManager s = true → ringState s = 5 → ∃ t, exec (.linkFault .fcl .ringLink) s = .next t ∧
      ringState t = 6 ∧ bit (regGet Reg.casIntStat t) 0 = true ∧ (∀ k, linkState k t = linkState k s) ∧ Only [.regs, .err] s t) ∧
    (∀ x, awake s = true → (grpAt l.key s).retryAt = some x → x ≤ s.clk.now → linkState l s = 0 → linkTrains l s = true → linkAuto l s = true →
      trains (.autoRetrain l))

/-- LNK_GRP_CTL_g and LNK_GRP_MAP (R91, R92, R98, R101): EN = 1 sends a bound group in DOWN to ADAPT, EN = 0 an UP group to
DRAIN and a training group to DOWN; RETRAIN sends a group to ADAPT, and waits in DRAIN; a drained group enters DOWN; and the
map changes only as a whole and only for groups in DOWN. -/
def Obligations.GroupControlMovesGroups : Prop :=
  ∀ (src : Party) (g : Fin 4) (v : Word) (s : State), Machine.Inv s → isWorker s = false →
    let l := LinkId.fll g
    let trained (t : State) : Prop := linkState l t = 1 ∧ (grpAt g.val t).limitAt = some (s.clk.now + 30000000) ∧
      ∀ k, k ≠ l → linkState k t = linkState k s
    (Accepts src (Reg.lnkGrpCtl g.val) v s → bit v 0 = true → bit v 2 = false → linkState l s = 0 → grpBinding g.val s < 2 →
      flagGet (Reg.lnkGrpCtl g.val) 0 s = false →
      ∃ t, exec (.groupEnable src g v) s = .next t ∧ trained t ∧ flagGet (Reg.lnkGrpCtl g.val) 0 t = true ∧
        Only [.regs, .lnk, .fwu] s t) ∧
    (Accepts src (Reg.lnkGrpCtl g.val) v s → bit v 0 = true → bit v 2 = true → grpBinding g.val s < 2 → linkState l s ≤ 5 →
      ∃ t, exec (.retrain src g v) s = .next t ∧ trained t ∧ (linkState l s = 5 → bit (regGet Reg.lnkIntStat t) (8 * g.val + 7) = true) ∧
        Only [.regs, .lnk, .err, .fwu] s t) ∧
    (Accepts src (Reg.lnkGrpCtl g.val) v s → bit v 0 = true → bit v 2 = true → grpBinding g.val s < 2 → linkState l s = 6 →
      ∃ t, exec (.retrain src g v) s = .next t ∧ linkState l t = 6 ∧ flagGet (Reg.lnkGrpCtl g.val) 2 t = true) ∧
    (Accepts src (Reg.lnkGrpCtl g.val) v s → bit v 0 = false → bit v 2 = false →
      ∃ t, exec (.groupDisable src g v) s = .next t ∧ flagGet (Reg.lnkGrpCtl g.val) 0 t = false ∧
        linkState l t = (if linkState l s = 5 then 6 else if 1 ≤ linkState l s ∧ linkState l s ≤ 4 then 0 else linkState l s) ∧
        (linkState l s = 5 → bit (regGet Reg.lnkIntStat t) (8 * g.val + 7) = true) ∧
        (∀ k, k ≠ l → linkState k t = linkState k s) ∧ Only [.regs, .lnk, .err, .fwu] s t) ∧
    (linkState l s = 6 → (grpAt g.val s).cp = (grpAt g.val s).rp → (∀ f ∈ s.pip.flight, f.grp ≠ g.val) →
      ∃ t, exec (.drainDone g) s = .next t ∧ linkState l t = (if grpTrains g.val s then 1 else 0) ∧
        (∀ k, k ≠ l → linkState k t = linkState k s) ∧ Only [.regs, .lnk] s t) ∧
    (Accepts src Reg.lnkGrpMap v s →
      let changed (k : Nat) : Prop := bits v (2 * k + 1) (2 * k) ≠ fieldGet Reg.lnkGrpMap (2 * k + 1) (2 * k) s
      let down (k : Nat) : Prop := fieldGet (Reg.lnkGrpStat k) 31 29 s = 0
      ((∀ k, k < 4 → changed k → down k) → ∃ t, exec (.lnkGrpMapWrite src v) s = .next t ∧
        regGet Reg.lnkGrpMap t = BitVec.ofNat 32 (bits v 7 0) ∧
        (∀ k, k < 4 → linkState (.fll (Fin.ofNat 4 k)) t ≠ linkState (.fll (Fin.ofNat 4 k)) s →
          down k ∧ fieldGet Reg.lnkGrpMap (2 * k + 1) (2 * k) s = 2 ∧ linkState (.fll (Fin.ofNat 4 k)) t = 1) ∧
        Only [.regs, .lnk, .fwu] s t) ∧
      (src ≠ .smbus → (∃ k, k < 4 ∧ changed k ∧ ¬ down k) → ∃ t, exec (.lnkGrpMapWrite src v) s = .next t ∧
        RefusedAs 4 src (logSpace src) true Reg.lnkGrpMap v.toNat s t))

/-- R107: the CRC that a sent frame carries is the one that the receive check computes. The receive side of a group (R97,
R102, R109 to R115, R120): an alignment block shows its lane; blocks reach the FIFO only in UP; a short search frame that
passes every check of Table 4.16 is committed with its stamp, and a bad one is counted and leaves the FIFO as it was; an
uncorrectable codeword poisons the open frame, which is dropped at the codeword boundary; and a pointer reset empties the
FIFO and frees its credits. Where the spec leaves a corner open the model's choice is that of log entries 40 and 74. -/
def Obligations.AGroupReceivesFrames : Prop :=
  (∀ (body : List W64) (low : Nat), crcGood (sealFrame body low) = true ∧ (sealFrame body low).length = body.length + 1) ∧
  (∀ (g : Fin 4) (s : State), Machine.Inv s →
      let l := LinkId.fll g
      let r := grpAt g.val s
      let p := grpBinding g.val s
      (∀ (n : Fin 48) body, awake s = true → 1 < linkState (laneLink n.val) s →
        (alignOk n.val body = true → ∃ t, exec (.alignmentBlock n body true) s = .next t ∧
          (laneAt n.val t).found = (laneAt n.val s).found + 1 ∧ (laneAt n.val t).missed = 0 ∧
          laneNumber n.val t = (if n.val < 32 then bits body 225 223 else bits body 227 224) ∧
          (n.val < 32 → fieldGet (laneStat n.val) 25 24 t = bits body 227 226) ∧
          (∀ k, k ≠ n.val → laneAt k t = laneAt k s) ∧ Only [.regs, .lnk] s t) ∧
        (∀ placed, (alignOk n.val body && placed) = false → ∃ t, exec (.alignmentBlock n body placed) s = .next t ∧
          (laneAt n.val t).found = 0 ∧ (laneAt n.val t).missed = (laneAt n.val s).missed + 1 ∧ Only [.regs, .lnk] s t)) ∧
      (∀ (b : LaneBlock) (ns : List Nat), linkState l s ≠ 5 → linkState l s ≠ 6 → ∃ t, exec (.frameReceive l [b] ns) s = .next t ∧
        (grpAt g.val t).cores = r.cores ∧ (grpAt g.val t).blk = r.blk + 1 ∧
        (∀ i, i < 8 → (regGet (Reg.lnkFecCorr (8 * g.val + i)) t).toNat =
          min ((regGet (Reg.lnkFecCorr (8 * g.val + i)) s).toNat + ns.getD i 0) 0xffffffff) ∧
        RegsBut ((List.range 8).map fun i => Reg.lnkFecCorr (8 * g.val + i)) s t ∧ Only [.regs, .lnk] s t) ∧
      (∀ (b : LaneBlock) (ns : List Nat) (w : W64) (k : Nat), linkState l s = 5 → r.parked = false → r.lost = false → (rxBlock l b s).1 = (true, w) :: List.replicate k (true, 0) →
        r.inFrame = true → r.open_ ≠ [] → r.open_.length < 8 → r.wp = r.mark → r.wp < 2048 → r.cores.length = ptrDist r.wp r.rp →
        r.cores.length < 1024 → p < 2 → isSearchType (r.open_.headD 0) = true →
        let ws := r.open_ ++ [w]
        ∃ t, exec (.frameReceive l [b] ns) s = .next t ∧ (grpAt g.val t).inFrame = false ∧
          (r.poisoned = false → crcGood ws = true → searchForm ws = true → pipeOcc p s < 1024 →
            (grpAt g.val t).cores = r.cores ++ [⟨coreData ws, true, 8 * ws.length % 64, arrivalStamp g.val s, visibleAt s⟩] ∧
            (grpAt g.val t).cp = (r.wp + 1) % 2048 ∧ (grpAt g.val t).wp = (r.wp + 1) % 2048 ∧
            (grpAt g.val t).lastStamp = arrivalStamp g.val s ∧ r.lastStamp ≤ arrivalStamp g.val s ∧
            regGet (Reg.lnkCnt (16 * g.val)) t = regGet (Reg.lnkCnt (16 * g.val)) s + 1) ∧
          ((r.poisoned = true ∨ crcGood ws = false ∨ searchForm ws = false) →
            let k := if r.poisoned then 8 else if crcGood ws = false then 2 else 3
            (grpAt g.val t).cores = r.cores ∧ (grpAt g.val t).cp = r.cp ∧ (grpAt g.val t).wp = r.wp ∧
            (regGet (Reg.lnkCnt (16 * g.val + k)) t).toNat = min ((regGet (Reg.lnkCnt (16 * g.val + k)) s).toNat + 1) 0xffffffff)) ∧
      (∀ lane : Fin 8, ∃ t, exec (.codewordUncorrectable g lane) s = .next t ∧
        (regGet (Reg.lnkFecUnc (8 * g.val + lane.val)) t).toNat = min ((regGet (Reg.lnkFecUnc (8 * g.val + lane.val)) s).toNat + 1) 0xffffffff ∧
        (linkState l s = 5 → (grpAt g.val t).damaged = true ∧ (grpAt g.val t).poisoned = r.inFrame) ∧
        (linkState l s ≠ 5 → t.lnk = s.lnk) ∧ RegsBut [Reg.lnkFecUnc (8 * g.val + lane.val)] s t ∧ Only [.regs, .lnk] s t) ∧
      (r.damaged = true → ∃ t, exec (.poisonBoundaryDrop g) s = .next t ∧ (grpAt g.val t).damaged = false ∧
        (grpAt g.val t).inFrame = false ∧ (r.inFrame = false → t.regs = s.regs) ∧
        (r.inFrame = true → (grpAt g.val t).wp = r.mark ∧ (grpAt g.val t).cores = r.cores.take (ptrDist r.mark r.rp) ∧
          (regGet (Reg.lnkCnt (16 * g.val + 8)) t).toNat = min ((regGet (Reg.lnkCnt (16 * g.val + 8)) s).toNat + 1) 0xffffffff ∧
          (p < 2 → pipeCum p t = (pipeCum p s + ptrDist r.wp r.mark) % 65536)) ∧ Only [.regs, .lnk, .err] s t) ∧
      (∃ t, exec (.fifoPtrReset g) s = .next t ∧ (grpAt g.val t).cores = [] ∧ (grpAt g.val t).wp = 0 ∧ (grpAt g.val t).cp = 0 ∧
        (grpAt g.val t).rp = 0 ∧ (grpAt g.val t).inFrame = false ∧ (p < 2 → pipeCum p t = (pipeCum p s + ptrDist r.wp r.rp) % 65536) ∧
        (regGet (Reg.lnkCnt (16 * g.val + 11)) t).toNat = min ((regGet (Reg.lnkCnt (16 * g.val + 11)) s).toNat + 1) 0xffffffff ∧
        bit (regGet Reg.lnkIntStat t) (8 * g.val + 6) = true ∧ (∀ k, k ≠ g.val → grpAt k t = grpAt k s) ∧ Only [.regs, .lnk, .err] s t) ∧
      (linkState l s = 5 → r.parked = false → reportedCum p s ≠ r.lastCum ∨ r.lastReport + 1000 ≤ s.clk.now →
        r.txSent ≤ txPos s.clk.pclk s → txOpen r (txPos s.clk.pclk s) 2 = true →
        ∃ t, exec (.creditFrame g) s = .next t ∧
          t.lnk.tx = s.lnk.tx ++ [(g.val, sealFrame [pack64 [(60, 0xc)]] (trailerLow p s))] ∧
          (grpAt g.val t).lastCum = reportedCum p s ∧ (grpAt g.val t).lastReport = s.clk.now ∧
          (grpAt g.val t).txSent = txPos s.clk.pclk s + 2 ∧ Only [.lnk] s t))

/-- SCHED_SWITCH and SCHED_SWITCH_BOUNDARY (R130, R133, R135 to R137, R220): a write of SWITCH sets BUSY, and the shadow
schedule is validated in the next MCLK cycle, after any profile operation; a failure is shown and nothing switches; a valid
one waits for a frame boundary after every issue slot already claimed, where active and shadow become equal in one step and
PIP_LAT follows. A worker switches with its ring, or does not where another device fails. PRF_INSTALL, PRF_FETCH,
PRF_INVALIDATE and PROFILE_SWITCH (R83 to R87, R137, R220): a write of PRF_CTL fixes what the operation will do and sets
BUSY, with every profile as it was; at the switch the profile changes whole, or, where a check of Table 3.14 failed, on this
device or on another of the ring, not at all, and PRF_STAT shows the outcome. Where the spec leaves a corner open the model's
choice is that of log entries 23 and 90. -/
def Obligations.SchedulesAndProfilesSwitchWhole : Prop :=
  (∀ s : State, Machine.Inv s →
      (∀ src v, Accepts src Reg.pipSchedCtl v s → bit v 0 = true → schedBusy s = false → isWorker s = false →
        ∃ t, exec (.schedSwitch src v) s = .next t ∧ schedBusy t = true ∧ flagGet Reg.pipSchedCtl 0 t = true ∧
          flagGet Reg.pipSchedCtl 1 t = bit v 1 ∧ RegsBut [Reg.pipSchedStat, Reg.pipSchedCtl] s t ∧ Only [.regs, .fwu] s t) ∧
      (∀ src v, Accepts src Reg.pipSchedCtl v s → src ≠ .smbus → bit v 0 = true → schedBusy s = true →
        ∃ t, exec (.schedSwitch src v) s = .next t ∧ RefusedAs 4 src (logSpace src) true Reg.pipSchedCtl v.toNat s t) ∧
      (s.tbl.prfOp.isSome = true → schedTick s = s) ∧
      (schedBusy s = true → schedRuns s = false → s.tbl.prfOp = none → ringPeers s = [] →
        (∀ st, schedFault s.pip.schedShadow s = some st →
          regGet Reg.pipSchedStat (schedTick s) = st &&& regLive Reg.pipSchedStat ∧ flagGet Reg.pipSchedCtl 0 (schedTick s) = false ∧
          (schedTick s).pip = s.pip ∧ RegsBut [Reg.pipSchedStat, Reg.pipSchedCtl] s (schedTick s) ∧ Only [.regs] s (schedTick s)) ∧
        (schedFault s.pip.schedShadow s = none → isWorker s = false →
          ∃ b, schedTick s = s.updPip (fun x => { x with schedReady := false, switchAt := some b }) ∧
            s.clk.pclk < b ∧ tabGet 0 s.pip.nextIssue 0 ≤ b ∧ tabGet 0 s.pip.nextIssue 1 ≤ b ∧ slotAt b s = 0 ∧
            (∀ x, s.clk.pclk < x → tabGet 0 s.pip.nextIssue 0 ≤ x → tabGet 0 s.pip.nextIssue 1 ≤ x → slotAt x s = 0 → b ≤ x))) ∧
      (∀ b e, s.pip.switchAt = some b → s.pip.schedReady = false →
        (s.clk.pclk < b → exec (.schedSwitchBoundary e) s = .next s) ∧
        (b ≤ s.clk.pclk → ∃ t, exec (.schedSwitchBoundary e) s = .next t ∧
          t.pip = { s.pip with schedActive := s.pip.schedShadow, switchAt := none, switched := b, schedKept := s.pip.schedShadow } ∧
          (∀ p, p < 2 → regGet (Reg.pipLat p) t =
            pipLat (maskGap s.pip.schedShadow p) (fieldGet Reg.pwrOppStat 27 26 s) &&& regLive (Reg.pipLat p)) ∧
          schedBusy t = false ∧ flagGet Reg.pipSchedCtl 0 t = false ∧ t.fwu.dirty = true ∧ Only [.regs, .pip, .fwu] s t)) ∧
      (s.pip.switchAt = none → isWorker s = true → isManager s = false → s.pip.schedReady = true →
        (∃ t, exec (.schedSwitchBoundary false) s = .next t ∧ t.pip.schedActive = s.pip.schedShadow ∧ t.pip.schedReady = false ∧
          t.pip.switched = s.clk.pclk - s.clk.slot ∧ schedBusy t = false ∧ t.fwu.dirty = true ∧ Only [.regs, .pip, .fwu] s t) ∧
        (∃ t, exec (.schedSwitchBoundary true) s = .next t ∧ t.pip = { s.pip with schedReady := false } ∧ schedBusy t = false ∧
          Only [.regs, .pip] s t))) ∧
  (∀ s : State, Machine.Inv s →
      (∀ src v, Accepts src Reg.prfCtl v s → prfBusy s = false → isManager s = false → isWorker s = false →
        let n := bits v 7 0
        let st := stagedProfile s
        let starts (c : Instr) (o : PrfOp) : Prop := ∃ t, exec c s = .next t ∧ t.tbl = { s.tbl with prfOp := some o } ∧
          flagGet Reg.prfStat 31 t = true ∧ RegsBut [Reg.prfStat] s t ∧ Only [.regs, .tbl, .fwu] s t
        (bits v 9 8 = 1 → tiedDestroys st s = [] →
          let c := if schedRuns s then prfFields st s else prfCheck st s.pip.schedActive s
          starts (.prfInstall src v) ⟨1, n, c.1, c.2.1, c.2.2, st, false, 0⟩) ∧
        (bits v 9 8 = 2 → starts (.prfFetch src v) ⟨2, n, 0, 0, 0, st, false, 0⟩) ∧
        (bits v 9 8 = 3 → starts (.prfInvalidate src v) ⟨3, n, 0, 0, 0, st, false, 0⟩)) ∧
      (∀ o e, s.tbl.prfOp = some o → schedRuns s = true → exec (.profileSwitch e) s = .next s) ∧
      (∀ o e, s.tbl.prfOp = some o → schedRuns s = false → (∀ j ∈ s.cas.jobs, j.kind ≠ 0) → ringOp o s = false → o.due ≤ s.clk.pclk →
        let c := ownCode o s
        ∃ t, exec (.profileSwitch e) s = .next t ∧ prfBusy t = false ∧ t.tbl.tables = s.tbl.tables ∧
          (c.1 ≠ 0 → c.2.1 < 8 → c.2.2 < 8 → t.tbl = { s.tbl with prfOp := none } ∧
            regGet Reg.prfStat t = pack32 [(16, o.prof), (8, c.1), (4, c.2.1), (0, c.2.2)] &&& regLive Reg.prfStat) ∧
          (c.1 = 0 → regGet Reg.prfStat t = pack32 [(16, o.prof)] &&& regLive Reg.prfStat) ∧
          (c.1 = 0 → isWorker s = true → e = true → t.tbl = { s.tbl with prfOp := none }) ∧
          (c.1 = 0 → isWorker s = false ∨ e = false →
            (o.op = 1 → tabFind t.tbl.profiles o.prof = some o.staged ∧ tabFind t.tbl.prfDram o.prof = some o.staged ∧
              (∀ k, k ≠ o.prof → tabFind t.tbl.profiles k = tabFind s.tbl.profiles k)) ∧
            (o.op = 2 → let q := (tabFind s.tbl.profiles o.prof).getD Profile.empty
              t.tbl = { s.tbl with prfOp := none } ∧ regGet Reg.prfStgHdr t = q.hdr &&& regLive Reg.prfStgHdr ∧
              (∀ l, l < 8 → regGet (Reg.prfStgLk l) t = q.lks.getD l 0 &&& regLive (Reg.prfStgLk l)) ∧
              (∀ k, k < 64 → regGet (Reg.prfStgSeg k) t = q.segs.getD k 0 &&& regLive (Reg.prfStgSeg k))) ∧
            (o.op = 3 → tabRising s.tbl.profiles = true → tabFind t.tbl.profiles o.prof = none ∧
              (∀ k, k ≠ o.prof → tabFind t.tbl.profiles k = tabFind s.tbl.profiles k))) ∧
          Only [.regs, .tbl, .cas] s t))

/-- The writes of the window selects (TBL_SEL, SVE_MAP_SEL, UPD_RING_SEL, EPC_SEL, TOD_SNAP_SEL and PRT_REF_SEL; R72, R177,
R201, R286, R412): an accepted write latches what it selects into the registers of the writer's window, changes no other
register, and leaves the other party's copy on a worker as it was. `list` names the registers that each write latches. Where
the spec leaves a corner open the model's choice is that of log entry 30. -/
def Obligations.SelectWritesLatchTheWritersWindow : Prop :=
  ∀ (src : Party) (v : Word) (s : State), Machine.Inv s →
    let latches (c : Instr) (list : List (Nat × Word)) : Prop :=
      ∃ t, exec c s = .next t ∧ (∀ x ∈ list, winGet src x.1 t = x.2 &&& regLive x.1) ∧
        (∀ off, off ∉ list.map Prod.fst → winGet src off t = winGet src off s) ∧
        (∀ q off, ownWindow q s ≠ ownWindow src s → winGet q off t = winGet q off s) ∧ Only [.regs, .mwin] s t
    let table := bits v 6 0
    let mask := (maskAt (bits v 22 16) (if bit v 23 then 1024 else bits v 9 0) s).mask
    let ring := ringAt (bits v 13 0) s
    let dom := domAt (bits v 2 0) s
    let time := if bits v 3 0 = 0 then s.tod.value else (pulseAt (bits v 3 0 - 1) s).cap
    let entry := s.prt.log.getD (bits v 4 0) (0, 0)
    (Accepts src Reg.tblSel v s → latches (.tblSelWrite src v) ((Reg.tblSel, BitVec.ofNat 32 table) :: tableWindow table s)) ∧
    (Accepts src Reg.sveMapSel v s → latches (.sveMapSelWrite src v)
      [(Reg.sveMapSel, v), (Reg.sveMapDataLo, BitVec.ofNat 32 mask.toNat),
        (Reg.sveMapDataHi, BitVec.ofNat 32 (mask.toNat / 4294967296))]) ∧
    (Accepts src Reg.updRingSel v s → latches (.updRingSelWrite src v)
      [(Reg.updRingSel, v), (Reg.updRingSqbLo, BitVec.ofNat 32 ring.sqb.toNat),
        (Reg.updRingSqbHi, BitVec.ofNat 32 (ring.sqb.toNat >>> 32)), (Reg.updRingCqbLo, BitVec.ofNat 32 ring.cqb.toNat),
        (Reg.updRingCqbHi, BitVec.ofNat 32 (ring.cqb.toNat >>> 32)), (Reg.updRingCfg, ring.cfg), (Reg.updRingWm, ring.wm),
        (Reg.updRingCoal, ring.coal), (Reg.updRingStat, ringStatWord ring), (Reg.updRingPtr, ringPtrWord ring),
        (Reg.updRingDb, ringDbWord ring)]) ∧
    (Accepts src Reg.epcSel v s → latches (.epcSelWrite src v)
      [(Reg.epcSel, v), (Reg.epcCnt, BitVec.ofNat 32 dom.cnt),
        (Reg.epcBatch, BitVec.ofNat 32 (journalSlots (if dom.recon then dom.old else dom.journal) s)),
        (Reg.epcStat, pack32 [(29, dom.st.code), (28, b2n dom.recon), (27, b2n dom.hold),
          (0, if dom.st = .idle ∨ dom.st = .pending then 0 else dom.owner)]),
        (Reg.epcTSecLo, BitVec.ofNat 32 (dom.t.getD 0 / 65536 / 1000000000)),
        (Reg.epcTSecHi, pack32 [(16, dom.t.getD 0 / 65536 / 1000000000 / 4294967296 % 65536), (0, dom.t.getD 0 % 65536)]),
        (Reg.epcTNs, BitVec.ofNat 32 (dom.t.getD 0 / 65536 % 1000000000))]) ∧
    (Accepts src Reg.todSnapSel v s → latches (.todSnapSelWrite src v)
      [(Reg.todSnapSel, v), (Reg.todSnapSecLo, BitVec.ofNat 32 (time / 4294967296 / 1000000000)),
        (Reg.todSnapSecHi, pack32 [(16, time / 4294967296 / 1000000000 / 4294967296 % 65536), (0, time / 65536 % 65536)]),
        (Reg.todSnapNs, BitVec.ofNat 32 (time / 4294967296 % 1000000000)),
        (Reg.todSnapSeq, BitVec.ofNat 32 (if bits v 3 0 = 0 then 0 else (pulseAt (bits v 3 0 - 1) s).seq))]) ∧
    (Accepts src Reg.prtRefSel v s → latches (.prtRefSelWrite src v)
      [(Reg.prtRefSel, v), (Reg.prtRefALo, BitVec.ofNat 32 entry.1.toNat), (Reg.prtRefAHi, BitVec.ofNat 32 (entry.1.toNat >>> 32)),
        (Reg.prtRefBLo, BitVec.ofNat 32 entry.2.toNat), (Reg.prtRefBHi, BitVec.ofNat 32 (entry.2.toNat >>> 32))])

/-- UPD_RING_CTL (R146, R147, R177, R269, R273): with the checks met, APPLY gives the selected ring the staged context, START
puts it in RUN with empty rings and PHASE 1, and STOP takes it to STOP; no other ring changes but through commands that
complete. Where the spec leaves a corner open the model's choice is that of log entries 56, 57 and 70. -/
def Obligations.RingControlActsOnTheSelectedRing : Prop :=
  ∀ (src : Party) (v : Word) (s : State), Machine.Inv s → Accepts src Reg.updRingCtl v s →
    let r := selRing src s
    let q := ringAt r s
    let n := stagedRing src q s
    (bit v 2 = true → bit v 1 = false → bit v 0 = false → stagedForbidden n s = false →
      (q.st = 0 ∨ (n.sqb = q.sqb ∧ n.cqb = q.cqb ∧ bits n.cfg 3 0 = bits q.cfg 3 0 ∧ n.func = q.func)) →
      ∃ t, exec (.ringApply src v) s = .next t ∧ ringAt r t = n ∧ (∀ k, k ≠ r → ringAt k t = ringAt k s) ∧ Only [.upd] s t) ∧
    (bit v 0 = true → bit v 1 = false → q.st = 0 → stagedForbidden n s = false → fnEnabled n.func s = true →
      ∃ t, exec (.ringStart src v) s = .next t ∧
        ringAt r t = { n with st := 1, fault := 0, head := 0, tail := 0, ctail := 0, chead := 0, phase := true, owed := 0,
                              oldest := 0, urgent := false, since := s.clk.now, marks := [], quiet := false } ∧
        (∀ k, k ≠ r → ringAt k t = ringAt k s) ∧ Only [.upd] s t) ∧
    (bit v 1 = true → bit v 2 = false → bit v 0 = false → (q.st = 1 ∨ q.st = 3) →
      ∃ t u, exec (.ringStop src v) s = .next t ∧ t = settle (abortReady r u) ∧ ringAt r u = { q with st := 2 } ∧
        (∀ k, k ≠ r → ringAt k u = ringAt k s) ∧ u.upd.cmds = s.upd.cmds ∧ Only [.upd] s u)

/-- R266, R144 and R145: the doorbells read 0; an access of another size or with partial byte enables is refused with cause
WIDTH; an aligned doorbell of 32 bits by the ring's own function, on a ring in RUN or FAULT, that names a slot not behind the
one submitted (or a head no further than what was written) moves the tail or the head; one by another function, or on a ring
in OFF or STOP, is refused with cause DOORBELL and changes no ring. -/
def Obligations.DoorbellsMoveTailsAndHeads : Prop :=
  ∀ (fn : Fin 64) (off : Nat) (v : W64) (s : State), Machine.Inv s → xingDead 53 s = false → linkUp s = true → fnEnabled fn.val s = true →
    s.pwr.entering = none → powerState s < 2 → off < 65536 →
    (∀ len full, exec (.registerRead ⟨.pcie fn, .bar2, off, len, full, false⟩) s = .next (answer (.doorbell fn.val) s)) ∧
    (∀ size full, size ≠ 0 → full = false ∨ (size ≠ 4 ∧ size ≠ 8) ∨ off % size ≠ 0 →
      ∃ t, exec (.doorbellSqTail fn off size full v false) s = .next t ∧ exec (.doorbellCqHead fn off size full v false) s = .next t ∧
        RefusedAs 6 (.pcie fn) 1 true off (v.toNat % 2 ^ 32) s t) ∧
    (off % 4 = 0 →
    let r := off / 4
    let q := ringAt r s
    let val := bits v 15 0
    (q.func = fn.val → (q.st = 1 ∨ q.st = 3) → bits v 31 30 = 0 → val < q.size → q.unfetched ≤ (val + q.size - q.head) % q.size →
      ∃ t, exec (.doorbellSqTail fn off 4 true v false) s = .next t ∧
        ringAt r t = { q with tail := val, marks := if q.st = 1 then q.marks ++ [(val, s.clk.now)] else q.marks } ∧
        (∀ k, k ≠ r → ringAt k t = ringAt k s) ∧ Only [.upd] s t) ∧
    (q.func = fn.val → (q.st = 1 ∨ q.st = 3) → bits v 31 30 = 1 → val < q.size →
      (q.ctail + q.size - val) % q.size ≤ q.unconsumed →
      ∃ t u, exec (.doorbellCqHead fn off 4 true v false) s = .next t ∧ t = settle u ∧
        ringAt r u = { q with chead := val, since := if q.room then q.since else s.clk.now } ∧
        (∀ k, k ≠ r → ringAt k u = ringAt k s) ∧ Only [.upd] s u) ∧
    ((q.func ≠ fn.val ∨ q.st = 0 ∨ q.st = 2) →
      ∃ t, exec (.doorbellSqTail fn off 4 true v false) s = .next t ∧ exec (.doorbellCqHead fn off 4 true v false) s = .next t ∧
        RefusedAs 9 (.pcie fn) 1 true off (v.toNat % 2 ^ 32) s t ∧ ∀ k, ringAt k t = ringAt k s))

/-- RING_STOP_DONE, RING_INTERRUPT, HELD_COMMAND_RELEASE and COMPLETION_WRITE_REFUSED (R146, R147, R162, R175, R182, R370,
Tables 6.3 and 6.4): a stopped ring without commands enters OFF, where its open and closed batches are discarded and its
image session ends. -/
def Obligations.RingEventsFollowTheRingStates : Prop :=
  ∀ s : State, Machine.Inv s →
    (∀ r : Fin 16384, (ringAt r.val s).st = 2 → (∀ c ∈ s.upd.cmds, c.ring ≠ r.val) →
      ∃ t, exec (.ringStopDone r) s = .next t ∧ ringAt r.val t = { ringAt r.val s with st := 0, quiet := false } ∧
        (∀ k, k ≠ r.val → ringAt k t = ringAt k s) ∧
        (∀ d, d < 8 → (domAt d s).owner = r.val → ((domAt d s).st = .open_ ∨ (domAt d s).st = .closed) → (domAt d t).discarding = true) ∧
        (fieldGet Reg.fwuStat 28 26 s = 1 → s.fwu.session.map (·.ring) = some r.val → t.fwu.session = none) ∧
        ((∀ d, d < 8 → (domAt d s).owner ≠ r.val) → s.fwu.session = none → Only [.upd, .cas] s t)) ∧
    (∀ r : Fin 16384, awake s = true → let q := ringAt r.val s
      q.intEn = true → (q.urgent = true ∨ (0 < q.owed ∧ (max 1 (bits q.coal 15 8) ≤ q.owed ∨
        q.oldest + 1000 * max 1 (bits q.coal 7 0) ≤ s.clk.now))) →
      ∃ t, exec (.ringInterrupt r) s = .next t ∧ ringAt r.val t = { q with owed := 0, oldest := 0, urgent := false } ∧
        (tabGet false s.hif.msixPend q.vector = false → vecOpen q.vector s = true →
          t.hif.out = s.hif.out ++ [.msix (vecOwner q.vector s) q.vector (msixEntry q.vector s).addr (msixEntry q.vector s).data]) ∧
        (vecOpen q.vector s = false → t.hif.out = s.hif.out ∧ tabGet false t.hif.msixPend q.vector = true) ∧
        Only [.upd, .hif] s t) ∧
    (∀ d : Fin 8, (domAt d.val s).recon = false →
      ∃ t, exec (.heldCommandRelease d) s = .next t ∧ t.upd.cmds.length = s.upd.cmds.length ∧
        (∀ c ∈ t.upd.cmds, c.stage = .held → cmdDomain c s ≠ d.val) ∧
        (∀ c ∈ s.upd.cmds, c.stage = .held → cmdDomain c s = d.val → { c with stage := .ready } ∈ t.upd.cmds) ∧ Only [.upd] s t) ∧
    (∀ r : Fin 16384, (ringAt r.val s).st = 1 →
      ∃ t, exec (.completionWriteRefused r) s = .next t ∧ (ringAt r.val t).st = 3 ∧ (ringAt r.val t).fault = 3 ∧
        (ringAt r.val t).flt = true ∧ (∀ k, k ≠ r.val → ringAt k t = ringAt k s) ∧ Only [.upd] s t)

/-- INTENT_SCHEDULE, DESCRIPTOR_ARRIVE and COMPLETION_TIMEOUT (R149 to R155, R261): the ring served has the highest priority
of those eligible; up to 8 slots of whole commands enter flight and are read from its head on; a command whose words arrive
is parsed and checked, and completes with the first check it fails or becomes ready; and a read that fails sends the ring to
FAULT with code 2 and drops the command. Where the spec leaves a corner open the model's choice is that of log entries 28,
56, 67, 68 and 69. -/
def Obligations.CommandsAreFetchedAndParsed : Prop :=
  ∀ s : State, Machine.Inv s →
    (∀ heads r hs, isWorker s = false → pickRing heads s = some (r, hs) →
      let q := ringAt r s
      let turn := turnSlots hs q.unfetched 8 (4096 - s.upd.cmds.length)
      let n := (turn.map slotsTaken).sum
      let first := min n (q.size - q.head)
      let k := maxRead s / 64
      let reads := (first + k - 1) / k + (n - first + k - 1) / k
      eligible r hs s = true ∧ (∀ x ∈ heads, eligible x.1.val x.2 s = true → (ringAt x.1.val s).prio ≤ q.prio) ∧ n ≤ 8 ∧ n ≤ q.unfetched ∧
      (512 < readsOut s + reads → exec (.intentSchedule heads) s = .next s) ∧
      (readsOut s + reads ≤ 512 → ∃ t new more, exec (.intentSchedule heads) s = .next t ∧ t.upd.cmds = s.upd.cmds ++ new ∧
        new.length = turn.length ∧ (∀ c ∈ new, c.ring = r ∧ c.stage = .fetched ∧ s.upd.nextId ≤ c.id) ∧
        (ringAt r t).head = (q.head + n) % q.size ∧ (∀ j, j ≠ r → ringAt j t = ringAt j s) ∧
        tabFind t.upd.lastServed q.prio = some r ∧ t.hif.out = s.hif.out ++ more ∧ more.length = reads ∧
        (64 * n ≤ maxRead s → more =
          (if 0 < first then [.read q.func (q.sqb + BitVec.ofNat 64 (64 * q.head)) (64 * first) s.upd.nextId] else []) ++
          (if first < n then [.read q.func q.sqb (64 * (n - first)) s.upd.nextId] else [])) ∧ Only [.regs, .upd, .hif] s t)) ∧
    (∀ n c ws, s.upd.cmds = [c] → c.id = n → c.stage = .fetched → s.upd.due = [] → (ringAt c.ring s).st = 1 → relayWorker c.ring s = none →
      let d := { c with words := ws, stage := .arrived, reads := [], barrier := opBarrier (opOf (ws.getD 0 0)) }
      ∃ t, exec (.descriptorArrive n (some ws)) s = .next t ∧
        (parseCheck d s = none → (domAt (cmdDomain d s) s).recon = false →
          t.upd.cmds = [{ d with seq := s.upd.parses, stage := .ready, accepted := false }] ∧ t.upd.parses = s.upd.parses + 1 ∧ Only [.upd] s t) ∧
        (∀ st de, parseCheck d s = some (st, de) → ∃ u, t = complete n st 0 de 0 u ∧ u.upd.cmds = [{ d with seq := s.upd.parses }] ∧
          u.upd.parses = s.upd.parses + 1 ∧ Only [.upd] s u)) ∧
    (∀ n c, cmdAt n s = some c →
      let failed (u : State) : Prop := cmdAt n u = none ∧
        ((ringAt c.ring s).st = 1 → (ringAt c.ring u).st = 3 ∧ (ringAt c.ring u).fault = 2 ∧ (ringAt c.ring u).flt = true) ∧
        (∀ k, k ≠ c.ring → ringAt k u = ringAt k s)
      let f := (ringAt c.ring s).func
      (c.stage = .fetched → ∃ u, exec (.descriptorArrive n none) s = .next (settle u) ∧ failed u ∧ Only [.upd] s u) ∧
      (c.stage = .fetched ∨ c.fwReading = true → ∃ u, exec (.completionTimeout n) s = .next (settle u) ∧ failed u ∧
        fnCfg f u = { fnCfg f s with errs := (fnCfg f s).errs ||| bitMask 14 } ∧ (∀ k, k ≠ f → fnCfg k u = fnCfg k s) ∧
        Only [.upd, .hif] s u))

/-- R143 and R145: a completion is two posted writes, word 1 before word 0, laid out as Table 6.1, at the tail of the
completion ring; the tail moves, PHASE inverts at the wrap, the status is counted, and the command leaves flight; a table
that was created exists from then on, and one that was destroyed no longer. A ring without room keeps it waiting. Where the
spec leaves a corner open the model's choice is that of log entry 56. -/
def Obligations.CompletionsAreWrittenAtTheTail : Prop :=
  ∀ (n st ix de va : Nat) (c : Cmd) (s : State), Machine.Inv s → cmdAt n s = some c → s.upd.due = [] →
    (∀ e ∈ s.upd.cmds, e.stage ≠ .arrived) → (ringAt c.ring s).quiet = false → isWorker s = false → st < 12 →
    let q := ringAt c.ring s
    let a := q.cqb + BitVec.ofNat 64 (16 * q.ctail)
    let t := complete n st ix de va s
    (mayRequest q.func s = true → q.room = true →
      t.hif.out = s.hif.out ++
        [.write q.func (a + 8) [pack64 [(40, ix % 2 ^ 22), (32, de % 256), (0, va % 2 ^ 32)]],
         .write q.func a [pack64 [(63, b2n q.phase), (48, st), (32, bits c.hdr 15 0), (16, q.head), (0, c.pos)]]] ∧
      (ringAt c.ring t).ctail = (if q.ctail + 1 = q.size then 0 else q.ctail + 1) ∧
      (ringAt c.ring t).phase = (if q.ctail + 1 = q.size then !q.phase else q.phase) ∧ (ringAt c.ring t).owed = q.owed + 1 ∧
      (∀ k, k ≠ c.ring → ringAt k t = ringAt k s) ∧ t.upd.cmds = s.upd.cmds.filter (fun e => e.id != n) ∧ t.upd.due = [] ∧
      regGet (Reg.updCnt st) t = regGet (Reg.updCnt st) s + 1 ∧ RegsBut [Reg.updCnt st] s t ∧
      (st = 0 → opOf c.hdr = 1 → ∀ d, tableAt (tableOf c.hdr) s = some d →
        t.tbl.tables = tabInsert s.tbl.tables (tableOf c.hdr) { d with life := .exists_ }) ∧
      (st = 0 → opOf c.hdr = 2 → t.tbl.tables = tabErase s.tbl.tables (tableOf c.hdr)) ∧
      Only (if st = 0 ∧ (opOf c.hdr = 1 ∨ opOf c.hdr = 2) then [.regs, .tbl, .upd, .hif] else [.regs, .upd, .hif]) s t) ∧
    ((mayRequest q.func s = false ∨ q.room = false) →
      t.hif = s.hif ∧ t.upd.due = [n] ∧ (cmdAt n t).map (·.stage) = some (.done st ix de va) ∧ Only [.upd] s t)

/-- TABLE_CREATE, TABLE_DESTROY and TABLE_RELEASE (R68 to R71, R87): a table of a number in use, over pans or regions in use,
is refused; a new one takes its pans, with every slot free, every mask 0 and every unit of its regions 0, and exists when its
command completes; one that is named by a profile or has a batch is BUSY; one to be destroyed is marked, is freed once the
commands on it are complete and its row writes done, and after its hold its pans and regions are released; its number is free
again when the completion is written. -/
def Obligations.TablesAreCreatedAndDestroyed : Prop :=
  ∀ (n : Nat) (c : Cmd) (s : State), Machine.Inv s →
    let tn := tableOf c.hdr
    let d := c.tableDesc
    (readyCmd n [0x01] s = some c → canWrite s = true →
      ((tableAt tn s).isSome = true → exec (.tableCreate n) s = .next (complete n 4 0 0 0 s)) ∧
      (tableAt tn s = none → (∃ p ∈ d.pans, panTable p s ≠ none ∨ panLost p s = true) →
        exec (.tableCreate n) s = .next (complete n 1 0 0 0 s)) ∧
      (tableAt tn s = none → (∀ p ∈ d.pans, panTable p s = none ∧ panLost p s = false) →
        (∀ o ∈ s.tbl.tables, ∀ r ∈ o.2.regions, ∀ q ∈ d.regions, overlap r.1 r.2 q.1 q.2 = false) →
        (∀ p ∈ s.upd.plans, p.no ≠ n) →
        ∃ t, exec (.tableCreate n) s = .next t ∧ tableAt tn t = some d ∧
          (∀ p ∈ d.pans, panTable p t = some tn ∧ panMirror p t = d.mirset.toNat.testBit p ∧ panWidth p t = d.width) ∧
          (∀ i, i / 16384 ∈ d.pans → sliceAt i t = Slice.free ∧ rankAt i t = 0) ∧
          (∀ b, b ≤ 1024 → maskAt tn b t = ⟨0, false, false⟩) ∧
          (∀ r ∈ d.regions, ∀ u, r.1 ≤ u → u < r.1 + r.2 → unitRead u t = 0 ∧ tabGet 0 t.arr.goldRec u = 0) ∧
          (cmdAt n t).map (·.stage) = some .running ∧ Only [.regs, .arr, .tbl, .mem, .upd] s t)) ∧
    (readyCmd n [0x02] s = some c → ∀ d, tableLive tn s = some d →
      ((tableProfiled tn s = true ∨ (domAt d.domain s).st ≠ .idle ∨ (domAt d.domain s).recon = true) →
        exec (.tableDestroy n) s = .next (complete n 0xb 0 0 0 s)) ∧
      (tableProfiled tn s = false → (domAt d.domain s).st = .idle → (domAt d.domain s).recon = false →
        (∀ p ∈ s.upd.plans, p.slack = false) →
        ∃ t, exec (.tableDestroy n) s = .next t ∧ tableAt tn t = some { d with life := .destroyed } ∧
          (∀ k, k ≠ tn → tableAt k t = tableAt k s) ∧ cmdAt n t = some { c with stage := .running, mark := s.clk.now } ∧
          (∀ k, k ≠ n → cmdAt k t = cmdAt k s) ∧ Only [.tbl, .upd] s t)) ∧
    (readyCmd n [0x02] s = some c → tableLive tn s = none → exec (.tableDestroy n) s = .next (complete n 5 0 0 0 s)) ∧
    (runningCmd n [0x02] s = some c → ∀ d, tableAt tn s = some d →
      ((c.count ≠ 0 ∨ s.clk.now ≤ c.mark ∨ tableWriting tn s = true ∨ (∃ q ∈ s.arr.mreqs, q.table = tn) ∨ canWrite s = false) →
        exec (.tableDestroy n) s = .next s) ∧
      (c.count = 0 → c.mark < s.clk.now → tableWriting tn s = false → (∀ q ∈ s.arr.mreqs, q.table ≠ tn) → canWrite s = true →
        naming c s = [] →
        ∃ u, exec (.tableDestroy n) s = .next (settle u) ∧ (∀ i, i / 16384 ∈ d.pans → sliceAt i u = Slice.free ∧ rankAt i u = 0) ∧
          (∀ b, b ≤ 1024 → maskAt tn b u = ⟨0, false, false⟩) ∧ (∀ x ∈ u.arr.dir, x.1 / 16384 ∉ d.pans) ∧
          (∀ x ∈ u.arr.gold, x.2.table ≠ tn) ∧ (∀ i ∈ u.arr.stranded, i / 16384 ∉ d.pans) ∧
          cmdAt n u = some { c with mark := s.clk.pclk + 160, count := 1 } ∧ Only [.regs, .arr, .tbl, .upd] s u)) ∧
    (∀ (t : Fin 128) d, s.upd.cmds.find? (fun c => decide (c.stage = .running) && opOf c.hdr == 2 && tableOf c.hdr == t.val &&
        c.count == 1 && c.mark ≤ s.clk.pclk) = some c → tableAt t.val s = some d → (∀ h ∈ s.arr.holds, h.table ≠ t.val) →
      (∀ q ∈ s.arr.mreqs, q.table ≠ t.val) →
      ∃ u, exec (.tableRelease t) s = .next (complete c.id 0 0 0 0 u) ∧ tableAt t.val u = some { d with life := .released } ∧
        (∀ p ∈ d.pans, panTable p u = none) ∧ (∀ k, k ≠ t.val → tableAt k u = tableAt k s) ∧ Only [.regs, .tbl] s u)

/-- INSERT (R27, R57, R155, R162 to R165): an identity already live completes EXISTS; otherwise, in a pan with room where no
entry has to move, the record and rank are written first, the Sieve names the pan, and the row write of the entry, live in
both epochs, is queued; outside an IDLE domain an immediate command completes EPOCH_CLOSED, and it waits behind an earlier
one on its entry; behind a TABLE_DESTROY of its table it completes BAD_TABLE. Where the spec leaves a corner open the model's
choice is that of log entry 63. -/
def Obligations.InsertPlacesAnEntry : Prop :=
  ∀ (n : Nat) (c : Cmd) (d : TableDesc) (s : State), Machine.Inv s → readyCmd n [0x10] s = some c → tableAt (tableOf c.hdr) s = some d →
    c.accepted = false → (∀ p ∈ s.upd.plans, p.slack = false) →
    let tn := tableOf c.hdr
    let e : Entry := ⟨tn, c.key d &&& c.mask d, c.mask d, rankOf c.hdr, c.record d, true, true⟩
    (doomed c s = true → exec (.insert n) s = .next (complete n 5 0 0 0 s)) ∧
    (doomed c s = false →
    (epochOpen c d s = false → exec (.insert n) s = .next (complete n 6 0 0 0 s)) ∧
    (epochOpen c d s = true → updateWaits c d s = true → exec (.insert n) s = .next s) ∧
    (∀ x, epochOpen c d s = true → updateWaits c d s = false → findLive tn (c.key d) (c.mask d) (updEpoch c d s) s = some x →
      exec (.insert n) s = .next (complete n 4 x.1 0 0 s)) ∧
    (∀ pan pos, batchBit c.hdr = false → epochOpen c d s = true → updateWaits c d s = false →
      findLive tn (c.key d) (c.mask d) (updEpoch c d s) s = none → choosePan d tn e.key e.mask (skipPans d tn s) s = .ok pan →
      panBusy d pan s = false → placeAt d tn pan e.rank s = some ⟨pos, []⟩ → slotClear d pos s = true → canWrite s = true →
      d.guarded = false → (∀ p ∈ s.upd.plans, p.no ≠ n) → panBits d (panOf d.width pos) < 2 ^ 64 →
      ∃ t q, exec (.insert n) s = .next t ∧ t.arr.mreqs = s.arr.mreqs ++ [q] ∧ q.idx = pos ∧ q.table = tn ∧ q.entry = some e ∧
        q.tag = .plan n ∧ (∀ j, j < strideUnits d → unitRead (recordUnit d pos false + j) t = e.record.getD j 0) ∧
        (d.width < 3 → rankAt pos t = rankWord e.rank) ∧
        (named (dirMask tn (bucketKey d e.key e.mask) t) (panBits d (panOf d.width pos)) = true ∨
          named (dirMask tn 1024 t) (panBits d (panOf d.width pos)) = true) ∧
        t.arr.slices = s.arr.slices ∧ t.arr.dir = s.arr.dir ∧ (cmdAt n t).map (·.stage) = some .running ∧
        Only [.regs, .arr, .tbl, .mem, .upd, .hif, .err] s t))

/-- DELETE, MODIFY_DATA and MODIFY_RANK (R155, R162, R163, R167): a key with no live entry completes NOT_FOUND; an immediate
DELETE queues the row write that frees the entry, with its hold; an immediate MODIFY_DATA rewrites the record in place; a
MODIFY_RANK whose rank keeps the order at its place rewrites the rank word in place; each completes after its golden-copy
write. Where the spec leaves a corner open the model's choice is that of log entries 63 and 64. -/
def Obligations.EntriesAreDeletedAndModified : Prop :=
  ∀ (n op : Nat) (c : Cmd) (d : TableDesc) (s : State), Machine.Inv s → readyCmd n [op] s = some c → tableAt (tableOf c.hdr) s = some d →
    c.accepted = false → doomed c s = false → epochOpen c d s = true → updateWaits c d s = false →
    (∀ p ∈ s.upd.plans, p.no ≠ n ∧ p.slack = false) →
    let tn := tableOf c.hdr
    let live := findLive tn (c.key d) (c.mask d) (updEpoch c d s) s
    (live = none →
      (op = 0x11 → exec (.delete n) s = .next (complete n 3 0 0 0 s)) ∧
      (op = 0x12 → exec (.modifyData n) s = .next (complete n 3 0 0 0 s)) ∧
      (op = 0x13 → exec (.modifyRank n) s = .next (complete n 3 0 0 0 s))) ∧
    (∀ i e, live = some (i, e) → batchBit c.hdr = false → panBusy d (panOf d.width i) s = false → d.guarded = false →
      (op = 0x11 → ∃ t q, exec (.delete n) s = .next t ∧ t.arr.mreqs = s.arr.mreqs ++ [q] ∧ q.idx = i ∧ q.prim = i ∧ q.table = tn ∧
        q.entry = none ∧ q.tag = .plan n ∧ t.arr.slices = s.arr.slices ∧ (cmdAt n t).map (·.stage) = some .running ∧
        Only [.arr, .upd] s t) ∧
      (op = 0x12 → dirAt i s = some e → canWrite s = true →
        ∃ t, exec (.modifyData n) s = .next t ∧ dirAt i t = some { e with record := c.record d } ∧
        (∀ j, j < strideUnits d → unitRead (recordUnit d i false + j) t = (c.record d).getD j 0) ∧
        t.arr.golds = s.arr.golds ++ [⟨i, tn, some { e with record := c.record d }, some n⟩] ∧ t.arr.slices = s.arr.slices ∧
        (cmdAt n t).map (·.stage) = some .running ∧ Only [.regs, .arr, .mem, .upd, .hif, .err] s t) ∧
      (op = 0x13 → dirAt i s = some e → rankFits d tn i (rankOf c.hdr) s = true → d.width < 3 → canWrite s = true →
        ∃ t, exec (.modifyRank n) s = .next t ∧ dirAt i t = some { e with rank := rankOf c.hdr } ∧ rankAt i t = rankWord (rankOf c.hdr) ∧
        t.arr.golds = s.arr.golds ++ [⟨i, tn, some { e with rank := rankOf c.hdr }, some n⟩] ∧ t.arr.slices = s.arr.slices ∧
        (cmdAt n t).map (·.stage) = some .running ∧ Only [.arr, .upd] s t))

/-- READ, SNAPSHOT, SNAPSHOT_DONE, FENCE and FENCE_COMPLETE (R157, R162, R172, R173): a READ writes the image of the entry it
finds and completes OK with its index, or NOT_FOUND; a SNAPSHOT writes the images of the live entries that fit, in ascending
order, and completes with their number, FULL if some did not fit; a FENCE begins when the commands it covers are complete,
and completes when what they made not live has drained. R142, R154, R157 and R158: the image of an entry is the descriptor of
an INSERT of that entry. -/
def Obligations.EntriesAreReadAndOrdered : Prop :=
  (∀ (n : Nat) (c : Cmd) (s : State), Machine.Inv s →
      (∀ d, readyCmd n [0x14] s = some c → tableAt (tableOf c.hdr) s = some d → doomed c s = false → ringSends c s = true →
        let tn := tableOf c.hdr
        let found (i : Nat) (e : Entry) : Prop := exec (.read n) s = .next (complete n 0 i 0 0
            (hostWrite (ringAt c.ring s).func (c.word 2) (entryImage d tn i e) s)) ∧
          (64 * widthSlots d.width ≤ maxPayload s → hostWrite (ringAt c.ring s).func (c.word 2) (entryImage d tn i e) s =
            hostSend (.write (ringAt c.ring s).func (c.word 2) (entryImage d tn i e)) s)
        (optBit c.hdr 51 = false → entryBusy c d s = false →
          let r := findLive tn (c.key d) (c.mask d) (readEpoch c d s) s
          (∀ i e, r = some (i, e) → found i e) ∧ (r = none → exec (.read n) s = .next (complete n 3 0 0 0 s))) ∧
        (optBit c.hdr 51 = true → let idx := bits (c.word 1) 21 0
          (idxAligned d.width idx = false → exec (.read n) s = .next (complete n 9 0 1 0 s)) ∧
          (∀ p e, idxAligned d.width idx = true → primaryIndex d idx = some p → dirAt p s = some e → e.table = tn → found p e) ∧
          (idxAligned d.width idx = true → (∀ p, primaryIndex d idx = some p → dirAt p s = none) →
            exec (.read n) s = .next (complete n 3 0 0 0 s)))) ∧
      (∀ d, readyCmd n [0x31] s = some c → tableAt (tableOf c.hdr) s = some d → doomed c s = false → tableWriting (tableOf c.hdr) s = false →
        ringSends c s = true →
        let tn := tableOf c.hdr
        (snapping tn s = true → exec (.snapshot n) s = .next (complete n 0xb 0 0 0 s)) ∧
        (snapping tn s = false →
          let all := (tableEntries tn s).filter fun x => x.2.live (readEpoch c d s)
          let fit := all.take (bits (c.word 2) 31 0 / widthSlots d.width)
          let img (k : Nat) : List W64 := ((fit[k]?).map fun x => entryImage d tn x.1 x.2).getD []
          ∃ t more, exec (.snapshot n) s = .next t ∧ t.hif.out = s.hif.out ++ more ∧
            (64 * widthSlots d.width ≤ maxPayload s → more = (List.range fit.length).map fun k =>
              .write (ringAt c.ring s).func (c.word 1 + BitVec.ofNat 64 (64 * widthSlots d.width * k)) (img k)) ∧
            snapping tn t = true ∧ (cmdAt n t).map (fun x => (x.mark, x.count)) = some (all.length, fit.length) ∧
            Only [.upd, .hif] s t)) ∧
      (runningCmd n [0x31] s = some c → ∃ u, exec (.snapshotDone n) s = .next (complete n (if c.count < c.mark then 1 else 0) 0 0 c.count u) ∧
        (∀ x ∈ u.upd.snaps, x.2 ≠ n) ∧ Only [.upd] s u) ∧
      (readyCmd n [0x30] s = some c → fenceCovered c s = true → ∃ t, exec (.fence n) s = .next t ∧
        (cmdAt n t).map (fun x => (x.stage, x.mark)) = some (.running, s.upd.lastDead) ∧ Only [.upd] s t) ∧
      (readyCmd n [0x30] s = some c → fenceCovered c s = false → exec (.fence n) s = .next s) ∧
      (runningCmd n [0x30] s = some c → (optBit c.hdr 50 = false ∨ drained c.mark s = true) →
        exec (.fenceComplete n) s = .next (complete n 0 0 0 0 s))) ∧
  (∀ (d : TableDesc) (tn idx : Nat) (e : Entry) (c : Cmd), d.width < 4 → d.stride ≤ 3 → tn < 128 → e.rank < 65536 →
      e.record.length = strideUnits d →
      let low := 640 - 8 * widthBytes d.width
      e.key &&& e.mask = (e.key &&& e.mask) >>> low <<< low → e.mask = e.mask >>> low <<< low →
      c.words = entryImage d tn idx e →
      opOf c.hdr = 0x10 ∧ slotsTaken c.hdr = widthSlots d.width ∧ c.words.length = 8 * widthSlots d.width ∧ tableOf c.hdr = tn ∧
      rankOf c.hdr = e.rank ∧ batchBit c.hdr = false ∧ c.key d = e.key &&& e.mask ∧ c.mask d = e.mask ∧ c.record d = e.record)

/-- Accesses of the memories by the host through BAR4 and by the MP (R264, R265, R267, R290 to R295, R303): a read that is
let through answers the bytes of its space, one that is refused answers zeros; a write changes the enabled bytes of its space
and no other; the set and clear aliases set and clear the bits written 1; an access of the DRAM waits for the arbiter, and
reads or writes its bytes when it is performed; a refused access changes nothing but its record, and one of the MP ends in a
bus error. Clauses on the memories are for words without errors; the masters that lose a cycle to an access are counted.
Where the spec leaves a corner open the model's choice is that of log entries 7, 15, 49, 59, 85, 87 and 88. -/
def Obligations.HostMemoryAccessesReadAndWriteBytes : Prop :=
  ∀ (off : Nat) (rivals : List (List (Fin 5))) (s : State), Machine.Inv s → off < 0x10000000 →
    let conf := [Reg.ptyConf 0, Reg.ptyConf 1, Reg.ptyConf 2, Reg.ptyConf 3, Reg.ptyConf 4]
    let zeros (be : List Bool) : ReadResult := .mem (be.map fun b => if b then some 0 else none) false
    let clean : Prop := (∀ w, (pantryRead w s).kind = 0) ∧ (∀ w, (scratchRead w s).kind = 0) ∧ ∀ i, tabGet false s.arr.actBad i = false
    let reads (c : Instr) (x : MemAcc) (be : List Bool) : Prop :=
      let answers (f : Nat → Byte) : Prop := ∃ t, exec c s = .next t ∧
        t.hif.answers = s.hif.answers ++ [.mem ((List.range be.length).map fun i => if be.getD i false then some (f (x.byte + i)) else none) false] ∧
        t.mem.pantry = s.mem.pantry ∧ t.mem.scratch = s.mem.scratch ∧ t.mem.dram = s.mem.dram ∧ RegsBut conf s t ∧ Only [.regs, .mem, .hif] s t
      (x.space = 0 → clean → answers (memByte s.mem.pantry)) ∧
      (x.space = 1 → clean → answers (memByte s.mem.scratch)) ∧
      (x.space = 3 → clean →
        answers fun b => BitVec.ofNat 8 (packNat ((List.range 8).map fun j => (j, b2n (tabGet true s.arr.act (8 * b + j)))))) ∧
      (x.space = 2 → flagGet Reg.arbStat 26 s = false → ∃ t, exec c s = .next t ∧
        t.drc.waiting = s.drc.waiting ++ (dramPieces x.byte be.length).map (fun y => ⟨x.m, y.1, (be.drop (y.1 - x.byte)).take y.2, none⟩) ∧
        Only [.drc] s t)
    let stored (m : State → List Host.Cell) (byte : Nat) (data : List (Option Byte)) (f : Byte → Byte → Byte) (t : State) : Prop :=
      ∀ a, memByte (m t) a = if byte ≤ a ∧ a < byte + data.length
        then (match data.getD (a - byte) none with | some b => f (memByte (m s) a) b | none => memByte (m s) a) else memByte (m s) a
    let writes (c : Instr) (x : MemAcc) (data : List (Option Byte)) : Prop :=
      let f (a b : Byte) : Byte := if x.alias_ = 0 then b else if x.alias_ = 1 then a ||| b else a &&& ~~~b
      (x.space = 0 → clean → ∃ t, exec c s = .next t ∧ stored (·.mem.pantry) x.byte data f t ∧ t.mem.scratch = s.mem.scratch ∧
        t.mem.dram = s.mem.dram ∧ RegsBut conf s t ∧ Only [.regs, .mem] s t) ∧
      (x.space = 1 → clean → ∃ t, exec c s = .next t ∧ stored (·.mem.scratch) x.byte data f t ∧ t.mem.pantry = s.mem.pantry ∧
        t.mem.dram = s.mem.dram ∧ RegsBut conf s t ∧ Only [.regs, .mem] s t) ∧
      (x.space = 2 → flagGet Reg.arbStat 26 s = false → ∃ t, exec c s = .next t ∧
        t.drc.waiting = s.drc.waiting ++ (dramPieces x.byte data.length).map (fun y =>
          let part := (data.drop (y.1 - x.byte)).take y.2
          ⟨x.m, y.1, part.map (·.isSome), some part⟩) ∧ Only [.drc] s t) ∧
      (x.space = 3 → clean → ∃ t, exec c s = .next t ∧
        (∀ i, tabGet true t.arr.act i = if 8 * x.byte ≤ i ∧ i < 8 * (x.byte + data.length) ∧
          ((data.getD ((i - 8 * x.byte) / 8) none).any fun b => bit b (i % 8)) = true then false else tabGet true s.arr.act i) ∧
        t.arr.slices = s.arr.slices ∧ Only [.arr] s t)
    (∀ (fn : Fin 64) (be : List Bool), linkUp s = true → 0 < be.length → off + be.length ≤ 0x10000000 →
      let c : Instr := .bar4Read (.host fn) off be rivals
      let x := bar4Access fn off be.length s
      let cause := bar4Refusal fn off be.length false true false s
      ((∃ y, x = some y ∧ memDead y s = true) → exec c s = .next (answer (zeros be) s)) ∧
      ((∀ y, x = some y → memDead y s = false) →
        (cause ≠ 0 → ∃ u, exec c s = .next (answer (zeros be) u) ∧ RefusedAs cause (.pcie fn) 2 false off 0 s u) ∧
        (cause = 0 → x = none → exec c s = .next (answer (zeros be) s)) ∧
        (cause = 0 → ∀ y, x = some y → reads c y be ∧
          (y.space = 0 → (∃ i, i < be.length ∧ be.getD i false = true ∧ (pantryRead ((y.byte + i) / 8) s).kind = 2) →
            ∃ t l, exec c s = .next t ∧ t.hif.answers = s.hif.answers ++ [.mem l true])))) ∧
    (∀ (fn : Fin 64) (data : List (Option Byte)) (poisoned : Bool), linkUp s = true → 0 < data.length → off + data.length ≤ 0x10000000 →
      let x := bar4Access fn off data.length s
      let cause := bar4Refusal fn off data.length true (aliasShaped off data) poisoned s
      let does (c : Instr) : Prop :=
        ((∃ y, x = some y ∧ memDead y s = true) → exec c s = .next s) ∧
        ((∀ y, x = some y → memDead y s = false) →
          (cause ≠ 0 → cause ≠ 13 → ∃ t, exec c s = .next t ∧ RefusedAs cause (.pcie fn) 2 true off (firstBits data) s t) ∧
          (cause = 13 → ∃ u, exec c s = .next (updFn fn.val (fun k => { k with errs := k.errs ||| bitMask 12 }) u) ∧
            RefusedAs 13 (.pcie fn) 2 true off (firstBits data) s u) ∧
          (cause = 0 → ∀ y, x = some y → writes c y data))
      (bar4Row off ≠ 3 → bar4Row off ≠ 4 → does (.bar4Write (.host fn) off data poisoned rivals)) ∧
      (bar4Row off = 3 → does (.aliasSetWrite (.host fn) off data poisoned rivals)) ∧
      (bar4Row off = 4 → bar4Row (plainOff off) ≠ 2 → does (.aliasClearWrite (.host fn) off data poisoned rivals)) ∧
      (bar4Row off = 4 → bar4Row (plainOff off) = 2 → does (.activityClear fn off data poisoned))) ∧
    (∀ (sp : Fin 4), mpRuns s = true →
      (∀ be : List Bool, be ≠ [] →
        let c : Instr := .bar4Read (.mp sp) off be rivals
        let x : MemAcc := ⟨.mp 0, sp.val, off, be.length, 0⟩
        let cause := mpRefusal x false true s
        (memDead x s = true → ∃ k, 1 ≤ k ∧ k ≤ 3 ∧ exec c s = .next (busError sp.val k off (nextFree (answer (zeros be) s)))) ∧
        (memDead x s = false → (cause = 0 → reads c x be) ∧
          (cause ≠ 0 → ∃ u, exec c s = .next (busError sp.val 1 off u) ∧ RefusedAs cause .mp 5 false off 0 (answer (zeros be) s) u))) ∧
      (∀ (data : List (Option Byte)) (poisoned : Bool), data ≠ [] →
        let does (al : Nat) (c : Instr) : Prop :=
          let x : MemAcc := ⟨.mp 0, sp.val, off, data.length, al⟩
          let cause := mpRefusal x true (aliasShaped off data) s
          (memDead x s = true → exec c s = .next s) ∧
          (memDead x s = false → (cause = 0 → writes c x data) ∧
            (cause ≠ 0 → ∃ u, exec c s = .next (busError sp.val 1 off u) ∧ RefusedAs cause .mp 5 true off (firstBits data) s u))
        does 0 (.bar4Write (.mp sp) off data poisoned rivals) ∧ does 1 (.aliasSetWrite (.mp sp) off data poisoned rivals) ∧
        does 2 (.aliasClearWrite (.mp sp) off data poisoned rivals))) ∧
    (∀ space cause, space < 4 → cause < 4 →
      let t := busError space cause off s
      t.hif.answers = s.hif.answers ++ [.abort] ∧
      (flagGet Reg.glbMpFault 31 s = false → regGet Reg.glbMpFault t = pack32 [(31, 1), (24, space), (16, cause)] ∧
        (regGet Reg.glbMpFaultAddr t).toNat = off / 8) ∧
      (flagGet Reg.glbMpFault 31 s = true → t.regs = s.regs) ∧ RegsBut [Reg.glbMpFault, Reg.glbMpFaultAddr] s t ∧ Only [.regs, .hif] s t) ∧
    (∀ q : DramReq, (∀ l, tabGet false s.mem.dramBad l = false ∧ tabGet false s.mem.dramSoft l = false) →
      let t := performReq s q
      (q.data = none → (∀ i, i < q.be.length → q.byte + i < dramBytes s ∧ inAreas (q.byte + i) s = false) →
        t.hif.answers = s.hif.answers ++
          [.mem ((List.range q.be.length).map fun i => if q.be.getD i false then some (memByte s.mem.dram (q.byte + i)) else none) false] ∧
        Only [.clk, .hif] s t) ∧
      (∀ d, q.data = some d → (∀ i, i < d.length → inAreas (q.byte + i) s = false) →
        stored (·.mem.dram) q.byte d (fun _ b => b) t ∧ t.mem.pantry = s.mem.pantry ∧ t.mem.scratch = s.mem.scratch ∧ Only [.mem] s t))

/-- VF_FLR, PF_FLR, VF_DISABLE, BUS_MASTER_ENABLE and MSIX_PENDING_SEND (R147, R261, R262, R274): with no command in flight,
a reset of functions takes their rings to OFF, masks their vectors with nothing pending, and leaves every other ring, vector
and function as it was; the PF's also turns reports off and discards a proposal; and a pending vector is sent once nothing
masks it. Where the spec leaves a corner open the model's choice is that of log entries 10, 56 and 85. -/
def Obligations.FunctionResetsReachRingsVectorsAndConfiguration : Prop :=
  ∀ s : State, Machine.Inv s →
    let wiped (gone : Nat → Prop) (t : State) : Prop :=
      (∀ r, (gone (ringAt r s).func → ringAt r t =
        { ringAt r s with st := 0, quiet := false, owed := 0, oldest := 0, urgent := false }) ∧
        (¬ gone (ringAt r s).func → ringAt r t = ringAt r s)) ∧
      (∀ v, v < 2048 → (gone (vecOwner v s) → msixEntry v t = { msixEntry v s with mask := true } ∧ tabGet false t.hif.msixPend v = false) ∧
        (¬ gone (vecOwner v s) → msixEntry v t = msixEntry v s ∧ tabGet false t.hif.msixPend v = tabGet false s.hif.msixPend v)) ∧
      (∀ f, (gone f → fnCfg f t = FnCfg.reset) ∧ (¬ gone f → fnCfg f t = fnCfg f s)) ∧
      t.hif.out = s.hif.out
    (s.upd.cmds = [] → (∀ d, d < 8 → (domAt d s).st ≠ .open_ ∧ (domAt d s).st ≠ .closed) → fieldGet Reg.fwuStat 28 26 s ≠ 1 →
      (∀ f : Fin 64, f.val ≠ 0 → fnEnabled f.val s = true →
        ∃ t, exec (.vfFlr f) s = .next t ∧ wiped (· = f.val) t ∧ t.hif.vfEnable = s.hif.vfEnable ∧ t.hif.numVFs = s.hif.numVFs ∧
          Only [.upd, .cas, .hif] s t) ∧
      (∃ t, exec .pfFlr s = .next t ∧ wiped (· < 64) t ∧ t.hif.vfEnable = false ∧ t.hif.numVFs = 0 ∧ flagGet Reg.intErrCfg 31 t = false ∧
        flagGet Reg.intSumCfg 31 t = false ∧ t.prt.props = [] ∧ propState t = 0 ∧ fieldGet Reg.prtPropStat 29 26 t = 8 ∧
        propSeq t = propSeq s ∧ RegsBut [Reg.intErrCfg, Reg.intSumCfg, Reg.prtPropStat] s t ∧ Only [.regs, .upd, .cas, .hif, .prt, .err] s t) ∧
      (∀ enable n, n ≤ 63 → ∃ t, exec (.vfDisable enable n) s = .next t ∧
        wiped (fun f => 1 ≤ f ∧ f < 64 ∧ fnEnabled f s = true ∧ (enable && f ≤ n) = false) t ∧
        t.hif.vfEnable = enable ∧ t.hif.numVFs = n ∧ Only [.upd, .cas, .hif] s t)) ∧
    (∀ (f : Fin 64) (c : FnControl), fnEnabled f.val s = true → (f.val ≠ 0 ∨ flagGet Reg.intErrCfg 31 s = false) →
      ∃ u, exec (.busMasterEnable f c) s = .next (settle u) ∧
        fnCfg f.val u = { bme := c.bme, d3hot := c.d3, msixEn := c.msixEn, fnMask := c.fnMask, mps := c.mps.val, mrrs := c.mrrs.val,
                          errs := (fnCfg f.val s).errs &&& ~~~c.clearErr } ∧
        (∀ k, k ≠ f.val → fnCfg k u = fnCfg k s) ∧ u.hif = { s.hif with fns := u.hif.fns } ∧
        (∀ r, ringAt r u = ringAt r s ∨ ((ringAt r s).func = f.val ∧ ringAt r u = { ringAt r s with since := s.clk.now })) ∧
        u.upd.cmds = s.upd.cmds ∧ Only [.upd, .hif] s u) ∧
    (∀ v : Fin 2048, let e := msixEntry v.val s
      (tabGet false s.hif.msixPend v.val = true → vecOpen v.val s = true →
        ∃ t, exec (.msixPendingSend v) s = .next t ∧ t.hif.out = s.hif.out ++ [.msix (vecOwner v.val s) v.val e.addr e.data] ∧
          tabGet false t.hif.msixPend v.val = false ∧ (∀ k, k ≠ v.val → tabGet false t.hif.msixPend k = tabGet false s.hif.msixPend k) ∧
          Only [.hif] s t) ∧
      ((tabGet false s.hif.msixPend v.val = false ∨ vecOpen v.val s = false) → exec (.msixPendingSend v) s = .next s))

/-- Two-party changes (R278 to R282, Tables 10.7, 10.19 and 10.20): a PF write to a protection-group register is staged;
SUBMIT checks the buffer and waits 100 ms with a new SEQ and the digest; CONFIRM with both applies every entry, in staging
order; and REJECT, CANCEL, a wrong digest or the deadline end the wait with their RESULT and write nothing; a CANCEL of the
same cycle wins over a CONFIRM. Where the spec leaves a corner open the model's choice is that of log entries 38 and 50. -/
def Obligations.ProposalsNeedTwoParties : Prop :=
  ∀ (f : Fin 64) (s : State), Machine.Inv s →
    let src := Party.pcie f
    let es := s.prt.props
    let ends (result : Nat) (t : State) : Prop := propState t = 0 ∧ fieldGet Reg.prtPropStat 29 26 t = result ∧
      fieldGet Reg.prtPropStat 21 17 t = 0 ∧ propSeq t = propSeq s ∧ t.prt.props = [] ∧ t.prt.deadline = none ∧ t.prt.alert = false
    let endsWith (c : Instr) (result : Nat) (reply : List SmbReply) : Prop := ∃ t, exec c s = .next t ∧ ends result t ∧
      t.prt.smbOut = s.prt.smbOut ++ reply ∧ flagGet Reg.prtIntStat 2 t = true ∧ RegsBut [Reg.prtPropStat, Reg.prtIntStat] s t ∧
      Only [.regs, .prt, .err] s t
    let nacked (c : Instr) (code data : Nat) : Prop := ∃ u, exec c s = .next (smbAnswer .nack u) ∧ RefusedAs 12 .smbus 4 true code data s u
    (propLate s = false →
    (∀ off v, prtGroup off = true → Accepts src off v s →
      (propState s ≠ 2 → es.length < 16 → ∃ t, exec (.proposalStage src off v) s = .next t ∧ t.prt.props = es ++ [(off, v)] ∧
        propState t = 1 ∧ fieldGet Reg.prtPropStat 21 17 t = es.length + 1 ∧ RegsBut [Reg.prtPropStat] s t ∧ Only [.regs, .prt] s t) ∧
      ((propState s = 2 ∨ 16 ≤ es.length) → ∃ t, exec (.proposalStage src off v) s = .next t ∧ RefusedAs 11 src 0 true off v.toNat s t)) ∧
    (∀ off v, prtGroup off = true → Accepts .mp off v s → ∃ t, exec (.proposalStage .mp off v) s = .next t ∧
      RefusedAs 3 .mp 5 true off v.toNat s t) ∧
    (∀ v, Accepts src Reg.prtPropCtl v s → bits v 1 0 = 1 → es.length ≤ 16 →
      (propState s = 2 → ∃ t, exec (.propSubmit src v) s = .next t ∧ RefusedAs 11 src 0 true Reg.prtPropCtl v.toNat s t) ∧
      (∀ e, propState s ≠ 2 → submitFault s = some e → ∃ t, exec (.propSubmit src v) s = .next t ∧ ends 2 t ∧
        fieldGet Reg.prtPropStat 25 22 t = e ∧ RegsBut [Reg.prtPropStat] s t ∧ Only [.regs, .prt] s t) ∧
      (propState s ≠ 2 → submitFault s = none → ∃ t, exec (.propSubmit src v) s = .next t ∧ propState t = 2 ∧ propSeq t = propSeq s + 1 ∧
        fieldGet Reg.prtPropStat 21 17 t = es.length ∧ t.prt.props = es ∧
        regGet Reg.prtPropDigest t = proposalDigest (pack64 [(48, propSeq s + 1), (40, es.length)] :: es.map fun e => pack64 [(32, e.1), (0, e.2.toNat)]) ∧
        vbtGet 4 t = BitVec.ofNat 32 (propSeq s + 1) ∧ t.prt.deadline = some (s.clk.now + 100000000) ∧ t.prt.alert = true ∧
        flagGet Reg.prtIntStat 1 t = true ∧ RegsBut [Reg.prtPropStat, Reg.prtPropDigest, Reg.prtIntStat] s t ∧
        Only [.regs, .prt, .err, .fwu, .vbt] s t)) ∧
    (∀ v, Accepts src Reg.prtPropCtl v s → bits v 1 0 = 2 →
      (propState s = 2 → endsWith (.propCancel src v) 6 []) ∧
      (propState s = 1 → ∃ t, exec (.propCancel src v) s = .next t ∧ ends 6 t ∧ RegsBut [Reg.prtPropStat] s t ∧ Only [.regs, .prt] s t)) ∧
    (∀ v, Accepts .mp Reg.prtPropCtl v s → bits v 1 0 ≠ 0 → ∃ t, exec (.propSubmit .mp v) s = .next t ∧ exec (.propCancel .mp v) s = .next t ∧
      RefusedAs 3 .mp 5 true Reg.prtPropCtl v.toNat s t)) ∧
    (propState s = 2 → ∀ d, s.prt.deadline = some d →
      (d ≤ s.clk.now → endsWith .propExpire 5 []) ∧
      (s.clk.now < d → exec .propExpire s = .next s) ∧
      (smbReady s = true → s.clk.now < d → s.pending.any isCancel = true → ∀ seq digest, seq.toNat = propSeq s →
        exec (.confirm seq digest) s = .next (smbAnswer .ack s)) ∧
      (smbReady s = true → s.clk.now < d → s.pending.any isCancel = false →
        (∀ seq digest, seq.toNat ≠ propSeq s → nacked (.confirm seq digest) 0x11 (seq.toNat * 65536 + digest.toNat / 65536) ∧
          nacked (.reject seq) 0x12 (seq.toNat * 65536)) ∧
        (∀ seq digest, seq.toNat = propSeq s →
          endsWith (.reject seq) 3 [.ack] ∧
          (digest ≠ regGet Reg.prtPropDigest s → endsWith (.confirm seq digest) 4 [.ack]) ∧
          (digest = regGet Reg.prtPropDigest s → (∀ e ∈ es, prtGroup e.1 = true) →
            let locks : Bool := es.any fun e => e.1 == Reg.prtLock
            (locks = true → flagGet Reg.vbtStat 29 s = true → endsWith (.confirm seq digest) 7 [.ack]) ∧
            ((locks = false ∨ flagGet Reg.vbtStat 29 s = false) → ∃ t, exec (.confirm seq digest) s = .next t ∧ ends 1 t ∧
              t.prt.smbOut = s.prt.smbOut ++ [.ack] ∧ flagGet Reg.prtIntStat 2 t = true ∧
              (∀ i, i < es.length → (∀ j, i < j → j < es.length → (es.getD j (0, 0)).1 ≠ (es.getD i (0, 0)).1) →
                let e := es.getD i (0, 0)
                regGet e.1 t = e.2 &&& if e.1 = Reg.prtBankOwn 4 then 0xffff else regLive e.1) ∧
              (locks = true → vbtGet 3 t = regGet Reg.prtLock t) ∧ t.fwu.dirty = true ∧
              RegsBut (Reg.prtPropStat :: Reg.prtIntStat :: es.map Prod.fst) s t ∧ Only [.regs, .prt, .err, .fwu, .vbt] s t)))))

/-- The SMBus commands of Table 10.7 that only read or refuse (R281, R286): STATUS, PROP_READ, REF_READ, REG_READ, REG_WRITE,
the Alert Response Address, a wrong PEC byte and a line held low. Their answers are appended to what the target has sent.
Where the spec leaves a corner open the model's choice is that of log entries 19 and 38. -/
def Obligations.SMBusCommandsAreAnswered : Prop :=
  ∀ s : State, Machine.Inv s → smbReady s = true → propLate s = false →
    let answers (c : Instr) (r : SmbReply) : Prop := ∃ t, exec c s = .next t ∧ t.prt = { s.prt with smbOut := s.prt.smbOut ++ [r] } ∧ Only [.prt] s t
    let wire (ws : List W64) : List Byte := ws.flatMap fun w => natBytes w.toNat 8
    answers .status (.data (natBytes (regGet Reg.prtPropStat s).toNat 4)) ∧
    answers .propRead (.data (wire (proposalWords (propSeq s) (if propState s = 2 then s.prt.props else [])))) ∧
    answers .refRead (.data (wire ((List.range 8).flatMap fun i => [(s.prt.log.getD i (0, 0)).1, (s.prt.log.getD i (0, 0)).2]))) ∧
    (s.prt.alert = true → ∃ t, exec .alertResponse s = .next t ∧
      t.prt = { s.prt with alert := false, smbOut := s.prt.smbOut ++ [.data [BitVec.ofNat 8 (0x50 + devId s)]] } ∧ Only [.prt] s t) ∧
    (s.prt.alert = false → exec .alertResponse s = .next s) ∧
    exec .smbSclTimeout s = .next s ∧
    (∀ code : Byte, (code.toNat ∈ [0x10, 0x11, 0x12, 0x18, 0x20, 0x21, 0x30] → ∃ t, exec (.smbPecError code) s = .next t ∧
        t.prt = { s.prt with smbOut := s.prt.smbOut ++ [.nack] } ∧ flagGet Reg.prtIntStat 3 t = true ∧ RegsBut [Reg.prtIntStat] s t ∧
        Only [.regs, .prt, .err] s t) ∧
      (code.toNat ∉ [0x10, 0x11, 0x12, 0x18, 0x20, 0x21, 0x30] → ∃ u, exec (.smbPecError code) s = .next (smbAnswer .nack u) ∧
        RefusedAs 12 .smbus 4 false code.toNat 0 s u)) ∧
    (∀ off : BitVec 24, off.toNat % 4 ≠ 0 → ∃ u, exec (.regRead off) s = .next (smbAnswer .nack u) ∧
      RefusedAs (if (regDesc (off.toNat / 4 * 4)).isNone then 5 else 6) .smbus 4 false 0x20 0 s u) ∧
    (∀ off : BitVec 24, off.toNat % 4 = 0 → let r := read32 .smbus off.toNat s
      (regGet Reg.prtRefTotal r.2 = regGet Reg.prtRefTotal s →
        exec (.regRead off) s = .next (smbAnswer (.data (natBytes r.1.toNat 4)) r.2)) ∧
      (regGet Reg.prtRefTotal r.2 ≠ regGet Reg.prtRefTotal s → exec (.regRead off) s = .next (smbAnswer .nack r.2))) ∧
    (∀ (off : BitVec 24) (v : Word), off.toNat % 4 = 0 → let u := write32 .smbus off.toNat v s
      exec (.regWrite off v) s = .next (smbAnswer (if regGet Reg.prtRefTotal u = regGet Reg.prtRefTotal s then .ack else .nack) u)) ∧
    (∀ (off : BitVec 24) (v : Word), (off.toNat % 4 ≠ 0 ∨ off.toNat / 65536 ≠ 18) →
      ((regDesc off.toNat).isSome = true → accessLost .smbus off.toNat s = false ∧ reservedWrite off.toNat v s = false) →
      ∃ u, exec (.regWrite off v) s = .next (smbAnswer .nack u) ∧
        RefusedAs (if isWorker s then 2 else if off.toNat / 65536 ≠ 18 then 3 else if (regDesc (off.toNat / 4 * 4)).isNone then 5 else 6)
          .smbus 4 true 0x21 (off.toNat * 256 + v.toNat / 16777216) s u)

/-- R193 and R196: at a tick of the time clock time-of-day advances by 1 ns and TRIM units of 2^-32 ns, and while a slew runs
by at most its rate more or less, rounded to a unit either way (log entry 17), as its remainder counts down. TOD_SET,
TOD_STEP, TOD_SLEW, TOD_ADJUST_APPLY and SLEW_DONE (R195, R196): SET and STEP are requests, one at a time; at its tick a SET
loads the value, a STEP adds it, and the deframers' stamps follow it at once (R197, log entry 73), unless it is backward
while a flip's T is not cleared; and a SLEW starts from the staged amount and the present rate. Where the spec leaves a
corner open the model's choice is that of log entries 17, 33, 73 and 90. -/
def Obligations.TimeOfDayAdvancesAndIsAdjusted : Prop :=
  (∀ s : State, Machine.Inv s →
      let trim := signed32 (regGet Reg.todTrim s)
      let v : Int := s.tod.value
      let a := min s.tod.slewRate s.tod.slewLeft.natAbs
      let t := todTick s
      (-4294967296 ≤ trim → v + 4294967296 + trim < (2 ^ 48 * secUnits : Nat) → s.tod.slewLeft = 0 →
        (t.tod.value : Int) = v + 4294967296 + trim ∧ t.tod.slewLeft = 0 ∧ t.tod.prev = s.tod.value ∧ Only [.tod] s t) ∧
      (0 < s.tod.slewLeft → -4294967296 ≤ trim → v + 4294967296 + trim + a * 5 + 1 < (2 ^ 48 * secUnits : Nat) →
        t.tod.slewLeft = s.tod.slewLeft - a ∧
        ((t.tod.value : Int) = v + 4294967296 + trim + (a * 4294967296 / 1000000000 : Nat) ∨
          ((t.tod.value : Int) = v + 4294967296 + trim + (a * 4294967296 / 1000000000 : Nat) + 1 ∧ a * 4294967296 % 1000000000 ≠ 0))) ∧
      (s.tod.slewLeft < 0 → a ≤ 100000 → -4294967 ≤ trim → v + 4294967296 + trim < (2 ^ 48 * secUnits : Nat) →
        t.tod.slewLeft = s.tod.slewLeft + a ∧ s.tod.value ≤ t.tod.value ∧
        ((t.tod.value : Int) = v + 4294967296 + trim - (a * 4294967296 / 1000000000 : Nat) ∨
          ((t.tod.value : Int) = v + 4294967296 + trim - (a * 4294967296 / 1000000000 : Nat) - 1 ∧ a * 4294967296 % 1000000000 ≠ 0)))) ∧
  (∀ s : State, Machine.Inv s →
      (∀ src v, Accepts src Reg.todCtl v s → flagGet Reg.todCtl 0 s = false → flagGet Reg.todCtl 1 s = false → bit v 2 = false →
        (bit v 0 = true → bit v 1 = false → ∃ t, exec (.todSet src v) s = .next t ∧ flagGet Reg.todCtl 0 t = true ∧
          flagGet Reg.todCtl 1 t = false ∧ t.tod = { s.tod with holdTill := some (s.clk.now + 100) } ∧ RegsBut [Reg.todCtl] s t ∧
          Only [.regs, .tod, .fwu] s t) ∧
        (bit v 1 = true → bit v 0 = false → ∃ t, exec (.todStep src v) s = .next t ∧ flagGet Reg.todCtl 1 t = true ∧
          flagGet Reg.todCtl 0 t = false ∧ t.tod = { s.tod with holdTill := some (s.clk.now + 100) } ∧ RegsBut [Reg.todCtl] s t ∧
          Only [.regs, .tod, .fwu] s t)) ∧
      (∀ src v, Accepts src Reg.todCtl v s → src ≠ .smbus → (flagGet Reg.todCtl 0 s = true ∨ flagGet Reg.todCtl 1 s = true) →
        (bit v 0 = true ∨ bit v 1 = true) → ∃ t, exec (.todSet src v) s = .next t ∧ exec (.todStep src v) s = .next t ∧
          RefusedAs 4 src (logSpace src) true Reg.todCtl v.toNat s t) ∧
      (∀ src v, Accepts src Reg.todCtl v s → bit v 2 = true → bit v 0 = false → bit v 1 = false →
        let amt := signed32 (regGet Reg.todSlewAmt s) * slewUnit
        ∃ t, exec (.todSlew src v) s = .next t ∧ t.tod = { s.tod with slewLeft := amt, slewRate := fieldGet Reg.todSlewRate 16 0 s } ∧
          regGet Reg.todSlewAmt t = 0 ∧ flagGet Reg.todStat 30 t = decide (amt ≠ 0) ∧ RegsBut [Reg.todSlewAmt, Reg.todStat] s t ∧
          Only [.regs, .tod, .fwu] s t) ∧
      (flagGet Reg.todCtl 0 s = true → setValue s < 2 ^ 48 * secUnits →
        ((s.tod.value ≤ setValue s ∨ backwardHeld s = false) → ∃ t, exec .todAdjustApply s = .next t ∧ t.tod.value = setValue s ∧
          t.tod.prev = setValue s ∧ flagGet Reg.todCtl 0 t = false ∧ flagGet Reg.todStat 29 t = true ∧ flagGet Reg.todStat 31 t = false ∧
          (∀ g, g < 4 → tabGet (0, 0) t.tod.copies g = (if xingDead (44 + g) s then tabGet (0, 0) s.tod.copies g else (setValue s, s.clk.now)) ∧
            (setValue s < s.tod.value → (grpAt g t).lastStamp = 0)) ∧
          RegsBut [Reg.todCtl, Reg.todStat] s t ∧ Only [.regs, .lnk, .tod, .vbt] s t) ∧
        (setValue s < s.tod.value → backwardHeld s = true → ∃ t, exec .todAdjustApply s = .next t ∧ t.tod = s.tod ∧
          flagGet Reg.todStat 31 t = true ∧ flagGet Reg.todCtl 0 t = true ∧ RegsBut [Reg.todStat] s t ∧ Only [.regs] s t)) ∧
      (flagGet Reg.todCtl 0 s = false → flagGet Reg.todCtl 1 s = true → 0 ≤ s.tod.value + stepValue s →
        s.tod.value + stepValue s < (2 ^ 48 * secUnits : Nat) → (0 ≤ stepValue s ∨ backwardHeld s = false) →
        ∃ t, exec .todAdjustApply s = .next t ∧ (t.tod.value : Int) = s.tod.value + stepValue s ∧ flagGet Reg.todCtl 1 t = false ∧
          flagGet Reg.todStat 29 t = true ∧ Only [.regs, .lnk, .tod, .vbt] s t) ∧
      (s.tod.slewLeft = 0 → ∃ t, exec .slewDone s = .next t ∧ flagGet Reg.todStat 30 t = false ∧ RegsBut [Reg.todStat] s t ∧ Only [.regs] s t))

/-- PPS_OUT_RISE, PPS_OUT_FALL, PULSE_EDGE, PULSE_REARM and STAMP_REALIGN (R189, R198 to R200): PPS_OUT rises as time-of-day
passes its offset and falls after WIDTH; an edge outside OFF opens its input's acknowledge phase and is latched with its
time-of-day, and one inside it, or over a dead crossing, is counted up to 15 and sets OVERRUN; the acknowledge writes the
capture, unless the crossing has died, and re-arms; and the deframers' copies take time-of-day where their crossings live. -/
def Obligations.PulsesAreTimestampedOrCounted : Prop :=
  ∀ s : State, Machine.Inv s →
    (flagGet Reg.todPpsOutCfg 31 s = true → ppsCrossed (fieldGet Reg.todPpsOutOfs 29 0 s) s = true →
      ∃ t, exec .ppsOutRise s = .next t ∧ t.tod = { s.tod with ppsHigh := true, ppsFall := s.clk.now + 1000 * fieldGet Reg.todPpsOutCfg 15 0 s } ∧
        Only [.tod] s t) ∧
    (s.tod.ppsHigh = true → s.tod.ppsFall ≤ s.clk.now → ∃ t, exec .ppsOutFall s = .next t ∧ t.tod = { s.tod with ppsHigh := false } ∧
        Only [.tod] s t) ∧
    (∀ i : Fin 3, flagGet Reg.todPulseCfg (2 * i.val) s = true → powerState s ≠ 4 →
      let p := pulseAt i.val s
      (p.waiting = false → xingDead (50 + i.val) s = false → ∃ t, exec (.pulseEdge i) s = .next t ∧
        pulseAt i.val t = { p with waiting := true, edge := some (s.tod.value / 4294967296 * 4294967296, s.clk.now) } ∧
        (∀ k, k ≠ i.val → pulseAt k t = pulseAt k s) ∧ Only [.tod] s t) ∧
      ((p.waiting = true ∨ xingDead (50 + i.val) s = true) → ∃ t, exec (.pulseEdge i) s = .next t ∧ t.tod = s.tod ∧
        fieldGet Reg.todPulseStat (missedLow i.val + 3) (missedLow i.val) t =
          min 15 (fieldGet Reg.todPulseStat (missedLow i.val + 3) (missedLow i.val) s + 1) ∧
        bit (regGet Reg.todPulseStat t) i.val = true ∧ RegsBut [Reg.todPulseStat] s t ∧ Only [.regs, .err] s t)) ∧
    (∀ i : Fin 3, let p := pulseAt i.val s
      (p.edge = none → ∃ t, exec (.pulseRearm i) s = .next t ∧ pulseAt i.val t = { p with waiting := false } ∧
        (∀ k, k ≠ i.val → pulseAt k t = pulseAt k s) ∧ Only [.tod] s t) ∧
      (∀ e at_, p.edge = some (e, at_) → xingDead (50 + i.val) s = false → flagGet Reg.todStat 28 s = true →
        ∃ t, exec (.pulseRearm i) s = .next t ∧ pulseAt i.val t = ⟨false, none, e, (p.seq + 1) % 4294967296⟩ ∧
          (∀ k, k ≠ i.val → pulseAt k t = pulseAt k s) ∧ Only [.tod] s t) ∧
      (p.edge ≠ none → xingDead (50 + i.val) s = true → exec (.pulseRearm i) s = .next s)) ∧
    (awake s = true → ∃ t, exec .stampRealign s = .next t ∧ t.tod.value = s.tod.value ∧
      (∀ g, g < 4 → tabGet (0, 0) t.tod.copies g = (if xingDead (44 + g) s then tabGet (0, 0) s.tod.copies g else (s.tod.value, s.clk.now))) ∧
      Only [.tod] s t)

/-- The ring of the cascade forms (R209, R210, R213, R225): CAS_CFG.EN leaves DOWN; a DISCOVER frame that returns with the
DEV_IDs in order leads to LOAD, any other to FAULT with its code; LOAD, ALIGN and FORMED follow when every worker is ready;
and a worker that meets the conditions of R225 is admitted. EN = 0 leaves FORMED and FAULT only (Table 8.3, log entry 81).
Where the spec leaves a corner open the model's choice is that of log entries 25, 36, 37, 79, 81 and 82. -/
def Obligations.TheRingFormsAndAdmitsItsWorkers : Prop :=
  ∀ (src : Party) (v : Word) (words : List W64) (s : State), Machine.Inv s →
    let b := words.getD 1 0
    let n := bits b 63 60
    let wk (k : Nat) (t : State) : Nat × Nat := (fieldGet (Reg.casWk k) 31 29 t, fieldGet (Reg.casWk k) 28 25 t)
    let arrives : Prop := fclUp s = true ∧ crcGood words = true ∧ ctlForm 9 [1] words = true
    let faults (c : Instr) (code : Nat) : Prop := ∃ t, exec c s = .next t ∧ ringState t = 7 ∧ fieldGet Reg.casStat 21 20 t = code ∧
      t.cas.out = s.cas.out ∧ t.cas.discoverDue = none ∧ flagGet Reg.casIntStat 4 t = true ∧
      RegsBut [Reg.casStat, Reg.casIntStat] s t ∧ Only [.regs, .cas, .err] s t
    (Accepts src Reg.casCfg v s → src ≠ .smbus →
      ((bit v 1 ≠ flagGet Reg.casCfg 1 s ∧ pipeDown 0 s = false) ∨ (bit v 2 ≠ flagGet Reg.casCfg 2 s ∧ pipeDown 1 s = false) ∨
        (isManager s = true ∧ bits v 7 4 ≠ fieldGet Reg.casCfg 7 4 s ∧
          ((flagGet Reg.casCfg 1 s = true ∧ pipeDown 0 s = false) ∨ (flagGet Reg.casCfg 2 s = true ∧ pipeDown 1 s = false)))) →
      ∃ t, exec (.casEnable src v) s = .next t ∧ RefusedAs 4 src (logSpace src) true Reg.casCfg v.toNat s t) ∧
    (isManager s = true →
      (Accepts src Reg.casCfg v s → bits v 2 1 = fieldGet Reg.casCfg 2 1 s → bits v 7 4 = fieldGet Reg.casCfg 7 4 s →
        ∃ t, exec (.casEnable src v) s = .next t ∧ regGet Reg.casCfg t = BitVec.ofNat 32 (bits v 7 0) ∧
          ringState t = (if bit v 0 = true then (if ringState s = 0 then 1
            else if ringState s = 7 ∧ flagGet Reg.casCtl 0 s = true then 0 else ringState s)
            else if ringState s = 5 ∨ ringState s = 7 then 0 else ringState s) ∧
          (bit v 0 = false → ringState s = 5 → flagGet Reg.casIntStat 0 t = true) ∧
          RegsBut [Reg.casCfg, Reg.casStat, Reg.casCtl, Reg.casIntStat] s t ∧ Only [.regs, .cas, .err, .fwu] s t) ∧
      (Accepts src Reg.casCtl v s → bit v 0 = true → bit v 1 = false → ringState s ≠ 0 →
        ∃ t, exec (.casReform src v) s = .next t ∧ ringState t = (if ringState s = 7 then 0 else ringState s) ∧
          flagGet Reg.casCtl 0 t = decide (ringState s ≠ 7) ∧ RegsBut [Reg.casStat, Reg.casCtl] s t ∧ Only [.regs, .cas] s t) ∧
      (Accepts src Reg.casCtl v s → bit v 0 = false → bit v 1 = true → 1 ≤ bits v 7 4 →
        ∃ t, exec (.casAdmit src v) s = .next t ∧ wkAt (bits v 7 4) t = { wkAt (bits v 7 4) s with tables := true, hold := false } ∧
          wk (bits v 7 4) t = judged (wk (bits v 7 4) s) (wkAt (bits v 7 4) t) ∧
          (∀ k, k ≠ bits v 7 4 → wkAt k t = wkAt k s) ∧ RegsBut [Reg.casCtl, Reg.casIntStat, Reg.casWk (bits v 7 4)] s t ∧
          Only [.regs, .cas, .err] s t) ∧
      (fclUp s = true → (ringState s = 1 ∨ ringState s = 6) →
        ∃ t, exec .ringLinksUp s = .next t ∧ ringState t = 2 ∧ t.cas.discoverDue = some (s.clk.now + 100000) ∧
          t.cas.out = s.cas.out ++ [ctlFrame 9 31 s.cas.cseq 0 [0] s] ∧ RegsBut [Reg.casStat] s t ∧ Only [.regs, .cas] s t) ∧
      (ringState s = 2 →
        (arrives → n ≠ 0 → n = ringWorkers s → (∀ i, i < n → bits b (59 - 4 * i) (56 - 4 * i) = i + 1) →
          ∃ t l, exec (.discoverReturn words) s = .next t ∧ ringState t = 3 ∧ fieldGet Reg.casStat 21 16 t = n ∧
            (∀ k ∈ ringList s, wk k t = (1, 0) ∧ (wkAt k t).firmware = false ∧ (wkAt k t).refused = false ∧ (wkAt k t).inReset = false ∧
              (wkAt k t).timeBad = true ∧ (wkAt k t).slotBad = true ∧ (wkAt k t).doms = [] ∧ (wkAt k t).tables = (wkAt k s).tables) ∧
            t.cas.out = s.cas.out ++ l ∧ l.length = (s.fwu.running.length + 511) / 512 ∧
            (∀ i, i < l.length → l.getD i [] = ctlFrame 0xb 31 (s.cas.cseq + i) (i * 2 ^ 10 + b2n (i + 1 == l.length))
              (portionWords s.fwu.running i) s) ∧
            RegsBut (Reg.casStat :: (ringList s).map Reg.casWk) s t ∧ Only [.regs, .cas] s t) ∧
        (arrives → n = 0 → faults (.discoverReturn words) 1) ∧
        (arrives → n ≠ 0 → (n ≠ ringWorkers s ∨ ∃ i, i < n ∧ bits b (59 - 4 * i) (56 - 4 * i) ≠ i + 1) →
          faults (.discoverReturn words) 2) ∧
        (∀ x, s.cas.discoverDue = some x → x ≤ s.clk.now → faults .discoverTimeout 3)) ∧
      (ringState s = 3 → (∀ k ∈ ringList s, (wkAt k s).firmware = true ∨ (wkAt k s).refused = true) →
        ∃ t, exec .ringLoadDone s = .next t ∧ ringState t = 4 ∧ t.cas.timeDue = s.clk.now ∧
          (∀ k ∈ ringList s, if (wkAt k s).refused then wk k t = (3, 6) ∧ flagGet Reg.casIntStat 1 t = true
            else wk k t = (2, 0) ∧ (wkAt k t).doms = []) ∧
          t.cas.out.length = s.cas.out.length + 8 * ((ringList s).filter fun k => !(wkAt k s).refused).length ∧
          RegsBut (Reg.casStat :: Reg.casIntStat :: (ringList s).map Reg.casWk) s t ∧ Only [.regs, .cas, .err] s t) ∧
      (ringState s = 4 →
        ∃ t, exec .ringAlignDone s = .next t ∧ ringState t = 5 ∧
          (∀ k ∈ ringList s, if (wk k s).1 = 4 ∨ (wk k s).1 = 3 then wk k t = wk k s
            else wk k t = (3, firstCause (wkAt k s)) ∧ flagGet Reg.casIntStat 1 t = true) ∧
          t.cas.workers = s.cas.workers ∧ RegsBut (Reg.casStat :: Reg.casIntStat :: (ringList s).map Reg.casWk) s t ∧
          Only [.regs, .cas, .err] s t) ∧
      (∀ (k : Fin 16) (reload : Bool), let f := { wkAt k.val s with tables := (wkAt k.val s).tables || (reload && !(wkAt k.val s).hold) }
        (k.val ∈ ringList s → ((wk k.val s).1 = 2 ∨ (wk k.val s).1 = 3) → firstCause f = 0 →
          ∃ t, exec (.workerAdmit k reload) s = .next t ∧ wk k.val t = (4, 0) ∧ wkAt k.val t = f ∧ flagGet Reg.casIntStat 2 t = true ∧
            RegsBut [Reg.casWk k.val, Reg.casIntStat] s t ∧ Only [.regs, .cas, .err] s t) ∧
        (firstCause f ≠ 0 → exec (.workerAdmit k reload) s = .next s))) ∧
    (isWorker s = true →
      (arrives → n < 15 → ∃ t b', exec (.discoverFrame words) s = .next t ∧ t.cas.out = s.cas.out ++ [sealFrame [words.headD 0, b'] 0] ∧
        bits b' 63 60 = n + 1 ∧ (∀ i, i < n → bits b' (59 - 4 * i) (56 - 4 * i) = bits b (59 - 4 * i) (56 - 4 * i)) ∧
        (bits b (59 - 4 * n) (56 - 4 * n) = 0 → bits b' (59 - 4 * n) (56 - 4 * n) = devId s) ∧ t.cas.aligned = false ∧ Only [.cas] s t) ∧
      (∀ (k : Fin 16) (reload : Bool), k.val = devId s → s.cas.aligned = true → s.cas.slotBad = false → s.cas.timeBad = false →
        s.cas.imgRefused = false → s.cas.withheld = true →
        (∀ d x, d < 8 → (domAt d s).st = .prepared → (domAt d s).t = some x → todFrac s < x) →
        ∃ t, exec (.workerAdmit k reload) s = .next t ∧ t.cas.withheld = false ∧ flagGet Reg.casIntStat 2 t = true ∧
          RegsBut [Reg.casIntStat] s t ∧ Only [.regs, .cas, .err] s t))

/-- CSEARCH and CAND (R211, R214 to R217): a worker that searches forwards a good CSEARCH, unless it is the last, and
dispatches the search with the manager's stamp and slot; a bad one it drops and answers with every lookup 11; one that is
withheld forwards both frames unchanged; an incoming candidate is merged with the device's own and sent on, or kept by the
manager; and a search to which none came sends its own, or every lookup 11, two cycles after its time. Where the spec leaves
a corner open the model's choice is that of log entries 26 and 34. -/
def Obligations.CascadedSearchesTravelTheRing : Prop :=
  ∀ (words : List W64) (s : State), Machine.Inv s → fclUp s = true → s.pwr.entering = none → powerState s = 0 →
    let h := words.headD 0
    let p : Pipe := if bit h 35 then .b else .a
    let fwd := if devId s = ringWorkers s then [] else [words]
    (isWorker s = true → (∀ f ∈ s.pip.flight, f.stage ≠ .verified) →
      (workerOff s = true → ∃ t, exec (.csearch words) s = .next t ∧ t.cas.out = s.cas.out ++ fwd ∧
        t.pip.flight = s.pip.flight ∧ Only [.pip, .cas] s t) ∧
      (workerOff s = false → (crcGood words = false ∨ csearchForm words = false) →
        ∃ t f, exec (.csearch words) s = .next t ∧ t.cas.out = s.cas.out ∧ t.pip.flight = s.pip.flight ++ [f] ∧ f.hdr = h ∧
          f.casc = true ∧ f.reject ≠ 0 ∧ f.sent = true ∧ f.candIn = none ∧
          (let k := if crcGood words then 11 else 3
           (regGet (Reg.casCnt k) t).toNat = min ((regGet (Reg.casCnt k) s).toNat + 1) 0xffffffff) ∧
          (crcGood words = false → flagGet Reg.casIntStat 5 t = true) ∧ Only [.regs, .pip, .cas, .err] s t) ∧
      (workerOff s = false → crcGood words = true → csearchForm words = true →
        let n := bits h 47 40
        let reason := searchReason n (Pipe.idx p) (bits h 39 36) s
        (∀ w prof, profileFor n s = some prof → reason = 0 → slotWait p (bits h 34 29) s = some w → profileBad n prof s = false →
          ∃ t f, exec (.csearch words) s = .next t ∧ t.cas.out = s.cas.out ++ fwd ∧ t.pip.flight = s.pip.flight ++ [f] ∧
            f.stage = .dispatched ∧ f.pipe = p ∧ f.hdr = h ∧ f.key = (words.drop 1).take (bits h 39 36) ∧ f.prof = prof ∧ f.profNo = n ∧
            f.stamp = nearestStamp (bits h 28 4) s ∧ f.stamp % 1000000000 / 2 % 2 ^ 25 = bits h 28 4 ∧
            f.vec = epochVector f.stamp s ∧ f.disp = s.clk.pclk ∧ f.issue = s.clk.pclk + 28 + w ∧ slotAt f.issue s = bits h 34 29 ∧
            f.reject = 0 ∧ f.candIn = none ∧ Only [.pip, .cas] s t) ∧
        (reason ≠ 0 → ∃ t f, exec (.csearch words) s = .next t ∧ t.cas.out = s.cas.out ++ fwd ∧ t.pip.flight = s.pip.flight ++ [f] ∧
          f.reject ≠ 0 ∧ Only [.clk, .regs, .pip, .cas] s t) ∧
        (reason = 0 → slotWait p (bits h 34 29) s = none →
          ∃ t f, exec (.csearch words) s = .next t ∧ t.cas.out = s.cas.out ++ fwd ∧ t.pip.flight = s.pip.flight ++ [f] ∧
            f.reject ≠ 0 ∧ t.cas.slotBad = true ∧ flagGet Reg.casIntStat 1 t = true ∧
            (regGet (Reg.casCnt 10) t).toNat = min ((regGet (Reg.casCnt 10) s).toNat + 1) 0xffffffff))) ∧
    (isWorker s = true → s.pip.flight = [] →
      ((workerOff s = true ∨ (crcGood words = true ∧ candForm words = true)) → ∃ t, exec (.cand words) s = .next t ∧
        t.cas.out = s.cas.out ++ [words] ∧ t.pip.flight = [] ∧ Only [.pip, .cas] s t) ∧
      (workerOff s = false → crcGood words = false → ∃ t, exec (.cand words) s = .next t ∧ t.cas = s.cas ∧
        (regGet (Reg.casCnt 3) t).toNat = min ((regGet (Reg.casCnt 3) s).toNat + 1) 0xffffffff ∧ flagGet Reg.casIntStat 5 t = true) ∧
      (workerOff s = false → crcGood words = true → candForm words = false → ∃ t, exec (.cand words) s = .next t ∧ t.cas = s.cas ∧
        (regGet (Reg.casCnt 11) t).toNat = min ((regGet (Reg.casCnt 11) s).toNat + 1) 0xffffffff)) ∧
    (∀ f, isWorker s = true → s.pip.flight = [f] → f.stage = .verified → f.candIn = none →
      (candDue f + 2 < s.clk.pclk → f.reject = 0 → (expireCands s).pip.flight = [] ∧
        (expireCands s).cas.out = s.cas.out ++ [candFrame f (mergeCand false [] (f.lks.map (·.res))) s]) ∧
      (candDue f + 2 < s.clk.pclk → f.reject ≠ 0 → f.profNo < 256 →
        (∀ p, tabFind s.tbl.profiles f.profNo = some p → p.nlook ≤ 8 ∧ candWords p s < 32) → (expireCands s).pip.flight = [] ∧
        ∃ w, (expireCands s).cas.out = s.cas.out ++ [w] ∧ crcGood w = true ∧ candMatches (w.headD 0) f = true ∧
          (∀ p, tabFind s.tbl.profiles f.profNo = some p →
            bits (w.headD 0) 17 14 = p.nlook ∧ w.length = candWords p s + 2 ∧ ∀ l, l < p.nlook → bits (w.headD 0) (33 - 2 * l) (32 - 2 * l) = 3)) ∧
      (s.clk.pclk ≤ candDue f + 2 → expireCands s = s)) ∧
    (∀ f, s.pip.flight = [f] → f.casc = true → f.sent = true → f.candIn = none → s.clk.pclk ≤ candDue f + 2 →
      let own := f.lks.map (·.res)
      let ci := candLookups h ((List.range f.prof.nlook).map fun l => lkRsize f.prof l s) 0 (words.drop 1)
      (crcGood words = true → candForm words = true → candMatches h f = true →
        (isWorker s = true → f.reject = 0 → f.stage = .verified →
          ∃ t, exec (.cand words) s = .next t ∧ t.cas.out = s.cas.out ++ [candFrame f (mergeCand true ci own) s] ∧
            t.pip.flight = [] ∧ Only [.pip, .cas] s t) ∧
        (isWorker s = true → f.reject ≠ 0 →
          ∃ t, exec (.cand words) s = .next t ∧ t.cas.out = s.cas.out ++ [retryCand f words] ∧ t.pip.flight = [] ∧
            Only [.pip, .cas] s t) ∧
        (isManager s = true → f.reject = 0 →
          ∃ t, exec (.cand words) s = .next t ∧ t.pip.flight = [{ f with candIn := some (true, ci) }] ∧
            regGet (Reg.casCnt 1) t = regGet (Reg.casCnt 1) s + 1 ∧ RegsBut [Reg.casCnt 1] s t ∧ Only [.regs, .pip] s t)) ∧
      (crcGood words = false → candDue f ≤ s.clk.pclk → f.reject = 0 → f.stage = .verified → isWorker s = true →
        ∃ t, exec (.cand words) s = .next t ∧ t.cas.out = s.cas.out ++ [candFrame f (own.map fun _ => LkRes.retry) s] ∧
          t.pip.flight = [] ∧ flagGet Reg.casIntStat 5 t = true ∧
          (regGet (Reg.casCnt 3) t).toNat = min ((regGet (Reg.casCnt 3) s).toNat + 1) 0xffffffff ∧ Only [.regs, .pip, .cas, .err] s t))

/-- The cascade commit (R223, R224, Tables 8.7, 8.8 and 8.18): a worker answers PREPARE with the first reason that holds, and
is PREPARED for T where none does; DECIDE makes the domain PENDING or what it was; the manager decides GO on the last ACK OK,
and aborts on a refusal or when an answer is missing. Where the spec leaves a corner open the model's choice is that of log
entry 80. -/
def Obligations.CommitsAreDecidedThroughTheRing : Prop :=
  ∀ (words : List W64) (s : State), Machine.Inv s →
    let h := words.headD 0
    let d := bits h 31 29
    let m := domAt d s
    let fwd := if ctlDst h = devId s then [] else [words]
    let here : Prop := isWorker s = true ∧ fclUp s = true ∧ crcGood words = true ∧ (ctlDst h = devId s ∨ ctlDst h = 31)
    let others (c : Nat) (t : State) : Prop := ∀ k, k ≠ c → domAt k t = domAt k s
    let aborts (e : Instr) (c : CasCommit) (outcome dev code : Nat) : Prop := ∃ u, exec e s = .next (completeCommit c.cmd 0xa (domAt c.dom s).cnt u) ∧
      regGet Reg.casCmtStat u = pack32 [(30, outcome), (27, c.dom), (23, dev), (19, code)] ∧ u.cas.commit = none ∧
      u.cas.out = s.cas.out ++ [ctlFrame 6 31 s.cas.cseq (c.dom * 2 ^ 29) [] s] ∧ tabGet false u.cas.goLog c.dom = false ∧ flagGet Reg.casIntStat 3 u = true ∧
      (regGet (Reg.casCnt 8) u).toNat = min ((regGet (Reg.casCnt 8) s).toNat + 1) 0xffffffff ∧
      RegsBut [Reg.casCmtStat, Reg.casCnt 8, Reg.casIntStat] s u ∧ Only [.regs, .cas, .err] s u
    (here → ctlForm 4 [3] words = true →
      let at_ := (bits (words.getD 2 0) 63 16 * 1000000000 + bits (words.getD 3 0) 63 32) * 65536 + bits (words.getD 3 0) 31 16
      let r := if m.st = .open_ then 1 else if m.recon then 2 else if m.cnt ≠ bits (words.getD 1 0) 63 32 then 3
        else if at_ < todFrac s + 1000 * 65536 then 4 else if m.st = .prepared ∨ m.st = .pending then 5 else 0
      ∃ t, exec (.casPrepare words) s = .next t ∧ domAt d t = (if r = 0 then { m with before := m.st, st := .prepared, t := some at_ } else m) ∧
        t.cas.out = s.cas.out ++ fwd ++ [ctlFrame 5 0 (ctlSeq h) (4 * 2 ^ 28 + r * 2 ^ 24) [] s] ∧ others d t ∧ Only [.epc, .cas] s t) ∧
    (here → ctlForm 6 [0] words = true →
      ∃ t, exec (.casDecide words) s = .next t ∧
        domAt d t = (if m.st ≠ .prepared then m else if bit h 28 then { m with st := .pending, owner := 0 }
          else { m with st := m.before, t := none }) ∧
        t.cas.out = s.cas.out ++ fwd ++ (if m.st = .prepared ∧ bit h 28 = true
          then [ctlFrame 5 0 (ctlSeq h) (6 * 2 ^ 28) [] s] else []) ∧ others d t ∧ Only [.epc, .cas] s t) ∧
    (isManager s = true → fclUp s = true → crcGood words = true → ctlForm 5 [0, 1] words = true → ctlDst h = 0 →
      let k := ctlOrig h
      let result := bits h 27 24
      (∀ c, bits h 31 28 = 4 → s.cas.commit = some c → c.cseq = ctlSeq h → k ∈ ringList s → c.dom < 8 →
        (result ≠ 0 → aborts (.casAck words) c 2 k result) ∧
        (result = 0 → (∀ j ∈ ringList s, j = k ∨ j ∈ c.acks) →
          ∃ u, exec (.casAck words) s = .next (completeCommit c.cmd 0 (domAt c.dom s).next u) ∧ u.cas.commit = none ∧
            domAt c.dom u = { domAt c.dom s with st := .pending, t := some c.t, owner := 0 } ∧ others c.dom u ∧
            regGet Reg.casCmtStat u = pack32 [(30, 1), (27, c.dom)] ∧
            u.cas.out = s.cas.out ++ [ctlFrame 6 31 s.cas.cseq (c.dom * 2 ^ 29 + 2 ^ 28) [] s] ∧ tabGet false u.cas.goLog c.dom = true ∧
            RegsBut [Reg.casCmtStat] s u ∧ Only [.regs, .epc, .cas] s u) ∧
        (result = 0 → k ∉ c.acks → (∃ j ∈ ringList s, j ≠ k ∧ j ∉ c.acks) →
          ∃ t, exec (.casAck words) s = .next t ∧ t.cas.commit = some { c with acks := k :: c.acks } ∧ Only [.cas] s t)) ∧
      (bits h 31 28 = 0xb → k ∈ ringList s → result = 0 →
        ∃ t, exec (.casAck words) s = .next t ∧
          (ringState s < 4 → wkAt k t = { wkAt k s with firmware := true } ∧ t.cas.out = s.cas.out) ∧
          (4 ≤ ringState s → wkAt k t = { wkAt k s with firmware := true, doms := [], replay := s.cas.cseq } ∧
            t.cas.out = s.cas.out ++ (List.range 8).map fun d => ctlFrame 0xd k (s.cas.cseq + d) (d * 2 ^ 29)
              (pack64 [(32, (domAt d s).cnt), (29, (domAt d s).st.code), (28, b2n (tabGet false s.cas.goLog d))] ::
                timeWords ((domAt d s).t.getD 0)) s) ∧ Only [.cas] s t) ∧
      (bits h 31 28 = 0xb → k ∈ ringList s → result ≠ 0 →
        ∃ t, exec (.casAck words) s = .next t ∧ wkAt k t = { wkAt k s with refused := true } ∧ fieldGet (Reg.casWk k) 31 25 t = 0x36 ∧
          flagGet Reg.casIntStat 1 t = true ∧ RegsBut [Reg.casWk k, Reg.casIntStat] s t ∧ Only [.regs, .cas, .err] s t) ∧
      (bits h 31 28 = 0xd → let d := (ctlSeq h + 4096 - (wkAt k s).replay % 4096) % 4096
        (d < 8 → ∃ t, exec (.casAck words) s = .next t ∧
          wkAt k t = { wkAt k s with doms := if d ∈ (wkAt k s).doms then (wkAt k s).doms else (wkAt k s).doms ++ [d] } ∧
          (fieldGet (Reg.casWk k) 31 29 t, fieldGet (Reg.casWk k) 28 25 t) =
            judged (fieldGet (Reg.casWk k) 31 29 s, fieldGet (Reg.casWk k) 28 25 s) (wkAt k t) ∧
          (∀ j, j ≠ k → wkAt j t = wkAt j s) ∧ RegsBut [Reg.casWk k, Reg.casIntStat] s t ∧ Only [.regs, .cas, .err] s t) ∧
        (8 ≤ d → exec (.casAck words) s = .next s))) ∧
    (∀ c, s.cas.commit = some c → s.clk.now < c.due → exec .prepareTimeout s = .next s) ∧
    (∀ c k, s.cas.commit = some c → c.due ≤ s.clk.now → c.dom < 8 →
      (ringList s).find? (fun j => !c.acks.contains j) = some k → aborts .prepareTimeout c 3 k 0)

/-- The other frames of the ring (R212, R221, R222, R225, R227, R228, R229, Table 8.12): TIME, STATE, CTRL, RELAY and IMG
frames and what a worker does with each, what a manager does with what it learns of a worker (log entry 82), and a remote
access of the manager with its answer. What time-of-day's trim and a slew's rate become under TIME frames is free (log entry
24); the form of an order to enter a power state is not in the spec (log entry 62, R353). Where the spec leaves a corner open
the model's choice is that of log entries 24, 31, 32, 35, 62, 82 and 83. -/
def Obligations.RingFramesServeTimeStateAndAccess : Prop :=
  ∀ (src : Party) (v : Word) (words : List W64) (s : State), Machine.Inv s →
    let h := words.headD 0
    let fwd := if ctlDst h = devId s then [] else [words]
    let here : Prop := isWorker s = true ∧ fclUp s = true ∧ crcGood words = true ∧ (ctlDst h = devId s ∨ ctlDst h = 31)
    let s1 := if ctlDst h = devId s then s else coutSend words s
    let back : Prop := isManager s = true ∧ fclUp s = true ∧ crcGood words = true ∧ ctlDst h = 0
    (awake s = true → isManager s = true → (ringState s = 4 ∨ ringState s = 5) → s.cas.timeDue ≤ s.clk.now → xingDead 48 s = false →
      ∃ t, exec (.timeFrameSend []) s = .next t ∧ t.cas.out = s.cas.out ++ [ctlFrame 7 31 s.cas.cseq (s.clk.slot * 2 ^ 26) (timeWords (todFrac s)) s] ∧
        t.cas.timeDue = s.clk.now + 125000 ∧ t.cas.cseq = (s.cas.cseq + 1) % 4096 ∧ Only [.cas] s t) ∧
    (∀ w : WorkerSeen, let k := w.dev.val
      let was := wkAt k s
      let f := { was with
        inReset := decide (w.state = .inReset), asleep := decide (w.state = .asleep), slotBad := !w.slotOk,
        timeBad := decide (400 < w.ofs.natAbs ∨ (was.timeBad = true ∧ 30 < w.ofs.natAbs)) }
      let acked : Bool := s.cas.commit.any (fun c => c.acks.contains k) || decide (∃ d : Fin 8, (domAt d.val s).st = .pending)
      awake s = true → isManager s = true → (ringState s = 4 ∨ ringState s = 5) → (s.clk.now < s.cas.timeDue ∨ xingDead 48 s = true) → k ∈ ringList s →
      ∃ t, exec (.timeFrameSend [w]) s = .next t ∧
        fieldGet (Reg.casWk k) 15 0 t = (max (-32768) (min 32767 w.ofs) % 65536).toNat ∧
        wkAt k t = (match w.state with
          | .warm => { f with doms := [], replay := s.cas.cseq }
          | .cold => { f with firmware := false, refused := false, doms := [], tables := false, hold := was.hold || acked }
          | _ => f) ∧
        (fieldGet (Reg.casWk k) 31 29 t, fieldGet (Reg.casWk k) 28 25 t) =
          judged (fieldGet (Reg.casWk k) 31 29 s, fieldGet (Reg.casWk k) 28 25 s) (wkAt k t) ∧
        t.cas.out.length = s.cas.out.length + (match w.state with
          | .warm => 8
          | .cold => (s.fwu.running.length + 511) / 512
          | _ => 0) ∧
        (∀ j, j ≠ k → wkAt j t = wkAt j s) ∧ RegsBut [Reg.casWk k, Reg.casIntStat] s t ∧ Only [.regs, .cas, .err] s t) ∧
    (here → ctlForm 7 [2] words = true →
      let want : Nat := ((bits (words.getD 1 0) 63 16 * 1000000000 + bits (words.getD 2 0) 63 32) * 65536 + bits (words.getD 2 0) 31 16) * 65536 +
        devId s * 26 * 2 ^ 32 + Config.ringFlight (devId s)
      let off : Int := (s.tod.value : Int) - want
      ∃ t, exec (.timeFrame words) s = .next t ∧ t.clk.slot = bits h 31 26 ∧ t.cas.slotBad = false ∧ t.cas.out = s.cas.out ++ fwd ∧
        (s.cas.aligned = false → want < 2 ^ 48 * secUnits → t.tod.value = want ∧ t.cas.aligned = true ∧ t.cas.offset = 0 ∧ t.cas.timeBad = false) ∧
        (s.cas.aligned = true → t.tod.value = s.tod.value ∧ t.cas.offset = off ∧ t.tod.slewLeft = -(off * 1000000000 / 2 ^ 32) ∧
          (40 * 2 ^ 32 < off.natAbs → t.cas.timeBad = true ∧ flagGet Reg.casIntStat 7 t = true) ∧
          (off.natAbs ≤ 3 * 2 ^ 32 → t.cas.timeBad = false ∧ (s.cas.timeBad = true → flagGet Reg.casIntStat 2 t = true)) ∧
          (3 * 2 ^ 32 < off.natAbs → off.natAbs ≤ 40 * 2 ^ 32 → t.cas.timeBad = s.cas.timeBad)) ∧
        RegsBut [Reg.todTrim, Reg.todStat, Reg.todCtl, Reg.casIntStat] s t) ∧
    (here → ctlForm 0xd [3] words = true →
      let d := bits h 31 29
      let m := domAt d s
      let b := words.getD 1 0
      let cnt := bits b 63 32
      let at_ := (bits (words.getD 2 0) 63 16 * 1000000000 + bits (words.getD 3 0) 63 32) * 65536 + bits (words.getD 3 0) 31 16
      ∃ t, exec (.stateFrame words) s = .next t ∧ t.cas.out = s.cas.out ++ fwd ++ [ctlFrame 5 0 (ctlSeq h) (0xd * 2 ^ 28) [] s] ∧
        (m.st = .prepared → bit b 28 = false → domAt d t = { m with st := m.before, t := none }) ∧
        (m.st = .prepared → bit b 28 = true → cnt ≠ m.next → domAt d t = { m with st := .pending, owner := 0 }) ∧
        (m.st = .prepared → bit b 28 = true → cnt = m.next → (domAt d t).cnt = cnt ∧ (domAt d t).recon = true) ∧
        (m.st = .pending → domAt d t = m) ∧
        (m.st ≠ .prepared → m.st ≠ .pending → bits b 31 29 = 3 → domAt d t = { m with cnt := cnt, st := .pending, t := some at_, owner := 0 }) ∧
        (m.st ≠ .prepared → m.st ≠ .pending → bits b 31 29 ≠ 3 → domAt d t = { m with cnt := cnt }) ∧
        (∀ k, k ≠ d → domAt k t = domAt k s)) ∧
    (here → ctlForm 0xa [1] words = true →
      let off := bits h 23 2 * 4
      let u := write32 .manager off (BitVec.ofNat 32 (words.getD 1 0).toNat) s1
      let r := read32 .manager off s1
      let code (t : State) : Nat := if regGet Reg.prtRefTotal t = regGet Reg.prtRefTotal s then 0 else 6
      (bit h 31 = true → off ≠ Reg.vbtWord 2 → exec (.ctrlFrame words none) s = .next (sendAck h (code u) [] u)) ∧
      (bit h 31 = false → exec (.ctrlFrame words none) s = .next (sendAck h (code r.2) [BitVec.ofNat 64 r.1.toNat] r.2)) ∧
      (∀ st : Fin 5, startPhase s = 8 → powerState s < 2 → powerState s < st.val → s.pwr.entering = none → s.pwr.waking = none →
        oppBusy s = false →
        (firstRefusal st.val s1 = none → ∃ t, exec (.ctrlFrame words (some st)) s = .next t ∧ t.pwr.entering = some st.val ∧
          flagGet Reg.pwrStat 25 t = true ∧ powerState t = powerState s ∧ t.cas.out = s.cas.out ++ fwd ++ [ctlFrame 5 0 (ctlSeq h) (0xa * 2 ^ 28) [] s]) ∧
        (∀ u, firstRefusal st.val s1 = some u → ∃ t, exec (.ctrlFrame words (some st)) s = .next t ∧ t.pwr.entering = none ∧
          regGet Reg.pwrRefuse t = pack32 [(28, u), (25, st.val)]))) ∧
    (here → ctlForm 0xc [2, 8, 16, 32] words = true → bit h 31 = true →
      let q := ringAt relayRing s
      let ws := (words.drop 1).take (bits h 38 32)
      (q.st ≠ 0 → q.st ≠ 2 → ∃ u, exec (.relayFrame words) s = .next u ∧ u.cas.relayIn = s.cas.relayIn ++ [(ctlSeq h, ws)] ∧
        ringAt relayRing u = { q with tail := (q.tail + ws.length / 8) % q.size, since := if s.cas.relayIn = [] then s.clk.now else q.since } ∧
        (∀ k, k ≠ relayRing → ringAt k u = ringAt k s) ∧ u.upd.cmds = s.upd.cmds ∧ u.cas.out = s.cas.out ++ fwd ∧ Only [.upd, .cas] s u) ∧
      ((q.st = 0 ∨ q.st = 2) → ∃ t, exec (.relayFrame words) s = .next t ∧ t.upd = s.upd ∧
        (regGet (Reg.casCnt 11) t).toNat = min ((regGet (Reg.casCnt 11) s).toNat + 1) 0xffffffff ∧ Only [.regs, .cas] s t)) ∧
    (∀ c, back → ctlForm 0xc [2, 8, 16, 32] words = true →
      s.upd.cmds.find? (fun c => decide (c.stage = .relayed) && c.mark == ctlSeq h) = some c →
      let a := words.getD 1 0
      let b := words.getD 2 0
      exec (.relayFrame words) s = .next (complete c.id (bits a 55 48) (bits b 61 40) (bits b 39 32) (bits b 31 0) s)) ∧
    (here → ctlForm 0xb [64] words = true →
      let n := bits h 31 10
      let body := (words.drop 1).take 64
      (0 < n → s.cas.imgRefused = false → bit h 0 = false →
        ∃ t, exec (.imgFrame words) s = .next t ∧ tabGet [] t.cas.img n = body ∧ (∀ k, k ≠ n → tabFind t.cas.img k = tabFind s.cas.img k) ∧
          t.cas.out = s.cas.out ++ fwd ∧ Only [.cas] s t) ∧
      (n = 0 → headerCode (wordsBytes body) s ≠ 0 →
        ∃ t, exec (.imgFrame words) s = .next t ∧ t.cas.imgRefused = true ∧
          t.cas.out = s.cas.out ++ fwd ++ [ctlFrame 5 0 (ctlSeq h) (0xb * 2 ^ 28 + 7 * 2 ^ 24) [] s] ∧ Only [.cas] s t) ∧
      (let u := s.updCas fun c => { c with img := tabSet [] c.img n body }
       0 < n → bit h 0 = true → s.cas.imgRefused = false → gathered n u = true → imageCode (gatheredImage n u) s = 0 →
        ∃ t, exec (.imgFrame words) s = .next t ∧ t.fwu = { s.fwu with running := gatheredImage n u } ∧ t.cas.img = [] ∧
          t.cas.out = s.cas.out ++ fwd ++ [ctlFrame 5 0 (ctlSeq h) (0xb * 2 ^ 28) [] s] ∧ RegsBut [Reg.fwuBoot] s t ∧
          Only [.regs, .cas, .fwu] s t)) ∧
    (Accepts src Reg.casRaCtl v s →
      let k := fieldGet Reg.casRaSel 31 28 s
      let off := fieldGet Reg.casRaSel 23 2 s * 4
      (flagGet Reg.casRaCtl 31 s = true → src ≠ .smbus → ∃ t, exec (.casRaRead src v) s = .next t ∧ exec (.casRaWrite src v) s = .next t ∧
        RefusedAs 4 src (logSpace src) true Reg.casRaCtl v.toNat s t) ∧
      (flagGet Reg.casRaCtl 31 s = false → isManager s = true → bits v 1 0 = 1 → ∃ t, exec (.casRaRead src v) s = .next t ∧
        t.cas.remote = some (s.cas.cseq, false) ∧ flagGet Reg.casRaCtl 31 t = true ∧
        t.cas.out = s.cas.out ++ [ctlFrame 0xa k s.cas.cseq off [0] s] ∧ RegsBut [Reg.casRaCtl] s t ∧ Only [.regs, .cas] s t) ∧
      (flagGet Reg.casRaCtl 31 s = false → isManager s = false → ∃ t, exec (.casRaRead src v) s = .next t ∧
        exec (.casRaWrite src v) s = .next t ∧ t.cas = s.cas ∧ RegsBut [] s t ∧ Only [.regs] s t) ∧
      (flagGet Reg.casRaCtl 31 s = false → isManager s = true → bits v 1 0 = 2 → ∃ t, exec (.casRaWrite src v) s = .next t ∧
        t.cas.remote = some (s.cas.cseq, true) ∧ flagGet Reg.casRaCtl 31 t = true ∧
        t.cas.out = s.cas.out ++ [ctlFrame 0xa k s.cas.cseq (2 ^ 31 + off) [BitVec.ofNat 64 (regGet Reg.casRaData s).toNat] s] ∧
        RegsBut [Reg.casRaCtl] s t ∧ Only [.regs, .cas] s t)) ∧
    (∀ write, back → ctlForm 5 [0, 1] words = true → bits h 31 28 = 0xa → s.cas.remote = some (ctlSeq h, write) → s.cas.jobs = [] →
      s.pip.schedReady = false →
      ∃ t, exec (.casRaDone words) s = .next t ∧ t.cas.remote = none ∧ flagGet Reg.casRaCtl 31 t = false ∧
        fieldGet Reg.casRaCtl 27 24 t = bits h 27 24 ∧
        regGet Reg.casRaData t = (if write || bits h 27 24 != 0 then regGet Reg.casRaData s else BitVec.ofNat 32 (words.getD 1 0).toNat) ∧
        RegsBut [Reg.casRaCtl, Reg.casRaData] s t ∧ Only [.regs, .cas] s t)

/-- Memory modes and banks (R296 to R298): only the MP writes GLB_MEM_MODE, and only by the transitions the rules allow; a
bank's owner hands it over, the handover ends with the last access, BIST leaves the bank zero, and the loader leaves the data
regions as the golden copy has them. Where the spec leaves a corner open the model's choice is that of log entries 27 and 51. -/
def Obligations.MemoryModesAndBanksChangeHands : Prop :=
  ∀ (src : Party) (n : Fin 72) (v : Word) (s : State), Machine.Inv s →
    let idle (k : Nat) : Prop := bankBusy k s = false ∧ bankOwner k s < 3
    let off := Reg.glbBankOwn n.val
    let me : Nat := match src with | .mp => 1 | .pcie _ => 2 | _ => 0
    let mine : Prop := me ≠ 0 ∧ (me = bankOwner n.val s ∨ (bankOwner n.val s = 0 ∧ me = 1))
    let refused (c : Instr) (cause off : Nat) : Prop := ∃ t, exec c s = .next t ∧ RefusedAs cause src (logSpace src) true off v.toNat s t
    let handed (t : State) : Prop := bankOwner n.val t = fieldGet off 26 24 s ∧ bankBusy n.val t = false
    (Accepts src Reg.glbMemMode v s → src ≠ .smbus →
      (src ≠ .mp → refused (.glbMemModeWrite src v) 3 Reg.glbMemMode) ∧
      (src = .mp → bits v 1 0 = memMode s → exec (.glbMemModeWrite src v) s = .next s) ∧
      (src = .mp → bits v 1 0 = 1 → memMode s ≠ 1 → (∃ k, k < 72 ∧ ¬ idle k) → refused (.glbMemModeWrite src v) 4 Reg.glbMemMode) ∧
      (src = .mp → bits v 1 0 = 1 → memMode s ≠ 1 → (∀ k, k < 72 → idle k) →
        ∃ t, exec (.glbMemModeWrite src v) s = .next t ∧ memMode t = 1 ∧ flagGet Reg.glbRstCtl 8 t = false ∧
          (memMode s = 0 → ∀ l, linkState l t = if linkState l s = 0 ∧ linkTrains l s = true then 1 else linkState l s) ∧
          (memMode s ≠ 0 → RegsBut [Reg.glbMemMode, Reg.glbRstCtl] s t) ∧ Only [.regs, .lnk] s t) ∧
      (src = .mp → bits v 1 0 = 2 → memMode s = 1 → quiesced s = true →
        ∃ t, exec (.glbMemModeWrite src v) s = .next t ∧ memMode t = 2 ∧ (∀ k, k < 72 → bankOwner k t = 1 ∧ bankBusy k t = false) ∧
          RegsBut (Reg.glbMemMode :: (List.range 72).map Reg.glbBankOwn) s t ∧ Only [.regs, .drc] s t) ∧
      (src = .mp → memMode s = 1 → (bits v 1 0 = 0 ∨ (bits v 1 0 = 2 ∧ quiesced s = false)) → refused (.glbMemModeWrite src v) 4 Reg.glbMemMode)) ∧
    (Accepts src off v s → src ≠ .smbus →
      (¬ mine → refused (.bankOwnWrite src n v) 3 off) ∧
      (mine → (memMode s = 1 ∨ bankBusy n.val s = true) → refused (.bankOwnWrite src n v) 4 off) ∧
      (mine → memMode s ≠ 1 → bankBusy n.val s = false → ∃ t, exec (.bankOwnWrite src n v) s = .next t ∧ bankBusy n.val t = true ∧
        bankOwner n.val t = bankOwner n.val s ∧ fieldGet off 26 24 t = bits v 26 24 ∧ tabGet 0 t.drc.handTo n.val = bits v 18 16 ∧
        RegsBut [off] s t ∧ Only [.regs, .drc] s t)) ∧
    (bankBusy n.val s = true → tabGet 0 s.drc.handTo n.val < 8 → hostBoots s = false → ∃ t, exec (.bankHandoverDone n) s = .next t ∧
      bankOwner n.val t = tabGet 0 s.drc.handTo n.val ∧ bankBusy n.val t = false ∧ RegsBut [off] s t ∧ Only [.regs, .drc] s t) ∧
    (bankBusy n.val s = true → hostBoots s = true → mailboxFull s = false → tabGet 0 s.drc.handTo n.val = 1 →
      (∀ k ∈ [68, 69, 70, 71], k ≠ n.val → bankOwner k s = 1 ∧ bankBusy k s = false) → ∃ t, exec (.bankHandoverDone n) s = .next t ∧
      t.fwu = { s.fwu with mailbox := s.fwu.mailbox ++ (List.range 262144).map fun i => memByte s.mem.scratch (262144 + i) } ∧
      (∀ k ∈ [68, 69, 70, 71], bankOwner k t = if mailboxFull t = true then 1 else 2) ∧
      Only [.regs, .drc, .fwu] s t) ∧
    (∀ bad, bankOwner n.val s = 3 → bankBusy n.val s = false → ∃ t, exec (.bistDone n bad) s = .next t ∧ handed t ∧
      flagGet off 30 t = decide (bad ≠ 0) ∧
      (∀ a, memByte t.mem.pantry a = if n.val < 64 ∧ pantryBank (a / 8) = n.val then 0 else memByte s.mem.pantry a) ∧
      (∀ a, memByte t.mem.scratch a = if 64 ≤ n.val ∧ a / 65536 = n.val - 64 then 0 else memByte s.mem.scratch a) ∧
      RegsBut [off] s t ∧ Only [.regs, .mem] s t) ∧
    (bankOwner n.val s = 4 → bankBusy n.val s = false → ∃ t, exec (.loaderDone n) s = .next t ∧ handed t ∧
      (n.val < 64 → (∀ x ∈ s.tbl.tblDram, ∀ r ∈ x.2.regions, ∀ i, i < r.2 → pantryBank ((r.1 + i) / 2) = n.val →
        unitRead (r.1 + i) t = tabGet 0 s.arr.goldRec (r.1 + i)) ∧ t.mem.scratch = s.mem.scratch) ∧
      (64 ≤ n.val → t.mem.pantry = s.mem.pantry ∧ ∀ a, a / 65536 ≠ n.val - 64 → memByte t.mem.scratch a = memByte s.mem.scratch a) ∧
      RegsBut [off] s t ∧ Only [.clk, .regs, .mem] s t)

/-- The DRAM controller and its arbiter (R304 to R307, R309, R310, R314, R315): the refresh debt follows R305; row
activations are counted in 64 entries of a subchannel, THRESH throttles the requester, and the window ends it (which of
several lowest entries is replaced is free, assumption 60); a decision ends the old grant, of which the accesses of the host
window and the MP then act in order (R303), and gives the port to the requester with the highest effective priority, never to
a masked or throttled one and to none while the arbiter is frozen. STATS_FLUSH changes only what the bytes of area 4 read as.
Where the spec leaves a corner open the model's choice is that of log entries 15, 48, 59 and 60. -/
def Obligations.RefreshAndArbitrationFollowTheirRules : Prop :=
  ∀ s : State, Machine.Inv s →
    let lim := fieldGet Reg.drcRefCfg 2 0 s
    (∀ sc : Fin 4, dramLive s = true →
      let st := Reg.drcRefStat sc.val
      let d := fieldGet st 3 0 s
      let debt (t : State) (n : Nat) : Prop := fieldGet st 3 0 t = min n lim ∧
        (regGet (Reg.drcCnt 4) t).toNat = min ((regGet (Reg.drcCnt 4) s).toNat + (n - lim)) 0xffffffff ∧ (lim < n → flagGet Reg.drcIntStat 4 t = true)
      let hot := flagGet st 31 s
      let trefi := if hot then 1950 else 3900
      let began := tabGet 0 s.drc.interval sc.val
      let others (t : State) : Prop := ∀ k, k < 4 → k ≠ sc.val → regGet (Reg.drcRefStat k) t = regGet (Reg.drcRefStat k) s ∧
        tabGet 0 t.drc.interval k = tabGet 0 s.drc.interval k
      (d < 15 → began + trefi ≤ s.clk.now → ∃ t, exec (.refreshTick sc) s = .next t ∧ debt t (d + 1) ∧
        tabGet 0 t.drc.interval sc.val = began + trefi ∧ others t ∧ RegsBut [st, Reg.drcCnt 4, Reg.drcIntStat] s t ∧ Only [.regs, .err, .drc] s t) ∧
      (s.clk.now < began + trefi → exec (.refreshTick sc) s = .next s) ∧
      (pollDue sc.val s = true → d ≤ 4 → lim ≤ 4 → hot = false → s.clk.now < began + 1950 → ∃ t, exec (.refreshPoll sc true false) s = .next t ∧ flagGet st 31 t = true ∧
        flagGet Reg.drcStat (20 + sc.val) t = true ∧ flagGet Reg.drcIntStat 2 t = true ∧ debt t (2 * d) ∧
        t.drc = { s.drc with polled := tabSet 0 s.drc.polled sc.val s.clk.now } ∧ others t ∧ Only [.regs, .err, .drc] s t) ∧
      (pollDue sc.val s = true → d ≤ 4 → lim ≤ 4 → hot = false → began + 1950 ≤ s.clk.now → ∃ t, exec (.refreshPoll sc true false) s = .next t ∧ flagGet st 31 t = true ∧
        fieldGet st 3 0 t = min (min (2 * d) lim + 1) lim ∧ tabGet 0 t.drc.interval sc.val = began + 1950 ∧ others t ∧ Only [.regs, .err, .drc] s t) ∧
      (pollDue sc.val s = true → hot = true → ∃ t, exec (.refreshPoll sc false false) s = .next t ∧ flagGet st 31 t = false ∧ flagGet Reg.drcStat (20 + sc.val) t = false ∧
        fieldGet st 3 0 t = (d + 1) / 2 ∧ others t ∧ RegsBut [st, Reg.drcStat] s t ∧ Only [.regs, .drc] s t) ∧
      (pollDue sc.val s = false → ∀ hot hotter, exec (.refreshPoll sc hot hotter) s = .next s) ∧
      (pollDue sc.val s = true → ∃ t, exec (.refreshPoll sc true true) s = .next t ∧ flagGet st 30 t = true ∧ flagGet Reg.drcIntStat 3 t = true ∧
        (regGet (Reg.drcCnt 9) t).toNat = min ((regGet (Reg.drcCnt 9) s).toNat + 1) 0xffffffff ∧ others t) ∧
      (0 < d → (∀ q ∈ s.drc.queue, ∀ i, i < q.2 → lineSub (q.1 + i) ≠ sc.val) → ∃ t, exec (.refreshOpportunistic sc) s = .next t ∧ fieldGet st 3 0 t = d - 1 ∧
        regGet (Reg.drcCnt 5) t = regGet (Reg.drcCnt 5) s + 1 ∧ RegsBut [st, Reg.drcCnt 5] s t ∧ Only [.regs] s t) ∧
      ((∃ q ∈ s.drc.queue, ∃ i, i < q.2 ∧ lineSub (q.1 + i) = sc.val) → exec (.refreshOpportunistic sc) s = .next s)) ∧
    (s.drc.window + 1000000 * fieldGet Reg.drcRatCfg 15 8 s ≤ s.clk.now → ∃ t, exec .ratWindowReset s = .next t ∧
      regGet Reg.drcRatStat t = 0 ∧ t.drc = { s.drc with window := s.clk.now, won := [], rat := [] } ∧ RegsBut [Reg.drcRatStat] s t ∧ Only [.regs, .drc] s t) ∧
    (∀ a : RowAct, dramLive s = true →
      let t := activateRow a s
      let sub := 2 * (a.line % 2) + a.line / 2 % 2
      let tracked := s.drc.rat.find? fun e => e.1 == sub && e.2.1 == a.row
      let mine := s.drc.rat.filter fun e => e.1 == sub
      let counted (c : Nat) : Prop := (sub, a.row, c) ∈ t.drc.rat ∧
        (c = fieldGet Reg.drcRatCfg 31 16 s → flagGet Reg.drcRatStat a.req.val t = true ∧ flagGet Reg.drcIntStat 1 t = true ∧
          (regGet (Reg.drcCnt 6) t).toNat = min ((regGet (Reg.drcCnt 6) s).toNat + 1) 0xffffffff) ∧
        (c ≠ fieldGet Reg.drcRatCfg 31 16 s → t.regs = s.regs) ∧ Only [.clk, .regs, .err, .drc] s t
      (∀ e, tracked = some e → counted (e.2.2 + 1) ∧ ∀ x ∈ s.drc.rat, ¬(x.1 = sub ∧ x.2.1 = a.row) → x ∈ t.drc.rat) ∧
      (tracked = none → mine.length < 64 → counted 1 ∧ ∀ x ∈ s.drc.rat, x ∈ t.drc.rat) ∧
      (tracked = none → 64 ≤ mine.length → ∃ old ∈ mine, (∀ x ∈ mine, old.2.2 ≤ x.2.2) ∧ counted (old.2.2 + 1) ∧
        ∀ x ∈ s.drc.rat, x ≠ old → x ∈ t.drc.rat)) ∧
    (∀ req taken done acts, exec (.arbDecision req taken done acts) s =
      exec (.arbDecision req taken done []) (acts.foldl (fun s a => activateRow a s) s)) ∧
    (∀ req taken done, ∃ t, exec (.arbDecision req taken done []) s = .next t ∧
      (flagGet Reg.arbCtl 0 s = true → arbOwner t = none) ∧
      (flagGet Reg.arbStat 26 s = true → s.drc.waiting = [] → (∀ r ∈ req, r.val ∈ s.drc.req) → arbOwner t = none) ∧
      (∀ st, st < 8 → flagGet Reg.arbStat 26 s = true → s.pwr.entering = some st → s.drc.waiting = [] →
        (∃ r ∈ req, r.val ∉ s.drc.req ∧ flagGet Reg.arbStat (16 + r.val) s = false) →
        t.pwr.entering = none ∧ flagGet Reg.arbStat 26 t = false ∧ fieldGet Reg.pwrRefuse 31 28 t = 9) ∧
      (∀ r : Fin 8, flagGet Reg.arbStat (16 + r.val) s = true → arbOwner t ≠ some r.val) ∧
      (∀ (r : Fin 8) w, flagGet Reg.drcRatStat r.val s = true → tabGet 0 s.drc.won r.val = w + 1 →
        s.clk.now < w + 1000 * fieldGet Reg.drcRatCfg 7 0 s → arbOwner t ≠ some r.val)) ∧
    (∀ (f : Fin 64) byte be done, be ≠ [] → arbOwner s = some 1 → flagGet Reg.arbStat 17 s = false →
      (∀ l, tabGet false s.mem.dramBad l = false ∧ tabGet false s.mem.dramSoft l = false) →
      let queue := s.drc.queue ++ [(byte / 64, (byte + be.length - 1) / 64 - byte / 64 + 1)]
      let served (c : Instr) (t : State) : Prop := exec c s = .next t ∧ t.drc.waiting = [] ∧
        t.drc.queue = queue.drop (max done (queue.length - 32)) ∧ arbOwner t = none
      (s.drc.waiting = [⟨.host f, byte, be, none⟩] → ∃ t, served (.arbDecision [] [] done []) t ∧
        t.hif.answers = s.hif.answers ++ [.mem (picked byte be fun b => dramByte b s) false] ∧ t.mem = s.mem) ∧
      (∀ data, data.length = be.length → s.drc.waiting = [⟨.host f, byte, be, some data⟩] →
        ∃ t, served (.arbDecision [] [] done []) t ∧ t.hif = s.hif ∧ t.mem.dramBad = s.mem.dramBad ∧
          ∀ a, inAreas a s = false → memByte t.mem.dram a =
            (if byte ≤ a then (data.getD (a - byte) none).getD (memByte s.mem.dram a) else memByte s.mem.dram a))) ∧
    (∀ (req : List (Fin 8)) taken done, s.drc.waiting = [] → fieldGet Reg.arbStat 23 16 s = 0 → flagGet Reg.arbStat 26 s = false → flagGet Reg.arbCtl 0 s = false →
      regGet Reg.drcRatStat s = 0 →
      let c := s.clk.now * 4 / 5
      let prio (r : Nat) : Nat := tabGet r s.drc.prio r
      let beats (r : Fin 8) : Prop := r ∈ req ∧ ∀ q ∈ req, prio q.val < prio r.val ∨ (prio q.val = prio r.val ∧ q.val ≤ r.val)
      (∀ r, s.drc.change = [] → beats r → ∃ t, exec (.arbDecision req taken done []) s = .next t ∧ arbOwner t = some r.val ∧
        regGet (Reg.arbGrant r.val) t = regGet (Reg.arbGrant r.val) s + 1 ∧ (∀ q : Fin 8, flagGet Reg.arbStat (8 + q.val) t = decide (q ∈ req)) ∧
        (∀ q : Fin 8, q ∈ req → q.val ∈ s.drc.req → s.drc.req.Nodup → arbOwner s ≠ some q.val →
          regGet (Reg.arbWait q.val) t = regGet (Reg.arbWait q.val) s + BitVec.ofNat 32 (c - s.drc.decided)) ∧
        (r.val ∈ s.drc.req → arbOwner s ≠ some r.val → (regGet (Reg.arbMaxwait r.val) t).toNat =
          max (regGet (Reg.arbMaxwait r.val) s).toNat (min (c - tabGet 0 s.drc.waits r.val) 0xffffffff)) ∧
        t.drc.decided = c ∧ t.drc.prio = s.drc.prio ∧ t.drc.change = [] ∧ Only [.regs, .err, .drc] s t) ∧
      (req = [] → s.drc.change = [] → ∃ t, exec (.arbDecision req taken done []) s = .next t ∧ arbOwner t = none ∧ fieldGet Reg.arbStat 15 8 t = 0 ∧
        t.drc.decided = c ∧ Only [.regs, .err, .drc] s t) ∧
      (∀ r p n, s.drc.change = [(r, p, n + 1)] → ∃ t, exec (.arbDecision req taken done []) s = .next t ∧
        t.drc.change = (if n = 0 then [] else [(r, p, n)]) ∧ arbPrio r t = (if n = 0 then p else arbPrio r s) ∧
        (∀ q, q ≠ r → arbPrio q t = arbPrio q s))) ∧
    (∀ (src : Party) (v : Word), Accepts src Reg.arbPrio v s →
      let new (r : Nat) : Nat := bits v (3 * r + 2) (3 * r)
      let old (r : Nat) : Nat := fieldGet Reg.arbPrio (3 * r + 2) (3 * r) s
      (s.drc.change = [] → ∃ t, exec (.arbPrioWrite src v) s = .next t ∧ (∀ r, r < 8 → fieldGet Reg.arbPrio (3 * r + 2) (3 * r) t = new r) ∧
        t.drc.change = ((List.range 8).filter fun r => new r != old r).map (fun r => (r, new r, if arbOwner s = some r then 1 else 2)) ∧
        (∀ r, r < 8 → flagGet Reg.arbStat r t = decide (new r ≠ old r)) ∧ t.drc.prio = s.drc.prio ∧ RegsBut [Reg.arbPrio, Reg.arbStat] s t ∧
        Only [.regs, .drc, .fwu] s t) ∧
      (s.drc.change ≠ [] → src ≠ .smbus → ∃ t, exec (.arbPrioWrite src v) s = .next t ∧ RefusedAs 4 src (logSpace src) true Reg.arbPrio v.toNat s t)) ∧
    (∃ t, exec .statsFlush s = .next t ∧ t.clk.now = s.clk.now ∧ (memMode s ≠ 1 ∨ dramLive s = false → t = s) ∧ t.mem.dram = s.mem.dram ∧
      t.mem.dramBad = s.mem.dramBad ∧ t.mem.pantry = s.mem.pantry ∧ t.mem.scratch = s.mem.scratch ∧
      (∀ a, inArea 4 a s = false → tabFind t.mem.dramSet a = tabFind s.mem.dramSet a) ∧ Only [.clk, .mem] s t)

/-- The settings record and the VBAT domain (R378 to R383): a changed setting is written to the older copy with its digests,
VBAT is measured, time-of-day is saved with the counter, software writes its words, and a domain that lost its supply reads
0. Where the spec leaves a corner open the model's choice is that of log entries 4 and 21. -/
def Obligations.SettingsAndTheVbatDomainAreKept : Prop :=
  ∀ s : State, Machine.Inv s →
    (awake s = true → s.fwu.dirty = true → isWorker s = false →
      let r := settingsNow s
      let copy := match currentSettings s with | some (c, _) => 1 - c | none => 0
      ∃ t, exec .settingsWrite s = .next t ∧ tabFind t.fwu.recs copy = some r ∧ (∀ k, k ≠ copy → tabFind t.fwu.recs k = tabFind s.fwu.recs k) ∧
        t.fwu = { s.fwu with recs := t.fwu.recs, dirty := false } ∧
        (∀ i, i < 2 → vbtGet (7 + 2 * i) t = BitVec.ofNat 32 (r.digest / 4294967296) ∧ vbtGet (8 + 2 * i) t = BitVec.ofNat 32 r.digest) ∧
        (∀ n, n < 7 ∨ 10 < n → vbtGet n t = vbtGet n s) ∧ Only [.fwu, .vbt] s t) ∧
    (s.fwu.dirty = false → exec .settingsWrite s = .next s) ∧
    (∀ volt, awake s = true → let low := decide (volt < 250) && !s.rst.aux
      ∃ t, exec (.vbatMeasure volt) s = .next t ∧ fieldGet Reg.vbtStat 9 0 t = min volt 1023 ∧ flagGet Reg.vbtStat 29 t = low ∧
        (low = true → flagGet Reg.vbtStat 29 s = false → flagGet Reg.vbtIntStat 0 t = true) ∧
        (low = false → regGet Reg.vbtIntStat t = regGet Reg.vbtIntStat s) ∧ RegsBut [Reg.vbtStat, Reg.vbtIntStat] s t ∧ Only [.regs, .err] s t) ∧
    (awake s = true → ∃ t, exec .todSave s = .next t ∧ (vbtGet 11 t).toNat * 65536 + bits (vbtGet 12 t) 31 16 = todSec s ∧ bits (vbtGet 12 t) 15 0 = todFrac s % 65536 ∧
      (vbtGet 13 t).toNat = todNs s ∧ (s.vbt.rtc < 2 ^ 64 → (vbtGet 14 t).toNat + (vbtGet 15 t).toNat * 4294967296 = s.vbt.rtc) ∧
      (∀ n, n < 11 ∨ 15 < n → vbtGet n t = vbtGet n s) ∧ Only [.vbt] s t) ∧
    (∀ (src : Party) (n : Fin 64) (v : Word), Accepts src (Reg.vbtWord n.val) v s →
      (s.vbt.busyTill ≤ s.clk.now → ∃ t, exec (.vbtWordWrite src n v) s = .next t ∧ (∀ k, k ≠ n.val → vbtGet k t = vbtGet k s) ∧
        vbtGet n.val t = (if 56 ≤ n.val then v else vbtGet n.val s) ∧ (56 ≤ n.val → t.vbt.busyTill = s.clk.now + 91600) ∧ Only [.vbt] s t) ∧
      (s.clk.now < s.vbt.busyTill → src ≠ .smbus →
        ∃ t, exec (.vbtWordWrite src n v) s = .next t ∧ RefusedAs 4 src (logSpace src) true (Reg.vbtWord n.val) v.toNat s t)) ∧
    (∃ t, exec .vbatDomainPowerUp s = .next t ∧ (∀ n, vbtGet n t = 0) ∧ t.vbt.rtc < 2 ^ 48 ∧ Only [.clk, .vbt] s t)

/-- Resets (R262, R324, R328 to R330, R391, R405, Tables 12.1, 12.6 to 12.10): a cold reset returns every register, memory
and table to reset but for the VBAT domain, the flash and what DRAM keeps; a warm reset ends searches, commands, sessions and
proposals and keeps the array; a PCIe reset keeps the pipelines; and an island reset, a dead crossing or a PLL that unlocks
reaches the islands of Table 12.8. Without VDD_AUX no pin is driven, and in reset each takes its state of Table 15.4 (R394).
Where the spec leaves a corner open the model's choice is that of log entries 29, 53, 54, 92 and 93. -/
def Obligations.ResetsReachWhatTheirTablesSay : Prop :=
  ∀ s : State, Machine.Inv s →
    let cold (c : Instr) (cause : Nat) (safe : Bool) : Prop := ∃ t, exec c s = .next t ∧ regGet Reg.glbRstCause t = pack32 [(28, cause)] ∧
      fieldGet Reg.glbBootStat 31 24 t = 0 ∧ flagGet Reg.glbBootStat 22 t = safe ∧ fieldGet Reg.casStat 31 26 t = fieldGet Reg.casStat 31 26 s ∧
      (∀ off, off ∉ [Reg.glbRstCause, Reg.glbBootStat, Reg.casStat] → regGet off t = regReset off) ∧
      (∀ a, memByte t.mem.pantry a = 0 ∧ memByte t.mem.scratch a = 0) ∧ t.mem.dram = s.mem.dram ∧ t.arr.gold = s.arr.gold ∧
      t.arr.dir = [] ∧ (∀ i, sliceAt i t = Slice.free) ∧ t.tbl.tables = [] ∧ t.tbl.profiles = [] ∧ t.pip.flight = [] ∧ t.upd.cmds = [] ∧
      (∀ r, ringAt r t = Ring.off) ∧ t.vbt.words = s.vbt.words ∧ t.vbt.rtc = s.vbt.rtc ∧ t.fwu.slots = s.fwu.slots ∧ t.fwu.recs = s.fwu.recs ∧
      t.pending = s.pending
    let kept : Bool := flagGet Reg.glbBootStat 22 s
    let still : Prop := s.arr.mreqs = [] ∧ s.arr.golds = [] ∧ s.arr.holds = [] ∧ s.upd.plans = [] ∧ s.arr.remaps = [] ∧ s.pwr.waking = none ∧
      (∀ x ∈ s.tbl.tables, x.2.life = .exists_) ∧ ∀ d, d < 8 → (domAt d s).st = .idle ∧ (domAt d s).recon = false ∧ (domAt d s).t = none
    let warm (c : Instr) (cause : Nat) : Prop := ∃ t, exec c s = .next t ∧ regGet Reg.glbRstCause t = pack32 [(28, cause)] ∧
      flagGet Reg.glbRstCtl 8 t = true ∧ memMode t = 0 ∧ (∀ n, n < 72 → bankOwner n t = 1 ∧ bankBusy n t = false) ∧
      t.pip.flight = [] ∧ t.upd.cmds = [] ∧ (∀ r, (ringAt r t).st = 0) ∧ t.tod.value = s.tod.value ∧ (∀ g : Fin 4, linkState (.fll g) t = 0) ∧
      propState t = 0 ∧ fieldGet Reg.prtPropStat 29 26 t = 8 ∧ t.prt.props = [] ∧ t.fwu.session = none ∧ t.cas.commit = none ∧
      (∀ off ∈ [Reg.lnkIntEn, Reg.epcIntEn, Reg.intIntEn, Reg.prtIntEn], regGet off t = 0) ∧
      (still → t.arr.slices = s.arr.slices ∧ t.arr.dir = s.arr.dir ∧ t.mem.pantry = s.mem.pantry ∧ t.mem.dram = s.mem.dram ∧ t.tbl.profiles = s.tbl.profiles)
    let dead (x : Nat) (t : State) : Bool := flagGet (Reg.clkXingDead (x / 32)) (x % 32) t
    let isl (c : Instr) (i : Nat) : Prop := ∃ t, exec c s = .next t ∧ flagGet Reg.glbRstCause i t = true ∧
      (∀ x ∈ islandXings i, dead x t = false) ∧ (i < 16 → ∀ r ∈ t.arr.repairs, r.hob ≠ i) ∧
      (∀ g : Fin 4, i = 16 + g.val → linkState (.fll g) t = 0 ∧ (grpAt g.val t).cores = []) ∧ (i = 20 → linkState .fcl t = 0) ∧
      (i = 22 → flagGet Reg.todStat 29 t = false ∧ (1000 * 2 ^ 32 ≤ s.tod.value → s.tod.value + 1000 * 2 ^ 32 < 2 ^ 48 * secUnits →
        s.tod.value ≤ t.tod.value + 1000 * 2 ^ 32 ∧ t.tod.value ≤ s.tod.value + 1000 * 2 ^ 32)) ∧
      (i < 16 → t.arr.slices = s.arr.slices ∧ t.tod = s.tod ∧ t.lnk = s.lnk) ∧ t.pip.flight = s.pip.flight ∧ t.upd = s.upd
    (∀ cause, 1 ≤ cause → cause ≤ 3 →
      cold (.coldReset cause) cause (kept || (cause == 2 && s.rst.aux && flagGet Reg.drcStat 31 s))) ∧
    cold .vddAuxRise 1 kept ∧ cold .thermalTrip 1 kept ∧ cold (.supplyFall false) 1 false ∧
    (∃ t, exec (.supplyFall true) s = .next t ∧ flagGet Reg.glbBootStat 22 t = false ∧ RegsBut [Reg.glbBootStat] s t ∧ Only [.regs] s t) ∧
    (warmCan s = true → (∀ cause, 4 ≤ cause → cause ≤ 6 → warm (.warmReset cause) cause) ∧
      (∀ (src : Party) (v : Word), Accepts src Reg.glbRstCtl v s → bit v 8 = true → warm (.islandReset src v) 4) ∧
      (awake s = true → (∃ x ∈ s.rst.mpAt, s.clk.now < x + 1000000000) → warm .mpWatchdog 5) ∧
      (∀ x : Fin 59, (x.val = 53 ∨ x.val = 54) → dead x.val s = false → awake s = true → warm (.cdcTimeout x) 6) ∧
      (flagGet Reg.clkStat 2 s = true → warm (.pllUnlock .dram) 6)) ∧
    (∀ cause, 4 ≤ cause → cause ≤ 6 → warmCan s = false → exec (.warmReset cause) s = .next s) ∧
    (s.rst.low = false → ∃ t, exec .pcieReset s = .next t ∧ t.hif.fns = [] ∧ t.hif.vfEnable = false ∧ t.hif.msix = [] ∧ t.hif.msixPend = [] ∧
      t.upd.cmds = [] ∧ (∀ r, (ringAt r t).st = 0) ∧ t.prt.props = [] ∧ propState t = 0 ∧ fieldGet Reg.prtPropStat 29 26 t = 8 ∧
      flagGet Reg.intErrCfg 31 t = false ∧ flagGet Reg.intSumCfg 31 t = false ∧ t.pip.flight = s.pip.flight ∧ t.tod = s.tod ∧ memMode t = memMode s) ∧
    (∀ (src : Party) (v : Word), Accepts src Reg.glbRstCtl v s →
      (flagGet Reg.glbRstCtl 8 s = true → src ≠ .smbus → ∃ t, exec (.islandReset src v) s = .next t ∧
        RefusedAs 4 src (logSpace src) true Reg.glbRstCtl v.toNat s t) ∧
      (flagGet Reg.glbRstCtl 8 s = false → bit v 8 = false → bit v 7 = true → bits v 4 0 ≤ 22 → bits v 4 0 ≠ 21 →
        isl (.islandReset src v) (bits v 4 0))) ∧
    (5 ≤ startPhase s → s.rst.low = false → awake s = true → (∀ x ∈ s.rst.mpAt, x + 1000000000 ≤ s.clk.now) →
      (flagGet Reg.glbRstCtl 8 s = false → isl .mpWatchdog 21) ∧ (flagGet Reg.glbRstCtl 8 s = true → exec .mpWatchdog s = .next s)) ∧
    (∀ x : Fin 59, parkedXing x.val s = true → exec (.cdcTimeout x) s = .next s) ∧
    (∀ x : Fin 59, 26 ≤ x.val → dead x.val s = false → parkedXing x.val s = false →
      (x.val < 42 → flagGet Reg.clkXingTo 31 s = true → flagGet Reg.glbRstCtl 8 s = false → isl (.cdcTimeout x) (x.val - 26)) ∧
      (x.val ≠ 53 → x.val ≠ 54 → flagGet Reg.clkXingTo 31 s = false → ∃ t, exec (.cdcTimeout x) s = .next t ∧ dead x.val t = true ∧
        flagGet Reg.clkIntStat 1 t = true ∧ (regGet (Reg.intCnt 19) t).toNat = min ((regGet (Reg.intCnt 19) s).toNat + 1) 0xffffffff ∧
        t.arr = s.arr ∧ t.pip = s.pip ∧ t.lnk = s.lnk)) ∧
    (∀ x : Fin 59, x.val = 53 ∨ x.val = 56 → exec (.crossingReset x) s = .next s) ∧
    (∀ x : Fin 59, x.val ≠ 53 → x.val ≠ 56 → ∃ t, exec (.crossingReset x) s = .next t ∧ dead x.val t = false ∧
      (∀ y, y < 59 → y ≠ x.val → dead y t = dead y s) ∧
      (x.val < 50 ∨ 53 ≤ x.val → RegsBut [Reg.clkXingDead (x.val / 32)] s t ∧ Only [.regs] s t) ∧
      (50 ≤ x.val → x.val < 53 → (pulseAt (x.val - 50) t).waiting = false ∧ (pulseAt (x.val - 50) t).edge = none ∧
        RegsBut [Reg.clkXingDead (x.val / 32), Reg.todPulseStat] s t ∧ Only [.regs, .tod, .err] s t)) ∧
    (∀ pll : Pll, flagGet Reg.clkStat (pllBit pll) s = true →
      let lost (t : State) : Prop := exec (.pllUnlock pll) s = .next t ∧ flagGet Reg.clkStat (pllBit pll) t = false ∧ flagGet Reg.clkIntStat 0 t = true
      (pll = .system → cold (.pllUnlock pll) 3 kept) ∧
      (pll = .array → ∃ t, lost t ∧ t.pip.flight = [] ∧ ∀ g : Fin 4, grpBinding g.val s < 2 → linkState (.fll g) s ≠ 0 →
        linkState (.fll g) t = 0 ∧ fieldGet (Reg.lnkGrpStat g.val) 26 24 t = 5) ∧
      (pll = .time → ∃ t, lost t ∧ flagGet Reg.todStat 28 t = false ∧ Only [.regs, .err] s t) ∧
      (∀ g, pll = .fll g → linkState (.fll g) s ≠ 0 → ∃ t, lost t ∧ linkState (.fll g) t = 0 ∧ fieldGet (Reg.lnkGrpStat g.val) 26 24 t = 5 ∧
        t.pip = s.pip) ∧
      (pll = .fcl → linkState .fcl s ≠ 0 → ∃ t, lost t ∧ linkState .fcl t = 0) ∧
      (pll = .pcie → ∃ t, lost t ∧ t.hif.fns = [] ∧ t.hif.msix = [] ∧ t.upd.cmds = [])) ∧
    (∀ pll : Pll, 2 ≤ startPhase s → ∃ t, exec (.pllRelock pll) s = .next t ∧ flagGet Reg.clkStat (pllBit pll) t = true ∧
      (pll = .time → flagGet Reg.todStat 28 t = true) ∧ RegsBut [Reg.clkStat, Reg.todStat] s t ∧ Only [.regs] s t) ∧
    (∀ p : Pin, s.rst.aux = false → pinDrive p s = .highZ ∨ pinDrive p s = .released ∨ pinDrive p s = .failsafe) ∧
    (s.rst.aux = true → powerState s ≠ 4 → s.rst.low = true →
      (∀ l, pinDrive (.linkTx l) s = .squelched ∧ pinDrive (.linkRx l) s = .terminated false) ∧ pinDrive .qspiReset s = .low ∧
      pinDrive .ppsOut s = .low ∧ pinDrive .smbData s = .released ∧ pinDrive .pcieLane s = .pcieReset ∧ pinDrive .openDrain s = .released)

/-- Start-up (R296, R332 to R335, R357, R373, R374, R413, Table 12.12): RESET_N's release samples the straps; each phase
completes, or stops with its FAIL code; a golden reload writes the tables, the live entries and, in the banks that the loader
owns, the records back; and an unconfirmed image that cannot read the settings record rejects itself. Where the spec leaves a
corner open the model's choice is that of log entries 12, 27 and 51. -/
def Obligations.StartUpRunsPhaseByPhase : Prop :=
  ∀ (env : StartEnv) (s : State), Machine.Inv s →
    let fails (code : Nat) : Prop := ∃ t, exec (.startUpPhase env) s = .next t ∧ fieldGet Reg.glbBootStat 27 24 t = code ∧ startPhase t = startPhase s
    let passes (p : State → Prop) : Prop := ∃ t, exec (.startUpPhase env) s = .next t ∧ startPhase t = startPhase s + 1 ∧
      fieldGet Reg.glbBootStat 27 24 t = 0 ∧ p t
    (∀ role dev sel, s.rst.low = true → ∃ t, exec (.resetNRelease role dev sel) s = .next t ∧
      regGet Reg.casStat t = pack32 [(30, role.toNat), (26, dev.toNat), (25, b2n (role.toNat == 3))] &&& regLive Reg.casStat ∧
      t.rst = { s.rst with low := false, bootSel := sel.toNat } ∧ RegsBut [Reg.casStat] s t ∧ Only [.regs, .rst] s t) ∧
    (starting s = true →
      (startPhase s = 0 → passes fun t => fieldGet Reg.hifPciId 15 0 t = Config.vendorId.toNat ∧
        (∀ n, n < 72 → bankOwner n t = 1 ∧ bankBusy n t = false ∧ fieldGet (Reg.glbBankOwn n) 3 0 t =
          (if n < 64 then (Config.pantryCols n).val else (Config.scratchCols (n - 64)).val)) ∧
        Only [.regs, .drc] s t) ∧
      (startPhase s = 1 → (env.regulator = false → fails 6) ∧ (env.regulator = true → passes fun t =>
        (∀ i ∈ [1, 2, 3, 9], flagGet Reg.clkStat i t = true) ∧ flagGet Reg.todStat 28 t = true ∧
        RegsBut [Reg.clkStat, Reg.todStat, Reg.glbBootStat] s t ∧ Only [.regs] s t)) ∧
      (startPhase s = 2 →
        let clean (t : State) : Prop := (∀ a, memByte t.mem.pantry a = 0 ∧ memByte t.mem.scratch a = 0) ∧ t.mem.dram = s.mem.dram ∧
          (∀ n : Fin 72, flagGet (Reg.glbBankOwn n.val) 30 t = decide (n ∈ env.badBanks)) ∧
          RegsBut (Reg.glbBootStat :: (List.range 72).map Reg.glbBankOwn) s t ∧ Only [.regs, .mem] s t
        (env.badBanks ≠ [] → fails 1 ∧ ∃ t, exec (.startUpPhase env) s = .next t ∧ clean t) ∧ (env.badBanks = [] → passes clean)) ∧
      (startPhase s = 3 → (env.trained = false → fails 2) ∧ (env.trained = true → passes fun t =>
        let kept := flagGet Reg.glbBootStat 22 s && env.clean
        flagGet Reg.drcStat 31 t = true ∧ flagGet Reg.drcStat 30 t = false ∧ dramBytes t = (max 1 (Config.dramGiB 0).val + (Config.dramGiB 1).val) * 2 ^ 30 ∧
        (s.rst.bootSel = 1 → isWorker s = false → ∀ k ∈ [68, 69, 70, 71], bankOwner k t = 2) ∧
        flagGet Reg.glbBootStat 22 t = false ∧ (kept = true → flagGet Reg.glbBootStat 23 t = true ∧ t.mem.dram = s.mem.dram ∧ t.arr.gold = s.arr.gold) ∧
        (kept = false → (∀ a, memByte t.mem.dram a = 0) ∧ t.arr.gold = [] ∧ t.tbl.tblDram = []))) ∧
      (startPhase s = 4 → isWorker s = true → (s.fwu.running = [] → env.silent = true → fails 4) ∧
        (s.fwu.running = [] → env.silent = false → exec (.startUpPhase env) s = .next s) ∧
        (s.fwu.running ≠ [] → passes fun t => t.fwu.running = s.fwu.running)) ∧
      (startPhase s = 4 → isWorker s = false → vbtValid s = true →
        (s.rst.bootSel = 1 → mailboxFull s = false → (env.silent = true → fails 4) ∧ (env.silent = false → exec (.startUpPhase env) s = .next s)) ∧
        (s.rst.bootSel = 1 → mailboxFull s = true → let im := s.fwu.mailbox.take (mailboxSize s)
          (imageCode im s ≠ 0 → fails 3) ∧ (imageCode im s = 0 → passes fun t => t.fwu.running = im ∧ flagGet Reg.fwuBoot 29 t = true ∧
            flagGet Reg.fwuBoot 31 t = false ∧ RegsBut [Reg.fwuBoot, Reg.glbBootStat] s t ∧ Only [.regs, .fwu] s t)) ∧
        (2 ≤ s.rst.bootSel → fails 4) ∧
        (s.rst.bootSel = 0 → (env.flash = false → fails 3) ∧ (env.flash = true →
          ((chooseSlot (fun n => tabGet [] s.fwu.slots n) s).1 = none → fails 3) ∧
          (∀ n trial, (chooseSlot (fun n => tabGet [] s.fwu.slots n) s).1 = some (n, trial) → passes fun t =>
            t.fwu.running = tabGet [] s.fwu.slots n ∧ runTrial t = trial ∧ fieldGet Reg.fwuBoot 30 30 t = n % 2)))) ∧
      (startPhase s = 5 → passes fun t => (vbtValid s = true → regGet Reg.prtLock t = vbtGet 3 s &&& 1 ∧ propSeq t = bits (vbtGet 4 s) 15 0 ∧
        regGet Reg.intLifeLo t = vbtGet 5 s)) ∧
      (startPhase s = 6 → (env.microcode = false → fails 5) ∧ (env.microcode = true → passes fun t => flagGet Reg.clkStat 0 t = true)) ∧
      (startPhase s = 7 → reloadDue s = true → exec (.startUpPhase env) s = .next s) ∧
      (startPhase s = 7 → reloadDue s = false → passes fun t => memMode t = 1 ∧ (∀ i, 4 ≤ i → i ≤ 8 → flagGet Reg.clkStat i t = true) ∧
        (memMode s = 0 → ∀ l, linkState l t = if linkState l s = 0 ∧ linkTrains l s = true then 1 else linkState l s))) ∧
    (reloadDue s = true → memMode s = 0 →
      (s.arr.gold = [] → ∃ t, exec .goldenReload s = .next t ∧ (∀ i, sliceAt i t = Slice.free) ∧ t.arr.dir = [] ∧
        (∀ k, tabFind t.tbl.tables k = (tabFind s.tbl.tblDram k).map fun d => { d with life := .exists_ }) ∧ Only [.regs, .arr, .tbl, .mem] s t) ∧
      (∀ i e d, s.arr.gold = [(i, e)] → s.tbl.prfDram = [] → tabFind s.tbl.tblDram e.table = some d → d.guarded = false → d.width < 3 →
        e.live (tabGet 0 s.arr.goldCnt d.domain) = true →
        ∃ t, exec .goldenReload s = .next t ∧ dirAt i t = some e.both ∧ t.arr.gold = [(i, e.both)] ∧
          (∀ k, k < panSlices d.width → sliceAt (i + k) t = entrySlice e.both k)) ∧
      (∃ t, exec .goldenReload s = .next t ∧ ∀ u, (∃ x ∈ s.tbl.tblDram, ∃ r ∈ x.2.regions, r.1 ≤ u ∧ u < r.1 + r.2) →
        pantryBank (u / 2) < 64 → bankOwner (pantryBank (u / 2)) s = 4 → bankBusy (pantryBank (u / 2)) s = false →
        unitRead u t = tabGet 0 s.arr.goldRec u) ∧
      (s.tbl.tables.length = s.tbl.tblDram.length → ∃ t, exec .reloadDone s = .next t ∧ flagGet Reg.glbBootStat 21 t = true ∧
        RegsBut [Reg.glbBootStat] s t ∧ Only [.regs] s t)) ∧
    (∀ c r, currentSettings s = some (c, r) → (runTrial s = false ∨ readsMajor r.major s = true) → exec .schemaFallback s = .next s) ∧
    (∀ c r, currentSettings s = some (c, r) → runTrial s = true → readsMajor r.major s = false → warmCan s = true →
      ∃ t, exec .schemaFallback s = .next t ∧ regGet Reg.glbRstCause t = pack32 [(28, 4)] ∧ flagGet Reg.glbRstCtl 8 t = true ∧
        t.pip.flight = [] ∧ t.upd.cmds = [] ∧ t.fwu.session = none)

/-- Power states (R340, R342 to R350, Table 13.3): a timer chooses the deepest state that the rules allow, whose entry asks
the units; a refusal returns the device to RUN with a longer backoff; a commit enters the state; a wake source wakes it; and
a wake ends in RUN or, after a known event, in IDLE; in the states deeper than IDLE the stopped units do nothing (R338, R339,
log entry 55). Where the spec leaves a corner open the model's choice is that of log entries 55, 58, 62 and 93. -/
def Obligations.PowerStatesAreEnteredAndLeft : Prop :=
  ∀ s : State, Machine.Inv s →
    let refused (st u : Nat) (t : State) : Prop := t.pwr.entering = none ∧ powerState t = 0 ∧ flagGet Reg.pwrStat 25 t = false ∧
      t.pip.asleep = false ∧ regGet Reg.pwrRefuse t = pack32 [(28, u), (25, st)] ∧ backoff st t = min 8 (backoff st s + 1) ∧
      (regGet (Reg.pwrCnt 3) t).toNat = min ((regGet (Reg.pwrCnt 3) s).toNat + 1) 0xffffffff ∧ flagGet Reg.pwrIntStat 0 t = true ∧
      RegsBut [Reg.pwrStat, Reg.arbStat, Reg.pwrRefuse, Reg.pwrTmr st, Reg.pwrCtl, Reg.pwrCnt 3, Reg.pwrIntStat, Reg.drcCnt 8] s t
    let few (t : State) : Prop := Only [.regs, .pip, .err, .pwr] s t
    let sent (ts : List (Nat × Nat × Nat)) : List (Nat × Nat × Nat) := s.pwr.pmbus ++
      (ts.filter fun x => railAddr x.1 s != 0).map fun x => (railAddr x.1 s, x.2)
    let ordered (t : State) : Prop := ∃ f, t.cas.out = s.cas.out ++ [f] ∧ bits (f.headD 0) 63 60 = 0xa ∧ ctlDst (f.headD 0) = 31
    let restarted (t : State) : Prop := ∀ i, 1 ≤ i → i ≤ 4 → tabGet 0 t.pwr.timers i = s.clk.now
    let wakes (c : Instr) (b : Nat) : Prop := ∃ t, exec c s = .next t ∧ t.pwr.waking = some (powerState s) ∧ t.pwr.sources = b ∧ restarted t ∧
      t.pwr.wakeIdle = false ∧ t.pip.flight = s.pip.flight ∧ t.arr = s.arr
    let runs (c : Instr) : Prop := ∃ t, exec c s = .next t ∧ restarted t ∧ t.pwr.waking = s.pwr.waking ∧ t.pip.flight = s.pip.flight ∧ t.arr = s.arr
    (∀ x idle st, isWorker s = false → startPhase s = 8 → s.pwr.entering = none → s.pwr.waking = none → oppBusy s = false →
      timerOut st idle s = true → powerState s < 2 → powerState s < x →
      1 ≤ x → x ≤ 4 → x ≤ maxState s → timerOut x idle s = true → stateFits x s = true →
      (∀ y, x < y → y ≤ 4 → ¬ (y ≤ maxState s ∧ timerOut y idle s = true ∧ stateFits y s = true)) →
      (firstRefusal x s = none → ∃ t, exec (.powerTimerExpire st idle) s = .next t ∧ t.pwr.entering = some x ∧
        flagGet Reg.pwrStat 25 t = true ∧ (2 ≤ x → flagGet Reg.arbStat 26 t = true) ∧ powerState t = powerState s ∧
        RegsBut [Reg.pwrStat, Reg.arbStat] s t ∧ (ringPeers s = [] → Only [.regs, .pwr] s t) ∧
        (ringPeers s ≠ [] → ordered t ∧ Only [.clk, .regs, .cas, .pwr] s t)) ∧
      (∀ u, firstRefusal x s = some u → ∃ t, exec (.powerTimerExpire st idle) s = .next t ∧ refused x u t ∧
        (ringPeers s = [] ∨ u = 1 → few t) ∧ (ringPeers s ≠ [] → u ≠ 1 → ordered t ∧ Only [.clk, .regs, .pip, .cas, .err, .pwr] s t))) ∧
    (∀ st, s.pwr.entering = some st → 1 ≤ st → st ≤ 4 →
      (∀ u, u ∈ entryUnits st → ∃ t, exec (.unitRefuse u) s = .next t ∧ refused st u t ∧ few t ∧ ((u = 1 ∨ u = 3) → restarted t)) ∧
      (∀ u workers, firstRefusal st s = some u → ∃ t, exec (.entryCommit workers) s = .next t ∧ refused st u t ∧ few t) ∧
      (∀ workers, firstRefusal st s = none → (∃ k ∈ ringPeers s, (wkAt k s).asleep = false ∧ ∀ w ∈ workers, w.val ≠ k) →
        ∃ t, exec (.entryCommit workers) s = .next t ∧ (∀ k ∈ ringPeers s, (wkAt k t).asleep = ((wkAt k s).asleep || workers.any fun w => w.val == k)) ∧
          t.regs = s.regs ∧ Only [.cas] s t) ∧
      (∀ workers, firstRefusal st s = none → (∀ k ∈ ringPeers s, (wkAt k s).asleep = true ∨ ∃ w ∈ workers, w.val = k) →
        flagGet Reg.pwrCtl 0 s = false → ∃ t, exec (.entryCommit workers) s = .next t ∧ t.pwr.entering = none ∧
        powerState t = st ∧ flagGet Reg.pwrStat 25 t = false ∧ t.pip.asleep = true ∧ backoff st t = 0 ∧ t.pwr.window = s.clk.now + 6 ∧
        (st = 1 → regGet (Reg.pwrCnt 0) t = regGet (Reg.pwrCnt 0) s + 1 ∧ t.lnk = s.lnk) ∧
        (2 ≤ st → flagGet Reg.drcStat 30 t = true ∧ (∀ sc, sc < 4 → fieldGet (Reg.drcRefStat sc) 3 0 t = 0) ∧
          ∀ l : LinkId, linkState l s = 5 → (grpAt l.key t).parked = true) ∧
        (3 ≤ st → flagGet Reg.glbBootStat 22 t = true ∧ fieldGet Reg.arbStat 23 16 t = 0xff) ∧
        t.pwr.pmbus = (if st = 3 then sent [(0, 0x21, 500), (1, 0x21, 500)]
          else if st = 4 then sent [(0, 0x01, 0), (1, 0x01, 0), (2, 0x01, 0), (3, 0x01, 0)] else s.pwr.pmbus) ∧
        (st = 4 → (vbtGet 13 t).toNat = todNs s) ∧ t.pip.flight = s.pip.flight ∧ t.arr = s.arr ∧ (st < 3 → t.mem = s.mem) ∧
        t.mem.pantry = s.mem.pantry ∧ t.mem.scratch = s.mem.scratch ∧ t.mem.dram = s.mem.dram)) ∧
    (s.pwr.entering = none → s.pwr.waking = none →
      ((powerState s = 2 ∨ powerState s = 3) → wakes .wakeN 1 ∧ (∀ l, (linkState l s ≠ 0 ∨ l = .fcl) → wakes (.laneActivity l) (if l = .fcl then 4 else 2)) ∧
        (∀ src v, Accepts src Reg.pwrCtl v s → bits v 1 0 = 1 → flagGet Reg.pwrCtl 1 s = false → wakes (.pwrWake src v) 1)) ∧
      (powerState s = 0 → runs .wakeN ∧ (∀ l, (linkState l s ≠ 0 ∨ l = .fcl) → runs (.laneActivity l)) ∧
        (∀ src v, Accepts src Reg.pwrCtl v s → bits v 1 0 = 1 → flagGet Reg.pwrCtl 1 s = false → runs (.pwrWake src v))) ∧
      (∀ d k, powerState s = 2 → nextEvent 2 s = some (d, k) →
        (d ≤ 20000 → ∃ t, exec .knownEventWake s = .next t ∧ t.pwr.waking = some 2 ∧ t.pwr.wakeIdle = decide (k ≠ 1) ∧ restarted t ∧ Only [.pwr] s t) ∧
        (20000 < d → exec .knownEventWake s = .next s))) ∧
    (powerState s = 4 → ∃ t, exec .wakeN s = .next t ∧ regGet Reg.glbRstCause t = pack32 [(28, 1)] ∧ fieldGet Reg.pwrStat 28 26 t = 4 ∧
      powerState t = 0 ∧ t.pip.flight = [] ∧ t.vbt.words = s.vbt.words ∧
      t.pwr.pmbus = sent [(0, 0x01, 1), (1, 0x01, 1), (2, 0x01, 1), (3, 0x01, 1)]) ∧
    (∀ src v, Accepts src Reg.pwrCtl v s → bits v 1 0 = 2 →
      (src = .mp → ∃ t, exec (.pwrQuiesce src v) s = .next t ∧ t.pip.quiesce = true ∧ flagGet Reg.pwrCtl 1 t = true ∧
        (s.lnk.frozen = none → t.lnk.frozen = some (pipeCum 0 s, pipeCum 1 s)) ∧ RegsBut [Reg.pwrCtl] s t ∧ Only [.regs, .lnk, .pip] s t) ∧
      (src ≠ .mp → src ≠ .smbus → ∃ t, exec (.pwrQuiesce src v) s = .next t ∧ RefusedAs 3 src (logSpace src) true Reg.pwrCtl v.toNat s t)) ∧
    (∀ st badPans badBanks, s.pwr.waking = some st → 1 ≤ st → st ≤ 3 → s.pwr.sources < 64 →
      ∃ t, exec (.wakeDone badPans badBanks) s = .next t ∧ t.pwr.waking = none ∧ powerState t = b2n s.pwr.wakeIdle ∧
        fieldGet Reg.pwrStat 28 26 t = st ∧ fieldGet Reg.pwrStat 25 20 t = s.pwr.sources ∧ t.pip.asleep = s.pwr.wakeIdle ∧
        flagGet Reg.pwrIntStat 3 t = true ∧ (s.pwr.wakeIdle = false → flagGet Reg.pwrCtl 0 t = false) ∧
        (st = 1 → t.arr = s.arr ∧ t.mem = s.mem ∧ t.lnk = s.lnk) ∧
        ((isManager s && ringState s == 5) = true → (st = 1 ∨ s.pwr.oppLater = false) →
          t.cas.out = s.cas.out ++ [ctlFrame 7 31 s.cas.cseq (s.clk.slot * 2 ^ 26) (timeWords (todFrac s)) s]) ∧
        (2 ≤ st → s.pwr.oppLater = true → t.pwr.oppLater = false ∧ oppCur t = fieldGet Reg.pwrOppCtl 1 0 s ∧ oppBusy t = false ∧
          flagGet Reg.pwrOppCtl 2 t = false) ∧
        (2 ≤ st → flagGet Reg.drcStat 30 t = false ∧ flagGet Reg.glbBootStat 22 t = false ∧
          (∀ p : Fin 256, flagGet (Reg.pwrSigFailPan (p.val / 32)) (p.val % 32) t =
            (panInUse p.val s && (st == 2 || flagGet (Reg.pwrRetPan (p.val / 32)) (p.val % 32) s) && badPans.contains p)) ∧
          (∀ l : LinkId, (grpAt l.key s).parked = true → (grpAt l.key t).resumeAt = some (s.clk.now + 20000)) ∧
          (st = 2 → badPans = [] → badBanks = [] → t.arr = s.arr ∧ t.mem = s.mem))) ∧
    (∀ (l : LinkId) path, (grpAt l.key s).parked = true → (grpAt l.key s).resumeAt.isSome = true → 
        (∀ n ∈ l.laneList, 0 < (laneAt n s).found ∧ (laneAt n s).changed = false ∧ 2 ≤ (laneAt n s).ready) →
      (∀ skews, (∀ n ∈ l.laneList, skewMoved skews l n s = false) → ∃ t, exec (.laneResume l path skews) s = .next t ∧ (grpAt l.key t).parked = false ∧ (grpAt l.key t).resumeAt = none ∧
        (∀ g, l = .fll g → fieldGet (Reg.todPath g.val) 15 0 t = path % 65536 ∧ tabGet (0, 0) t.tod.copies g.val = (s.tod.value, s.clk.now)) ∧
        (∀ k, k ≠ l.key → grpAt k t = grpAt k s) ∧ Only [.regs, .lnk, .tod] s t) ∧
      (∀ skews, (∃ n ∈ l.laneList, skewMoved skews l n s = true) → ∃ t, exec (.laneResume l path skews) s = .next t ∧
        (∀ k, grpAt k t = grpAt k s) ∧ (∀ n ∈ l.laneList, (laneAt n t).changed = skewMoved skews l n s) ∧ Only [.lnk] s t)) ∧
    (∀ (l : LinkId) x, (grpAt l.key s).resumeAt = some x →
      (x ≤ s.clk.now → (∃ n ∈ l.laneList, (laneAt n s).found = 0 ∨ (laneAt n s).changed = true) → ∃ t, exec (.resumeTimeout l) s = .next t ∧
        linkState l t = 0 ∧ fieldGet l.stat 26 24 t = 5 ∧ (grpAt l.key t).parked = false ∧ (∀ k, k ≠ l → linkState k t = linkState k s)) ∧
      ((s.clk.now < x ∨ ∀ n ∈ l.laneList, 0 < (laneAt n s).found ∧ (laneAt n s).changed = false) → exec (.resumeTimeout l) s = .next s)) ∧
    (s.rst.aux = true → s.rst.low = false → s.rst.therm = false → (powerState s = 2 ∨ powerState s = 3) →
      (∀ l, linkTrains l s = true → linkState l s ≠ 0 → pinDrive (.linkTx l) s = .electricalIdle ∧ pinDrive (.linkRx l) s = .terminated true) ∧
      (flagGet Reg.drcStat 30 s = true → pinDrive (.ddrReset 0) s = .high ∧ pinDrive (.ddrCommand 0) s = .selfRefresh ∧ pinDrive (.ddrDq 0) s = .highZ)) ∧
    (awake s = false →
      (∀ c ∈ [Instr.settingsWrite, .todSave, .lifeSave, .stampRealign, .mpWatchdog, .intSumMessage], exec c s = .next s) ∧
      (∀ (l : LinkId) (n : Nat), exec (.adaptDone l) s = .next s ∧ exec (.codewordLock l) s = .next s ∧ exec (.deskew l []) s = .next s ∧
        exec (.groupUp l n) s = .next s ∧ exec (.trainingTimeout l) s = .next s ∧ exec (.autoRetrain l) s = .next s) ∧
      (∀ n : Fin 256, exec (.strandedRetry n) s = .next s) ∧ (∀ item, exec (.scrubCompare item) s = .next s) ∧
      (∀ n item, exec (.dramUncorrectable n item) s = .next s ∧ exec (.vbatMeasure n) s = .next s) ∧
      (∀ t bucket w, exec (.sieveWordRewrite t bucket) s = .next s ∧ exec (.descriptorWordRewrite w) s = .next s) ∧
      (∀ r, exec (.ringInterrupt r) s = .next s) ∧ (∀ m, exec (.agingSample m) s = .next s) ∧ (∀ w, exec (.timeFrameSend w) s = .next s))

/-- Operating points (R354 to R358, R400): a change to a higher point raises the voltage first, one to a lower point lowers
it last; the PLL's lock holds dispatch until the clocks switch at a frame boundary, and a rail that is not confirmed after
RETRY attempts ends the change with RESULT 1. Where the spec leaves a corner open the model's choice is that of log entries
42 and 58. -/
def Obligations.OperatingPointsChangeInOrder : Prop :=
  ∀ s : State, Machine.Inv s →
    let ends (result : Nat) (t : State) : Prop := t.pwr.oppStep = 0 ∧ t.pwr.oppTries = 0 ∧ oppBusy t = false ∧ flagGet Reg.pwrOppCtl 2 t = false ∧
      fieldGet Reg.pwrOppStat 25 24 t = result ∧ flagGet Reg.pwrIntStat 4 t = true ∧
      (regGet (Reg.pwrCnt 5) t).toNat = min ((regGet (Reg.pwrCnt 5) s).toNat + 1) 0xffffffff
    let sent (ts : List (Nat × Nat × Nat)) : List (Nat × Nat × Nat) := s.pwr.pmbus ++
      (ts.filter fun x => railAddr x.1 s != 0).map fun x => (railAddr x.1 s, x.2)
    let volts (o : Nat) : Nat × Nat := if o = 0 then (780, 750) else if o = 1 then (700, 670) else (640, 610)
    let raise (o : Nat) : List (Nat × Nat × Nat) := sent [(0, 0x21, (volts o).1), (1, 0x21, (volts o).2)]
    let reads := sent [(0, 0x8b, 0), (1, 0x8b, 0)]
    let status := sent [(0, 0x79, 0), (1, 0x79, 0), (2, 0x79, 0), (3, 0x79, 0)]
    let settled : Prop := s.pwr.oppAt + 1000 * fieldGet Reg.pwrPmbCfg 15 8 s ≤ s.clk.now
    let near (r told read : Nat) : Prop := railAddr r s = 0 ∨
      (read ≤ told + fieldGet Reg.pwrPmbCfg 7 0 s ∧ told ≤ read + fieldGet Reg.pwrPmbCfg 7 0 s)
    let good (v : Nat × Nat) : Prop := near 0 (volts s.pwr.oppTo).1 v.1 ∧ near 1 (volts s.pwr.oppTo).2 v.2
    let bad (v : Option (Nat × Nat)) : Prop := (v = none ∧ (railAddr 0 s ≠ 0 ∨ railAddr 1 s ≠ 0)) ∨ ∃ x, v = some x ∧ ¬ good x
    let regs := [Reg.pwrOppCtl, Reg.pwrOppStat, Reg.pwrIntStat, Reg.pwrCnt 5]
    (∀ src v, Accepts src Reg.pwrOppCtl v s → bit v 2 = true →
      let o := bits v 1 0
      ((oppBusy s = true ∨ s.pwr.oppLater = true) → src ≠ .smbus → ∃ t, exec (.oppGo src v) s = .next t ∧
        RefusedAs 4 src (logSpace src) true Reg.pwrOppCtl v.toNat s t) ∧
      (oppBusy s = false → s.pwr.oppLater = false → s.pwr.entering = none →
        (2 ≤ powerState s → ∃ t, exec (.oppGo src v) s = .next t ∧ t.pwr.oppLater = true ∧ fieldGet Reg.pwrOppCtl 2 0 t = 4 + o ∧
          RegsBut [Reg.pwrOppCtl] s t ∧ Only [.regs, .pwr, .fwu] s t) ∧
        (powerState s < 2 →
          let told (t : State) : Prop := t.cas.out = s.cas.out ++ (if (isManager s && ringState s == 5) = true
            then [ctlFrame 0xa 31 s.cas.cseq (2 ^ 31 + Reg.pwrOppCtl) [pack64 [(0, (v &&& 7).toNat)]] s] else [])
          (o = oppCur s → ∃ t, exec (.oppGo src v) s = .next t ∧ ends 0 t ∧ told t ∧ oppCur t = oppCur s ∧
            RegsBut regs s t ∧ Only [.regs, .cas, .err, .pwr, .fwu] s t) ∧
          (o ≠ oppCur s → ∃ t, exec (.oppGo src v) s = .next t ∧ oppBusy t = true ∧ t.pwr.oppTo = o ∧ t.pwr.oppTries = 0 ∧
            t.pwr.oppStep = (if o < oppCur s then 1 else 2) ∧
            t.pwr.pmbus = (if o < oppCur s then raise o else s.pwr.pmbus) ∧ told t ∧ oppCur t = oppCur s ∧
            RegsBut regs s t ∧ Only [.regs, .cas, .pwr, .fwu] s t)))) ∧
    ((s.pwr.oppStep = 1 ∨ s.pwr.oppStep = 4) →
      (¬ settled → ∀ v, exec (.oppVoltageConfirm v) s = .next s) ∧
      (settled → s.pwr.oppStep = 1 → ∀ v, good v → ∃ t, exec (.oppVoltageConfirm (some v)) s = .next t ∧ t.pwr = { s.pwr with oppStep := 2, oppTries := 0, pmbus := reads } ∧ Only [.pwr] s t) ∧
      (settled → s.pwr.oppStep = 4 → ∀ v, good v → ∃ t, exec (.oppVoltageConfirm (some v)) s = .next t ∧ ends 0 t ∧ oppCur t = oppCur s ∧ RegsBut regs s t ∧ Only [.regs, .err, .pwr] s t) ∧
      (settled → s.pwr.oppTries + 1 < fieldGet Reg.pwrPmbCfg 17 16 s → ∀ v, bad v → ∃ t, exec (.oppVoltageConfirm v) s = .next t ∧
        t.pwr = { s.pwr with oppTries := s.pwr.oppTries + 1, pmbus := reads } ∧ Only [.pwr] s t) ∧
      (settled → fieldGet Reg.pwrPmbCfg 17 16 s ≤ s.pwr.oppTries + 1 → ∀ v, bad v → ∃ t, exec (.oppVoltageConfirm v) s = .next t ∧ ends 1 t ∧ oppCur t = oppCur s ∧
        flagGet Reg.pwrIntStat 2 t = true ∧ (regGet (Reg.pwrCnt 6) t).toNat = min ((regGet (Reg.pwrCnt 6) s).toNat + 1) 0xffffffff ∧
        Only [.regs, .err, .pwr] s t) ∧
      (s.pwr.oppTries + 1 < fieldGet Reg.pwrPmbCfg 17 16 s → ∃ t, exec (.pmbAlert true) s = .next t ∧
        t.pwr = { s.pwr with oppTries := s.pwr.oppTries + 1, pmbus := status } ∧ Only [.pwr] s t) ∧
      (fieldGet Reg.pwrPmbCfg 17 16 s ≤ s.pwr.oppTries + 1 → ∃ t, exec (.pmbAlert true) s = .next t ∧ ends 1 t ∧ flagGet Reg.pwrIntStat 2 t = true)) ∧
    (∃ t, exec (.pmbAlert false) s = .next t ∧ t.pwr = { s.pwr with pmbus := status } ∧ Only [.pwr] s t) ∧
    (s.pwr.oppStep ≠ 1 → s.pwr.oppStep ≠ 4 → ∃ t, exec (.pmbAlert true) s = .next t ∧ flagGet Reg.pwrIntStat 2 t = true ∧
      t.pwr = { s.pwr with pmbus := status } ∧
      (regGet (Reg.pwrCnt 6) t).toNat = min ((regGet (Reg.pwrCnt 6) s).toNat + 1) 0xffffffff ∧ RegsBut [Reg.pwrIntStat, Reg.pwrCnt 6] s t ∧
      Only [.regs, .err, .pwr] s t) ∧
    (s.pwr.oppStep = 2 → ∃ t, exec .oppPllLock s = .next t ∧ t.pwr = { s.pwr with oppStep := 3, holdAt := s.clk.now } ∧ t.pip.oppHold = true ∧
      t.pip.flight = s.pip.flight ∧ (s.lnk.frozen = none → t.lnk.frozen = some (pipeCum 0 s, pipeCum 1 s)) ∧ Only [.lnk, .pip, .pwr] s t) ∧
    (s.pwr.oppStep = 3 → s.pip.flight = [] → s.clk.slot = 0 → s.pwr.oppTo < 4 → ∃ t, exec .oppSwitch s = .next t ∧ oppCur t = s.pwr.oppTo ∧
      t.pip.oppHold = false ∧ (s.pip.quiesce = false → t.lnk.frozen = none) ∧
      fieldGet Reg.pwrOppStat 15 0 t = min ((s.clk.now - s.pwr.holdAt) / 10) 0xffff ∧
      (∀ p, p < 2 → regGet (Reg.pipLat p) t = pipLat (maskGap s.pip.schedActive p) s.pwr.oppTo) ∧ t.fwu.dirty = true ∧
      (s.pwr.oppTo < oppCur s → ends 0 t) ∧ (oppCur s ≤ s.pwr.oppTo → t.pwr.oppStep = 4 ∧ t.pwr.oppTries = 0 ∧ t.pwr.pmbus = raise s.pwr.oppTo)) ∧
    (s.pwr.oppStep = 3 → (s.pip.flight ≠ [] ∨ s.clk.slot ≠ 0) → exec .oppSwitch s = .next s)

/-- Image sessions (R283, R367 to R372, Tables 6.12 and 14.4): a block's data are read from the host; it is refused with the
first reason that applies, or joins the session of its source; the window delivers what was written to it; and the block that
completes an image runs check 7, after which the target is programmed and becomes the trial. The holder's ABORT during check
7 lets the last block complete with status OK (log entry 84). Where the spec leaves a corner open the model's choice is that
of log entries 14, 28, 38, 84 and 91. -/
def Obligations.ImagesAreDeliveredInSessions : Prop :=
  ∀ s : State, Machine.Inv s →
    let sessions (t : State) (x : Session) (ofs : Nat) (data : List Byte) : Prop := ∃ y, t.fwu.session = some y ∧
      y.blocks = tabInsert x.blocks (ofs / 4096) data ∧ y.src = x.src ∧ y.ring = x.ring ∧ y.size = x.size ∧ y.target = x.target ∧
      y.lastAt = s.clk.now ∧ regGet Reg.fwuProg t = BitVec.ofNat 32 (sessionHeld y) ∧
      sessionState t = (if sessionHeld y = y.size then 2 else 1)
    let confirmed (u : State) : Prop := trialValid u = false ∧ attempts u = 0 ∧ confSlot u = runSlot s ∧ runTrial u = false ∧
      slotState (runSlot s) u = 2 ∧ (vbtGet 2 u).toNat = max (vbtGet 2 s).toNat (imgArb s.fwu.running) ∧ flagGet Reg.fwuIntStat 0 u = true ∧
      u.cas.out = s.cas.out ++ (if isManager s = true then [ctlFrame 0xa 31 s.cas.cseq (2 ^ 31 + Reg.vbtWord 2) [pack64 [(0, (vbtGet 2 u).toNat)]] s] else []) ∧
      RegsBut [Reg.fwuBoot, Reg.fwuIntStat] s u ∧ Only [.regs, .cas, .prt, .err, .fwu, .vbt] s u
    let fresh (src ring : Nat) (data : List Byte) : Session := ⟨src, ring, 1 - confSlot s, imgSize data, [], s.clk.now, none⟩
    (∀ n (c : Cmd) (given : List Byte), readyCmd n [0x40] s = some c →
      let src := if isWorker s && c.ring == relayRing then 4 else 1
      let ofs := bits (c.word 1) 31 0
      let len := bits (c.word 1) 44 32
      let data := (List.range len).map fun i => given.getD i 0
      let done (status detail value : Nat) (f : State → Prop) : Prop := ∃ u, exec (.fwBlock n (some given)) s = .next (complete n status 0 detail value u) ∧ f u
      let deny := fwRefusal (src == 4) false s
      let reads := (len + maxRead s - 1) / maxRead s
      let q := ringAt c.ring s
      (c.reads = [] → ∀ given,
        (ringSends c s = false ∨ 512 < readsOut s + reads → exec (.fwBlock n given) s = .next s) ∧
        (ringSends c s = true → readsOut s + reads ≤ 512 → ∃ t new, exec (.fwBlock n given) s = .next t ∧
          t.hif.out = s.hif.out ++ new ∧ new.length = reads ∧
          (∀ i, i < reads → new[i]? = some (.read q.func (c.word 2 + BitVec.ofNat 64 (maxRead s * i)) (min (maxRead s) (len - maxRead s * i)) n)) ∧
          (cmdAt n t).map (·.reads.length) = some reads ∧ (∀ k, k ≠ n → cmdAt k t = cmdAt k s) ∧ Only [.upd, .hif] s t)) ∧
      (c.reads ≠ [] → ∃ u, exec (.fwBlock n none) s = .next (settle u) ∧ cmdAt n u = none ∧
        (q.st = 1 → (ringAt c.ring u).st = 3 ∧ (ringAt c.ring u).fault = 2 ∧ (ringAt c.ring u).flt = true) ∧
        (∀ k, k ≠ c.ring → ringAt k u = ringAt k s) ∧ Only [.upd] s u) ∧
      (c.reads ≠ [] →
      (deny ≠ 0 → done 8 deny 0 (· = s)) ∧
      (∀ x, deny = 0 → s.fwu.session = some x → (x.src ≠ src ∨ x.ring ≠ c.ring) → done 0xb 0 0 (· = s)) ∧
      (deny = 0 → (∀ x, s.fwu.session = some x → x.src = src ∧ x.ring = c.ring) →
        (ofs = 0 → headerCode data s ≠ 0 → done 8 7 0 fun u => fieldGet Reg.fwuStat 19 16 u = headerCode data s ∧ RegsBut [Reg.fwuStat] s u ∧ Only [.regs] s u) ∧
        (ofs = 0 → headerCode data s = 0 → outside (imgSize data) 0 len (optBit c.hdr 51) = true → done 9 1 0 (· = s)) ∧
        (∀ x m w, ofs = 0 → headerCode data s = 0 → outside (imgSize data) 0 len (optBit c.hdr 51) = false → data.length ≠ imgSize data →
          s.fwu.session = some x → sessionState s = 2 → x.cmd = some m → cmdAt m s = some w →
          done 0 0 len fun u => Only [.regs, .fwu, .vbt] (complete m 0 0 0 (bits (w.word 1) 44 32) s) u) ∧
        (ofs = 0 → headerCode data s = 0 → outside (imgSize data) 0 len (optBit c.hdr 51) = false → data.length ≠ imgSize data →
          (s.fwu.session = none ∨ sessionState s ≠ 2) → done 0 0 len fun u => sessions u (fresh src c.ring data) 0 data ∧ fieldGet Reg.fwuStat 28 26 u = src ∧
            fieldGet Reg.fwuStat 19 16 u = 0 ∧ (tabRising (dirNow s).st = true → slotState (1 - confSlot s) u = 0) ∧ Only [.regs, .fwu, .vbt] s u) ∧
        (ofs ≠ 0 → s.fwu.session = none → done 9 1 0 (· = s)) ∧
        (∀ x, ofs ≠ 0 → s.fwu.session = some x → outside x.size ofs len (optBit c.hdr 51) = true → done 9 1 0 (· = s)) ∧
        (∀ x, ofs ≠ 0 → s.fwu.session = some x → sessionState s = 1 → outside x.size ofs len (optBit c.hdr 51) = false →
          let held := sessionHeld { x with blocks := tabInsert x.blocks (ofs / 4096) data }
          (held ≠ x.size → done 0 0 len fun u => sessions u x ofs data ∧ RegsBut [Reg.fwuProg] s u ∧ Only [.regs, .fwu] s u) ∧
          (held = x.size → ∃ t, exec (.fwBlock n (some given)) s = .next t ∧ sessions t x ofs data ∧ (t.fwu.session.map (·.cmd)) = some (some n) ∧
            (cmdAt n t).map (·.stage) = some .running ∧ RegsBut [Reg.fwuStat, Reg.fwuProg] s t ∧ Only [.regs, .upd, .fwu] s t))))) ∧
    (∀ x, s.fwu.session = some x →
      (sessionState s = 2 → x.cmd = none →
        (digestOk (sessionImage x) = true → ∃ t, exec .imageVerifyDone s = .next t ∧ sessionState t = 3 ∧ fieldGet Reg.fwuStat 15 0 t = 0 ∧
          fieldGet Reg.fwuStat 25 23 t = 0 ∧ t.fwu = { s.fwu with slots := t.fwu.slots } ∧
          (tabRising s.fwu.slots = true → tabGet [] t.fwu.slots x.target = []) ∧
          flagGet Reg.fwuCtl 0 t = false ∧ RegsBut [Reg.fwuStat, Reg.fwuCtl] s t ∧
          Only [.regs, .fwu] s t) ∧
        (digestOk (sessionImage x) = false → ∃ t, exec .imageVerifyDone s = .next t ∧ sessionState t = 0 ∧ t.fwu.session = none ∧
          fieldGet Reg.fwuStat 15 0 t = 7 * 256 + 8 ∧ fieldGet Reg.fwuStat 19 16 t = 7 ∧ flagGet Reg.fwuIntStat 2 t = true ∧
          Only [.regs, .err, .fwu] s t)) ∧
      (∀ n c, sessionState s = 2 → x.cmd = some n → cmdAt n s = some c → digestOk (sessionImage x) = true →
        ∃ u, exec .imageVerifyDone s = .next (complete n 0 0 0 (bits (c.word 1) 44 32) u) ∧ sessionState u = 3 ∧
          u.fwu.session = some { x with cmd := none } ∧
          (tabRising s.fwu.slots = true → tabGet [] u.fwu.slots x.target = []) ∧ RegsBut [Reg.fwuStat] s u ∧ Only [.regs, .fwu] s u) ∧
      (sessionState s = 3 → isWorker s = false → sessionImage x ≠ [] → x.target < 2 →
        ∃ t, exec (.programmingDone true) s = .next t ∧ tabGet [] t.fwu.slots x.target = sessionImage x ∧ slotState x.target t = 1 ∧
          trialValid t = true ∧ trialSlot t = x.target ∧ attempts t = 0 ∧ confSlot t = confSlot s ∧ t.fwu.session = none ∧ sessionState t = 0 ∧
          regGet Reg.fwuProg t = 0 ∧ flagGet Reg.fwuIntStat 1 t = true ∧ RegsBut [Reg.fwuStat, Reg.fwuProg, Reg.fwuIntStat] s t ∧
          Only [.regs, .err, .fwu, .vbt] s t) ∧
      (sessionState s = 3 → ∃ t, exec (.programmingDone false) s = .next t ∧ t.fwu.session = none ∧ sessionState t = 0 ∧
        fieldGet Reg.fwuStat 7 0 t = 9 ∧ fieldGet Reg.fwuStat 19 16 t = 7 ∧ flagGet Reg.fwuIntStat 2 t = true ∧ t.fwu.slots = s.fwu.slots ∧
        t.vbt = s.vbt) ∧
      (sessionState s = 1 → x.lastAt + fieldGet Reg.fwuCfg 7 0 s * 1000000000 ≤ s.clk.now → ∃ t, exec .sessionIdleTimeout s = .next t ∧
        t.fwu = { s.fwu with session := none } ∧ sessionState t = 0 ∧ flagGet Reg.fwuIntStat 2 t = true ∧ regGet Reg.fwuProg t = 0 ∧
        Only [.regs, .err, .fwu] s t) ∧
      (sessionState s = 1 → s.clk.now < x.lastAt + fieldGet Reg.fwuCfg 7 0 s * 1000000000 → exec .sessionIdleTimeout s = .next s)) ∧
    (∀ (src : Party) (v : Word),
      let claim : Nat := if src = .smbus then 2 else 1
      let source : Nat := match src with | .smbus => 3 | .manager => 4 | _ => 2
      let holds : Prop := fieldGet Reg.fwuStat 28 26 s = source ∨ (fieldGet Reg.fwuStat 28 26 s = 1 ∧ source = 2)
      let other : Prop := fieldGet Reg.fwuStat 24 23 s ≠ 0 ∧ fieldGet Reg.fwuStat 24 23 s ≠ claim
      let refused (c : Instr) (cause off : Nat) : Prop := ∃ t, exec c s = .next t ∧ RefusedAs cause src (logSpace src) true off v.toNat s t
      let noted (x u : State) : Prop := u = { x with prt := { x.prt with smbWrote := u.prt.smbWrote, pcieWin := u.prt.pcieWin } }
      let free : Prop := ¬ other ∧ flagGet Reg.fwuStat 25 s = false ∧ flagGet Reg.prtLock 0 s = false
      (Accepts src Reg.fwuWinOfs v s → (src ≠ .smbus → (other ∨ flagGet Reg.fwuStat 25 s = true) → refused (.fwuWinOfsWrite src v) 4 Reg.fwuWinOfs) ∧
        (src ≠ .smbus → ¬ other → flagGet Reg.fwuStat 25 s = false → flagGet Reg.prtLock 0 s = true → refused (.fwuWinOfsWrite src v) 10 Reg.fwuWinOfs) ∧
        (free → ∃ t, exec (.fwuWinOfsWrite src v) s = .next t ∧ regGet Reg.fwuWinOfs t = v ∧ fieldGet Reg.fwuStat 24 23 t = claim ∧
          t.fwu = { s.fwu with buffer := [] } ∧ RegsBut [Reg.fwuWinOfs, Reg.fwuStat] s t ∧ Only [.regs, .prt, .fwu] s t)) ∧
      (Accepts src Reg.fwuWinData v s → free →
        (s.fwu.buffer.length < fieldGet Reg.fwuWinLen 12 0 s → ∃ t, exec (.fwuWinDataWrite src v) s = .next t ∧
          t.fwu = { s.fwu with buffer := s.fwu.buffer ++ [v.extractLsb' 24 8, v.extractLsb' 16 8, v.extractLsb' 8 8, v.extractLsb' 0 8] } ∧ Only [.prt, .fwu] s t) ∧
        (src ≠ .smbus → fieldGet Reg.fwuWinLen 12 0 s ≤ s.fwu.buffer.length → refused (.fwuWinDataWrite src v) 4 Reg.fwuWinData)) ∧
      (Accepts src Reg.fwuCtl v s → ¬ other →
        (bits v 3 0 = 1 → free → ∀ x, s.fwu.session = some x → x.src = source → x.ring = 0 → sessionState s = 1 → fwRefusal (src == .manager) false s = 0 →
          let len := fieldGet Reg.fwuWinLen 12 0 s
          let ofs := (regGet Reg.fwuWinOfs s).toNat
          let data := (List.range len).map fun i => s.fwu.buffer.getD i 0
          let held := sessionHeld { x with blocks := tabInsert x.blocks (ofs / 4096) data }
          0 < len → ofs ≠ 0 → outside x.size ofs len (flagGet Reg.fwuWinLen 31 s) = false →
          ∃ t, exec (.fwuPush src v) s = .next t ∧ sessions t x ofs data ∧
            (held ≠ x.size → fieldGet Reg.fwuStat 15 0 t = 0 ∧ fieldGet Reg.fwuStat 25 23 t = 0 ∧ flagGet Reg.fwuCtl 0 t = false) ∧
            (held = x.size → flagGet Reg.fwuStat 25 t = true ∧ flagGet Reg.fwuCtl 0 t = true) ∧
            RegsBut [Reg.fwuStat, Reg.fwuProg, Reg.fwuCtl] s t ∧ Only [.regs, .prt, .fwu] s t) ∧
        (bits v 3 0 = 8 → ∀ x, s.fwu.session = some x → sessionState s ≠ 2 →
          (holds → ∃ t, exec (.fwuAbort src v) s = .next t ∧ t.fwu = { s.fwu with session := none } ∧
            sessionState t = 0 ∧ regGet Reg.fwuProg t = 0 ∧ flagGet Reg.fwuIntStat 2 t = true ∧ Only [.regs, .prt, .err, .fwu] s t) ∧
          (src ≠ .smbus → ¬ holds → refused (.fwuAbort src v) 3 Reg.fwuCtl)) ∧
        (bits v 3 0 = 8 → holds → ∀ x n c, s.fwu.session = some x → sessionState s = 2 →
          x.cmd = some n → cmdAt n s = some c → ∃ u, noted s u ∧ exec (.fwuAbort src v) s = .next (endSession (complete n 0 0 0 (bits (c.word 1) 44 32) u))) ∧
        (bits v 3 0 = 4 →
          let deny := fwRefusal (src == .manager) false s
          let result (st d : Nat) : Prop := ∃ t, exec (.fwuActivate src v) s = .next t ∧ fieldGet Reg.fwuStat 15 0 t = d * 256 + st ∧
            RegsBut [Reg.fwuStat] s t ∧ Only [.regs, .prt] s t
          (deny ≠ 0 → result 8 deny) ∧ (deny = 0 → trialValid s = false → result 3 0) ∧
          (deny = 0 → trialValid s = true → s.fwu.session.isSome = true → result 0xb 0) ∧
          (deny = 0 → trialValid s = true → s.fwu.session = none → warmCan s = true →
            ∃ u, noted s u ∧ exec (.fwuActivate src v) s = exec (.warmReset 4) (if isManager s = true then ctrlWrite 31 Reg.glbRstCtl 0x100 u else u))) ∧
        (bits v 3 0 = 2 →
          let deny := fwRefusal (src == .manager) true s
          let result (st d : Nat) : Prop := ∃ t, exec (.fwuConfirm src v) s = .next t ∧ fieldGet Reg.fwuStat 15 0 t = d * 256 + st ∧
            RegsBut [Reg.fwuStat] s t ∧ Only [.regs, .prt] s t
          (deny ≠ 0 → result 8 deny) ∧ (deny = 0 → (runTrial s = false ∨ trialValid s = false) → result 3 0) ∧
          (deny = 0 → runTrial s = true → trialValid s = true →
            ∃ u, exec (.fwuConfirm src v) s = .next (fieldPut Reg.fwuStat 15 0 0 u) ∧ confirmed u)))) ∧
    (∀ n c given, cmdAt n s = some c → (opOf c.hdr = 0x40 ∨ opOf c.hdr = 0x41) → mpDown s = true →
      exec (.fwBlock n given) s = .next s ∧ exec (.fwConfirm n) s = .next s) ∧
    (∀ n c, readyCmd n [0x41] s = some c →
      let deny := fwRefusal (isWorker s && c.ring == relayRing) true s
      (deny ≠ 0 → exec (.fwConfirm n) s = .next (complete n 8 0 deny 0 s)) ∧
      (deny = 0 → (runTrial s = false ∨ trialValid s = false) → exec (.fwConfirm n) s = .next (complete n 3 0 0 0 s)) ∧
      (deny = 0 → runTrial s = true → trialValid s = true →
        ∃ u, exec (.fwConfirm n) s = .next (complete n 0 0 0 0 u) ∧ confirmed u))
end

