-- ==== Sys2Proof/Laws/State.lean ====
section
/-! SUPPORT. What one component reads as after an update: one lemma for each component and each update. -/

namespace Sys2Proof.Machine

open Sys2Proof

@[simp] theorem State.updPending_pending (s : State) (f : List Instr → List Instr) : (s.updPending f).pending = f s.pending := rfl
@[simp] theorem State.updPending_clk (s : State) (f : List Instr → List Instr) : (s.updPending f).clk = s.clk := rfl
@[simp] theorem State.updPending_regs (s : State) (f : List Instr → List Instr) : (s.updPending f).regs = s.regs := rfl
@[simp] theorem State.updPending_mwin (s : State) (f : List Instr → List Instr) : (s.updPending f).mwin = s.mwin := rfl
@[simp] theorem State.updPending_arr (s : State) (f : List Instr → List Instr) : (s.updPending f).arr = s.arr := rfl
@[simp] theorem State.updPending_tbl (s : State) (f : List Instr → List Instr) : (s.updPending f).tbl = s.tbl := rfl
@[simp] theorem State.updPending_mem (s : State) (f : List Instr → List Instr) : (s.updPending f).mem = s.mem := rfl
@[simp] theorem State.updPending_lnk (s : State) (f : List Instr → List Instr) : (s.updPending f).lnk = s.lnk := rfl
@[simp] theorem State.updPending_pip (s : State) (f : List Instr → List Instr) : (s.updPending f).pip = s.pip := rfl
@[simp] theorem State.updPending_upd (s : State) (f : List Instr → List Instr) : (s.updPending f).upd = s.upd := rfl
@[simp] theorem State.updPending_epc (s : State) (f : List Instr → List Instr) : (s.updPending f).epc = s.epc := rfl
@[simp] theorem State.updPending_tod (s : State) (f : List Instr → List Instr) : (s.updPending f).tod = s.tod := rfl
@[simp] theorem State.updPending_cas (s : State) (f : List Instr → List Instr) : (s.updPending f).cas = s.cas := rfl
@[simp] theorem State.updPending_hif (s : State) (f : List Instr → List Instr) : (s.updPending f).hif = s.hif := rfl
@[simp] theorem State.updPending_prt (s : State) (f : List Instr → List Instr) : (s.updPending f).prt = s.prt := rfl
@[simp] theorem State.updPending_err (s : State) (f : List Instr → List Instr) : (s.updPending f).err = s.err := rfl
@[simp] theorem State.updPending_drc (s : State) (f : List Instr → List Instr) : (s.updPending f).drc = s.drc := rfl
@[simp] theorem State.updPending_rst (s : State) (f : List Instr → List Instr) : (s.updPending f).rst = s.rst := rfl
@[simp] theorem State.updPending_pwr (s : State) (f : List Instr → List Instr) : (s.updPending f).pwr = s.pwr := rfl
@[simp] theorem State.updPending_fwu (s : State) (f : List Instr → List Instr) : (s.updPending f).fwu = s.fwu := rfl
@[simp] theorem State.updPending_vbt (s : State) (f : List Instr → List Instr) : (s.updPending f).vbt = s.vbt := rfl
@[simp] theorem State.updClk_pending (s : State) (f : ClkSt → ClkSt) : (s.updClk f).pending = s.pending := rfl
@[simp] theorem State.updClk_clk (s : State) (f : ClkSt → ClkSt) : (s.updClk f).clk = f s.clk := rfl
@[simp] theorem State.updClk_regs (s : State) (f : ClkSt → ClkSt) : (s.updClk f).regs = s.regs := rfl
@[simp] theorem State.updClk_mwin (s : State) (f : ClkSt → ClkSt) : (s.updClk f).mwin = s.mwin := rfl
@[simp] theorem State.updClk_arr (s : State) (f : ClkSt → ClkSt) : (s.updClk f).arr = s.arr := rfl
@[simp] theorem State.updClk_tbl (s : State) (f : ClkSt → ClkSt) : (s.updClk f).tbl = s.tbl := rfl
@[simp] theorem State.updClk_mem (s : State) (f : ClkSt → ClkSt) : (s.updClk f).mem = s.mem := rfl
@[simp] theorem State.updClk_lnk (s : State) (f : ClkSt → ClkSt) : (s.updClk f).lnk = s.lnk := rfl
@[simp] theorem State.updClk_pip (s : State) (f : ClkSt → ClkSt) : (s.updClk f).pip = s.pip := rfl
@[simp] theorem State.updClk_upd (s : State) (f : ClkSt → ClkSt) : (s.updClk f).upd = s.upd := rfl
@[simp] theorem State.updClk_epc (s : State) (f : ClkSt → ClkSt) : (s.updClk f).epc = s.epc := rfl
@[simp] theorem State.updClk_tod (s : State) (f : ClkSt → ClkSt) : (s.updClk f).tod = s.tod := rfl
@[simp] theorem State.updClk_cas (s : State) (f : ClkSt → ClkSt) : (s.updClk f).cas = s.cas := rfl
@[simp] theorem State.updClk_hif (s : State) (f : ClkSt → ClkSt) : (s.updClk f).hif = s.hif := rfl
@[simp] theorem State.updClk_prt (s : State) (f : ClkSt → ClkSt) : (s.updClk f).prt = s.prt := rfl
@[simp] theorem State.updClk_err (s : State) (f : ClkSt → ClkSt) : (s.updClk f).err = s.err := rfl
@[simp] theorem State.updClk_drc (s : State) (f : ClkSt → ClkSt) : (s.updClk f).drc = s.drc := rfl
@[simp] theorem State.updClk_rst (s : State) (f : ClkSt → ClkSt) : (s.updClk f).rst = s.rst := rfl
@[simp] theorem State.updClk_pwr (s : State) (f : ClkSt → ClkSt) : (s.updClk f).pwr = s.pwr := rfl
@[simp] theorem State.updClk_fwu (s : State) (f : ClkSt → ClkSt) : (s.updClk f).fwu = s.fwu := rfl
@[simp] theorem State.updClk_vbt (s : State) (f : ClkSt → ClkSt) : (s.updClk f).vbt = s.vbt := rfl
@[simp] theorem State.updRegs_pending (s : State) (f : Tab Word → Tab Word) : (s.updRegs f).pending = s.pending := rfl
@[simp] theorem State.updRegs_clk (s : State) (f : Tab Word → Tab Word) : (s.updRegs f).clk = s.clk := rfl
@[simp] theorem State.updRegs_regs (s : State) (f : Tab Word → Tab Word) : (s.updRegs f).regs = f s.regs := rfl
@[simp] theorem State.updRegs_mwin (s : State) (f : Tab Word → Tab Word) : (s.updRegs f).mwin = s.mwin := rfl
@[simp] theorem State.updRegs_arr (s : State) (f : Tab Word → Tab Word) : (s.updRegs f).arr = s.arr := rfl
@[simp] theorem State.updRegs_tbl (s : State) (f : Tab Word → Tab Word) : (s.updRegs f).tbl = s.tbl := rfl
@[simp] theorem State.updRegs_mem (s : State) (f : Tab Word → Tab Word) : (s.updRegs f).mem = s.mem := rfl
@[simp] theorem State.updRegs_lnk (s : State) (f : Tab Word → Tab Word) : (s.updRegs f).lnk = s.lnk := rfl
@[simp] theorem State.updRegs_pip (s : State) (f : Tab Word → Tab Word) : (s.updRegs f).pip = s.pip := rfl
@[simp] theorem State.updRegs_upd (s : State) (f : Tab Word → Tab Word) : (s.updRegs f).upd = s.upd := rfl
@[simp] theorem State.updRegs_epc (s : State) (f : Tab Word → Tab Word) : (s.updRegs f).epc = s.epc := rfl
@[simp] theorem State.updRegs_tod (s : State) (f : Tab Word → Tab Word) : (s.updRegs f).tod = s.tod := rfl
@[simp] theorem State.updRegs_cas (s : State) (f : Tab Word → Tab Word) : (s.updRegs f).cas = s.cas := rfl
@[simp] theorem State.updRegs_hif (s : State) (f : Tab Word → Tab Word) : (s.updRegs f).hif = s.hif := rfl
@[simp] theorem State.updRegs_prt (s : State) (f : Tab Word → Tab Word) : (s.updRegs f).prt = s.prt := rfl
@[simp] theorem State.updRegs_err (s : State) (f : Tab Word → Tab Word) : (s.updRegs f).err = s.err := rfl
@[simp] theorem State.updRegs_drc (s : State) (f : Tab Word → Tab Word) : (s.updRegs f).drc = s.drc := rfl
@[simp] theorem State.updRegs_rst (s : State) (f : Tab Word → Tab Word) : (s.updRegs f).rst = s.rst := rfl
@[simp] theorem State.updRegs_pwr (s : State) (f : Tab Word → Tab Word) : (s.updRegs f).pwr = s.pwr := rfl
@[simp] theorem State.updRegs_fwu (s : State) (f : Tab Word → Tab Word) : (s.updRegs f).fwu = s.fwu := rfl
@[simp] theorem State.updRegs_vbt (s : State) (f : Tab Word → Tab Word) : (s.updRegs f).vbt = s.vbt := rfl
@[simp] theorem State.updMwin_pending (s : State) (f : Tab Word → Tab Word) : (s.updMwin f).pending = s.pending := rfl
@[simp] theorem State.updMwin_clk (s : State) (f : Tab Word → Tab Word) : (s.updMwin f).clk = s.clk := rfl
@[simp] theorem State.updMwin_regs (s : State) (f : Tab Word → Tab Word) : (s.updMwin f).regs = s.regs := rfl
@[simp] theorem State.updMwin_mwin (s : State) (f : Tab Word → Tab Word) : (s.updMwin f).mwin = f s.mwin := rfl
@[simp] theorem State.updMwin_arr (s : State) (f : Tab Word → Tab Word) : (s.updMwin f).arr = s.arr := rfl
@[simp] theorem State.updMwin_tbl (s : State) (f : Tab Word → Tab Word) : (s.updMwin f).tbl = s.tbl := rfl
@[simp] theorem State.updMwin_mem (s : State) (f : Tab Word → Tab Word) : (s.updMwin f).mem = s.mem := rfl
@[simp] theorem State.updMwin_lnk (s : State) (f : Tab Word → Tab Word) : (s.updMwin f).lnk = s.lnk := rfl
@[simp] theorem State.updMwin_pip (s : State) (f : Tab Word → Tab Word) : (s.updMwin f).pip = s.pip := rfl
@[simp] theorem State.updMwin_upd (s : State) (f : Tab Word → Tab Word) : (s.updMwin f).upd = s.upd := rfl
@[simp] theorem State.updMwin_epc (s : State) (f : Tab Word → Tab Word) : (s.updMwin f).epc = s.epc := rfl
@[simp] theorem State.updMwin_tod (s : State) (f : Tab Word → Tab Word) : (s.updMwin f).tod = s.tod := rfl
@[simp] theorem State.updMwin_cas (s : State) (f : Tab Word → Tab Word) : (s.updMwin f).cas = s.cas := rfl
@[simp] theorem State.updMwin_hif (s : State) (f : Tab Word → Tab Word) : (s.updMwin f).hif = s.hif := rfl
@[simp] theorem State.updMwin_prt (s : State) (f : Tab Word → Tab Word) : (s.updMwin f).prt = s.prt := rfl
@[simp] theorem State.updMwin_err (s : State) (f : Tab Word → Tab Word) : (s.updMwin f).err = s.err := rfl
@[simp] theorem State.updMwin_drc (s : State) (f : Tab Word → Tab Word) : (s.updMwin f).drc = s.drc := rfl
@[simp] theorem State.updMwin_rst (s : State) (f : Tab Word → Tab Word) : (s.updMwin f).rst = s.rst := rfl
@[simp] theorem State.updMwin_pwr (s : State) (f : Tab Word → Tab Word) : (s.updMwin f).pwr = s.pwr := rfl
@[simp] theorem State.updMwin_fwu (s : State) (f : Tab Word → Tab Word) : (s.updMwin f).fwu = s.fwu := rfl
@[simp] theorem State.updMwin_vbt (s : State) (f : Tab Word → Tab Word) : (s.updMwin f).vbt = s.vbt := rfl
@[simp] theorem State.updArr_pending (s : State) (f : ArrSt → ArrSt) : (s.updArr f).pending = s.pending := rfl
@[simp] theorem State.updArr_clk (s : State) (f : ArrSt → ArrSt) : (s.updArr f).clk = s.clk := rfl
@[simp] theorem State.updArr_regs (s : State) (f : ArrSt → ArrSt) : (s.updArr f).regs = s.regs := rfl
@[simp] theorem State.updArr_mwin (s : State) (f : ArrSt → ArrSt) : (s.updArr f).mwin = s.mwin := rfl
@[simp] theorem State.updArr_arr (s : State) (f : ArrSt → ArrSt) : (s.updArr f).arr = f s.arr := rfl
@[simp] theorem State.updArr_tbl (s : State) (f : ArrSt → ArrSt) : (s.updArr f).tbl = s.tbl := rfl
@[simp] theorem State.updArr_mem (s : State) (f : ArrSt → ArrSt) : (s.updArr f).mem = s.mem := rfl
@[simp] theorem State.updArr_lnk (s : State) (f : ArrSt → ArrSt) : (s.updArr f).lnk = s.lnk := rfl
@[simp] theorem State.updArr_pip (s : State) (f : ArrSt → ArrSt) : (s.updArr f).pip = s.pip := rfl
@[simp] theorem State.updArr_upd (s : State) (f : ArrSt → ArrSt) : (s.updArr f).upd = s.upd := rfl
@[simp] theorem State.updArr_epc (s : State) (f : ArrSt → ArrSt) : (s.updArr f).epc = s.epc := rfl
@[simp] theorem State.updArr_tod (s : State) (f : ArrSt → ArrSt) : (s.updArr f).tod = s.tod := rfl
@[simp] theorem State.updArr_cas (s : State) (f : ArrSt → ArrSt) : (s.updArr f).cas = s.cas := rfl
@[simp] theorem State.updArr_hif (s : State) (f : ArrSt → ArrSt) : (s.updArr f).hif = s.hif := rfl
@[simp] theorem State.updArr_prt (s : State) (f : ArrSt → ArrSt) : (s.updArr f).prt = s.prt := rfl
@[simp] theorem State.updArr_err (s : State) (f : ArrSt → ArrSt) : (s.updArr f).err = s.err := rfl
@[simp] theorem State.updArr_drc (s : State) (f : ArrSt → ArrSt) : (s.updArr f).drc = s.drc := rfl
@[simp] theorem State.updArr_rst (s : State) (f : ArrSt → ArrSt) : (s.updArr f).rst = s.rst := rfl
@[simp] theorem State.updArr_pwr (s : State) (f : ArrSt → ArrSt) : (s.updArr f).pwr = s.pwr := rfl
@[simp] theorem State.updArr_fwu (s : State) (f : ArrSt → ArrSt) : (s.updArr f).fwu = s.fwu := rfl
@[simp] theorem State.updArr_vbt (s : State) (f : ArrSt → ArrSt) : (s.updArr f).vbt = s.vbt := rfl
@[simp] theorem State.updTbl_pending (s : State) (f : TblSt → TblSt) : (s.updTbl f).pending = s.pending := rfl
@[simp] theorem State.updTbl_clk (s : State) (f : TblSt → TblSt) : (s.updTbl f).clk = s.clk := rfl
@[simp] theorem State.updTbl_regs (s : State) (f : TblSt → TblSt) : (s.updTbl f).regs = s.regs := rfl
@[simp] theorem State.updTbl_mwin (s : State) (f : TblSt → TblSt) : (s.updTbl f).mwin = s.mwin := rfl
@[simp] theorem State.updTbl_arr (s : State) (f : TblSt → TblSt) : (s.updTbl f).arr = s.arr := rfl
@[simp] theorem State.updTbl_tbl (s : State) (f : TblSt → TblSt) : (s.updTbl f).tbl = f s.tbl := rfl
@[simp] theorem State.updTbl_mem (s : State) (f : TblSt → TblSt) : (s.updTbl f).mem = s.mem := rfl
@[simp] theorem State.updTbl_lnk (s : State) (f : TblSt → TblSt) : (s.updTbl f).lnk = s.lnk := rfl
@[simp] theorem State.updTbl_pip (s : State) (f : TblSt → TblSt) : (s.updTbl f).pip = s.pip := rfl
@[simp] theorem State.updTbl_upd (s : State) (f : TblSt → TblSt) : (s.updTbl f).upd = s.upd := rfl
@[simp] theorem State.updTbl_epc (s : State) (f : TblSt → TblSt) : (s.updTbl f).epc = s.epc := rfl
@[simp] theorem State.updTbl_tod (s : State) (f : TblSt → TblSt) : (s.updTbl f).tod = s.tod := rfl
@[simp] theorem State.updTbl_cas (s : State) (f : TblSt → TblSt) : (s.updTbl f).cas = s.cas := rfl
@[simp] theorem State.updTbl_hif (s : State) (f : TblSt → TblSt) : (s.updTbl f).hif = s.hif := rfl
@[simp] theorem State.updTbl_prt (s : State) (f : TblSt → TblSt) : (s.updTbl f).prt = s.prt := rfl
@[simp] theorem State.updTbl_err (s : State) (f : TblSt → TblSt) : (s.updTbl f).err = s.err := rfl
@[simp] theorem State.updTbl_drc (s : State) (f : TblSt → TblSt) : (s.updTbl f).drc = s.drc := rfl
@[simp] theorem State.updTbl_rst (s : State) (f : TblSt → TblSt) : (s.updTbl f).rst = s.rst := rfl
@[simp] theorem State.updTbl_pwr (s : State) (f : TblSt → TblSt) : (s.updTbl f).pwr = s.pwr := rfl
@[simp] theorem State.updTbl_fwu (s : State) (f : TblSt → TblSt) : (s.updTbl f).fwu = s.fwu := rfl
@[simp] theorem State.updTbl_vbt (s : State) (f : TblSt → TblSt) : (s.updTbl f).vbt = s.vbt := rfl
@[simp] theorem State.updMem_pending (s : State) (f : MemSt → MemSt) : (s.updMem f).pending = s.pending := rfl
@[simp] theorem State.updMem_clk (s : State) (f : MemSt → MemSt) : (s.updMem f).clk = s.clk := rfl
@[simp] theorem State.updMem_regs (s : State) (f : MemSt → MemSt) : (s.updMem f).regs = s.regs := rfl
@[simp] theorem State.updMem_mwin (s : State) (f : MemSt → MemSt) : (s.updMem f).mwin = s.mwin := rfl
@[simp] theorem State.updMem_arr (s : State) (f : MemSt → MemSt) : (s.updMem f).arr = s.arr := rfl
@[simp] theorem State.updMem_tbl (s : State) (f : MemSt → MemSt) : (s.updMem f).tbl = s.tbl := rfl
@[simp] theorem State.updMem_mem (s : State) (f : MemSt → MemSt) : (s.updMem f).mem = f s.mem := rfl
@[simp] theorem State.updMem_lnk (s : State) (f : MemSt → MemSt) : (s.updMem f).lnk = s.lnk := rfl
@[simp] theorem State.updMem_pip (s : State) (f : MemSt → MemSt) : (s.updMem f).pip = s.pip := rfl
@[simp] theorem State.updMem_upd (s : State) (f : MemSt → MemSt) : (s.updMem f).upd = s.upd := rfl
@[simp] theorem State.updMem_epc (s : State) (f : MemSt → MemSt) : (s.updMem f).epc = s.epc := rfl
@[simp] theorem State.updMem_tod (s : State) (f : MemSt → MemSt) : (s.updMem f).tod = s.tod := rfl
@[simp] theorem State.updMem_cas (s : State) (f : MemSt → MemSt) : (s.updMem f).cas = s.cas := rfl
@[simp] theorem State.updMem_hif (s : State) (f : MemSt → MemSt) : (s.updMem f).hif = s.hif := rfl
@[simp] theorem State.updMem_prt (s : State) (f : MemSt → MemSt) : (s.updMem f).prt = s.prt := rfl
@[simp] theorem State.updMem_err (s : State) (f : MemSt → MemSt) : (s.updMem f).err = s.err := rfl
@[simp] theorem State.updMem_drc (s : State) (f : MemSt → MemSt) : (s.updMem f).drc = s.drc := rfl
@[simp] theorem State.updMem_rst (s : State) (f : MemSt → MemSt) : (s.updMem f).rst = s.rst := rfl
@[simp] theorem State.updMem_pwr (s : State) (f : MemSt → MemSt) : (s.updMem f).pwr = s.pwr := rfl
@[simp] theorem State.updMem_fwu (s : State) (f : MemSt → MemSt) : (s.updMem f).fwu = s.fwu := rfl
@[simp] theorem State.updMem_vbt (s : State) (f : MemSt → MemSt) : (s.updMem f).vbt = s.vbt := rfl
@[simp] theorem State.updLnk_pending (s : State) (f : LnkSt → LnkSt) : (s.updLnk f).pending = s.pending := rfl
@[simp] theorem State.updLnk_clk (s : State) (f : LnkSt → LnkSt) : (s.updLnk f).clk = s.clk := rfl
@[simp] theorem State.updLnk_regs (s : State) (f : LnkSt → LnkSt) : (s.updLnk f).regs = s.regs := rfl
@[simp] theorem State.updLnk_mwin (s : State) (f : LnkSt → LnkSt) : (s.updLnk f).mwin = s.mwin := rfl
@[simp] theorem State.updLnk_arr (s : State) (f : LnkSt → LnkSt) : (s.updLnk f).arr = s.arr := rfl
@[simp] theorem State.updLnk_tbl (s : State) (f : LnkSt → LnkSt) : (s.updLnk f).tbl = s.tbl := rfl
@[simp] theorem State.updLnk_mem (s : State) (f : LnkSt → LnkSt) : (s.updLnk f).mem = s.mem := rfl
@[simp] theorem State.updLnk_lnk (s : State) (f : LnkSt → LnkSt) : (s.updLnk f).lnk = f s.lnk := rfl
@[simp] theorem State.updLnk_pip (s : State) (f : LnkSt → LnkSt) : (s.updLnk f).pip = s.pip := rfl
@[simp] theorem State.updLnk_upd (s : State) (f : LnkSt → LnkSt) : (s.updLnk f).upd = s.upd := rfl
@[simp] theorem State.updLnk_epc (s : State) (f : LnkSt → LnkSt) : (s.updLnk f).epc = s.epc := rfl
@[simp] theorem State.updLnk_tod (s : State) (f : LnkSt → LnkSt) : (s.updLnk f).tod = s.tod := rfl
@[simp] theorem State.updLnk_cas (s : State) (f : LnkSt → LnkSt) : (s.updLnk f).cas = s.cas := rfl
@[simp] theorem State.updLnk_hif (s : State) (f : LnkSt → LnkSt) : (s.updLnk f).hif = s.hif := rfl
@[simp] theorem State.updLnk_prt (s : State) (f : LnkSt → LnkSt) : (s.updLnk f).prt = s.prt := rfl
@[simp] theorem State.updLnk_err (s : State) (f : LnkSt → LnkSt) : (s.updLnk f).err = s.err := rfl
@[simp] theorem State.updLnk_drc (s : State) (f : LnkSt → LnkSt) : (s.updLnk f).drc = s.drc := rfl
@[simp] theorem State.updLnk_rst (s : State) (f : LnkSt → LnkSt) : (s.updLnk f).rst = s.rst := rfl
@[simp] theorem State.updLnk_pwr (s : State) (f : LnkSt → LnkSt) : (s.updLnk f).pwr = s.pwr := rfl
@[simp] theorem State.updLnk_fwu (s : State) (f : LnkSt → LnkSt) : (s.updLnk f).fwu = s.fwu := rfl
@[simp] theorem State.updLnk_vbt (s : State) (f : LnkSt → LnkSt) : (s.updLnk f).vbt = s.vbt := rfl
@[simp] theorem State.updPip_pending (s : State) (f : PipSt → PipSt) : (s.updPip f).pending = s.pending := rfl
@[simp] theorem State.updPip_clk (s : State) (f : PipSt → PipSt) : (s.updPip f).clk = s.clk := rfl
@[simp] theorem State.updPip_regs (s : State) (f : PipSt → PipSt) : (s.updPip f).regs = s.regs := rfl
@[simp] theorem State.updPip_mwin (s : State) (f : PipSt → PipSt) : (s.updPip f).mwin = s.mwin := rfl
@[simp] theorem State.updPip_arr (s : State) (f : PipSt → PipSt) : (s.updPip f).arr = s.arr := rfl
@[simp] theorem State.updPip_tbl (s : State) (f : PipSt → PipSt) : (s.updPip f).tbl = s.tbl := rfl
@[simp] theorem State.updPip_mem (s : State) (f : PipSt → PipSt) : (s.updPip f).mem = s.mem := rfl
@[simp] theorem State.updPip_lnk (s : State) (f : PipSt → PipSt) : (s.updPip f).lnk = s.lnk := rfl
@[simp] theorem State.updPip_pip (s : State) (f : PipSt → PipSt) : (s.updPip f).pip = f s.pip := rfl
@[simp] theorem State.updPip_upd (s : State) (f : PipSt → PipSt) : (s.updPip f).upd = s.upd := rfl
@[simp] theorem State.updPip_epc (s : State) (f : PipSt → PipSt) : (s.updPip f).epc = s.epc := rfl
@[simp] theorem State.updPip_tod (s : State) (f : PipSt → PipSt) : (s.updPip f).tod = s.tod := rfl
@[simp] theorem State.updPip_cas (s : State) (f : PipSt → PipSt) : (s.updPip f).cas = s.cas := rfl
@[simp] theorem State.updPip_hif (s : State) (f : PipSt → PipSt) : (s.updPip f).hif = s.hif := rfl
@[simp] theorem State.updPip_prt (s : State) (f : PipSt → PipSt) : (s.updPip f).prt = s.prt := rfl
@[simp] theorem State.updPip_err (s : State) (f : PipSt → PipSt) : (s.updPip f).err = s.err := rfl
@[simp] theorem State.updPip_drc (s : State) (f : PipSt → PipSt) : (s.updPip f).drc = s.drc := rfl
@[simp] theorem State.updPip_rst (s : State) (f : PipSt → PipSt) : (s.updPip f).rst = s.rst := rfl
@[simp] theorem State.updPip_pwr (s : State) (f : PipSt → PipSt) : (s.updPip f).pwr = s.pwr := rfl
@[simp] theorem State.updPip_fwu (s : State) (f : PipSt → PipSt) : (s.updPip f).fwu = s.fwu := rfl
@[simp] theorem State.updPip_vbt (s : State) (f : PipSt → PipSt) : (s.updPip f).vbt = s.vbt := rfl
@[simp] theorem State.updUpd_pending (s : State) (f : UpdSt → UpdSt) : (s.updUpd f).pending = s.pending := rfl
@[simp] theorem State.updUpd_clk (s : State) (f : UpdSt → UpdSt) : (s.updUpd f).clk = s.clk := rfl
@[simp] theorem State.updUpd_regs (s : State) (f : UpdSt → UpdSt) : (s.updUpd f).regs = s.regs := rfl
@[simp] theorem State.updUpd_mwin (s : State) (f : UpdSt → UpdSt) : (s.updUpd f).mwin = s.mwin := rfl
@[simp] theorem State.updUpd_arr (s : State) (f : UpdSt → UpdSt) : (s.updUpd f).arr = s.arr := rfl
@[simp] theorem State.updUpd_tbl (s : State) (f : UpdSt → UpdSt) : (s.updUpd f).tbl = s.tbl := rfl
@[simp] theorem State.updUpd_mem (s : State) (f : UpdSt → UpdSt) : (s.updUpd f).mem = s.mem := rfl
@[simp] theorem State.updUpd_lnk (s : State) (f : UpdSt → UpdSt) : (s.updUpd f).lnk = s.lnk := rfl
@[simp] theorem State.updUpd_pip (s : State) (f : UpdSt → UpdSt) : (s.updUpd f).pip = s.pip := rfl
@[simp] theorem State.updUpd_upd (s : State) (f : UpdSt → UpdSt) : (s.updUpd f).upd = f s.upd := rfl
@[simp] theorem State.updUpd_epc (s : State) (f : UpdSt → UpdSt) : (s.updUpd f).epc = s.epc := rfl
@[simp] theorem State.updUpd_tod (s : State) (f : UpdSt → UpdSt) : (s.updUpd f).tod = s.tod := rfl
@[simp] theorem State.updUpd_cas (s : State) (f : UpdSt → UpdSt) : (s.updUpd f).cas = s.cas := rfl
@[simp] theorem State.updUpd_hif (s : State) (f : UpdSt → UpdSt) : (s.updUpd f).hif = s.hif := rfl
@[simp] theorem State.updUpd_prt (s : State) (f : UpdSt → UpdSt) : (s.updUpd f).prt = s.prt := rfl
@[simp] theorem State.updUpd_err (s : State) (f : UpdSt → UpdSt) : (s.updUpd f).err = s.err := rfl
@[simp] theorem State.updUpd_drc (s : State) (f : UpdSt → UpdSt) : (s.updUpd f).drc = s.drc := rfl
@[simp] theorem State.updUpd_rst (s : State) (f : UpdSt → UpdSt) : (s.updUpd f).rst = s.rst := rfl
@[simp] theorem State.updUpd_pwr (s : State) (f : UpdSt → UpdSt) : (s.updUpd f).pwr = s.pwr := rfl
@[simp] theorem State.updUpd_fwu (s : State) (f : UpdSt → UpdSt) : (s.updUpd f).fwu = s.fwu := rfl
@[simp] theorem State.updUpd_vbt (s : State) (f : UpdSt → UpdSt) : (s.updUpd f).vbt = s.vbt := rfl
@[simp] theorem State.updEpc_pending (s : State) (f : EpcSt → EpcSt) : (s.updEpc f).pending = s.pending := rfl
@[simp] theorem State.updEpc_clk (s : State) (f : EpcSt → EpcSt) : (s.updEpc f).clk = s.clk := rfl
@[simp] theorem State.updEpc_regs (s : State) (f : EpcSt → EpcSt) : (s.updEpc f).regs = s.regs := rfl
@[simp] theorem State.updEpc_mwin (s : State) (f : EpcSt → EpcSt) : (s.updEpc f).mwin = s.mwin := rfl
@[simp] theorem State.updEpc_arr (s : State) (f : EpcSt → EpcSt) : (s.updEpc f).arr = s.arr := rfl
@[simp] theorem State.updEpc_tbl (s : State) (f : EpcSt → EpcSt) : (s.updEpc f).tbl = s.tbl := rfl
@[simp] theorem State.updEpc_mem (s : State) (f : EpcSt → EpcSt) : (s.updEpc f).mem = s.mem := rfl
@[simp] theorem State.updEpc_lnk (s : State) (f : EpcSt → EpcSt) : (s.updEpc f).lnk = s.lnk := rfl
@[simp] theorem State.updEpc_pip (s : State) (f : EpcSt → EpcSt) : (s.updEpc f).pip = s.pip := rfl
@[simp] theorem State.updEpc_upd (s : State) (f : EpcSt → EpcSt) : (s.updEpc f).upd = s.upd := rfl
@[simp] theorem State.updEpc_epc (s : State) (f : EpcSt → EpcSt) : (s.updEpc f).epc = f s.epc := rfl
@[simp] theorem State.updEpc_tod (s : State) (f : EpcSt → EpcSt) : (s.updEpc f).tod = s.tod := rfl
@[simp] theorem State.updEpc_cas (s : State) (f : EpcSt → EpcSt) : (s.updEpc f).cas = s.cas := rfl
@[simp] theorem State.updEpc_hif (s : State) (f : EpcSt → EpcSt) : (s.updEpc f).hif = s.hif := rfl
@[simp] theorem State.updEpc_prt (s : State) (f : EpcSt → EpcSt) : (s.updEpc f).prt = s.prt := rfl
@[simp] theorem State.updEpc_err (s : State) (f : EpcSt → EpcSt) : (s.updEpc f).err = s.err := rfl
@[simp] theorem State.updEpc_drc (s : State) (f : EpcSt → EpcSt) : (s.updEpc f).drc = s.drc := rfl
@[simp] theorem State.updEpc_rst (s : State) (f : EpcSt → EpcSt) : (s.updEpc f).rst = s.rst := rfl
@[simp] theorem State.updEpc_pwr (s : State) (f : EpcSt → EpcSt) : (s.updEpc f).pwr = s.pwr := rfl
@[simp] theorem State.updEpc_fwu (s : State) (f : EpcSt → EpcSt) : (s.updEpc f).fwu = s.fwu := rfl
@[simp] theorem State.updEpc_vbt (s : State) (f : EpcSt → EpcSt) : (s.updEpc f).vbt = s.vbt := rfl
@[simp] theorem State.updTod_pending (s : State) (f : TodSt → TodSt) : (s.updTod f).pending = s.pending := rfl
@[simp] theorem State.updTod_clk (s : State) (f : TodSt → TodSt) : (s.updTod f).clk = s.clk := rfl
@[simp] theorem State.updTod_regs (s : State) (f : TodSt → TodSt) : (s.updTod f).regs = s.regs := rfl
@[simp] theorem State.updTod_mwin (s : State) (f : TodSt → TodSt) : (s.updTod f).mwin = s.mwin := rfl
@[simp] theorem State.updTod_arr (s : State) (f : TodSt → TodSt) : (s.updTod f).arr = s.arr := rfl
@[simp] theorem State.updTod_tbl (s : State) (f : TodSt → TodSt) : (s.updTod f).tbl = s.tbl := rfl
@[simp] theorem State.updTod_mem (s : State) (f : TodSt → TodSt) : (s.updTod f).mem = s.mem := rfl
@[simp] theorem State.updTod_lnk (s : State) (f : TodSt → TodSt) : (s.updTod f).lnk = s.lnk := rfl
@[simp] theorem State.updTod_pip (s : State) (f : TodSt → TodSt) : (s.updTod f).pip = s.pip := rfl
@[simp] theorem State.updTod_upd (s : State) (f : TodSt → TodSt) : (s.updTod f).upd = s.upd := rfl
@[simp] theorem State.updTod_epc (s : State) (f : TodSt → TodSt) : (s.updTod f).epc = s.epc := rfl
@[simp] theorem State.updTod_tod (s : State) (f : TodSt → TodSt) : (s.updTod f).tod = f s.tod := rfl
@[simp] theorem State.updTod_cas (s : State) (f : TodSt → TodSt) : (s.updTod f).cas = s.cas := rfl
@[simp] theorem State.updTod_hif (s : State) (f : TodSt → TodSt) : (s.updTod f).hif = s.hif := rfl
@[simp] theorem State.updTod_prt (s : State) (f : TodSt → TodSt) : (s.updTod f).prt = s.prt := rfl
@[simp] theorem State.updTod_err (s : State) (f : TodSt → TodSt) : (s.updTod f).err = s.err := rfl
@[simp] theorem State.updTod_drc (s : State) (f : TodSt → TodSt) : (s.updTod f).drc = s.drc := rfl
@[simp] theorem State.updTod_rst (s : State) (f : TodSt → TodSt) : (s.updTod f).rst = s.rst := rfl
@[simp] theorem State.updTod_pwr (s : State) (f : TodSt → TodSt) : (s.updTod f).pwr = s.pwr := rfl
@[simp] theorem State.updTod_fwu (s : State) (f : TodSt → TodSt) : (s.updTod f).fwu = s.fwu := rfl
@[simp] theorem State.updTod_vbt (s : State) (f : TodSt → TodSt) : (s.updTod f).vbt = s.vbt := rfl
@[simp] theorem State.updCas_pending (s : State) (f : CasSt → CasSt) : (s.updCas f).pending = s.pending := rfl
@[simp] theorem State.updCas_clk (s : State) (f : CasSt → CasSt) : (s.updCas f).clk = s.clk := rfl
@[simp] theorem State.updCas_regs (s : State) (f : CasSt → CasSt) : (s.updCas f).regs = s.regs := rfl
@[simp] theorem State.updCas_mwin (s : State) (f : CasSt → CasSt) : (s.updCas f).mwin = s.mwin := rfl
@[simp] theorem State.updCas_arr (s : State) (f : CasSt → CasSt) : (s.updCas f).arr = s.arr := rfl
@[simp] theorem State.updCas_tbl (s : State) (f : CasSt → CasSt) : (s.updCas f).tbl = s.tbl := rfl
@[simp] theorem State.updCas_mem (s : State) (f : CasSt → CasSt) : (s.updCas f).mem = s.mem := rfl
@[simp] theorem State.updCas_lnk (s : State) (f : CasSt → CasSt) : (s.updCas f).lnk = s.lnk := rfl
@[simp] theorem State.updCas_pip (s : State) (f : CasSt → CasSt) : (s.updCas f).pip = s.pip := rfl
@[simp] theorem State.updCas_upd (s : State) (f : CasSt → CasSt) : (s.updCas f).upd = s.upd := rfl
@[simp] theorem State.updCas_epc (s : State) (f : CasSt → CasSt) : (s.updCas f).epc = s.epc := rfl
@[simp] theorem State.updCas_tod (s : State) (f : CasSt → CasSt) : (s.updCas f).tod = s.tod := rfl
@[simp] theorem State.updCas_cas (s : State) (f : CasSt → CasSt) : (s.updCas f).cas = f s.cas := rfl
@[simp] theorem State.updCas_hif (s : State) (f : CasSt → CasSt) : (s.updCas f).hif = s.hif := rfl
@[simp] theorem State.updCas_prt (s : State) (f : CasSt → CasSt) : (s.updCas f).prt = s.prt := rfl
@[simp] theorem State.updCas_err (s : State) (f : CasSt → CasSt) : (s.updCas f).err = s.err := rfl
@[simp] theorem State.updCas_drc (s : State) (f : CasSt → CasSt) : (s.updCas f).drc = s.drc := rfl
@[simp] theorem State.updCas_rst (s : State) (f : CasSt → CasSt) : (s.updCas f).rst = s.rst := rfl
@[simp] theorem State.updCas_pwr (s : State) (f : CasSt → CasSt) : (s.updCas f).pwr = s.pwr := rfl
@[simp] theorem State.updCas_fwu (s : State) (f : CasSt → CasSt) : (s.updCas f).fwu = s.fwu := rfl
@[simp] theorem State.updCas_vbt (s : State) (f : CasSt → CasSt) : (s.updCas f).vbt = s.vbt := rfl
@[simp] theorem State.updHif_pending (s : State) (f : HifSt → HifSt) : (s.updHif f).pending = s.pending := rfl
@[simp] theorem State.updHif_clk (s : State) (f : HifSt → HifSt) : (s.updHif f).clk = s.clk := rfl
@[simp] theorem State.updHif_regs (s : State) (f : HifSt → HifSt) : (s.updHif f).regs = s.regs := rfl
@[simp] theorem State.updHif_mwin (s : State) (f : HifSt → HifSt) : (s.updHif f).mwin = s.mwin := rfl
@[simp] theorem State.updHif_arr (s : State) (f : HifSt → HifSt) : (s.updHif f).arr = s.arr := rfl
@[simp] theorem State.updHif_tbl (s : State) (f : HifSt → HifSt) : (s.updHif f).tbl = s.tbl := rfl
@[simp] theorem State.updHif_mem (s : State) (f : HifSt → HifSt) : (s.updHif f).mem = s.mem := rfl
@[simp] theorem State.updHif_lnk (s : State) (f : HifSt → HifSt) : (s.updHif f).lnk = s.lnk := rfl
@[simp] theorem State.updHif_pip (s : State) (f : HifSt → HifSt) : (s.updHif f).pip = s.pip := rfl
@[simp] theorem State.updHif_upd (s : State) (f : HifSt → HifSt) : (s.updHif f).upd = s.upd := rfl
@[simp] theorem State.updHif_epc (s : State) (f : HifSt → HifSt) : (s.updHif f).epc = s.epc := rfl
@[simp] theorem State.updHif_tod (s : State) (f : HifSt → HifSt) : (s.updHif f).tod = s.tod := rfl
@[simp] theorem State.updHif_cas (s : State) (f : HifSt → HifSt) : (s.updHif f).cas = s.cas := rfl
@[simp] theorem State.updHif_hif (s : State) (f : HifSt → HifSt) : (s.updHif f).hif = f s.hif := rfl
@[simp] theorem State.updHif_prt (s : State) (f : HifSt → HifSt) : (s.updHif f).prt = s.prt := rfl
@[simp] theorem State.updHif_err (s : State) (f : HifSt → HifSt) : (s.updHif f).err = s.err := rfl
@[simp] theorem State.updHif_drc (s : State) (f : HifSt → HifSt) : (s.updHif f).drc = s.drc := rfl
@[simp] theorem State.updHif_rst (s : State) (f : HifSt → HifSt) : (s.updHif f).rst = s.rst := rfl
@[simp] theorem State.updHif_pwr (s : State) (f : HifSt → HifSt) : (s.updHif f).pwr = s.pwr := rfl
@[simp] theorem State.updHif_fwu (s : State) (f : HifSt → HifSt) : (s.updHif f).fwu = s.fwu := rfl
@[simp] theorem State.updHif_vbt (s : State) (f : HifSt → HifSt) : (s.updHif f).vbt = s.vbt := rfl
@[simp] theorem State.updPrt_pending (s : State) (f : PrtSt → PrtSt) : (s.updPrt f).pending = s.pending := rfl
@[simp] theorem State.updPrt_clk (s : State) (f : PrtSt → PrtSt) : (s.updPrt f).clk = s.clk := rfl
@[simp] theorem State.updPrt_regs (s : State) (f : PrtSt → PrtSt) : (s.updPrt f).regs = s.regs := rfl
@[simp] theorem State.updPrt_mwin (s : State) (f : PrtSt → PrtSt) : (s.updPrt f).mwin = s.mwin := rfl
@[simp] theorem State.updPrt_arr (s : State) (f : PrtSt → PrtSt) : (s.updPrt f).arr = s.arr := rfl
@[simp] theorem State.updPrt_tbl (s : State) (f : PrtSt → PrtSt) : (s.updPrt f).tbl = s.tbl := rfl
@[simp] theorem State.updPrt_mem (s : State) (f : PrtSt → PrtSt) : (s.updPrt f).mem = s.mem := rfl
@[simp] theorem State.updPrt_lnk (s : State) (f : PrtSt → PrtSt) : (s.updPrt f).lnk = s.lnk := rfl
@[simp] theorem State.updPrt_pip (s : State) (f : PrtSt → PrtSt) : (s.updPrt f).pip = s.pip := rfl
@[simp] theorem State.updPrt_upd (s : State) (f : PrtSt → PrtSt) : (s.updPrt f).upd = s.upd := rfl
@[simp] theorem State.updPrt_epc (s : State) (f : PrtSt → PrtSt) : (s.updPrt f).epc = s.epc := rfl
@[simp] theorem State.updPrt_tod (s : State) (f : PrtSt → PrtSt) : (s.updPrt f).tod = s.tod := rfl
@[simp] theorem State.updPrt_cas (s : State) (f : PrtSt → PrtSt) : (s.updPrt f).cas = s.cas := rfl
@[simp] theorem State.updPrt_hif (s : State) (f : PrtSt → PrtSt) : (s.updPrt f).hif = s.hif := rfl
@[simp] theorem State.updPrt_prt (s : State) (f : PrtSt → PrtSt) : (s.updPrt f).prt = f s.prt := rfl
@[simp] theorem State.updPrt_err (s : State) (f : PrtSt → PrtSt) : (s.updPrt f).err = s.err := rfl
@[simp] theorem State.updPrt_drc (s : State) (f : PrtSt → PrtSt) : (s.updPrt f).drc = s.drc := rfl
@[simp] theorem State.updPrt_rst (s : State) (f : PrtSt → PrtSt) : (s.updPrt f).rst = s.rst := rfl
@[simp] theorem State.updPrt_pwr (s : State) (f : PrtSt → PrtSt) : (s.updPrt f).pwr = s.pwr := rfl
@[simp] theorem State.updPrt_fwu (s : State) (f : PrtSt → PrtSt) : (s.updPrt f).fwu = s.fwu := rfl
@[simp] theorem State.updPrt_vbt (s : State) (f : PrtSt → PrtSt) : (s.updPrt f).vbt = s.vbt := rfl
@[simp] theorem State.updErr_pending (s : State) (f : ErrSt → ErrSt) : (s.updErr f).pending = s.pending := rfl
@[simp] theorem State.updErr_clk (s : State) (f : ErrSt → ErrSt) : (s.updErr f).clk = s.clk := rfl
@[simp] theorem State.updErr_regs (s : State) (f : ErrSt → ErrSt) : (s.updErr f).regs = s.regs := rfl
@[simp] theorem State.updErr_mwin (s : State) (f : ErrSt → ErrSt) : (s.updErr f).mwin = s.mwin := rfl
@[simp] theorem State.updErr_arr (s : State) (f : ErrSt → ErrSt) : (s.updErr f).arr = s.arr := rfl
@[simp] theorem State.updErr_tbl (s : State) (f : ErrSt → ErrSt) : (s.updErr f).tbl = s.tbl := rfl
@[simp] theorem State.updErr_mem (s : State) (f : ErrSt → ErrSt) : (s.updErr f).mem = s.mem := rfl
@[simp] theorem State.updErr_lnk (s : State) (f : ErrSt → ErrSt) : (s.updErr f).lnk = s.lnk := rfl
@[simp] theorem State.updErr_pip (s : State) (f : ErrSt → ErrSt) : (s.updErr f).pip = s.pip := rfl
@[simp] theorem State.updErr_upd (s : State) (f : ErrSt → ErrSt) : (s.updErr f).upd = s.upd := rfl
@[simp] theorem State.updErr_epc (s : State) (f : ErrSt → ErrSt) : (s.updErr f).epc = s.epc := rfl
@[simp] theorem State.updErr_tod (s : State) (f : ErrSt → ErrSt) : (s.updErr f).tod = s.tod := rfl
@[simp] theorem State.updErr_cas (s : State) (f : ErrSt → ErrSt) : (s.updErr f).cas = s.cas := rfl
@[simp] theorem State.updErr_hif (s : State) (f : ErrSt → ErrSt) : (s.updErr f).hif = s.hif := rfl
@[simp] theorem State.updErr_prt (s : State) (f : ErrSt → ErrSt) : (s.updErr f).prt = s.prt := rfl
@[simp] theorem State.updErr_err (s : State) (f : ErrSt → ErrSt) : (s.updErr f).err = f s.err := rfl
@[simp] theorem State.updErr_drc (s : State) (f : ErrSt → ErrSt) : (s.updErr f).drc = s.drc := rfl
@[simp] theorem State.updErr_rst (s : State) (f : ErrSt → ErrSt) : (s.updErr f).rst = s.rst := rfl
@[simp] theorem State.updErr_pwr (s : State) (f : ErrSt → ErrSt) : (s.updErr f).pwr = s.pwr := rfl
@[simp] theorem State.updErr_fwu (s : State) (f : ErrSt → ErrSt) : (s.updErr f).fwu = s.fwu := rfl
@[simp] theorem State.updErr_vbt (s : State) (f : ErrSt → ErrSt) : (s.updErr f).vbt = s.vbt := rfl
@[simp] theorem State.updDrc_pending (s : State) (f : DrcSt → DrcSt) : (s.updDrc f).pending = s.pending := rfl
@[simp] theorem State.updDrc_clk (s : State) (f : DrcSt → DrcSt) : (s.updDrc f).clk = s.clk := rfl
@[simp] theorem State.updDrc_regs (s : State) (f : DrcSt → DrcSt) : (s.updDrc f).regs = s.regs := rfl
@[simp] theorem State.updDrc_mwin (s : State) (f : DrcSt → DrcSt) : (s.updDrc f).mwin = s.mwin := rfl
@[simp] theorem State.updDrc_arr (s : State) (f : DrcSt → DrcSt) : (s.updDrc f).arr = s.arr := rfl
@[simp] theorem State.updDrc_tbl (s : State) (f : DrcSt → DrcSt) : (s.updDrc f).tbl = s.tbl := rfl
@[simp] theorem State.updDrc_mem (s : State) (f : DrcSt → DrcSt) : (s.updDrc f).mem = s.mem := rfl
@[simp] theorem State.updDrc_lnk (s : State) (f : DrcSt → DrcSt) : (s.updDrc f).lnk = s.lnk := rfl
@[simp] theorem State.updDrc_pip (s : State) (f : DrcSt → DrcSt) : (s.updDrc f).pip = s.pip := rfl
@[simp] theorem State.updDrc_upd (s : State) (f : DrcSt → DrcSt) : (s.updDrc f).upd = s.upd := rfl
@[simp] theorem State.updDrc_epc (s : State) (f : DrcSt → DrcSt) : (s.updDrc f).epc = s.epc := rfl
@[simp] theorem State.updDrc_tod (s : State) (f : DrcSt → DrcSt) : (s.updDrc f).tod = s.tod := rfl
@[simp] theorem State.updDrc_cas (s : State) (f : DrcSt → DrcSt) : (s.updDrc f).cas = s.cas := rfl
@[simp] theorem State.updDrc_hif (s : State) (f : DrcSt → DrcSt) : (s.updDrc f).hif = s.hif := rfl
@[simp] theorem State.updDrc_prt (s : State) (f : DrcSt → DrcSt) : (s.updDrc f).prt = s.prt := rfl
@[simp] theorem State.updDrc_err (s : State) (f : DrcSt → DrcSt) : (s.updDrc f).err = s.err := rfl
@[simp] theorem State.updDrc_drc (s : State) (f : DrcSt → DrcSt) : (s.updDrc f).drc = f s.drc := rfl
@[simp] theorem State.updDrc_rst (s : State) (f : DrcSt → DrcSt) : (s.updDrc f).rst = s.rst := rfl
@[simp] theorem State.updDrc_pwr (s : State) (f : DrcSt → DrcSt) : (s.updDrc f).pwr = s.pwr := rfl
@[simp] theorem State.updDrc_fwu (s : State) (f : DrcSt → DrcSt) : (s.updDrc f).fwu = s.fwu := rfl
@[simp] theorem State.updDrc_vbt (s : State) (f : DrcSt → DrcSt) : (s.updDrc f).vbt = s.vbt := rfl
@[simp] theorem State.updRst_pending (s : State) (f : RstSt → RstSt) : (s.updRst f).pending = s.pending := rfl
@[simp] theorem State.updRst_clk (s : State) (f : RstSt → RstSt) : (s.updRst f).clk = s.clk := rfl
@[simp] theorem State.updRst_regs (s : State) (f : RstSt → RstSt) : (s.updRst f).regs = s.regs := rfl
@[simp] theorem State.updRst_mwin (s : State) (f : RstSt → RstSt) : (s.updRst f).mwin = s.mwin := rfl
@[simp] theorem State.updRst_arr (s : State) (f : RstSt → RstSt) : (s.updRst f).arr = s.arr := rfl
@[simp] theorem State.updRst_tbl (s : State) (f : RstSt → RstSt) : (s.updRst f).tbl = s.tbl := rfl
@[simp] theorem State.updRst_mem (s : State) (f : RstSt → RstSt) : (s.updRst f).mem = s.mem := rfl
@[simp] theorem State.updRst_lnk (s : State) (f : RstSt → RstSt) : (s.updRst f).lnk = s.lnk := rfl
@[simp] theorem State.updRst_pip (s : State) (f : RstSt → RstSt) : (s.updRst f).pip = s.pip := rfl
@[simp] theorem State.updRst_upd (s : State) (f : RstSt → RstSt) : (s.updRst f).upd = s.upd := rfl
@[simp] theorem State.updRst_epc (s : State) (f : RstSt → RstSt) : (s.updRst f).epc = s.epc := rfl
@[simp] theorem State.updRst_tod (s : State) (f : RstSt → RstSt) : (s.updRst f).tod = s.tod := rfl
@[simp] theorem State.updRst_cas (s : State) (f : RstSt → RstSt) : (s.updRst f).cas = s.cas := rfl
@[simp] theorem State.updRst_hif (s : State) (f : RstSt → RstSt) : (s.updRst f).hif = s.hif := rfl
@[simp] theorem State.updRst_prt (s : State) (f : RstSt → RstSt) : (s.updRst f).prt = s.prt := rfl
@[simp] theorem State.updRst_err (s : State) (f : RstSt → RstSt) : (s.updRst f).err = s.err := rfl
@[simp] theorem State.updRst_drc (s : State) (f : RstSt → RstSt) : (s.updRst f).drc = s.drc := rfl
@[simp] theorem State.updRst_rst (s : State) (f : RstSt → RstSt) : (s.updRst f).rst = f s.rst := rfl
@[simp] theorem State.updRst_pwr (s : State) (f : RstSt → RstSt) : (s.updRst f).pwr = s.pwr := rfl
@[simp] theorem State.updRst_fwu (s : State) (f : RstSt → RstSt) : (s.updRst f).fwu = s.fwu := rfl
@[simp] theorem State.updRst_vbt (s : State) (f : RstSt → RstSt) : (s.updRst f).vbt = s.vbt := rfl
@[simp] theorem State.updPwr_pending (s : State) (f : PwrSt → PwrSt) : (s.updPwr f).pending = s.pending := rfl
@[simp] theorem State.updPwr_clk (s : State) (f : PwrSt → PwrSt) : (s.updPwr f).clk = s.clk := rfl
@[simp] theorem State.updPwr_regs (s : State) (f : PwrSt → PwrSt) : (s.updPwr f).regs = s.regs := rfl
@[simp] theorem State.updPwr_mwin (s : State) (f : PwrSt → PwrSt) : (s.updPwr f).mwin = s.mwin := rfl
@[simp] theorem State.updPwr_arr (s : State) (f : PwrSt → PwrSt) : (s.updPwr f).arr = s.arr := rfl
@[simp] theorem State.updPwr_tbl (s : State) (f : PwrSt → PwrSt) : (s.updPwr f).tbl = s.tbl := rfl
@[simp] theorem State.updPwr_mem (s : State) (f : PwrSt → PwrSt) : (s.updPwr f).mem = s.mem := rfl
@[simp] theorem State.updPwr_lnk (s : State) (f : PwrSt → PwrSt) : (s.updPwr f).lnk = s.lnk := rfl
@[simp] theorem State.updPwr_pip (s : State) (f : PwrSt → PwrSt) : (s.updPwr f).pip = s.pip := rfl
@[simp] theorem State.updPwr_upd (s : State) (f : PwrSt → PwrSt) : (s.updPwr f).upd = s.upd := rfl
@[simp] theorem State.updPwr_epc (s : State) (f : PwrSt → PwrSt) : (s.updPwr f).epc = s.epc := rfl
@[simp] theorem State.updPwr_tod (s : State) (f : PwrSt → PwrSt) : (s.updPwr f).tod = s.tod := rfl
@[simp] theorem State.updPwr_cas (s : State) (f : PwrSt → PwrSt) : (s.updPwr f).cas = s.cas := rfl
@[simp] theorem State.updPwr_hif (s : State) (f : PwrSt → PwrSt) : (s.updPwr f).hif = s.hif := rfl
@[simp] theorem State.updPwr_prt (s : State) (f : PwrSt → PwrSt) : (s.updPwr f).prt = s.prt := rfl
@[simp] theorem State.updPwr_err (s : State) (f : PwrSt → PwrSt) : (s.updPwr f).err = s.err := rfl
@[simp] theorem State.updPwr_drc (s : State) (f : PwrSt → PwrSt) : (s.updPwr f).drc = s.drc := rfl
@[simp] theorem State.updPwr_rst (s : State) (f : PwrSt → PwrSt) : (s.updPwr f).rst = s.rst := rfl
@[simp] theorem State.updPwr_pwr (s : State) (f : PwrSt → PwrSt) : (s.updPwr f).pwr = f s.pwr := rfl
@[simp] theorem State.updPwr_fwu (s : State) (f : PwrSt → PwrSt) : (s.updPwr f).fwu = s.fwu := rfl
@[simp] theorem State.updPwr_vbt (s : State) (f : PwrSt → PwrSt) : (s.updPwr f).vbt = s.vbt := rfl
@[simp] theorem State.updFwu_pending (s : State) (f : FwuSt → FwuSt) : (s.updFwu f).pending = s.pending := rfl
@[simp] theorem State.updFwu_clk (s : State) (f : FwuSt → FwuSt) : (s.updFwu f).clk = s.clk := rfl
@[simp] theorem State.updFwu_regs (s : State) (f : FwuSt → FwuSt) : (s.updFwu f).regs = s.regs := rfl
@[simp] theorem State.updFwu_mwin (s : State) (f : FwuSt → FwuSt) : (s.updFwu f).mwin = s.mwin := rfl
@[simp] theorem State.updFwu_arr (s : State) (f : FwuSt → FwuSt) : (s.updFwu f).arr = s.arr := rfl
@[simp] theorem State.updFwu_tbl (s : State) (f : FwuSt → FwuSt) : (s.updFwu f).tbl = s.tbl := rfl
@[simp] theorem State.updFwu_mem (s : State) (f : FwuSt → FwuSt) : (s.updFwu f).mem = s.mem := rfl
@[simp] theorem State.updFwu_lnk (s : State) (f : FwuSt → FwuSt) : (s.updFwu f).lnk = s.lnk := rfl
@[simp] theorem State.updFwu_pip (s : State) (f : FwuSt → FwuSt) : (s.updFwu f).pip = s.pip := rfl
@[simp] theorem State.updFwu_upd (s : State) (f : FwuSt → FwuSt) : (s.updFwu f).upd = s.upd := rfl
@[simp] theorem State.updFwu_epc (s : State) (f : FwuSt → FwuSt) : (s.updFwu f).epc = s.epc := rfl
@[simp] theorem State.updFwu_tod (s : State) (f : FwuSt → FwuSt) : (s.updFwu f).tod = s.tod := rfl
@[simp] theorem State.updFwu_cas (s : State) (f : FwuSt → FwuSt) : (s.updFwu f).cas = s.cas := rfl
@[simp] theorem State.updFwu_hif (s : State) (f : FwuSt → FwuSt) : (s.updFwu f).hif = s.hif := rfl
@[simp] theorem State.updFwu_prt (s : State) (f : FwuSt → FwuSt) : (s.updFwu f).prt = s.prt := rfl
@[simp] theorem State.updFwu_err (s : State) (f : FwuSt → FwuSt) : (s.updFwu f).err = s.err := rfl
@[simp] theorem State.updFwu_drc (s : State) (f : FwuSt → FwuSt) : (s.updFwu f).drc = s.drc := rfl
@[simp] theorem State.updFwu_rst (s : State) (f : FwuSt → FwuSt) : (s.updFwu f).rst = s.rst := rfl
@[simp] theorem State.updFwu_pwr (s : State) (f : FwuSt → FwuSt) : (s.updFwu f).pwr = s.pwr := rfl
@[simp] theorem State.updFwu_fwu (s : State) (f : FwuSt → FwuSt) : (s.updFwu f).fwu = f s.fwu := rfl
@[simp] theorem State.updFwu_vbt (s : State) (f : FwuSt → FwuSt) : (s.updFwu f).vbt = s.vbt := rfl
@[simp] theorem State.updVbt_pending (s : State) (f : VbtSt → VbtSt) : (s.updVbt f).pending = s.pending := rfl
@[simp] theorem State.updVbt_clk (s : State) (f : VbtSt → VbtSt) : (s.updVbt f).clk = s.clk := rfl
@[simp] theorem State.updVbt_regs (s : State) (f : VbtSt → VbtSt) : (s.updVbt f).regs = s.regs := rfl
@[simp] theorem State.updVbt_mwin (s : State) (f : VbtSt → VbtSt) : (s.updVbt f).mwin = s.mwin := rfl
@[simp] theorem State.updVbt_arr (s : State) (f : VbtSt → VbtSt) : (s.updVbt f).arr = s.arr := rfl
@[simp] theorem State.updVbt_tbl (s : State) (f : VbtSt → VbtSt) : (s.updVbt f).tbl = s.tbl := rfl
@[simp] theorem State.updVbt_mem (s : State) (f : VbtSt → VbtSt) : (s.updVbt f).mem = s.mem := rfl
@[simp] theorem State.updVbt_lnk (s : State) (f : VbtSt → VbtSt) : (s.updVbt f).lnk = s.lnk := rfl
@[simp] theorem State.updVbt_pip (s : State) (f : VbtSt → VbtSt) : (s.updVbt f).pip = s.pip := rfl
@[simp] theorem State.updVbt_upd (s : State) (f : VbtSt → VbtSt) : (s.updVbt f).upd = s.upd := rfl
@[simp] theorem State.updVbt_epc (s : State) (f : VbtSt → VbtSt) : (s.updVbt f).epc = s.epc := rfl
@[simp] theorem State.updVbt_tod (s : State) (f : VbtSt → VbtSt) : (s.updVbt f).tod = s.tod := rfl
@[simp] theorem State.updVbt_cas (s : State) (f : VbtSt → VbtSt) : (s.updVbt f).cas = s.cas := rfl
@[simp] theorem State.updVbt_hif (s : State) (f : VbtSt → VbtSt) : (s.updVbt f).hif = s.hif := rfl
@[simp] theorem State.updVbt_prt (s : State) (f : VbtSt → VbtSt) : (s.updVbt f).prt = s.prt := rfl
@[simp] theorem State.updVbt_err (s : State) (f : VbtSt → VbtSt) : (s.updVbt f).err = s.err := rfl
@[simp] theorem State.updVbt_drc (s : State) (f : VbtSt → VbtSt) : (s.updVbt f).drc = s.drc := rfl
@[simp] theorem State.updVbt_rst (s : State) (f : VbtSt → VbtSt) : (s.updVbt f).rst = s.rst := rfl
@[simp] theorem State.updVbt_pwr (s : State) (f : VbtSt → VbtSt) : (s.updVbt f).pwr = s.pwr := rfl
@[simp] theorem State.updVbt_fwu (s : State) (f : VbtSt → VbtSt) : (s.updVbt f).fwu = s.fwu := rfl
@[simp] theorem State.updVbt_vbt (s : State) (f : VbtSt → VbtSt) : (s.updVbt f).vbt = f s.vbt := rfl

end Sys2Proof.Machine
end

