-- ==== Sys2Proof/Laws/Tab.lean ====
section
/-! SUPPORT. Sparse tables and memories: what a read after a write gives, and that every operation keeps the canonical form. -/

namespace Sys2Proof.Machine

set_option linter.all false

open Sys2Proof

/-! Reads after writes. -/

theorem tabFind_erase {α : Type} (t : Tab α) (n m : Nat) (h : tabRising t = true) :
    tabFind (tabErase t n) m = if m = n then none else tabFind t m := by
  induction t with
  | nil => simp [tabErase, tabFind]
  | cons x t ih =>
    obtain ⟨k, v⟩ := x
    simp only [tabRising, Bool.and_eq_true, List.all_eq_true, decide_eq_true_eq] at h
    have hn : ∀ j, j ≤ k → tabFind t j = none := by
      intro j hj
      cases t with
      | nil => rfl
      | cons y t =>
        have := h.1 y (by simp)
        obtain ⟨k', v'⟩ := y
        simp only [tabFind]
        rw [if_pos (by simp at this; omega)]
    simp only [tabErase]
    split
    · simp only [tabFind]; split <;> split <;> simp_all <;> omega
    · split
      · subst_vars
        by_cases hm : m = k
        · subst hm; simp [hn m (Nat.le_refl _)]
        · simp only [hm, if_false, tabFind]
          split
          · exact hn m (by omega)
          · rfl
      · simp only [tabFind]
        split
        · split <;> simp_all
        · split
          · rw [if_neg (by omega)]
          · exact ih h.2

theorem tabFind_insert {α : Type} (t : Tab α) (n m : Nat) (x : α) (h : tabRising t = true) :
    tabFind (tabInsert t n x) m = if m = n then some x else tabFind t m := by
  induction t with
  | nil => simp only [tabInsert, tabFind]; split <;> split <;> simp_all
  | cons y t ih =>
    obtain ⟨k, v⟩ := y
    simp only [tabRising, Bool.and_eq_true] at h
    simp only [tabInsert]
    split
    · simp only [tabFind]
      split
      · rw [if_neg (by omega)]; split
        · rfl
        · omega
      · split
        · rfl
        · rfl
    · split
      · subst_vars; simp only [tabFind]; split
        · rw [if_neg (by omega)]
        · by_cases hm : m = k
          · simp [hm]
          · simp [hm]
      · simp only [tabFind]
        split
        · rw [if_neg (by omega)]
        · split
          · rw [if_neg (by omega)]
          · exact ih h.2

/-- A key just written reads as what was written, and every other key as before. -/
theorem tabGet_set {α : Type} [DecidableEq α] (d : α) (t : Tab α) (n m : Nat) (x : α) (h : tabRising t = true) :
    tabGet d (tabSet d t n x) m = if m = n then x else tabGet d t m := by
  simp only [tabGet, tabSet]
  split
  · rw [tabFind_erase t n m h]; split <;> simp_all
  · rw [tabFind_insert t n m x h]; split <;> rfl

/-- Without any assumption on the table, a key just listed is found. -/
theorem tabFind_insert_self {α : Type} (t : Tab α) (n : Nat) (x : α) : tabFind (tabInsert t n x) n = some x := by
  induction t with
  | nil => simp [tabInsert, tabFind]
  | cons y t ih =>
    obtain ⟨k, v⟩ := y
    simp only [tabInsert]
    split
    · simp [tabFind]
    · split
      · simp [tabFind]
      · simp only [tabFind]; rw [if_neg (by omega), if_neg (by omega)]; exact ih

/-! The canonical form. -/

theorem tabErase_sub {α : Type} (t : Tab α) (n : Nat) : ∀ x ∈ tabErase t n, x ∈ t := by
  induction t with
  | nil => simp [tabErase]
  | cons y t ih =>
    obtain ⟨k, v⟩ := y
    simp only [tabErase]
    intro x hx
    split at hx
    · exact hx
    · split at hx
      · exact List.mem_cons_of_mem _ hx
      · cases List.mem_cons.1 hx with
        | inl h => subst h; simp
        | inr h => exact List.mem_cons_of_mem _ (ih x h)

theorem tabInsert_sub {α : Type} (t : Tab α) (n : Nat) (v : α) : ∀ x ∈ tabInsert t n v, x = (n, v) ∨ x ∈ t := by
  induction t with
  | nil => simp [tabInsert]
  | cons y t ih =>
    obtain ⟨k, w⟩ := y
    simp only [tabInsert]
    intro x hx
    split at hx
    · exact List.mem_cons.1 hx
    · split at hx
      · cases List.mem_cons.1 hx with
        | inl h => exact .inl h
        | inr h => exact .inr (List.mem_cons_of_mem _ h)
      · cases List.mem_cons.1 hx with
        | inl h => exact .inr (by simp [h])
        | inr h =>
          cases ih x h with
          | inl h => exact .inl h
          | inr h => exact .inr (List.mem_cons_of_mem _ h)

@[simp] theorem tabErase_rising {α : Type} (t : Tab α) (n : Nat) (h : tabRising t = true) : tabRising (tabErase t n) = true := by
  induction t with
  | nil => rfl
  | cons y t ih =>
    obtain ⟨k, v⟩ := y
    simp only [tabRising, Bool.and_eq_true, List.all_eq_true] at h
    simp only [tabErase]
    split
    · simpa [tabRising] using h
    · split
      · exact h.2
      · simp only [tabRising, Bool.and_eq_true, List.all_eq_true]
        exact ⟨fun x hx => h.1 x (tabErase_sub t n x hx), ih h.2⟩

@[simp] theorem tabInsert_rising {α : Type} (t : Tab α) (n : Nat) (v : α) (h : tabRising t = true) :
    tabRising (tabInsert t n v) = true := by
  induction t with
  | nil => rfl
  | cons y t ih =>
    obtain ⟨k, w⟩ := y
    have h' := h
    simp only [tabRising, Bool.and_eq_true, List.all_eq_true, decide_eq_true_eq] at h
    simp only [tabInsert]
    split
    · simp only [tabRising, Bool.and_eq_true, List.all_eq_true, decide_eq_true_eq]
      refine ⟨?_, h.1, h.2⟩
      intro x hx
      cases List.mem_cons.1 hx with
      | inl hx => subst hx; assumption
      | inr hx => exact Nat.lt_trans (by assumption) (h.1 x hx)
    · split
      · subst_vars; simpa [tabRising] using h
      · simp only [tabRising, Bool.and_eq_true, List.all_eq_true, decide_eq_true_eq]
        refine ⟨?_, ih h.2⟩
        intro x hx
        cases tabInsert_sub t n v x hx with
        | inl hx => subst hx; simp only; omega
        | inr hx => exact h.1 x hx

@[simp] theorem tabSet_rising {α : Type} [DecidableEq α] (d : α) (t : Tab α) (n : Nat) (v : α) (h : tabRising t = true) :
    tabRising (tabSet d t n v) = true := by
  simp only [tabSet]; split
  · exact tabErase_rising t n h
  · exact tabInsert_rising t n v h

/-- Writing a key keeps the canonical form. -/
theorem tabSet_ok {α : Type} [DecidableEq α] (d : α) (t : Tab α) (n : Nat) (v : α) (h : tabOk d t = true) :
    tabOk d (tabSet d t n v) = true := by
  simp only [tabOk, Bool.and_eq_true, List.all_eq_true] at h ⊢
  refine ⟨tabSet_rising d t n v h.1, ?_⟩
  intro x hx
  simp only [tabSet] at hx
  split at hx
  · exact h.2 x (tabErase_sub t n x hx)
  · cases tabInsert_sub t n v x hx with
    | inl hx => subst hx; simpa using ‹¬ v = d›
    | inr hx => exact h.2 x hx

@[simp] theorem tabNil_rising {α : Type} : tabRising ([] : Tab α) = true := rfl

@[simp] theorem tabMod_rising {α : Type} [DecidableEq α] (d : α) (t : Tab α) (n : Nat) (f : α → α) (h : tabRising t = true) :
    tabRising (tabMod d t n f) = true := tabSet_rising _ _ _ _ h

/-- A table changed by one write after another. -/
theorem tabFold_rising {α β : Type} {g : Tab α → β → Tab α} (hg : ∀ t b, tabRising t = true → tabRising (g t b) = true)
    (l : List β) (t : Tab α) (h : tabRising t = true) : tabRising (l.foldl g t) = true := by
  induction l generalizing t with
  | nil => exact h
  | cons b l ih => exact ih _ (hg t b h)

/-- A table whose values change and whose keys stay. -/
@[simp] theorem tabMap_rising {α β : Type} (g : Nat × α → β) (t : Tab α) (h : tabRising t = true) :
    tabRising (t.map fun x => (x.1, g x)) = true := by
  induction t with
  | nil => rfl
  | cons y t ih =>
    simp only [tabRising, List.map_cons, Bool.and_eq_true, List.all_eq_true, List.mem_map] at h ⊢
    refine ⟨?_, ih h.2⟩
    rintro _ ⟨x, hx, rfl⟩
    exact h.1 x hx

@[simp] theorem tabRising_filter {α : Type} (t : Tab α) (p : Nat × α → Bool) (h : tabRising t = true) :
    tabRising (t.filter p) = true := by
  induction t with
  | nil => rfl
  | cons y t ih =>
    obtain ⟨k, v⟩ := y
    simp only [tabRising, Bool.and_eq_true, List.all_eq_true] at h
    simp only [List.filter]
    split
    · simp only [tabRising, Bool.and_eq_true, List.all_eq_true]
      exact ⟨fun x hx => h.1 x (List.mem_filter.1 hx).1, ih h.2⟩
    · exact ih h.2

/-- Removing entries keeps the canonical form. -/
theorem tabOk_filter {α : Type} [DecidableEq α] (d : α) (t : Tab α) (p : Nat × α → Bool) (h : tabOk d t = true) :
    tabOk d (t.filter p) = true := by
  simp only [tabOk, Bool.and_eq_true, List.all_eq_true] at h ⊢
  exact ⟨tabRising_filter t p h.1, fun x hx => h.2 x (List.mem_filter.1 hx).1⟩

/-! Memories. -/

/-- A byte just written reads as what was written, and every other byte as before. -/
theorem memByte_set (m : List Host.Cell) (a b : Nat) (v : Byte) (h : Memory.wf m = true) :
    memByte (memSetByte m a v) b = if b = a then v else memByte m b := by
  simp only [Memory.wf, tabOk, Bool.and_eq_true] at h
  exact tabGet_set 0 m a b v h.1

theorem memNil_wf : Memory.wf [] = true := rfl

theorem memSetByte_wf (m : List Host.Cell) (a : Nat) (v : Byte) (h : Memory.wf m = true) :
    Memory.wf (memSetByte m a v) = true := tabSet_ok 0 m a v h

theorem memSetBytes_wf (bs : List Byte) : ∀ (m : List Host.Cell) (a : Nat), Memory.wf m = true →
    Memory.wf (memSetBytes m a bs) = true := by
  induction bs with
  | nil => intro m a h; exact h
  | cons b bs ih => intro m a h; exact ih _ _ (memSetByte_wf m a b h)

theorem memSetWord_wf (m : List Host.Cell) (w : Nat) (v : W64) (h : Memory.wf m = true) :
    Memory.wf (memSetWord m w v) = true := memSetBytes_wf _ m _ h

theorem memFilter_wf (m : List Host.Cell) (p : Host.Cell → Bool) (h : Memory.wf m = true) :
    Memory.wf (m.filter p) = true := tabOk_filter 0 m p h

theorem memFold_wf {α : Type} {g : List Host.Cell → α → List Host.Cell} (hg : ∀ m a, Memory.wf m = true → Memory.wf (g m a) = true)
    (l : List α) : ∀ m, Memory.wf m = true → Memory.wf (l.foldl g m) = true := by
  induction l with
  | nil => exact fun m h => h
  | cons a l ih => exact fun m h => ih _ (hg m a h)

/-- Bytes written from an address up leave every byte outside them. -/
theorem memByte_setBytes_out (bs : List Byte) : ∀ (m : List Host.Cell) (a b : Nat), Memory.wf m = true →
    b < a ∨ a + bs.length ≤ b → memByte (memSetBytes m a bs) b = memByte m b := by
  induction bs with
  | nil => intro m a b _ _; rfl
  | cons x bs ih =>
    intro m a b h hb
    simp only [List.length_cons] at hb
    simp only [memSetBytes]
    rw [ih _ _ _ (memSetByte_wf m a x h) (by omega), memByte_set m a b x h, if_neg (by omega)]

end Sys2Proof.Machine
end

