-- ==== Sys2Proof/Laws/Frame.lean ====
section
/-! SUPPORT. `Frame cs s t`: t differs from s in the components cs at most, and keeps the invariant. Each operation of
the model has one lemma of this form, under its own name with `_frame`. -/

namespace Sys2Proof.Machine

set_option linter.all false

open Sys2Proof

/-- t differs from s in the components cs at most, and keeps the invariant. -/
structure Frame (cs : List Comp) (s t : State) : Prop where
  only : Only cs s t
  inv : Inv s → Inv t

theorem Frame.refl (cs : List Comp) (s : State) : Frame cs s s :=
  ⟨fun c _ => by cases c <;> exact rfl, id⟩

theorem Comp.same_trans {c : Comp} {s t u : State} (h : c.same s t) (g : c.same t u) : c.same s u := by
  cases c <;> exact Eq.trans g h

/-- One more operation. -/
theorem Frame.app {cs ds : List Comp} {s x y : State} (h : Frame ds x y) (hs : ds.all cs.contains = true)
    (h0 : Frame cs s x) : Frame cs s y := by
  refine ⟨fun c hc => Comp.same_trans (h0.only c hc) (h.only c fun hd => hc ?_), fun i => h.inv (h0.inv i)⟩
  simpa using List.all_eq_true.1 hs c hd

theorem Frame.mono {cs ds : List Comp} {s t : State} (h : Frame ds s t) (hs : ds.all cs.contains = true) :
    Frame cs s t := Frame.app h hs (Frame.refl cs s)

/-! The shapes that meanings are written with. -/

theorem Frame.ite {cs : List Comp} {s x y : State} {c : Prop} [Decidable c] (hx : Frame cs s x) (hy : Frame cs s y) :
    Frame cs s (if c then x else y) := by split <;> assumption

theorem Frame.ite1 {α : Type} {cs : List Comp} {s : State} {x y : State × α} {c : Prop} [Decidable c] (hx : Frame cs s x.1)
    (hy : Frame cs s y.1) : Frame cs s (if c then x else y).1 := by split <;> assumption

theorem Frame.ite2 {α : Type} {cs : List Comp} {s : State} {x y : α × State} {c : Prop} [Decidable c] (hx : Frame cs s x.2)
    (hy : Frame cs s y.2) : Frame cs s (if c then x else y).2 := by split <;> assumption

/-- A local state with its own frame. -/
theorem Frame.cut {cs : List Comp} {s0 x : State} {P : Prop} (hx : Frame cs s0 x) (hb : Frame cs s0 x → P) : P := hb hx

/-- A local function of the state. -/
theorem Frame.cutF {cs : List Comp} {s0 : State} {x : State → State} {P : Prop} (hx : ∀ t, Frame cs s0 t → Frame cs s0 (x t))
    (hb : (∀ t, Frame cs s0 t → Frame cs s0 (x t)) → P) : P := hb hx

theorem Frame.cutG {α : Type} {cs : List Comp} {s0 : State} {x : α → State → State} {P : Prop}
    (hx : ∀ a t, Frame cs s0 t → Frame cs s0 (x a t)) (hb : (∀ a t, Frame cs s0 t → Frame cs s0 (x a t)) → P) : P := hb hx

theorem Frame.cutK {α : Type} {cs : List Comp} {s0 : State} {x : α → State} {P : Prop} (hx : ∀ a, Frame cs s0 (x a))
    (hb : (∀ a, Frame cs s0 (x a)) → P) : P := hb hx

theorem Frame.cutK2 {α β : Type} {cs : List Comp} {s0 : State} {x : α → β → State} {P : Prop} (hx : ∀ a b, Frame cs s0 (x a b))
    (hb : (∀ a b, Frame cs s0 (x a b)) → P) : P := hb hx

theorem Frame.cutS {α : Type} {cs : List Comp} {s0 : State} {x : State → α → State} {P : Prop}
    (hx : ∀ t a, Frame cs s0 t → Frame cs s0 (x t a)) (hb : (∀ t a, Frame cs s0 t → Frame cs s0 (x t a)) → P) : P := hb hx

theorem Frame.cutH {α β : Type} {cs : List Comp} {s0 : State} {x : α → β → State → State} {P : Prop}
    (hx : ∀ a b t, Frame cs s0 t → Frame cs s0 (x a b t)) (hb : (∀ a b t, Frame cs s0 t → Frame cs s0 (x a b t)) → P) : P := hb hx

/-- A state that may be absent. -/
structure FrameO (cs : List Comp) (s : State) (o : Option State) : Prop where
  get : ∀ t, o = some t → Frame cs s t

theorem FrameO.none {cs : List Comp} {s : State} : FrameO cs s .none := ⟨fun _ h => nomatch h⟩

theorem FrameO.some {cs : List Comp} {s t : State} (h : Frame cs s t) : FrameO cs s (.some t) :=
  ⟨fun _ e => by injection e with e; exact e ▸ h⟩

theorem FrameO.map {α : Type} {cs : List Comp} {s : State} {o : Option α} {f : α → State} (h : ∀ a, Frame cs s (f a)) :
    FrameO cs s (o.map f) := by
  cases o with
  | none => exact FrameO.none
  | some a => exact FrameO.some (h a)

theorem FrameO.ite {cs : List Comp} {s : State} {x y : Option State} {c : Prop} [Decidable c] (hx : FrameO cs s x)
    (hy : FrameO cs s y) : FrameO cs s (if c then x else y) := by split <;> assumption

theorem FrameO.orElse {cs : List Comp} {s : State} {x y : Option State} (hx : FrameO cs s x) (hy : FrameO cs s y) :
    FrameO cs s (x <|> y) := ⟨fun t h => by
  cases x with
  | none => exact hy.get t (by simpa using h)
  | some u => exact hx.get t (by simpa using h)⟩

theorem FrameO.getD {cs : List Comp} {s x : State} {o : Option State} (ho : FrameO cs s o) (hx : Frame cs s x) :
    Frame cs s (o.getD x) := by
  cases o with
  | none => exact hx
  | some t => exact ho.get t rfl

theorem FrameO.mono {cs ds : List Comp} {s : State} {o : Option State} (h : FrameO ds s o) (hs : ds.all cs.contains = true) :
    FrameO cs s o := ⟨fun t e => Frame.mono (h.get t e) hs⟩

theorem Frame.findSome {α : Type} {cs : List Comp} {s x : State} {f : α → Option State} {l : List α}
    (hf : ∀ a, FrameO cs s (f a)) (hx : Frame cs s x) : Frame cs s ((l.findSome? f).getD x) := by
  cases h : l.findSome? f with
  | none => exact hx
  | some t =>
    obtain ⟨a, _, ha⟩ := List.exists_of_findSome?_eq_some h
    exact (hf a).get t ha

/-- The second part of a pair. -/
theorem Frame.ofPair {α : Type} {cs : List Comp} {s t : State} {p : α × State} {a : α} (h : Frame cs s p.2) (e : p = (a, t)) :
    Frame cs s t := by subst e; exact h

theorem Frame.ofFst {α : Type} {cs : List Comp} {s t : State} {p : State × α} {a : α} (h : Frame cs s p.1) (e : p = (t, a)) :
    Frame cs s t := by subst e; exact h

theorem Frame.foldl {α : Type} {cs : List Comp} {s0 s : State} {g : State → α → State} {l : List α}
    (h : Frame cs s0 s) (hg : ∀ x a, Frame cs s0 x → Frame cs s0 (g x a)) : Frame cs s0 (l.foldl g s) := by
  induction l generalizing s with
  | nil => exact h
  | cons a l ih => exact ih (hg s a h)

theorem Frame.foldlP {α β : Type} {cs : List Comp} {s0 : State} {p : β × State} {g : β × State → α → β × State}
    {l : List α} (h : Frame cs s0 p.2) (hg : ∀ x a, Frame cs s0 x.2 → Frame cs s0 (g x a).2) :
    Frame cs s0 (l.foldl g p).2 := by
  induction l generalizing p with
  | nil => exact h
  | cons a l ih => exact ih (hg p a h)

/-! The primitive updates. -/

theorem Frame.updArr {cs : List Comp} {s0 s : State} {f : ArrSt → ArrSt} (hc : cs.contains .arr = true)
    (hi : ∀ a : ArrSt, a.sorted → (f a).sorted)
    (h : Frame cs s0 s) : Frame cs s0 (s.updArr f) := by
  refine ⟨fun c hn => Comp.same_trans (h.only c hn) ?_, fun j => have i := h.inv j;
    ⟨i.pantry, i.scratch, i.dram, i.regs, i.mwin, i.slot, i.tod, i.hifTabs, i.errTabs, hi _ i.arrTabs, i.tblTabs,
    i.memTabs, i.lnkTabs, i.pipTabs, i.updTabs, i.epcTabs, i.todTabs, i.casTabs, i.drcTabs, i.pwrTabs,
    i.fwuTabs, i.vbtTabs⟩⟩
  cases c <;> first | exact rfl | (exact absurd (by simpa using hc) hn)

theorem Frame.updTbl {cs : List Comp} {s0 s : State} {f : TblSt → TblSt} (hc : cs.contains .tbl = true)
    (hi : ∀ a : TblSt, a.sorted → (f a).sorted)
    (h : Frame cs s0 s) : Frame cs s0 (s.updTbl f) := by
  refine ⟨fun c hn => Comp.same_trans (h.only c hn) ?_, fun j => have i := h.inv j;
    ⟨i.pantry, i.scratch, i.dram, i.regs, i.mwin, i.slot, i.tod, i.hifTabs, i.errTabs, i.arrTabs, hi _ i.tblTabs,
    i.memTabs, i.lnkTabs, i.pipTabs, i.updTabs, i.epcTabs, i.todTabs, i.casTabs, i.drcTabs, i.pwrTabs,
    i.fwuTabs, i.vbtTabs⟩⟩
  cases c <;> first | exact rfl | (exact absurd (by simpa using hc) hn)

theorem Frame.updLnk {cs : List Comp} {s0 s : State} {f : LnkSt → LnkSt} (hc : cs.contains .lnk = true)
    (hi : ∀ a : LnkSt, a.sorted → (f a).sorted)
    (h : Frame cs s0 s) : Frame cs s0 (s.updLnk f) := by
  refine ⟨fun c hn => Comp.same_trans (h.only c hn) ?_, fun j => have i := h.inv j;
    ⟨i.pantry, i.scratch, i.dram, i.regs, i.mwin, i.slot, i.tod, i.hifTabs, i.errTabs, i.arrTabs, i.tblTabs,
    i.memTabs, hi _ i.lnkTabs, i.pipTabs, i.updTabs, i.epcTabs, i.todTabs, i.casTabs, i.drcTabs, i.pwrTabs,
    i.fwuTabs, i.vbtTabs⟩⟩
  cases c <;> first | exact rfl | (exact absurd (by simpa using hc) hn)

theorem Frame.updPip {cs : List Comp} {s0 s : State} {f : PipSt → PipSt} (hc : cs.contains .pip = true)
    (hi : ∀ a : PipSt, a.sorted → (f a).sorted)
    (h : Frame cs s0 s) : Frame cs s0 (s.updPip f) := by
  refine ⟨fun c hn => Comp.same_trans (h.only c hn) ?_, fun j => have i := h.inv j;
    ⟨i.pantry, i.scratch, i.dram, i.regs, i.mwin, i.slot, i.tod, i.hifTabs, i.errTabs, i.arrTabs, i.tblTabs,
    i.memTabs, i.lnkTabs, hi _ i.pipTabs, i.updTabs, i.epcTabs, i.todTabs, i.casTabs, i.drcTabs, i.pwrTabs,
    i.fwuTabs, i.vbtTabs⟩⟩
  cases c <;> first | exact rfl | (exact absurd (by simpa using hc) hn)

theorem Frame.updUpd {cs : List Comp} {s0 s : State} {f : UpdSt → UpdSt} (hc : cs.contains .upd = true)
    (hi : ∀ a : UpdSt, a.sorted → (f a).sorted)
    (h : Frame cs s0 s) : Frame cs s0 (s.updUpd f) := by
  refine ⟨fun c hn => Comp.same_trans (h.only c hn) ?_, fun j => have i := h.inv j;
    ⟨i.pantry, i.scratch, i.dram, i.regs, i.mwin, i.slot, i.tod, i.hifTabs, i.errTabs, i.arrTabs, i.tblTabs,
    i.memTabs, i.lnkTabs, i.pipTabs, hi _ i.updTabs, i.epcTabs, i.todTabs, i.casTabs, i.drcTabs, i.pwrTabs,
    i.fwuTabs, i.vbtTabs⟩⟩
  cases c <;> first | exact rfl | (exact absurd (by simpa using hc) hn)

theorem Frame.updEpc {cs : List Comp} {s0 s : State} {f : EpcSt → EpcSt} (hc : cs.contains .epc = true)
    (hi : ∀ a : EpcSt, a.sorted → (f a).sorted)
    (h : Frame cs s0 s) : Frame cs s0 (s.updEpc f) := by
  refine ⟨fun c hn => Comp.same_trans (h.only c hn) ?_, fun j => have i := h.inv j;
    ⟨i.pantry, i.scratch, i.dram, i.regs, i.mwin, i.slot, i.tod, i.hifTabs, i.errTabs, i.arrTabs, i.tblTabs,
    i.memTabs, i.lnkTabs, i.pipTabs, i.updTabs, hi _ i.epcTabs, i.todTabs, i.casTabs, i.drcTabs, i.pwrTabs,
    i.fwuTabs, i.vbtTabs⟩⟩
  cases c <;> first | exact rfl | (exact absurd (by simpa using hc) hn)

theorem Frame.updCas {cs : List Comp} {s0 s : State} {f : CasSt → CasSt} (hc : cs.contains .cas = true)
    (hi : ∀ a : CasSt, a.sorted → (f a).sorted)
    (h : Frame cs s0 s) : Frame cs s0 (s.updCas f) := by
  refine ⟨fun c hn => Comp.same_trans (h.only c hn) ?_, fun j => have i := h.inv j;
    ⟨i.pantry, i.scratch, i.dram, i.regs, i.mwin, i.slot, i.tod, i.hifTabs, i.errTabs, i.arrTabs, i.tblTabs,
    i.memTabs, i.lnkTabs, i.pipTabs, i.updTabs, i.epcTabs, i.todTabs, hi _ i.casTabs, i.drcTabs, i.pwrTabs,
    i.fwuTabs, i.vbtTabs⟩⟩
  cases c <;> first | exact rfl | (exact absurd (by simpa using hc) hn)

theorem Frame.updHif {cs : List Comp} {s0 s : State} {f : HifSt → HifSt} (hc : cs.contains .hif = true)
    (hi : ∀ a : HifSt, a.sorted → (f a).sorted)
    (h : Frame cs s0 s) : Frame cs s0 (s.updHif f) := by
  refine ⟨fun c hn => Comp.same_trans (h.only c hn) ?_, fun j => have i := h.inv j;
    ⟨i.pantry, i.scratch, i.dram, i.regs, i.mwin, i.slot, i.tod, hi _ i.hifTabs, i.errTabs, i.arrTabs, i.tblTabs,
    i.memTabs, i.lnkTabs, i.pipTabs, i.updTabs, i.epcTabs, i.todTabs, i.casTabs, i.drcTabs, i.pwrTabs,
    i.fwuTabs, i.vbtTabs⟩⟩
  cases c <;> first | exact rfl | (exact absurd (by simpa using hc) hn)

theorem Frame.updPrt {cs : List Comp} {s0 s : State} {f : PrtSt → PrtSt} (hc : cs.contains .prt = true)
    (h : Frame cs s0 s) : Frame cs s0 (s.updPrt f) := by
  refine ⟨fun c hn => Comp.same_trans (h.only c hn) ?_, fun j => have i := h.inv j;
    ⟨i.pantry, i.scratch, i.dram, i.regs, i.mwin, i.slot, i.tod, i.hifTabs, i.errTabs, i.arrTabs, i.tblTabs,
    i.memTabs, i.lnkTabs, i.pipTabs, i.updTabs, i.epcTabs, i.todTabs, i.casTabs, i.drcTabs, i.pwrTabs,
    i.fwuTabs, i.vbtTabs⟩⟩
  cases c <;> first | exact rfl | (exact absurd (by simpa using hc) hn)

theorem Frame.updErr {cs : List Comp} {s0 s : State} {f : ErrSt → ErrSt} (hc : cs.contains .err = true)
    (hi : ∀ a : ErrSt, a.sorted → (f a).sorted)
    (h : Frame cs s0 s) : Frame cs s0 (s.updErr f) := by
  refine ⟨fun c hn => Comp.same_trans (h.only c hn) ?_, fun j => have i := h.inv j;
    ⟨i.pantry, i.scratch, i.dram, i.regs, i.mwin, i.slot, i.tod, i.hifTabs, hi _ i.errTabs, i.arrTabs, i.tblTabs,
    i.memTabs, i.lnkTabs, i.pipTabs, i.updTabs, i.epcTabs, i.todTabs, i.casTabs, i.drcTabs, i.pwrTabs,
    i.fwuTabs, i.vbtTabs⟩⟩
  cases c <;> first | exact rfl | (exact absurd (by simpa using hc) hn)

theorem Frame.updDrc {cs : List Comp} {s0 s : State} {f : DrcSt → DrcSt} (hc : cs.contains .drc = true)
    (hi : ∀ a : DrcSt, a.sorted → (f a).sorted)
    (h : Frame cs s0 s) : Frame cs s0 (s.updDrc f) := by
  refine ⟨fun c hn => Comp.same_trans (h.only c hn) ?_, fun j => have i := h.inv j;
    ⟨i.pantry, i.scratch, i.dram, i.regs, i.mwin, i.slot, i.tod, i.hifTabs, i.errTabs, i.arrTabs, i.tblTabs,
    i.memTabs, i.lnkTabs, i.pipTabs, i.updTabs, i.epcTabs, i.todTabs, i.casTabs, hi _ i.drcTabs, i.pwrTabs,
    i.fwuTabs, i.vbtTabs⟩⟩
  cases c <;> first | exact rfl | (exact absurd (by simpa using hc) hn)

theorem Frame.updRst {cs : List Comp} {s0 s : State} {f : RstSt → RstSt} (hc : cs.contains .rst = true)
    (h : Frame cs s0 s) : Frame cs s0 (s.updRst f) := by
  refine ⟨fun c hn => Comp.same_trans (h.only c hn) ?_, fun j => have i := h.inv j;
    ⟨i.pantry, i.scratch, i.dram, i.regs, i.mwin, i.slot, i.tod, i.hifTabs, i.errTabs, i.arrTabs, i.tblTabs,
    i.memTabs, i.lnkTabs, i.pipTabs, i.updTabs, i.epcTabs, i.todTabs, i.casTabs, i.drcTabs, i.pwrTabs,
    i.fwuTabs, i.vbtTabs⟩⟩
  cases c <;> first | exact rfl | (exact absurd (by simpa using hc) hn)

theorem Frame.updPwr {cs : List Comp} {s0 s : State} {f : PwrSt → PwrSt} (hc : cs.contains .pwr = true)
    (hi : ∀ a : PwrSt, a.sorted → (f a).sorted)
    (h : Frame cs s0 s) : Frame cs s0 (s.updPwr f) := by
  refine ⟨fun c hn => Comp.same_trans (h.only c hn) ?_, fun j => have i := h.inv j;
    ⟨i.pantry, i.scratch, i.dram, i.regs, i.mwin, i.slot, i.tod, i.hifTabs, i.errTabs, i.arrTabs, i.tblTabs,
    i.memTabs, i.lnkTabs, i.pipTabs, i.updTabs, i.epcTabs, i.todTabs, i.casTabs, i.drcTabs, hi _ i.pwrTabs,
    i.fwuTabs, i.vbtTabs⟩⟩
  cases c <;> first | exact rfl | (exact absurd (by simpa using hc) hn)

theorem Frame.updFwu {cs : List Comp} {s0 s : State} {f : FwuSt → FwuSt} (hc : cs.contains .fwu = true)
    (hi : ∀ a : FwuSt, a.sorted → (f a).sorted)
    (h : Frame cs s0 s) : Frame cs s0 (s.updFwu f) := by
  refine ⟨fun c hn => Comp.same_trans (h.only c hn) ?_, fun j => have i := h.inv j;
    ⟨i.pantry, i.scratch, i.dram, i.regs, i.mwin, i.slot, i.tod, i.hifTabs, i.errTabs, i.arrTabs, i.tblTabs,
    i.memTabs, i.lnkTabs, i.pipTabs, i.updTabs, i.epcTabs, i.todTabs, i.casTabs, i.drcTabs, i.pwrTabs, hi _
    i.fwuTabs, i.vbtTabs⟩⟩
  cases c <;> first | exact rfl | (exact absurd (by simpa using hc) hn)

theorem Frame.updVbt {cs : List Comp} {s0 s : State} {f : VbtSt → VbtSt} (hc : cs.contains .vbt = true)
    (hi : ∀ a : VbtSt, a.sorted → (f a).sorted)
    (h : Frame cs s0 s) : Frame cs s0 (s.updVbt f) := by
  refine ⟨fun c hn => Comp.same_trans (h.only c hn) ?_, fun j => have i := h.inv j;
    ⟨i.pantry, i.scratch, i.dram, i.regs, i.mwin, i.slot, i.tod, i.hifTabs, i.errTabs, i.arrTabs, i.tblTabs,
    i.memTabs, i.lnkTabs, i.pipTabs, i.updTabs, i.epcTabs, i.todTabs, i.casTabs, i.drcTabs, i.pwrTabs,
    i.fwuTabs, hi _ i.vbtTabs⟩⟩
  cases c <;> first | exact rfl | (exact absurd (by simpa using hc) hn)

theorem Frame.updClk {cs : List Comp} {s0 s : State} {f : ClkSt → ClkSt} (hc : cs.contains .clk = true)
    (hi : ∀ c, c.slot < 64 → (f c).slot < 64)
    (h : Frame cs s0 s) : Frame cs s0 (s.updClk f) := by
  refine ⟨fun c hn => Comp.same_trans (h.only c hn) ?_, fun j => have i := h.inv j;
    ⟨i.pantry, i.scratch, i.dram, i.regs, i.mwin, hi _ i.slot, i.tod, i.hifTabs, i.errTabs, i.arrTabs, i.tblTabs,
    i.memTabs, i.lnkTabs, i.pipTabs, i.updTabs, i.epcTabs, i.todTabs, i.casTabs, i.drcTabs, i.pwrTabs,
    i.fwuTabs, i.vbtTabs⟩⟩
  cases c <;> first | exact rfl | (exact absurd (by simpa using hc) hn)

theorem Frame.updTod {cs : List Comp} {s0 s : State} {f : TodSt → TodSt} (hc : cs.contains .tod = true)
    (hi : ∀ c, c.value < 2 ^ 48 * secUnits → (f c).value < 2 ^ 48 * secUnits)
    (ht : ∀ a : TodSt, a.sorted → (f a).sorted)
    (h : Frame cs s0 s) : Frame cs s0 (s.updTod f) := by
  refine ⟨fun c hn => Comp.same_trans (h.only c hn) ?_, fun j => have i := h.inv j;
    ⟨i.pantry, i.scratch, i.dram, i.regs, i.mwin, i.slot, hi _ i.tod, i.hifTabs, i.errTabs, i.arrTabs, i.tblTabs,
    i.memTabs, i.lnkTabs, i.pipTabs, i.updTabs, i.epcTabs, ht _ i.todTabs, i.casTabs, i.drcTabs, i.pwrTabs,
    i.fwuTabs, i.vbtTabs⟩⟩
  cases c <;> first | exact rfl | (exact absurd (by simpa using hc) hn)

theorem Frame.updRegs {cs : List Comp} {s0 s : State} {f : Tab Word → Tab Word} (hc : cs.contains .regs = true)
    (hi : ∀ t, regsOk t = true → regsOk (f t) = true)
    (h : Frame cs s0 s) : Frame cs s0 (s.updRegs f) := by
  refine ⟨fun c hn => Comp.same_trans (h.only c hn) ?_, fun j => have i := h.inv j;
    ⟨i.pantry, i.scratch, i.dram, hi _ i.regs, i.mwin, i.slot, i.tod, i.hifTabs, i.errTabs, i.arrTabs, i.tblTabs,
    i.memTabs, i.lnkTabs, i.pipTabs, i.updTabs, i.epcTabs, i.todTabs, i.casTabs, i.drcTabs, i.pwrTabs,
    i.fwuTabs, i.vbtTabs⟩⟩
  cases c <;> first | exact rfl | (exact absurd (by simpa using hc) hn)

theorem Frame.updMwin {cs : List Comp} {s0 s : State} {f : Tab Word → Tab Word} (hc : cs.contains .mwin = true)
    (hi : ∀ t, regsOk t = true → regsOk (f t) = true)
    (h : Frame cs s0 s) : Frame cs s0 (s.updMwin f) := by
  refine ⟨fun c hn => Comp.same_trans (h.only c hn) ?_, fun j => have i := h.inv j;
    ⟨i.pantry, i.scratch, i.dram, i.regs, hi _ i.mwin, i.slot, i.tod, i.hifTabs, i.errTabs, i.arrTabs, i.tblTabs,
    i.memTabs, i.lnkTabs, i.pipTabs, i.updTabs, i.epcTabs, i.todTabs, i.casTabs, i.drcTabs, i.pwrTabs,
    i.fwuTabs, i.vbtTabs⟩⟩
  cases c <;> first | exact rfl | (exact absurd (by simpa using hc) hn)

theorem Frame.updMem {cs : List Comp} {s0 s : State} {f : MemSt → MemSt} (hc : cs.contains .mem = true)
    (hp : ∀ m, Memory.wf m.pantry = true → Memory.wf (f m).pantry = true)
    (hs : ∀ m, Memory.wf m.scratch = true → Memory.wf (f m).scratch = true)
    (hd : ∀ m, Memory.wf m.dram = true → Memory.wf (f m).dram = true)
    (hi : ∀ a : MemSt, a.sorted → (f a).sorted)
    (h : Frame cs s0 s) : Frame cs s0 (s.updMem f) := by
  refine ⟨fun c hn => Comp.same_trans (h.only c hn) ?_, fun j => have i := h.inv j;
    ⟨hp _ i.pantry, hs _ i.scratch, hd _ i.dram, i.regs, i.mwin, i.slot, i.tod, i.hifTabs, i.errTabs, i.arrTabs,
    i.tblTabs, hi _ i.memTabs, i.lnkTabs, i.pipTabs, i.updTabs, i.epcTabs, i.todTabs, i.casTabs, i.drcTabs,
    i.pwrTabs, i.fwuTabs, i.vbtTabs⟩⟩
  cases c <;> first | exact rfl | (exact absurd (by simpa using hc) hn)

/-! Registers. -/

theorem blockRegs_reset (b : Nat) : ∀ d ∈ blockRegs b, d.reset &&& ~~~d.live = 0 := by
  unfold blockRegs
  split <;> decide

/-- The reset value of a register has no reserved bit. -/
theorem regReset_live (off : Nat) : regReset off &&& ~~~(regLive off) = 0 := by
  unfold regReset regLive
  cases h : regDesc off with
  | none => rfl
  | some d => exact blockRegs_reset _ d (List.mem_of_find?_eq_some h)

theorem regsOk_set (d : Word) (t : Tab Word) (off : Nat) (v : Word) (hv : v &&& ~~~(regLive off) = 0) (h : regsOk t = true) :
    regsOk (tabSet d t off v) = true := by
  simp only [regsOk, Bool.and_eq_true, List.all_eq_true, beq_iff_eq] at h ⊢
  refine ⟨tabSet_rising _ t off v h.1, fun x hx => ?_⟩
  simp only [tabSet] at hx
  split at hx
  · exact h.2 x (tabErase_sub t off x hx)
  · cases tabInsert_sub t off v x hx with
    | inl hx => subst hx; exact hv
    | inr hx => exact h.2 x hx

theorem regsNil_ok : regsOk [] = true := rfl

theorem and_live (v m : Word) : (v &&& m) &&& ~~~m = 0 := by
  ext i hi; simp

/-- Without reserved bits in what is stored, no register reads one. -/
theorem regGet_live (off : Nat) (s : State) (h : regsOk s.regs = true) : regGet off s &&& ~~~(regLive off) = 0 := by
  simp only [regsOk, Bool.and_eq_true, List.all_eq_true, beq_iff_eq] at h
  have : ∀ t : Tab Word, (∀ x ∈ t, x.2 &&& ~~~(regLive x.1) = 0) →
      tabGet (regReset off) t off &&& ~~~(regLive off) = 0 := by
    intro t ht
    induction t with
    | nil => exact regReset_live off
    | cons y t ih =>
      obtain ⟨k, w⟩ := y
      simp only [tabGet, tabFind] at ih ⊢
      split
      · exact regReset_live off
      · split
        · subst_vars; exact ht (k, w) (by simp)
        · exact ih fun x hx => ht x (List.mem_cons_of_mem _ hx)
  exact this s.regs h.2

/-- A register just written reads as what was written, without its reserved bits; every other register as before. -/
theorem regGet_put (off n : Nat) (v : Word) (s : State) (h : tabRising s.regs = true) :
    regGet n (regPut off v s) = if n = off then v &&& regLive off else regGet n s := by
  simp only [regGet, regPut, State.updRegs_regs]
  by_cases hn : n = off
  · subst hn; rw [tabGet_set _ _ _ _ _ h]
  · rw [if_neg hn]
    simp only [tabGet, tabSet]
    split
    · rw [tabFind_erase _ _ _ h, if_neg hn]
    · rw [tabFind_insert _ _ _ _ h, if_neg hn]

end Sys2Proof.Machine
end

