-- ==== Sys2Proof/Laws/FrameOps.lean ====
section
/-! SUPPORT. What each operation of Machine/Ops.lean changes at most, and that it keeps the invariant. -/

namespace Sys2Proof.Machine

set_option linter.all false

open Sys2Proof

theorem regPut_frame (off : Nat) (v : Word) (s : State) : Frame [.regs] s (regPut off v s) :=
  Frame.updRegs (by decide) (fun _ h => regsOk_set _ _ _ _ (and_live v _) h) (Frame.refl _ s)

theorem fieldPut_frame (off hi lo v : Nat) (s : State) :
    Frame [.regs] s (fieldPut off hi lo v s) := by
  delta fieldPut
  repeat' first
    | with_reducible apply Frame.refl
    | with_reducible assumption
    | apply Eq.refl
    | lift_lets -underBinder -merge -useContext
    | (intro x; refine Frame.cut (cs := [.regs]) (s0 := s) (x := x) ?_ (fun hx => ?_); unfold x; rotate_left; clear_value x)
    | with_reducible apply Frame.app (regPut_frame _ _ _)

theorem flagPut_frame (off i : Nat) (b : Bool) (s : State) :
    Frame [.regs] s (flagPut off i b s) := by
  delta flagPut
  repeat' first
    | with_reducible apply Frame.refl
    | with_reducible assumption
    | apply Eq.refl
    | lift_lets -underBinder -merge -useContext
    | (intro x; refine Frame.cut (cs := [.regs]) (s0 := s) (x := x) ?_ (fun hx => ?_); unfold x; rotate_left; clear_value x)
    | with_reducible apply Frame.app (fieldPut_frame _ _ _ _ _)

theorem cntAdd_frame (off n : Nat) (s : State) :
    Frame [.regs] s (cntAdd off n s) := by
  delta cntAdd
  repeat' first
    | with_reducible apply Frame.refl
    | with_reducible assumption
    | apply Eq.refl
    | lift_lets -underBinder -merge -useContext
    | (intro x; refine Frame.cut (cs := [.regs]) (s0 := s) (x := x) ?_ (fun hx => ?_); unfold x; rotate_left; clear_value x)
    | with_reducible apply Frame.app (regPut_frame _ _ _)

theorem cntWrap_frame (off n : Nat) (s : State) :
    Frame [.regs] s (cntWrap off n s) := by
  delta cntWrap
  repeat' first
    | with_reducible apply Frame.refl
    | with_reducible assumption
    | apply Eq.refl
    | lift_lets -underBinder -merge -useContext
    | (intro x; refine Frame.cut (cs := [.regs]) (s0 := s) (x := x) ?_ (fun hx => ?_); unfold x; rotate_left; clear_value x)
    | with_reducible apply Frame.app (regPut_frame _ _ _)

theorem cntMax_frame (off n : Nat) (s : State) :
    Frame [.regs] s (cntMax off n s) := by
  delta cntMax
  repeat' first
    | with_reducible apply Frame.refl
    | with_reducible assumption
    | apply Eq.refl
    | lift_lets -underBinder -merge -useContext
    | (intro x; refine Frame.cut (cs := [.regs]) (s0 := s) (x := x) ?_ (fun hx => ?_); unfold x; rotate_left; clear_value x)
    | with_reducible apply Frame.app (regPut_frame _ _ _)

theorem plainWrite_frame (off : Nat) (v : Word) (s : State) :
    Frame [.regs] s (plainWrite off v s) := by
  delta plainWrite
  repeat' first
    | with_reducible apply Frame.refl
    | with_reducible assumption
    | apply Eq.refl
    | lift_lets -underBinder -merge -useContext
    | (intro x; refine Frame.cut (cs := [.regs]) (s0 := s) (x := x) ?_ (fun hx => ?_); unfold x; rotate_left; clear_value x)
    | with_reducible apply Frame.app (regPut_frame _ _ _)
    | split

theorem nextFree_frame (s : State) :
    Frame [.clk] s (nextFree s) := by
  delta nextFree
  repeat' first
    | with_reducible apply Frame.refl
    | with_reducible assumption
    | apply Eq.refl
    | lift_lets -underBinder -merge -useContext
    | (intro x; refine Frame.cut (cs := [.clk]) (s0 := s) (x := x) ?_ (fun hx => ?_); unfold x; rotate_left; clear_value x)
    | with_reducible refine Frame.updClk (by decide) (fun _ h => by first | exact h | exact regsNil_ok) ?_

theorem updFn_frame (fn : Nat) (f : FnCfg → FnCfg) (s : State) :
    Frame [.hif] s (updFn fn f s) := by
  delta updFn
  repeat' first
    | with_reducible apply Frame.refl
    | with_reducible assumption
    | apply Eq.refl
    | lift_lets -underBinder -merge -useContext
    | (intro x; refine Frame.cut (cs := [.hif]) (s0 := s) (x := x) ?_ (fun hx => ?_); unfold x; rotate_left; clear_value x)
    | (with_reducible refine Frame.updHif (by decide) ?_ ?_; (intro _ h; exact h))
    | (with_reducible refine Frame.updHif (by decide) ?_ ?_; (intro _ h; simp only [HifSt.sorted] at h ⊢; simp [h]; done))
    | (with_reducible refine Frame.updHif (by decide) ?_ ?_; (intro _ h; simp only [HifSt.sorted] at h ⊢; and_intros <;> (try dsimp only) <;> (repeat' split) <;> first | (simp [h]; done) | exact tabFold_rising (fun _ _ g => by first | (simp [g]; done) | (split <;> simp [g]; done)) _ _ (by simp [h])))
    | (with_reducible refine Frame.updHif (by decide) ?_ ?_; (intro _ h; simp only [HifSt.sorted] at h ⊢; and_intros <;> first | (simp [h]; done) | exact tabFold_rising (fun _ _ g => by first | (simp [g]; done) | (split <;> simp [g]; done) | exact tabFold_rising (fun _ _ k => by simp [k]) _ _ g) _ _ (by simp [h]) | (repeat' first | exact rfl | exact h | apply tabSet_rising)))

theorem hostSend_frame (t : HostTlp) (s : State) :
    Frame [.hif] s (hostSend t s) := by
  delta hostSend
  repeat' first
    | with_reducible apply Frame.refl
    | with_reducible assumption
    | apply Eq.refl
    | lift_lets -underBinder -merge -useContext
    | (intro x; refine Frame.cut (cs := [.hif]) (s0 := s) (x := x) ?_ (fun hx => ?_); unfold x; rotate_left; clear_value x)
    | (with_reducible refine Frame.updHif (by decide) ?_ ?_; (intro _ h; exact h))
    | (with_reducible refine Frame.updHif (by decide) ?_ ?_; (intro _ h; simp only [HifSt.sorted] at h ⊢; simp [h]; done))
    | (with_reducible refine Frame.updHif (by decide) ?_ ?_; (intro _ h; simp only [HifSt.sorted] at h ⊢; and_intros <;> (try dsimp only) <;> (repeat' split) <;> first | (simp [h]; done) | exact tabFold_rising (fun _ _ g => by first | (simp [g]; done) | (split <;> simp [g]; done)) _ _ (by simp [h])))
    | (with_reducible refine Frame.updHif (by decide) ?_ ?_; (intro _ h; simp only [HifSt.sorted] at h ⊢; and_intros <;> first | (simp [h]; done) | exact tabFold_rising (fun _ _ g => by first | (simp [g]; done) | (split <;> simp [g]; done) | exact tabFold_rising (fun _ _ k => by simp [k]) _ _ g) _ _ (by simp [h]) | (repeat' first | exact rfl | exact h | apply tabSet_rising)))

theorem hostWrite_frame (fn : Nat) (addr : W64) (ws : List W64) (s : State) :
    Frame [.hif] s (hostWrite fn addr ws s) := by
  delta hostWrite
  repeat' first
    | with_reducible apply Frame.refl
    | with_reducible assumption
    | apply Eq.refl
    | lift_lets -underBinder -merge -useContext
    | (intro x; refine Frame.cut (cs := [.hif]) (s0 := s) (x := x) ?_ (fun hx => ?_); unfold x; rotate_left; clear_value x)
    | (intro x; clear_value x)
    | intro x
    | with_reducible apply Frame.app (hostSend_frame _ _)
    | with_reducible refine Frame.foldl ?_ (fun _ _ _ => ?_)
    | with_reducible apply_assumption

theorem hostRead_frame (fn : Nat) (addr : W64) (bytes cmd : Nat) (s : State) :
    Frame [.hif] s (hostRead fn addr bytes cmd s) := by
  delta hostRead
  repeat' first
    | with_reducible apply Frame.refl
    | with_reducible assumption
    | apply Eq.refl
    | lift_lets -underBinder -merge -useContext
    | (intro x; refine Frame.cut (cs := [.hif]) (s0 := s) (x := x) ?_ (fun hx => ?_); unfold x; rotate_left; clear_value x)
    | (intro x; clear_value x)
    | intro x
    | with_reducible apply Frame.app (hostSend_frame _ _)
    | with_reducible refine Frame.foldl ?_ (fun _ _ _ => ?_)
    | with_reducible apply_assumption

theorem vecSend_frame (v : Nat) (s : State) :
    Frame [.hif] s (vecSend v s) := by
  delta vecSend
  repeat' first
    | with_reducible apply Frame.refl
    | with_reducible assumption
    | apply Eq.refl
    | lift_lets -underBinder -merge -useContext
    | (intro x; refine Frame.cut (cs := [.hif]) (s0 := s) (x := x) ?_ (fun hx => ?_); unfold x; rotate_left; clear_value x)
    | (intro x; clear_value x)
    | intro x
    | with_reducible apply Frame.app (hostSend_frame _ _)

theorem raiseVec_frame (v : Nat) (s : State) :
    Frame [.hif] s (raiseVec v s) := by
  delta raiseVec
  repeat' first
    | with_reducible apply Frame.refl
    | with_reducible assumption
    | apply Eq.refl
    | lift_lets -underBinder -merge -useContext
    | (intro x; refine Frame.cut (cs := [.hif]) (s0 := s) (x := x) ?_ (fun hx => ?_); unfold x; rotate_left; clear_value x)
    | with_reducible apply Frame.app (vecSend_frame _ _)
    | (with_reducible refine Frame.updHif (by decide) ?_ ?_; (intro _ h; exact h))
    | (with_reducible refine Frame.updHif (by decide) ?_ ?_; (intro _ h; simp only [HifSt.sorted] at h ⊢; simp [h]; done))
    | (with_reducible refine Frame.updHif (by decide) ?_ ?_; (intro _ h; simp only [HifSt.sorted] at h ⊢; and_intros <;> (try dsimp only) <;> (repeat' split) <;> first | (simp [h]; done) | exact tabFold_rising (fun _ _ g => by first | (simp [g]; done) | (split <;> simp [g]; done)) _ _ (by simp [h])))
    | (with_reducible refine Frame.updHif (by decide) ?_ ?_; (intro _ h; simp only [HifSt.sorted] at h ⊢; and_intros <;> first | (simp [h]; done) | exact tabFold_rising (fun _ _ g => by first | (simp [g]; done) | (split <;> simp [g]; done) | exact tabFold_rising (fun _ _ k => by simp [k]) _ _ g) _ _ (by simp [h]) | (repeat' first | exact rfl | exact h | apply tabSet_rising)))
    | with_reducible apply Frame.ite

theorem errMessage_frame (s : State) :
    Frame [.hif, .err] s (errMessage s) := by
  delta errMessage
  repeat' first
    | with_reducible apply Frame.refl
    | with_reducible assumption
    | apply Eq.refl
    | lift_lets -underBinder -merge -useContext
    | (intro x; refine Frame.cut (cs := [.hif, .err]) (s0 := s) (x := x) ?_ (fun hx => ?_); unfold x; rotate_left; clear_value x)
    | with_reducible apply Frame.app (raiseVec_frame _ _)
    | (with_reducible refine Frame.updErr (by decide) ?_ ?_; (intro _ h; exact h))
    | (with_reducible refine Frame.updErr (by decide) ?_ ?_; (intro _ h; simp only [ErrSt.sorted] at h ⊢; simp [h]; done))
    | (with_reducible refine Frame.updErr (by decide) ?_ ?_; (intro _ h; simp only [ErrSt.sorted] at h ⊢; and_intros <;> (try dsimp only) <;> (repeat' split) <;> first | (simp [h]; done) | exact tabFold_rising (fun _ _ g => by first | (simp [g]; done) | (split <;> simp [g]; done)) _ _ (by simp [h])))
    | (with_reducible refine Frame.updErr (by decide) ?_ ?_; (intro _ h; simp only [ErrSt.sorted] at h ⊢; and_intros <;> first | (simp [h]; done) | exact tabFold_rising (fun _ _ g => by first | (simp [g]; done) | (split <;> simp [g]; done) | exact tabFold_rising (fun _ _ k => by simp [k]) _ _ g) _ _ (by simp [h]) | (repeat' first | exact rfl | exact h | apply tabSet_rising)))
    | with_reducible apply Frame.ite
    | split

theorem errWrite_frame (r : ErrRec) (s : State) :
    Frame [.regs, .hif, .err] s (errWrite r s) := by
  delta errWrite
  repeat' first
    | with_reducible apply Frame.refl
    | with_reducible assumption
    | apply Eq.refl
    | lift_lets -underBinder -merge -useContext
    | (intro x; refine Frame.cut (cs := [.regs, .hif, .err]) (s0 := s) (x := x) ?_ (fun hx => ?_); unfold x; rotate_left; clear_value x)
    | (intro x; clear_value x)
    | intro x
    | with_reducible apply Frame.app (fieldPut_frame _ _ _ _ _)
    | with_reducible apply Frame.app (hostSend_frame _ _)
    | with_reducible apply Frame.app (errMessage_frame _)
    | (with_reducible refine Frame.updErr (by decide) ?_ ?_; (intro _ h; exact h))
    | (with_reducible refine Frame.updErr (by decide) ?_ ?_; (intro _ h; simp only [ErrSt.sorted] at h ⊢; simp [h]; done))
    | (with_reducible refine Frame.updErr (by decide) ?_ ?_; (intro _ h; simp only [ErrSt.sorted] at h ⊢; and_intros <;> (try dsimp only) <;> (repeat' split) <;> first | (simp [h]; done) | exact tabFold_rising (fun _ _ g => by first | (simp [g]; done) | (split <;> simp [g]; done)) _ _ (by simp [h])))
    | (with_reducible refine Frame.updErr (by decide) ?_ ?_; (intro _ h; simp only [ErrSt.sorted] at h ⊢; and_intros <;> first | (simp [h]; done) | exact tabFold_rising (fun _ _ g => by first | (simp [g]; done) | (split <;> simp [g]; done) | exact tabFold_rising (fun _ _ k => by simp [k]) _ _ g) _ _ (by simp [h]) | (repeat' first | exact rfl | exact h | apply tabSet_rising)))
    | with_reducible apply Frame.ite
    | with_reducible apply_assumption

theorem errDrop_frame (s : State) :
    Frame [.regs, .err] s (errDrop s) := by
  delta errDrop
  repeat' first
    | with_reducible apply Frame.refl
    | with_reducible assumption
    | apply Eq.refl
    | lift_lets -underBinder -merge -useContext
    | (intro x; refine Frame.cut (cs := [.regs, .err]) (s0 := s) (x := x) ?_ (fun hx => ?_); unfold x; rotate_left; clear_value x)
    | with_reducible apply Frame.app (cntAdd_frame _ _ _)
    | (with_reducible refine Frame.updErr (by decide) ?_ ?_; (intro _ h; exact h))
    | (with_reducible refine Frame.updErr (by decide) ?_ ?_; (intro _ h; simp only [ErrSt.sorted] at h ⊢; simp [h]; done))
    | (with_reducible refine Frame.updErr (by decide) ?_ ?_; (intro _ h; simp only [ErrSt.sorted] at h ⊢; and_intros <;> (try dsimp only) <;> (repeat' split) <;> first | (simp [h]; done) | exact tabFold_rising (fun _ _ g => by first | (simp [g]; done) | (split <;> simp [g]; done)) _ _ (by simp [h])))
    | (with_reducible refine Frame.updErr (by decide) ?_ ?_; (intro _ h; simp only [ErrSt.sorted] at h ⊢; and_intros <;> first | (simp [h]; done) | exact tabFold_rising (fun _ _ g => by first | (simp [g]; done) | (split <;> simp [g]; done) | exact tabFold_rising (fun _ _ k => by simp [k]) _ _ g) _ _ (by simp [h]) | (repeat' first | exact rfl | exact h | apply tabSet_rising)))

theorem errSeq_frame (s : State) :
    Frame [.err] s (errSeq s) := by
  delta errSeq
  repeat' first
    | with_reducible apply Frame.refl
    | with_reducible assumption
    | apply Eq.refl
    | lift_lets -underBinder -merge -useContext
    | (intro x; refine Frame.cut (cs := [.err]) (s0 := s) (x := x) ?_ (fun hx => ?_); unfold x; rotate_left; clear_value x)
    | (with_reducible refine Frame.updErr (by decide) ?_ ?_; (intro _ h; exact h))
    | (with_reducible refine Frame.updErr (by decide) ?_ ?_; (intro _ h; simp only [ErrSt.sorted] at h ⊢; simp [h]; done))
    | (with_reducible refine Frame.updErr (by decide) ?_ ?_; (intro _ h; simp only [ErrSt.sorted] at h ⊢; and_intros <;> (try dsimp only) <;> (repeat' split) <;> first | (simp [h]; done) | exact tabFold_rising (fun _ _ g => by first | (simp [g]; done) | (split <;> simp [g]; done)) _ _ (by simp [h])))
    | (with_reducible refine Frame.updErr (by decide) ?_ ?_; (intro _ h; simp only [ErrSt.sorted] at h ⊢; and_intros <;> first | (simp [h]; done) | exact tabFold_rising (fun _ _ g => by first | (simp [g]; done) | (split <;> simp [g]; done) | exact tabFold_rising (fun _ _ k => by simp [k]) _ _ g) _ _ (by simp [h]) | (repeat' first | exact rfl | exact h | apply tabSet_rising)))

theorem errLostRecord_frame (s : State) :
    Frame [.regs, .hif, .err] s (errLostRecord s) := by
  delta errLostRecord
  repeat' first
    | with_reducible apply Frame.refl
    | with_reducible assumption
    | apply Eq.refl
    | lift_lets -underBinder -merge -useContext
    | (intro x; refine Frame.cut (cs := [.regs, .hif, .err]) (s0 := s) (x := x) ?_ (fun hx => ?_); unfold x; rotate_left; clear_value x)
    | (intro x; clear_value x)
    | intro x
    | with_reducible apply Frame.app (errWrite_frame _ _)
    | with_reducible apply Frame.app (errSeq_frame _)
    | (with_reducible refine Frame.updErr (by decide) ?_ ?_; (intro _ h; exact h))
    | (with_reducible refine Frame.updErr (by decide) ?_ ?_; (intro _ h; simp only [ErrSt.sorted] at h ⊢; simp [h]; done))
    | (with_reducible refine Frame.updErr (by decide) ?_ ?_; (intro _ h; simp only [ErrSt.sorted] at h ⊢; and_intros <;> (try dsimp only) <;> (repeat' split) <;> first | (simp [h]; done) | exact tabFold_rising (fun _ _ g => by first | (simp [g]; done) | (split <;> simp [g]; done)) _ _ (by simp [h])))
    | (with_reducible refine Frame.updErr (by decide) ?_ ?_; (intro _ h; simp only [ErrSt.sorted] at h ⊢; and_intros <;> first | (simp [h]; done) | exact tabFold_rising (fun _ _ g => by first | (simp [g]; done) | (split <;> simp [g]; done) | exact tabFold_rising (fun _ _ k => by simp [k]) _ _ g) _ _ (by simp [h]) | (repeat' first | exact rfl | exact h | apply tabSet_rising)))
    | with_reducible apply Frame.ite

theorem setSuppressed_frame (k n : Nat) (s : State) :
    Frame [.err] s (setSuppressed k n s) := by
  delta setSuppressed
  repeat' first
    | with_reducible apply Frame.refl
    | with_reducible assumption
    | apply Eq.refl
    | lift_lets -underBinder -merge -useContext
    | (intro x; refine Frame.cut (cs := [.err]) (s0 := s) (x := x) ?_ (fun hx => ?_); unfold x; rotate_left; clear_value x)
    | (with_reducible refine Frame.updErr (by decide) ?_ ?_; (intro _ h; exact h))
    | (with_reducible refine Frame.updErr (by decide) ?_ ?_; (intro _ h; simp only [ErrSt.sorted] at h ⊢; simp [h]; done))
    | (with_reducible refine Frame.updErr (by decide) ?_ ?_; (intro _ h; simp only [ErrSt.sorted] at h ⊢; and_intros <;> (try dsimp only) <;> (repeat' split) <;> first | (simp [h]; done) | exact tabFold_rising (fun _ _ g => by first | (simp [g]; done) | (split <;> simp [g]; done)) _ _ (by simp [h])))
    | (with_reducible refine Frame.updErr (by decide) ?_ ?_; (intro _ h; simp only [ErrSt.sorted] at h ⊢; and_intros <;> first | (simp [h]; done) | exact tabFold_rising (fun _ _ g => by first | (simp [g]; done) | (split <;> simp [g]; done) | exact tabFold_rising (fun _ _ k => by simp [k]) _ _ g) _ _ (by simp [h]) | (repeat' first | exact rfl | exact h | apply tabSet_rising)))

theorem errPut_frame (r : ErrRec) (s : State) :
    Frame [.regs, .hif, .err] s (errPut r s) := by
  delta errPut
  repeat' first
    | with_reducible apply Frame.refl
    | with_reducible assumption
    | apply Eq.refl
    | lift_lets -underBinder -merge -useContext
    | (intro x; refine Frame.cut (cs := [.regs, .hif, .err]) (s0 := s) (x := x) ?_ (fun hx => ?_); unfold x; rotate_left; clear_value x)
    | (intro x; clear_value x)
    | intro x
    | with_reducible apply Frame.app (errWrite_frame _ _)
    | with_reducible apply Frame.app (errDrop_frame _)
    | with_reducible apply Frame.app (setSuppressed_frame _ _ _)
    | (with_reducible refine Frame.updErr (by decide) ?_ ?_; (intro _ h; exact h))
    | (with_reducible refine Frame.updErr (by decide) ?_ ?_; (intro _ h; simp only [ErrSt.sorted] at h ⊢; simp [h]; done))
    | (with_reducible refine Frame.updErr (by decide) ?_ ?_; (intro _ h; simp only [ErrSt.sorted] at h ⊢; and_intros <;> (try dsimp only) <;> (repeat' split) <;> first | (simp [h]; done) | exact tabFold_rising (fun _ _ g => by first | (simp [g]; done) | (split <;> simp [g]; done)) _ _ (by simp [h])))
    | (with_reducible refine Frame.updErr (by decide) ?_ ?_; (intro _ h; simp only [ErrSt.sorted] at h ⊢; and_intros <;> first | (simp [h]; done) | exact tabFold_rising (fun _ _ g => by first | (simp [g]; done) | (split <;> simp [g]; done) | exact tabFold_rising (fun _ _ k => by simp [k]) _ _ g) _ _ (by simp [h]) | (repeat' first | exact rfl | exact h | apply tabSet_rising)))
    | with_reducible apply Frame.ite

theorem errBlocks_frame (s : State) :
    Frame [.regs, .hif, .err] s (errBlocks s) := by
  delta errBlocks
  repeat' first
    | with_reducible apply Frame.refl
    | with_reducible assumption
    | apply Eq.refl
    | lift_lets -underBinder -merge -useContext
    | (intro x; refine Frame.cut (cs := [.regs, .hif, .err]) (s0 := s) (x := x) ?_ (fun hx => ?_); unfold x; rotate_left; clear_value x)
    | (intro x; clear_value x)
    | intro x
    | with_reducible apply Frame.app (errLostRecord_frame _)
    | with_reducible apply Frame.app (errPut_frame _ _)
    | (with_reducible refine Frame.updErr (by decide) ?_ ?_; (intro _ h; exact h))
    | (with_reducible refine Frame.updErr (by decide) ?_ ?_; (intro _ h; simp only [ErrSt.sorted] at h ⊢; simp [h]; done))
    | (with_reducible refine Frame.updErr (by decide) ?_ ?_; (intro _ h; simp only [ErrSt.sorted] at h ⊢; and_intros <;> (try dsimp only) <;> (repeat' split) <;> first | (simp [h]; done) | exact tabFold_rising (fun _ _ g => by first | (simp [g]; done) | (split <;> simp [g]; done)) _ _ (by simp [h])))
    | (with_reducible refine Frame.updErr (by decide) ?_ ?_; (intro _ h; simp only [ErrSt.sorted] at h ⊢; and_intros <;> first | (simp [h]; done) | exact tabFold_rising (fun _ _ g => by first | (simp [g]; done) | (split <;> simp [g]; done) | exact tabFold_rising (fun _ _ k => by simp [k]) _ _ g) _ _ (by simp [h]) | (repeat' first | exact rfl | exact h | apply tabSet_rising)))
    | with_reducible refine Frame.foldl ?_ (fun _ _ _ => ?_)
    | with_reducible apply_assumption

theorem errRecord_frame (cls code outcome detail loc : Nat) (s : State) :
    Frame [.regs, .hif, .err] s (errRecord cls code outcome detail loc s) := by
  delta errRecord
  repeat' first
    | with_reducible apply Frame.refl
    | with_reducible assumption
    | apply Eq.refl
    | lift_lets -underBinder -merge -useContext
    | (intro x; refine Frame.cut (cs := [.regs, .hif, .err]) (s0 := s) (x := x) ?_ (fun hx => ?_); unfold x; rotate_left; clear_value x)
    | (intro x; clear_value x)
    | intro x
    | with_reducible apply Frame.app (errSeq_frame _)
    | with_reducible apply Frame.app (setSuppressed_frame _ _ _)
    | with_reducible apply Frame.app (errPut_frame _ _)
    | with_reducible apply Frame.app (errBlocks_frame _)
    | with_reducible apply Frame.ite

theorem errFlush_frame (s : State) :
    Frame [.regs, .hif, .err] s (errFlush s) := by
  delta errFlush
  repeat' first
    | with_reducible apply Frame.refl
    | with_reducible assumption
    | apply Eq.refl
    | lift_lets -underBinder -merge -useContext
    | (intro x; refine Frame.cut (cs := [.regs, .hif, .err]) (s0 := s) (x := x) ?_ (fun hx => ?_); unfold x; rotate_left; clear_value x)
    | (intro x; clear_value x)
    | intro x
    | with_reducible apply Frame.app (errWrite_frame _ _)
    | with_reducible apply Frame.app (errDrop_frame _)
    | with_reducible apply Frame.app (errLostRecord_frame _)
    | with_reducible apply Frame.app (setSuppressed_frame _ _ _)
    | (with_reducible refine Frame.updErr (by decide) ?_ ?_; (intro _ h; exact h))
    | (with_reducible refine Frame.updErr (by decide) ?_ ?_; (intro _ h; simp only [ErrSt.sorted] at h ⊢; simp [h]; done))
    | (with_reducible refine Frame.updErr (by decide) ?_ ?_; (intro _ h; simp only [ErrSt.sorted] at h ⊢; and_intros <;> (try dsimp only) <;> (repeat' split) <;> first | (simp [h]; done) | exact tabFold_rising (fun _ _ g => by first | (simp [g]; done) | (split <;> simp [g]; done)) _ _ (by simp [h])))
    | (with_reducible refine Frame.updErr (by decide) ?_ ?_; (intro _ h; simp only [ErrSt.sorted] at h ⊢; and_intros <;> first | (simp [h]; done) | exact tabFold_rising (fun _ _ g => by first | (simp [g]; done) | (split <;> simp [g]; done) | exact tabFold_rising (fun _ _ k => by simp [k]) _ _ g) _ _ (by simp [h]) | (repeat' first | exact rfl | exact h | apply tabSet_rising)))
    | with_reducible refine Frame.foldl ?_ (fun _ _ _ => ?_)
    | with_reducible apply Frame.ite
    | with_reducible apply_assumption

theorem errRise_frame (blk : Nat) (stat : Word) (s : State) :
    Frame [.err] s (errRise blk stat s) := by
  delta errRise
  repeat' first
    | with_reducible apply Frame.refl
    | with_reducible assumption
    | apply Eq.refl
    | lift_lets -underBinder -merge -useContext
    | (intro x; refine Frame.cut (cs := [.err]) (s0 := s) (x := x) ?_ (fun hx => ?_); unfold x; rotate_left; clear_value x)
    | (intro x; clear_value x)
    | intro x
    | with_reducible apply Frame.app (errSeq_frame _)
    | with_reducible apply Frame.app (setSuppressed_frame _ _ _)
    | (with_reducible refine Frame.updErr (by decide) ?_ ?_; (intro _ h; exact h))
    | (with_reducible refine Frame.updErr (by decide) ?_ ?_; (intro _ h; simp only [ErrSt.sorted] at h ⊢; simp [h]; done))
    | (with_reducible refine Frame.updErr (by decide) ?_ ?_; (intro _ h; simp only [ErrSt.sorted] at h ⊢; and_intros <;> (try dsimp only) <;> (repeat' split) <;> first | (simp [h]; done) | exact tabFold_rising (fun _ _ g => by first | (simp [g]; done) | (split <;> simp [g]; done)) _ _ (by simp [h])))
    | (with_reducible refine Frame.updErr (by decide) ?_ ?_; (intro _ h; simp only [ErrSt.sorted] at h ⊢; and_intros <;> first | (simp [h]; done) | exact tabFold_rising (fun _ _ g => by first | (simp [g]; done) | (split <;> simp [g]; done) | exact tabFold_rising (fun _ _ k => by simp [k]) _ _ g) _ _ (by simp [h]) | (repeat' first | exact rfl | exact h | apply tabSet_rising)))
    | with_reducible apply Frame.ite

theorem raiseInt_frame (blk : Nat) (m : Word) (s : State) :
    Frame [.regs, .err] s (raiseInt blk m s) := by
  delta raiseInt
  repeat' first
    | with_reducible apply Frame.refl
    | with_reducible assumption
    | apply Eq.refl
    | lift_lets -underBinder -merge -useContext
    | (intro x; refine Frame.cut (cs := [.regs, .err]) (s0 := s) (x := x) ?_ (fun hx => ?_); unfold x; rotate_left; clear_value x)
    | (intro x; clear_value x)
    | intro x
    | with_reducible apply Frame.app (regPut_frame _ _ _)
    | with_reducible apply Frame.app (errRise_frame _ _ _)
    | (with_reducible refine Frame.updErr (by decide) ?_ ?_; (intro _ h; exact h))
    | (with_reducible refine Frame.updErr (by decide) ?_ ?_; (intro _ h; simp only [ErrSt.sorted] at h ⊢; simp [h]; done))
    | (with_reducible refine Frame.updErr (by decide) ?_ ?_; (intro _ h; simp only [ErrSt.sorted] at h ⊢; and_intros <;> (try dsimp only) <;> (repeat' split) <;> first | (simp [h]; done) | exact tabFold_rising (fun _ _ g => by first | (simp [g]; done) | (split <;> simp [g]; done)) _ _ (by simp [h])))
    | (with_reducible refine Frame.updErr (by decide) ?_ ?_; (intro _ h; simp only [ErrSt.sorted] at h ⊢; and_intros <;> first | (simp [h]; done) | exact tabFold_rising (fun _ _ g => by first | (simp [g]; done) | (split <;> simp [g]; done) | exact tabFold_rising (fun _ _ k => by simp [k]) _ _ g) _ _ (by simp [h]) | (repeat' first | exact rfl | exact h | apply tabSet_rising)))
    | with_reducible apply Frame.ite
    | split

theorem refuse_frame (cause : Nat) (src : Party) (space : Nat) (write : Bool) (off data : Nat) (s : State) :
    Frame [.regs, .prt, .err] s (refuse cause src space write off data s) := by
  delta refuse
  repeat' first
    | with_reducible apply Frame.refl
    | with_reducible assumption
    | apply Eq.refl
    | lift_lets -underBinder -merge -useContext
    | (intro x; refine Frame.cut (cs := [.regs, .prt, .err]) (s0 := s) (x := x) ?_ (fun hx => ?_); unfold x; rotate_left; clear_value x)
    | (intro x; clear_value x)
    | intro x
    | with_reducible apply Frame.app (cntAdd_frame _ _ _)
    | with_reducible apply Frame.app (cntWrap_frame _ _ _)
    | with_reducible apply Frame.app (raiseInt_frame _ _ _)
    | with_reducible apply Frame.updPrt
    | with_reducible apply Frame.ite

theorem refusePoison_frame (src : Party) (space off data : Nat) (s : State) :
    Frame [.regs, .hif, .prt, .err] s (refusePoison src space off data s) := by
  delta refusePoison
  repeat' first
    | with_reducible apply Frame.refl
    | with_reducible assumption
    | apply Eq.refl
    | lift_lets -underBinder -merge -useContext
    | (intro x; refine Frame.cut (cs := [.regs, .hif, .prt, .err]) (s0 := s) (x := x) ?_ (fun hx => ?_); unfold x; rotate_left; clear_value x)
    | with_reducible apply Frame.app (updFn_frame _ _ _)
    | with_reducible apply Frame.app (refuse_frame _ _ _ _ _ _ _)

theorem refuseReg_frame (cause : Nat) (src : Party) (off : Nat) (v : Word) (s : State) :
    Frame [.regs, .prt, .err] s (refuseReg cause src off v s) := by
  delta refuseReg
  repeat' first
    | with_reducible apply Frame.refl
    | with_reducible assumption
    | apply Eq.refl
    | lift_lets -underBinder -merge -useContext
    | (intro x; refine Frame.cut (cs := [.regs, .prt, .err]) (s0 := s) (x := x) ?_ (fun hx => ?_); unfold x; rotate_left; clear_value x)
    | with_reducible apply Frame.app (refuse_frame _ _ _ _ _ _ _)
    | split

theorem answer_frame (r : ReadResult) (s : State) :
    Frame [.hif] s (answer r s) := by
  delta answer
  repeat' first
    | with_reducible apply Frame.refl
    | with_reducible assumption
    | apply Eq.refl
    | lift_lets -underBinder -merge -useContext
    | (intro x; refine Frame.cut (cs := [.hif]) (s0 := s) (x := x) ?_ (fun hx => ?_); unfold x; rotate_left; clear_value x)
    | (with_reducible refine Frame.updHif (by decide) ?_ ?_; (intro _ h; exact h))
    | (with_reducible refine Frame.updHif (by decide) ?_ ?_; (intro _ h; simp only [HifSt.sorted] at h ⊢; simp [h]; done))
    | (with_reducible refine Frame.updHif (by decide) ?_ ?_; (intro _ h; simp only [HifSt.sorted] at h ⊢; and_intros <;> (try dsimp only) <;> (repeat' split) <;> first | (simp [h]; done) | exact tabFold_rising (fun _ _ g => by first | (simp [g]; done) | (split <;> simp [g]; done)) _ _ (by simp [h])))
    | (with_reducible refine Frame.updHif (by decide) ?_ ?_; (intro _ h; simp only [HifSt.sorted] at h ⊢; and_intros <;> first | (simp [h]; done) | exact tabFold_rising (fun _ _ g => by first | (simp [g]; done) | (split <;> simp [g]; done) | exact tabFold_rising (fun _ _ k => by simp [k]) _ _ g) _ _ (by simp [h]) | (repeat' first | exact rfl | exact h | apply tabSet_rising)))

theorem smbAnswer_frame (r : SmbReply) (s : State) :
    Frame [.prt] s (smbAnswer r s) := by
  delta smbAnswer
  repeat' first
    | with_reducible apply Frame.refl
    | with_reducible assumption
    | apply Eq.refl
    | lift_lets -underBinder -merge -useContext
    | (intro x; refine Frame.cut (cs := [.prt]) (s0 := s) (x := x) ?_ (fun hx => ?_); unfold x; rotate_left; clear_value x)
    | with_reducible apply Frame.updPrt

end Sys2Proof.Machine
end

