-- ==== Sys2Proof/Laws/FrameFlags.lean ====
section
/-! SUPPORT. What each operation of Machine/Flags.lean changes at most, and that it keeps the invariant. -/

namespace Sys2Proof.Machine

set_option linter.all false

open Sys2Proof

theorem lnkAdd_frame (g k n : Nat) (s : State) :
    Frame [.regs] s (lnkAdd g k n s) := by
  delta lnkAdd
  repeat' first
    | with_reducible apply Frame.refl
    | with_reducible assumption
    | apply Eq.refl
    | lift_lets -underBinder -merge -useContext
    | (intro x; refine Frame.cut (cs := [.regs]) (s0 := s) (x := x) ?_ (fun hx => ?_); unfold x; rotate_left; clear_value x)
    | with_reducible apply Frame.app (cntAdd_frame _ _ _)
    | with_reducible apply Frame.app (cntWrap_frame _ _ _)
    | with_reducible apply Frame.ite

theorem lnkEvent_frame (g k : Nat) (s : State) :
    Frame [.regs, .err] s (lnkEvent g k s) := by
  delta lnkEvent
  repeat' first
    | with_reducible apply Frame.refl
    | with_reducible assumption
    | apply Eq.refl
    | lift_lets -underBinder -merge -useContext
    | (intro x; refine Frame.cut (cs := [.regs, .err]) (s0 := s) (x := x) ?_ (fun hx => ?_); unfold x; rotate_left; clear_value x)
    | (intro x; clear_value x)
    | intro x
    | with_reducible apply Frame.app (raiseInt_frame _ _ _)
    | with_reducible apply Frame.app (lnkAdd_frame _ _ _ _)
    | split

theorem intCount_frame (k : Nat) (s : State) :
    Frame [.regs] s (intCount k s) := by
  delta intCount
  repeat' first
    | with_reducible apply Frame.refl
    | with_reducible assumption
    | apply Eq.refl
    | lift_lets -underBinder -merge -useContext
    | (intro x; refine Frame.cut (cs := [.regs]) (s0 := s) (x := x) ?_ (fun hx => ?_); unfold x; rotate_left; clear_value x)
    | with_reducible apply Frame.app (cntAdd_frame _ _ _)
    | with_reducible apply Frame.app (cntWrap_frame _ _ _)
    | with_reducible apply Frame.ite

theorem intEvent_frame (b : Nat) (s : State) :
    Frame [.regs, .err] s (intEvent b s) := by
  delta intEvent
  repeat' first
    | with_reducible apply Frame.refl
    | with_reducible assumption
    | apply Eq.refl
    | lift_lets -underBinder -merge -useContext
    | (intro x; refine Frame.cut (cs := [.regs, .err]) (s0 := s) (x := x) ?_ (fun hx => ?_); unfold x; rotate_left; clear_value x)
    | with_reducible apply Frame.app (raiseInt_frame _ _ _)

end Sys2Proof.Machine
end

