-- ==== Sys2Proof/Laws/FrameArrayOps.lean ====
section
/-! SUPPORT. What each operation of Machine/ArrayOps.lean changes at most, and that it keeps the invariant. -/

namespace Sys2Proof.Machine

set_option linter.all false

open Sys2Proof

theorem putSlice_frame (key : Nat) (c : Slice) (s : State) :
    Frame [.arr] s (putSlice key c s) := by
  delta putSlice
  repeat' first
    | with_reducible apply Frame.refl
    | with_reducible assumption
    | apply Eq.refl
    | lift_lets -underBinder -merge -useContext
    | (intro x; refine Frame.cut (cs := [.arr]) (s0 := s) (x := x) ?_ (fun hx => ?_); unfold x; rotate_left; clear_value x)
    | (with_reducible refine Frame.updArr (by decide) ?_ ?_; (intro _ h; exact h))
    | (with_reducible refine Frame.updArr (by decide) ?_ ?_; (intro _ h; simp only [ArrSt.sorted] at h ⊢; simp [h]; done))
    | (with_reducible refine Frame.updArr (by decide) ?_ ?_; (intro _ h; simp only [ArrSt.sorted] at h ⊢; and_intros <;> (try dsimp only) <;> (repeat' split) <;> first | (simp [h]; done) | exact tabFold_rising (fun _ _ g => by first | (simp [g]; done) | (split <;> simp [g]; done)) _ _ (by simp [h])))
    | (with_reducible refine Frame.updArr (by decide) ?_ ?_; (intro _ h; simp only [ArrSt.sorted] at h ⊢; and_intros <;> first | (simp [h]; done) | exact tabFold_rising (fun _ _ g => by first | (simp [g]; done) | (split <;> simp [g]; done) | exact tabFold_rising (fun _ _ k => by simp [k]) _ _ g) _ _ (by simp [h]) | (repeat' first | exact rfl | exact h | apply tabSet_rising)))

theorem putRank_frame (key : Nat) (w : BitVec 17) (s : State) :
    Frame [.arr] s (putRank key w s) := by
  delta putRank
  repeat' first
    | with_reducible apply Frame.refl
    | with_reducible assumption
    | apply Eq.refl
    | lift_lets -underBinder -merge -useContext
    | (intro x; refine Frame.cut (cs := [.arr]) (s0 := s) (x := x) ?_ (fun hx => ?_); unfold x; rotate_left; clear_value x)
    | (with_reducible refine Frame.updArr (by decide) ?_ ?_; (intro _ h; exact h))
    | (with_reducible refine Frame.updArr (by decide) ?_ ?_; (intro _ h; simp only [ArrSt.sorted] at h ⊢; simp [h]; done))
    | (with_reducible refine Frame.updArr (by decide) ?_ ?_; (intro _ h; simp only [ArrSt.sorted] at h ⊢; and_intros <;> (try dsimp only) <;> (repeat' split) <;> first | (simp [h]; done) | exact tabFold_rising (fun _ _ g => by first | (simp [g]; done) | (split <;> simp [g]; done)) _ _ (by simp [h])))
    | (with_reducible refine Frame.updArr (by decide) ?_ ?_; (intro _ h; simp only [ArrSt.sorted] at h ⊢; and_intros <;> first | (simp [h]; done) | exact tabFold_rising (fun _ _ g => by first | (simp [g]; done) | (split <;> simp [g]; done) | exact tabFold_rising (fun _ _ k => by simp [k]) _ _ g) _ _ (by simp [h]) | (repeat' first | exact rfl | exact h | apply tabSet_rising)))

theorem writeSlot_frame (idx : Nat) (c : Slice) (s : State) :
    Frame [.arr] s (writeSlot idx c s) := by
  delta writeSlot
  repeat' first
    | with_reducible apply Frame.refl
    | with_reducible assumption
    | apply Eq.refl
    | lift_lets -underBinder -merge -useContext
    | (intro x; refine Frame.cut (cs := [.arr]) (s0 := s) (x := x) ?_ (fun hx => ?_); unfold x; rotate_left; clear_value x)
    | (intro x; clear_value x)
    | intro x
    | with_reducible apply Frame.app (putSlice_frame _ _ _)
    | with_reducible refine Frame.foldl ?_ (fun _ _ _ => ?_)
    | with_reducible apply_assumption

theorem writeRank_frame (idx : Nat) (w : BitVec 17) (s : State) :
    Frame [.arr] s (writeRank idx w s) := by
  delta writeRank
  repeat' first
    | with_reducible apply Frame.refl
    | with_reducible assumption
    | apply Eq.refl
    | lift_lets -underBinder -merge -useContext
    | (intro x; refine Frame.cut (cs := [.arr]) (s0 := s) (x := x) ?_ (fun hx => ?_); unfold x; rotate_left; clear_value x)
    | (intro x; clear_value x)
    | intro x
    | with_reducible apply Frame.app (putRank_frame _ _ _)
    | with_reducible refine Frame.foldl ?_ (fun _ _ _ => ?_)
    | with_reducible apply_assumption

theorem writeEntrySlots_frame (width idx : Nat) (e : Option Entry) (s : State) :
    Frame [.arr] s (writeEntrySlots width idx e s) := by
  delta writeEntrySlots
  repeat' first
    | with_reducible apply Frame.refl
    | with_reducible assumption
    | apply Eq.refl
    | lift_lets -underBinder -merge -useContext
    | (intro x; refine Frame.cut (cs := [.arr]) (s0 := s) (x := x) ?_ (fun hx => ?_); unfold x; rotate_left; clear_value x)
    | (intro x; clear_value x)
    | intro x
    | with_reducible apply Frame.app (writeSlot_frame _ _ _)
    | with_reducible refine Frame.foldl ?_ (fun _ _ _ => ?_)
    | with_reducible apply_assumption
    | split

theorem fixActivity_frame (i : Nat) (s : State) :
    Frame [.regs, .arr] s (fixActivity i s) := by
  delta fixActivity
  repeat' first
    | with_reducible apply Frame.refl
    | with_reducible assumption
    | apply Eq.refl
    | lift_lets -underBinder -merge -useContext
    | (intro x; refine Frame.cut (cs := [.regs, .arr]) (s0 := s) (x := x) ?_ (fun hx => ?_); unfold x; rotate_left; clear_value x)
    | with_reducible apply Frame.app (intCount_frame _ _)
    | (with_reducible refine Frame.updArr (by decide) ?_ ?_; (intro _ h; exact h))
    | (with_reducible refine Frame.updArr (by decide) ?_ ?_; (intro _ h; simp only [ArrSt.sorted] at h ⊢; simp [h]; done))
    | (with_reducible refine Frame.updArr (by decide) ?_ ?_; (intro _ h; simp only [ArrSt.sorted] at h ⊢; and_intros <;> (try dsimp only) <;> (repeat' split) <;> first | (simp [h]; done) | exact tabFold_rising (fun _ _ g => by first | (simp [g]; done) | (split <;> simp [g]; done)) _ _ (by simp [h])))
    | (with_reducible refine Frame.updArr (by decide) ?_ ?_; (intro _ h; simp only [ArrSt.sorted] at h ⊢; and_intros <;> first | (simp [h]; done) | exact tabFold_rising (fun _ _ g => by first | (simp [g]; done) | (split <;> simp [g]; done) | exact tabFold_rising (fun _ _ k => by simp [k]) _ _ g) _ _ (by simp [h]) | (repeat' first | exact rfl | exact h | apply tabSet_rising)))
    | with_reducible refine Frame.foldl ?_ (fun _ _ _ => ?_)
    | with_reducible apply Frame.ite
    | with_reducible apply_assumption

theorem fixActivities_frame (idxs : List Nat) (s : State) :
    Frame [.regs, .arr] s (fixActivities idxs s) := by
  delta fixActivities
  repeat' first
    | with_reducible apply Frame.refl
    | with_reducible assumption
    | apply Eq.refl
    | lift_lets -underBinder -merge -useContext
    | (intro x; refine Frame.cut (cs := [.regs, .arr]) (s0 := s) (x := x) ?_ (fun hx => ?_); unfold x; rotate_left; clear_value x)
    | with_reducible apply Frame.app (fixActivity_frame _ _)
    | with_reducible refine Frame.foldl ?_ (fun _ _ _ => ?_)
    | with_reducible apply_assumption

theorem setActivity_frame (idxs : List Nat) (s : State) :
    Frame [.regs, .arr] s (setActivity idxs s) := by
  delta setActivity
  repeat' first
    | with_reducible apply Frame.refl
    | with_reducible assumption
    | apply Eq.refl
    | lift_lets -underBinder -merge -useContext
    | (intro x; refine Frame.cut (cs := [.regs, .arr]) (s0 := s) (x := x) ?_ (fun hx => ?_); unfold x; rotate_left; clear_value x)
    | with_reducible apply Frame.app (fixActivities_frame _ _)
    | (with_reducible refine Frame.updArr (by decide) ?_ ?_; (intro _ h; exact h))
    | (with_reducible refine Frame.updArr (by decide) ?_ ?_; (intro _ h; simp only [ArrSt.sorted] at h ⊢; simp [h]; done))
    | (with_reducible refine Frame.updArr (by decide) ?_ ?_; (intro _ h; simp only [ArrSt.sorted] at h ⊢; and_intros <;> (try dsimp only) <;> (repeat' split) <;> first | (simp [h]; done) | exact tabFold_rising (fun _ _ g => by first | (simp [g]; done) | (split <;> simp [g]; done)) _ _ (by simp [h])))
    | (with_reducible refine Frame.updArr (by decide) ?_ ?_; (intro _ h; simp only [ArrSt.sorted] at h ⊢; and_intros <;> first | (simp [h]; done) | exact tabFold_rising (fun _ _ g => by first | (simp [g]; done) | (split <;> simp [g]; done) | exact tabFold_rising (fun _ _ k => by simp [k]) _ _ g) _ _ (by simp [h]) | (repeat' first | exact rfl | exact h | apply tabSet_rising)))
    | with_reducible refine Frame.foldl ?_ (fun _ _ _ => ?_)
    | with_reducible apply_assumption

theorem clearActivity_frame (idxs : List Nat) (s : State) :
    Frame [.regs, .arr] s (clearActivity idxs s) := by
  delta clearActivity
  repeat' first
    | with_reducible apply Frame.refl
    | with_reducible assumption
    | apply Eq.refl
    | lift_lets -underBinder -merge -useContext
    | (intro x; refine Frame.cut (cs := [.regs, .arr]) (s0 := s) (x := x) ?_ (fun hx => ?_); unfold x; rotate_left; clear_value x)
    | with_reducible apply Frame.app (fixActivities_frame _ _)
    | (with_reducible refine Frame.updArr (by decide) ?_ ?_; (intro _ h; exact h))
    | (with_reducible refine Frame.updArr (by decide) ?_ ?_; (intro _ h; simp only [ArrSt.sorted] at h ⊢; simp [h]; done))
    | (with_reducible refine Frame.updArr (by decide) ?_ ?_; (intro _ h; simp only [ArrSt.sorted] at h ⊢; and_intros <;> (try dsimp only) <;> (repeat' split) <;> first | (simp [h]; done) | exact tabFold_rising (fun _ _ g => by first | (simp [g]; done) | (split <;> simp [g]; done)) _ _ (by simp [h])))
    | (with_reducible refine Frame.updArr (by decide) ?_ ?_; (intro _ h; simp only [ArrSt.sorted] at h ⊢; and_intros <;> first | (simp [h]; done) | exact tabFold_rising (fun _ _ g => by first | (simp [g]; done) | (split <;> simp [g]; done) | exact tabFold_rising (fun _ _ k => by simp [k]) _ _ g) _ _ (by simp [h]) | (repeat' first | exact rfl | exact h | apply tabSet_rising)))
    | with_reducible refine Frame.foldl ?_ (fun _ _ _ => ?_)
    | with_reducible apply_assumption

theorem pantryWrite_frame (w : Nat) (v : W64) (s : State) :
    Frame [.mem] s (pantryWrite w v s) := by
  delta pantryWrite
  repeat' first
    | with_reducible apply Frame.refl
    | with_reducible assumption
    | apply Eq.refl
    | lift_lets -underBinder -merge -useContext
    | (intro x; refine Frame.cut (cs := [.mem]) (s0 := s) (x := x) ?_ (fun hx => ?_); unfold x; rotate_left; clear_value x)
    | (with_reducible refine Frame.updMem (by decide) (fun _ h => h) (fun _ h => h) (fun _ h => h) ?_ ?_; (intro _ h; exact h))
    | (with_reducible refine Frame.updMem (by decide) (fun _ h => h) (fun _ h => h) (fun _ h => h) ?_ ?_; (intro _ h; simp only [MemSt.sorted] at h ⊢; simp [h]; done))
    | (with_reducible refine Frame.updMem (by decide) (fun _ h => h) (fun _ h => h) (fun _ h => h) ?_ ?_; (intro _ h; simp only [MemSt.sorted] at h ⊢; and_intros <;> (try dsimp only) <;> (repeat' split) <;> first | (simp [h]; done) | exact tabFold_rising (fun _ _ g => by first | (simp [g]; done) | (split <;> simp [g]; done)) _ _ (by simp [h])))
    | (with_reducible refine Frame.updMem (by decide) (fun _ h => h) (fun _ h => h) (fun _ h => h) ?_ ?_; (intro _ h; simp only [MemSt.sorted] at h ⊢; and_intros <;> first | (simp [h]; done) | exact tabFold_rising (fun _ _ g => by first | (simp [g]; done) | (split <;> simp [g]; done) | exact tabFold_rising (fun _ _ k => by simp [k]) _ _ g) _ _ (by simp [h]) | (repeat' first | exact rfl | exact h | apply tabSet_rising)))
    | (with_reducible refine Frame.updMem (by decide) (fun _ h => by first | exact h | exact memNil_wf | exact memSetWord_wf _ _ _ h | exact memFilter_wf _ _ h) (fun _ h => by first | exact h | exact memNil_wf | exact memSetWord_wf _ _ _ h | exact memFilter_wf _ _ h) (fun _ h => by first | exact h | exact memNil_wf | exact memSetByte_wf _ _ _ h | exact memFilter_wf _ _ h) ?_ ?_; (intro _ h; exact h))
    | (with_reducible refine Frame.updMem (by decide) (fun _ h => by first | exact h | exact memNil_wf | exact memSetWord_wf _ _ _ h | exact memFilter_wf _ _ h) (fun _ h => by first | exact h | exact memNil_wf | exact memSetWord_wf _ _ _ h | exact memFilter_wf _ _ h) (fun _ h => by first | exact h | exact memNil_wf | exact memSetByte_wf _ _ _ h | exact memFilter_wf _ _ h) ?_ ?_; (intro _ h; simp only [MemSt.sorted] at h ⊢; simp [h]; done))
    | (with_reducible refine Frame.updMem (by decide) (fun _ h => by first | exact h | exact memNil_wf | exact memSetWord_wf _ _ _ h | exact memFilter_wf _ _ h) (fun _ h => by first | exact h | exact memNil_wf | exact memSetWord_wf _ _ _ h | exact memFilter_wf _ _ h) (fun _ h => by first | exact h | exact memNil_wf | exact memSetByte_wf _ _ _ h | exact memFilter_wf _ _ h) ?_ ?_; (intro _ h; simp only [MemSt.sorted] at h ⊢; and_intros <;> (try dsimp only) <;> (repeat' split) <;> first | (simp [h]; done) | exact tabFold_rising (fun _ _ g => by first | (simp [g]; done) | (split <;> simp [g]; done)) _ _ (by simp [h])))
    | (with_reducible refine Frame.updMem (by decide) (fun _ h => by first | exact h | exact memNil_wf | exact memSetWord_wf _ _ _ h | exact memFilter_wf _ _ h) (fun _ h => by first | exact h | exact memNil_wf | exact memSetWord_wf _ _ _ h | exact memFilter_wf _ _ h) (fun _ h => by first | exact h | exact memNil_wf | exact memSetByte_wf _ _ _ h | exact memFilter_wf _ _ h) ?_ ?_; (intro _ h; simp only [MemSt.sorted] at h ⊢; and_intros <;> first | (simp [h]; done) | exact tabFold_rising (fun _ _ g => by first | (simp [g]; done) | (split <;> simp [g]; done) | exact tabFold_rising (fun _ _ k => by simp [k]) _ _ g) _ _ (by simp [h]) | (repeat' first | exact rfl | exact h | apply tabSet_rising)))

theorem unitFill_frame (h : Nat) (v : Word) (s : State) :
    Frame [.mem] s (unitFill h v s) := by
  delta unitFill
  repeat' first
    | with_reducible apply Frame.refl
    | with_reducible assumption
    | apply Eq.refl
    | lift_lets -underBinder -merge -useContext
    | (intro x; refine Frame.cut (cs := [.mem]) (s0 := s) (x := x) ?_ (fun hx => ?_); unfold x; rotate_left; clear_value x)
    | (intro x; clear_value x)
    | intro x
    | with_reducible apply Frame.app (pantryWrite_frame _ _ _)
    | with_reducible apply Frame.ite
    | split

theorem grantUnit_frame (u m : Nat) (s : State) :
    Frame [.mem] s (grantUnit u m s) := by
  delta grantUnit
  repeat' first
    | with_reducible apply Frame.refl
    | with_reducible assumption
    | apply Eq.refl
    | lift_lets -underBinder -merge -useContext
    | (intro x; refine Frame.cut (cs := [.mem]) (s0 := s) (x := x) ?_ (fun hx => ?_); unfold x; rotate_left; clear_value x)
    | (with_reducible refine Frame.updMem (by decide) (fun _ h => h) (fun _ h => h) (fun _ h => h) ?_ ?_; (intro _ h; exact h))
    | (with_reducible refine Frame.updMem (by decide) (fun _ h => h) (fun _ h => h) (fun _ h => h) ?_ ?_; (intro _ h; simp only [MemSt.sorted] at h ⊢; simp [h]; done))
    | (with_reducible refine Frame.updMem (by decide) (fun _ h => h) (fun _ h => h) (fun _ h => h) ?_ ?_; (intro _ h; simp only [MemSt.sorted] at h ⊢; and_intros <;> (try dsimp only) <;> (repeat' split) <;> first | (simp [h]; done) | exact tabFold_rising (fun _ _ g => by first | (simp [g]; done) | (split <;> simp [g]; done)) _ _ (by simp [h])))
    | (with_reducible refine Frame.updMem (by decide) (fun _ h => h) (fun _ h => h) (fun _ h => h) ?_ ?_; (intro _ h; simp only [MemSt.sorted] at h ⊢; and_intros <;> first | (simp [h]; done) | exact tabFold_rising (fun _ _ g => by first | (simp [g]; done) | (split <;> simp [g]; done) | exact tabFold_rising (fun _ _ k => by simp [k]) _ _ g) _ _ (by simp [h]) | (repeat' first | exact rfl | exact h | apply tabSet_rising)))
    | (with_reducible refine Frame.updMem (by decide) (fun _ h => by first | exact h | exact memNil_wf | exact memSetWord_wf _ _ _ h | exact memFilter_wf _ _ h) (fun _ h => by first | exact h | exact memNil_wf | exact memSetWord_wf _ _ _ h | exact memFilter_wf _ _ h) (fun _ h => by first | exact h | exact memNil_wf | exact memSetByte_wf _ _ _ h | exact memFilter_wf _ _ h) ?_ ?_; (intro _ h; exact h))
    | (with_reducible refine Frame.updMem (by decide) (fun _ h => by first | exact h | exact memNil_wf | exact memSetWord_wf _ _ _ h | exact memFilter_wf _ _ h) (fun _ h => by first | exact h | exact memNil_wf | exact memSetWord_wf _ _ _ h | exact memFilter_wf _ _ h) (fun _ h => by first | exact h | exact memNil_wf | exact memSetByte_wf _ _ _ h | exact memFilter_wf _ _ h) ?_ ?_; (intro _ h; simp only [MemSt.sorted] at h ⊢; simp [h]; done))
    | (with_reducible refine Frame.updMem (by decide) (fun _ h => by first | exact h | exact memNil_wf | exact memSetWord_wf _ _ _ h | exact memFilter_wf _ _ h) (fun _ h => by first | exact h | exact memNil_wf | exact memSetWord_wf _ _ _ h | exact memFilter_wf _ _ h) (fun _ h => by first | exact h | exact memNil_wf | exact memSetByte_wf _ _ _ h | exact memFilter_wf _ _ h) ?_ ?_; (intro _ h; simp only [MemSt.sorted] at h ⊢; and_intros <;> (try dsimp only) <;> (repeat' split) <;> first | (simp [h]; done) | exact tabFold_rising (fun _ _ g => by first | (simp [g]; done) | (split <;> simp [g]; done)) _ _ (by simp [h])))
    | (with_reducible refine Frame.updMem (by decide) (fun _ h => by first | exact h | exact memNil_wf | exact memSetWord_wf _ _ _ h | exact memFilter_wf _ _ h) (fun _ h => by first | exact h | exact memNil_wf | exact memSetWord_wf _ _ _ h | exact memFilter_wf _ _ h) (fun _ h => by first | exact h | exact memNil_wf | exact memSetByte_wf _ _ _ h | exact memFilter_wf _ _ h) ?_ ?_; (intro _ h; simp only [MemSt.sorted] at h ⊢; and_intros <;> first | (simp [h]; done) | exact tabFold_rising (fun _ _ g => by first | (simp [g]; done) | (split <;> simp [g]; done) | exact tabFold_rising (fun _ _ k => by simp [k]) _ _ g) _ _ (by simp [h]) | (repeat' first | exact rfl | exact h | apply tabSet_rising)))

theorem contend_frame (u m : Nat) (rivals : List (Fin 5)) (cycles : Nat) (s : State) :
    Frame [.regs, .mem] s (contend u m rivals cycles s) := by
  delta contend
  repeat' first
    | with_reducible apply Frame.refl
    | with_reducible assumption
    | apply Eq.refl
    | lift_lets -underBinder -merge -useContext
    | (intro x; refine Frame.cut (cs := [.regs, .mem]) (s0 := s) (x := x) ?_ (fun hx => ?_); unfold x; rotate_left; clear_value x)
    | (intro x; clear_value x)
    | intro x
    | with_reducible apply Frame.app (cntAdd_frame _ _ _)
    | with_reducible apply Frame.app (grantUnit_frame _ _ _)
    | with_reducible refine Frame.foldl ?_ (fun _ _ _ => ?_)
    | with_reducible apply Frame.ite
    | with_reducible apply_assumption

theorem maskWrite_frame (t b : Nat) (m : W64) (s : State) :
    Frame [.tbl] s (maskWrite t b m s) := by
  delta maskWrite
  repeat' first
    | with_reducible apply Frame.refl
    | with_reducible assumption
    | apply Eq.refl
    | lift_lets -underBinder -merge -useContext
    | (intro x; refine Frame.cut (cs := [.tbl]) (s0 := s) (x := x) ?_ (fun hx => ?_); unfold x; rotate_left; clear_value x)
    | (with_reducible refine Frame.updTbl (by decide) ?_ ?_; (intro _ h; exact h))
    | (with_reducible refine Frame.updTbl (by decide) ?_ ?_; (intro _ h; simp only [TblSt.sorted] at h ⊢; simp [h]; done))
    | (with_reducible refine Frame.updTbl (by decide) ?_ ?_; (intro _ h; simp only [TblSt.sorted] at h ⊢; and_intros <;> (try dsimp only) <;> (repeat' split) <;> first | (simp [h]; done) | exact tabFold_rising (fun _ _ g => by first | (simp [g]; done) | (split <;> simp [g]; done)) _ _ (by simp [h])))
    | (with_reducible refine Frame.updTbl (by decide) ?_ ?_; (intro _ h; simp only [TblSt.sorted] at h ⊢; and_intros <;> first | (simp [h]; done) | exact tabFold_rising (fun _ _ g => by first | (simp [g]; done) | (split <;> simp [g]; done) | exact tabFold_rising (fun _ _ k => by simp [k]) _ _ g) _ _ (by simp [h]) | (repeat' first | exact rfl | exact h | apply tabSet_rising)))

end Sys2Proof.Machine
end

