-- ==== Sys2Proof/Laws/FrameDetect.lean ====
section
/-! SUPPORT. What each operation of Machine/Detect.lean changes at most, and that it keeps the invariant. -/

namespace Sys2Proof.Machine

set_option linter.all false

open Sys2Proof

theorem queueRepair_frame (idx outcome : Nat) (s : State) :
    Frame [.regs, .arr, .hif, .err] s (queueRepair idx outcome s) := by
  delta queueRepair
  repeat' first
    | with_reducible apply Frame.refl
    | with_reducible assumption
    | apply Eq.refl
    | lift_lets -underBinder -merge -useContext
    | (intro x; refine Frame.cut (cs := [.regs, .arr, .hif, .err]) (s0 := s) (x := x) ?_ (fun hx => ?_); unfold x; rotate_left; clear_value x)
    | (intro x; clear_value x)
    | intro x
    | with_reducible apply Frame.app (errRecord_frame _ _ _ _ _ _)
    | with_reducible apply Frame.app (intCount_frame _ _)
    | (with_reducible refine Frame.updArr (by decide) ?_ ?_; (intro _ h; exact h))
    | (with_reducible refine Frame.updArr (by decide) ?_ ?_; (intro _ h; simp only [ArrSt.sorted] at h ⊢; simp [h]; done))
    | (with_reducible refine Frame.updArr (by decide) ?_ ?_; (intro _ h; simp only [ArrSt.sorted] at h ⊢; and_intros <;> (try dsimp only) <;> (repeat' split) <;> first | (simp [h]; done) | exact tabFold_rising (fun _ _ g => by first | (simp [g]; done) | (split <;> simp [g]; done)) _ _ (by simp [h])))
    | (with_reducible refine Frame.updArr (by decide) ?_ ?_; (intro _ h; simp only [ArrSt.sorted] at h ⊢; and_intros <;> first | (simp [h]; done) | exact tabFold_rising (fun _ _ g => by first | (simp [g]; done) | (split <;> simp [g]; done) | exact tabFold_rising (fun _ _ k => by simp [k]) _ _ g) _ _ (by simp [h]) | (repeat' first | exact rfl | exact h | apply tabSet_rising)))
    | with_reducible apply Frame.ite

theorem queueEntryRepair_frame (width idx outcome : Nat) (s : State) :
    Frame [.regs, .arr, .hif, .err] s (queueEntryRepair width idx outcome s) := by
  delta queueEntryRepair
  repeat' first
    | with_reducible apply Frame.refl
    | with_reducible assumption
    | apply Eq.refl
    | lift_lets -underBinder -merge -useContext
    | (intro x; refine Frame.cut (cs := [.regs, .arr, .hif, .err]) (s0 := s) (x := x) ?_ (fun hx => ?_); unfold x; rotate_left; clear_value x)
    | (intro x; clear_value x)
    | intro x
    | with_reducible apply Frame.app (queueRepair_frame _ _ _)
    | with_reducible apply Frame.ite

theorem requestRemap_frame (p cause : Nat) (s : State) :
    Frame [.arr] s (requestRemap p cause s) := by
  delta requestRemap
  repeat' first
    | with_reducible apply Frame.refl
    | with_reducible assumption
    | apply Eq.refl
    | lift_lets -underBinder -merge -useContext
    | (intro x; refine Frame.cut (cs := [.arr]) (s0 := s) (x := x) ?_ (fun hx => ?_); unfold x; rotate_left; clear_value x)
    | (with_reducible refine Frame.updArr (by decide) ?_ ?_; (intro _ h; exact h))
    | (with_reducible refine Frame.updArr (by decide) ?_ ?_; (intro _ h; simp only [ArrSt.sorted] at h ⊢; simp [h]; done))
    | (with_reducible refine Frame.updArr (by decide) ?_ ?_; (intro _ h; simp only [ArrSt.sorted] at h ⊢; and_intros <;> (try dsimp only) <;> (repeat' split) <;> first | (simp [h]; done) | exact tabFold_rising (fun _ _ g => by first | (simp [g]; done) | (split <;> simp [g]; done)) _ _ (by simp [h])))
    | (with_reducible refine Frame.updArr (by decide) ?_ ?_; (intro _ h; simp only [ArrSt.sorted] at h ⊢; and_intros <;> first | (simp [h]; done) | exact tabFold_rising (fun _ _ g => by first | (simp [g]; done) | (split <;> simp [g]; done) | exact tabFold_rising (fun _ _ k => by simp [k]) _ _ g) _ _ (by simp [h]) | (repeat' first | exact rfl | exact h | apply tabSet_rising)))
    | with_reducible apply Frame.ite

theorem persistentFault_frame (p : Nat) (s : State) :
    Frame [.regs, .arr, .err] s (persistentFault p s) := by
  delta persistentFault
  repeat' first
    | with_reducible apply Frame.refl
    | with_reducible assumption
    | apply Eq.refl
    | lift_lets -underBinder -merge -useContext
    | (intro x; refine Frame.cut (cs := [.regs, .arr, .err]) (s0 := s) (x := x) ?_ (fun hx => ?_); unfold x; rotate_left; clear_value x)
    | (intro x; clear_value x)
    | intro x
    | with_reducible apply Frame.app (intEvent_frame _ _)
    | with_reducible apply Frame.app (requestRemap_frame _ _ _)
    | with_reducible apply Frame.ite

theorem unitWrite_frame (h : Nat) (v : Word) (s : State) :
    Frame [.regs, .mem, .hif, .err] s (unitWrite h v s) := by
  delta unitWrite
  repeat' first
    | with_reducible apply Frame.refl
    | with_reducible assumption
    | apply Eq.refl
    | lift_lets -underBinder -merge -useContext
    | (intro x; refine Frame.cut (cs := [.regs, .mem, .hif, .err]) (s0 := s) (x := x) ?_ (fun hx => ?_); unfold x; rotate_left; clear_value x)
    | (intro x; refine Frame.cutF (cs := [.regs, .mem, .hif, .err]) (s0 := s) (x := x) (fun _ _ => ?_) (fun hx => ?_); unfold x; rotate_left; clear_value x)
    | (intro x; refine Frame.cutS (cs := [.regs, .mem, .hif, .err]) (s0 := s) (x := x) (fun _ _ _ => ?_) (fun hx => ?_); unfold x; rotate_left; clear_value x)
    | (intro x; refine Frame.cutH (cs := [.regs, .mem, .hif, .err]) (s0 := s) (x := x) (fun _ _ _ _ => ?_) (fun hx => ?_); unfold x; rotate_left; clear_value x)
    | (intro x; refine Frame.cutG (cs := [.regs, .mem, .hif, .err]) (s0 := s) (x := x) (fun _ _ _ => ?_) (fun hx => ?_); unfold x; rotate_left; clear_value x)
    | (intro x; refine Frame.cutK (cs := [.regs, .mem, .hif, .err]) (s0 := s) (x := x) (fun _ => ?_) (fun hx => ?_); unfold x; rotate_left; clear_value x)
    | (intro x; refine Frame.cutK2 (cs := [.regs, .mem, .hif, .err]) (s0 := s) (x := x) (fun _ _ => ?_) (fun hx => ?_); unfold x; rotate_left; clear_value x)
    | (intro x; clear_value x)
    | intro x
    | with_reducible apply Frame.app (errRecord_frame _ _ _ _ _ _)
    | with_reducible apply Frame.app (intCount_frame _ _)
    | with_reducible apply Frame.app (pantryWrite_frame _ _ _)
    | with_reducible apply Frame.ite
    | with_reducible apply_assumption
    | split

theorem unitsWrite_frame (m u n : Nat) (r : List Word) (s : State) :
    Frame [.regs, .mem, .hif, .err] s (unitsWrite m u n r s) := by
  delta unitsWrite
  repeat' first
    | with_reducible apply Frame.refl
    | with_reducible assumption
    | apply Eq.refl
    | lift_lets -underBinder -merge -useContext
    | (intro x; refine Frame.cut (cs := [.regs, .mem, .hif, .err]) (s0 := s) (x := x) ?_ (fun hx => ?_); unfold x; rotate_left; clear_value x)
    | (intro x; clear_value x)
    | intro x
    | with_reducible apply Frame.app (pantryWrite_frame _ _ _)
    | with_reducible apply Frame.app (grantUnit_frame _ _ _)
    | with_reducible apply Frame.app (unitWrite_frame _ _ _)
    | with_reducible refine Frame.foldl ?_ (fun _ _ _ => ?_)
    | with_reducible apply Frame.ite
    | with_reducible apply_assumption

theorem recordWrite_frame (t : TableDesc) (idx : Nat) (mirror : Bool) (r : List Word) (s : State) :
    Frame [.regs, .mem, .hif, .err] s (recordWrite t idx mirror r s) := by
  delta recordWrite
  repeat' first
    | with_reducible apply Frame.refl
    | with_reducible assumption
    | apply Eq.refl
    | lift_lets -underBinder -merge -useContext
    | (intro x; refine Frame.cut (cs := [.regs, .mem, .hif, .err]) (s0 := s) (x := x) ?_ (fun hx => ?_); unfold x; rotate_left; clear_value x)
    | with_reducible apply Frame.app (unitsWrite_frame _ _ _ _ _)

theorem voteRead_frame (loc off : Nat) (s : State) :
    Frame [.regs, .pip, .hif, .err] s (voteRead loc off s) := by
  delta voteRead
  repeat' first
    | with_reducible apply Frame.refl
    | with_reducible assumption
    | apply Eq.refl
    | lift_lets -underBinder -merge -useContext
    | (intro x; refine Frame.cut (cs := [.regs, .pip, .hif, .err]) (s0 := s) (x := x) ?_ (fun hx => ?_); unfold x; rotate_left; clear_value x)
    | with_reducible apply Frame.app (errRecord_frame _ _ _ _ _ _)
    | with_reducible apply Frame.app (intCount_frame _ _)
    | (with_reducible refine Frame.updPip (by decide) ?_ ?_; (intro _ h; exact h))
    | (with_reducible refine Frame.updPip (by decide) ?_ ?_; (intro _ h; simp only [PipSt.sorted] at h ⊢; simp [h]; done))
    | (with_reducible refine Frame.updPip (by decide) ?_ ?_; (intro _ h; simp only [PipSt.sorted] at h ⊢; and_intros <;> (try dsimp only) <;> (repeat' split) <;> first | (simp [h]; done) | exact tabFold_rising (fun _ _ g => by first | (simp [g]; done) | (split <;> simp [g]; done)) _ _ (by simp [h])))
    | (with_reducible refine Frame.updPip (by decide) ?_ ?_; (intro _ h; simp only [PipSt.sorted] at h ⊢; and_intros <;> first | (simp [h]; done) | exact tabFold_rising (fun _ _ g => by first | (simp [g]; done) | (split <;> simp [g]; done) | exact tabFold_rising (fun _ _ k => by simp [k]) _ _ g) _ _ (by simp [h]) | (repeat' first | exact rfl | exact h | apply tabSet_rising)))
    | with_reducible apply Frame.ite

theorem lmapReads_frame (p : Pipe) (tag prof : Nat) (ps : List Nat) (s : State) :
    Frame [.regs, .pip, .hif, .err] s (lmapReads p tag prof ps s) := by
  delta lmapReads
  repeat' first
    | with_reducible apply Frame.refl
    | with_reducible assumption
    | apply Eq.refl
    | lift_lets -underBinder -merge -useContext
    | (intro x; refine Frame.cut (cs := [.regs, .pip, .hif, .err]) (s0 := s) (x := x) ?_ (fun hx => ?_); unfold x; rotate_left; clear_value x)
    | with_reducible apply Frame.app (voteRead_frame _ _ _)
    | with_reducible refine Frame.foldl ?_ (fun _ _ _ => ?_)
    | with_reducible apply_assumption

theorem maskReads_frame (p : Pipe) (s : State) :
    Frame [.regs, .pip, .hif, .err] s (maskReads p s) := by
  delta maskReads
  repeat' first
    | with_reducible apply Frame.refl
    | with_reducible assumption
    | apply Eq.refl
    | lift_lets -underBinder -merge -useContext
    | (intro x; refine Frame.cut (cs := [.regs, .pip, .hif, .err]) (s0 := s) (x := x) ?_ (fun hx => ?_); unfold x; rotate_left; clear_value x)
    | with_reducible apply Frame.app (voteRead_frame _ _ _)
    | with_reducible refine Frame.foldl ?_ (fun _ _ _ => ?_)
    | with_reducible apply_assumption

theorem pantryEvent_frame (t : Nat) (td : TableDesc) (mirror : Bool) (idx w : Nat) (r : SecRead) (s : State) :
    Frame [.regs, .arr, .hif, .err] s (pantryEvent t td mirror idx w r s) := by
  delta pantryEvent
  repeat' first
    | with_reducible apply Frame.refl
    | with_reducible assumption
    | apply Eq.refl
    | lift_lets -underBinder -merge -useContext
    | (intro x; refine Frame.cut (cs := [.regs, .arr, .hif, .err]) (s0 := s) (x := x) ?_ (fun hx => ?_); unfold x; rotate_left; clear_value x)
    | (intro x; clear_value x)
    | intro x
    | with_reducible apply Frame.app (errRecord_frame _ _ _ _ _ _)
    | with_reducible apply Frame.app (intCount_frame _ _)
    | with_reducible apply Frame.app (intEvent_frame _ _)
    | with_reducible apply Frame.app (queueEntryRepair_frame _ _ _ _)
    | with_reducible apply Frame.ite

theorem verifyFailure_frame (td : TableDesc) (idx fx fy : Nat) (rankBad : Bool) (s : State) :
    Frame [.regs, .arr, .hif, .err] s (verifyFailure td idx fx fy rankBad s) := by
  delta verifyFailure
  repeat' first
    | with_reducible apply Frame.refl
    | with_reducible assumption
    | apply Eq.refl
    | lift_lets -underBinder -merge -useContext
    | (intro x; refine Frame.cut (cs := [.regs, .arr, .hif, .err]) (s0 := s) (x := x) ?_ (fun hx => ?_); unfold x; rotate_left; clear_value x)
    | (intro x; clear_value x)
    | intro x
    | with_reducible apply Frame.app (errRecord_frame _ _ _ _ _ _)
    | with_reducible apply Frame.app (intCount_frame _ _)
    | with_reducible apply Frame.app (intEvent_frame _ _)
    | with_reducible apply Frame.app (queueEntryRepair_frame _ _ _ _)
    | with_reducible apply Frame.ite
    | with_reducible apply_assumption

theorem hobReportRecord_frame (t : Nat) (p : Pipe) (tag prof pan : Nat) (s : State) :
    Frame [.regs, .hif, .err] s (hobReportRecord t p tag prof pan s) := by
  delta hobReportRecord
  repeat' first
    | with_reducible apply Frame.refl
    | with_reducible assumption
    | apply Eq.refl
    | lift_lets -underBinder -merge -useContext
    | (intro x; refine Frame.cut (cs := [.regs, .hif, .err]) (s0 := s) (x := x) ?_ (fun hx => ?_); unfold x; rotate_left; clear_value x)
    | with_reducible apply Frame.app (errRecord_frame _ _ _ _ _ _)
    | with_reducible apply Frame.app (intCount_frame _ _)
    | with_reducible apply Frame.ite

theorem hobFailures_frame (bad : List Nat) (s : State) :
    Frame [.regs, .arr, .err] s (hobFailures bad s) := by
  delta hobFailures
  repeat' first
    | with_reducible apply Frame.refl
    | with_reducible assumption
    | apply Eq.refl
    | lift_lets -underBinder -merge -useContext
    | (intro x; refine Frame.cut (cs := [.regs, .arr, .err]) (s0 := s) (x := x) ?_ (fun hx => ?_); unfold x; rotate_left; clear_value x)
    | (intro x; clear_value x)
    | intro x
    | with_reducible apply Frame.app (intEvent_frame _ _)
    | with_reducible apply Frame.app (requestRemap_frame _ _ _)
    | (with_reducible refine Frame.updArr (by decide) ?_ ?_; (intro _ h; exact h))
    | (with_reducible refine Frame.updArr (by decide) ?_ ?_; (intro _ h; simp only [ArrSt.sorted] at h ⊢; simp [h]; done))
    | (with_reducible refine Frame.updArr (by decide) ?_ ?_; (intro _ h; simp only [ArrSt.sorted] at h ⊢; and_intros <;> (try dsimp only) <;> (repeat' split) <;> first | (simp [h]; done) | exact tabFold_rising (fun _ _ g => by first | (simp [g]; done) | (split <;> simp [g]; done)) _ _ (by simp [h])))
    | (with_reducible refine Frame.updArr (by decide) ?_ ?_; (intro _ h; simp only [ArrSt.sorted] at h ⊢; and_intros <;> first | (simp [h]; done) | exact tabFold_rising (fun _ _ g => by first | (simp [g]; done) | (split <;> simp [g]; done) | exact tabFold_rising (fun _ _ k => by simp [k]) _ _ g) _ _ (by simp [h]) | (repeat' first | exact rfl | exact h | apply tabSet_rising)))
    | with_reducible refine Frame.foldl ?_ (fun _ _ _ => ?_)
    | with_reducible apply Frame.ite
    | with_reducible apply_assumption

theorem divergence_frame (t : Nat) (p m : Report) (failed : Bool) (s : State) :
    Frame [.regs, .arr, .hif, .err] s (divergence t p m failed s) := by
  delta divergence
  repeat' first
    | with_reducible apply Frame.refl
    | with_reducible assumption
    | apply Eq.refl
    | lift_lets -underBinder -merge -useContext
    | (intro x; refine Frame.cut (cs := [.regs, .arr, .hif, .err]) (s0 := s) (x := x) ?_ (fun hx => ?_); unfold x; rotate_left; clear_value x)
    | (intro x; clear_value x)
    | intro x
    | with_reducible apply Frame.app (errRecord_frame _ _ _ _ _ _)
    | with_reducible apply Frame.app (intCount_frame _ _)
    | with_reducible apply Frame.app (intEvent_frame _ _)
    | (with_reducible refine Frame.updArr (by decide) ?_ ?_; (intro _ h; exact h))
    | (with_reducible refine Frame.updArr (by decide) ?_ ?_; (intro _ h; simp only [ArrSt.sorted] at h ⊢; simp [h]; done))
    | (with_reducible refine Frame.updArr (by decide) ?_ ?_; (intro _ h; simp only [ArrSt.sorted] at h ⊢; and_intros <;> (try dsimp only) <;> (repeat' split) <;> first | (simp [h]; done) | exact tabFold_rising (fun _ _ g => by first | (simp [g]; done) | (split <;> simp [g]; done)) _ _ (by simp [h])))
    | (with_reducible refine Frame.updArr (by decide) ?_ ?_; (intro _ h; simp only [ArrSt.sorted] at h ⊢; and_intros <;> first | (simp [h]; done) | exact tabFold_rising (fun _ _ g => by first | (simp [g]; done) | (split <;> simp [g]; done) | exact tabFold_rising (fun _ _ k => by simp [k]) _ _ g) _ _ (by simp [h]) | (repeat' first | exact rfl | exact h | apply tabSet_rising)))
    | with_reducible apply Frame.ite
    | with_reducible apply_assumption
    | split

end Sys2Proof.Machine
end

