-- ==== Sys2Proof/Laws/FrameSettings.lean ====
section
/-! SUPPORT. What each operation of Machine/Settings.lean changes at most, and that it keeps the invariant. -/

namespace Sys2Proof.Machine

set_option linter.all false

open Sys2Proof

theorem vbtPut_frame (n : Nat) (v : Word) (s : State) :
    Frame [.vbt] s (vbtPut n v s) := by
  delta vbtPut
  repeat' first
    | with_reducible apply Frame.refl
    | with_reducible assumption
    | apply Eq.refl
    | lift_lets -underBinder -merge -useContext
    | (intro x; refine Frame.cut (cs := [.vbt]) (s0 := s) (x := x) ?_ (fun hx => ?_); unfold x; rotate_left; clear_value x)
    | (with_reducible refine Frame.updVbt (by decide) ?_ ?_; (intro _ h; exact h))
    | (with_reducible refine Frame.updVbt (by decide) ?_ ?_; (intro _ h; simp only [VbtSt.sorted] at h ⊢; simp [h]; done))
    | (with_reducible refine Frame.updVbt (by decide) ?_ ?_; (intro _ h; simp only [VbtSt.sorted] at h ⊢; and_intros <;> (try dsimp only) <;> (repeat' split) <;> first | (simp [h]; done) | exact tabFold_rising (fun _ _ g => by first | (simp [g]; done) | (split <;> simp [g]; done)) _ _ (by simp [h])))
    | (with_reducible refine Frame.updVbt (by decide) ?_ ?_; (intro _ h; simp only [VbtSt.sorted] at h ⊢; and_intros <;> first | (simp [h]; done) | exact tabFold_rising (fun _ _ g => by first | (simp [g]; done) | (split <;> simp [g]; done) | exact tabFold_rising (fun _ _ k => by simp [k]) _ _ g) _ _ (by simp [h]) | (repeat' first | exact rfl | exact h | apply tabSet_rising)))

theorem vbtField_frame (n hi lo v : Nat) (s : State) :
    Frame [.vbt] s (vbtField n hi lo v s) := by
  delta vbtField
  repeat' first
    | with_reducible apply Frame.refl
    | with_reducible assumption
    | apply Eq.refl
    | lift_lets -underBinder -merge -useContext
    | (intro x; refine Frame.cut (cs := [.vbt]) (s0 := s) (x := x) ?_ (fun hx => ?_); unfold x; rotate_left; clear_value x)
    | with_reducible apply Frame.app (vbtPut_frame _ _ _)

theorem vbtPut64_frame (n v : Nat) (s : State) :
    Frame [.vbt] s (vbtPut64 n v s) := by
  delta vbtPut64
  repeat' first
    | with_reducible apply Frame.refl
    | with_reducible assumption
    | apply Eq.refl
    | lift_lets -underBinder -merge -useContext
    | (intro x; refine Frame.cut (cs := [.vbt]) (s0 := s) (x := x) ?_ (fun hx => ?_); unfold x; rotate_left; clear_value x)
    | with_reducible apply Frame.app (vbtPut_frame _ _ _)

theorem saveTod_frame (s : State) :
    Frame [.vbt] s (saveTod s) := by
  delta saveTod
  repeat' first
    | with_reducible apply Frame.refl
    | with_reducible assumption
    | apply Eq.refl
    | lift_lets -underBinder -merge -useContext
    | (intro x; refine Frame.cut (cs := [.vbt]) (s0 := s) (x := x) ?_ (fun hx => ?_); unfold x; rotate_left; clear_value x)
    | (intro x; clear_value x)
    | intro x
    | with_reducible apply Frame.app (vbtPut_frame _ _ _)
    | with_reducible apply Frame.app (vbtPut64_frame _ _ _)

theorem markDirty_frame (s : State) :
    Frame [.fwu] s (markDirty s) := by
  delta markDirty
  repeat' first
    | with_reducible apply Frame.refl
    | with_reducible assumption
    | apply Eq.refl
    | lift_lets -underBinder -merge -useContext
    | (intro x; refine Frame.cut (cs := [.fwu]) (s0 := s) (x := x) ?_ (fun hx => ?_); unfold x; rotate_left; clear_value x)
    | (with_reducible refine Frame.updFwu (by decide) ?_ ?_; (intro _ h; exact h))
    | (with_reducible refine Frame.updFwu (by decide) ?_ ?_; (intro _ h; simp only [FwuSt.sorted] at h ⊢; simp [h]; done))
    | (with_reducible refine Frame.updFwu (by decide) ?_ ?_; (intro _ h; simp only [FwuSt.sorted] at h ⊢; and_intros <;> (try dsimp only) <;> (repeat' split) <;> first | (simp [h]; done) | exact tabFold_rising (fun _ _ g => by first | (simp [g]; done) | (split <;> simp [g]; done)) _ _ (by simp [h])))
    | (with_reducible refine Frame.updFwu (by decide) ?_ ?_; (intro _ h; simp only [FwuSt.sorted] at h ⊢; and_intros <;> first | (simp [h]; done) | exact tabFold_rising (fun _ _ g => by first | (simp [g]; done) | (split <;> simp [g]; done) | exact tabFold_rising (fun _ _ k => by simp [k]) _ _ g) _ _ (by simp [h]) | (repeat' first | exact rfl | exact h | apply tabSet_rising)))

theorem putSettings_frame (r : Settings) (s : State) :
    Frame [.fwu, .vbt] s (putSettings r s) := by
  delta putSettings
  repeat' first
    | with_reducible apply Frame.refl
    | with_reducible assumption
    | apply Eq.refl
    | lift_lets -underBinder -merge -useContext
    | (intro x; refine Frame.cut (cs := [.fwu, .vbt]) (s0 := s) (x := x) ?_ (fun hx => ?_); unfold x; rotate_left; clear_value x)
    | (intro x; clear_value x)
    | intro x
    | with_reducible apply Frame.app (vbtPut_frame _ _ _)
    | (with_reducible refine Frame.updFwu (by decide) ?_ ?_; (intro _ h; exact h))
    | (with_reducible refine Frame.updFwu (by decide) ?_ ?_; (intro _ h; simp only [FwuSt.sorted] at h ⊢; simp [h]; done))
    | (with_reducible refine Frame.updFwu (by decide) ?_ ?_; (intro _ h; simp only [FwuSt.sorted] at h ⊢; and_intros <;> (try dsimp only) <;> (repeat' split) <;> first | (simp [h]; done) | exact tabFold_rising (fun _ _ g => by first | (simp [g]; done) | (split <;> simp [g]; done)) _ _ (by simp [h])))
    | (with_reducible refine Frame.updFwu (by decide) ?_ ?_; (intro _ h; simp only [FwuSt.sorted] at h ⊢; and_intros <;> first | (simp [h]; done) | exact tabFold_rising (fun _ _ g => by first | (simp [g]; done) | (split <;> simp [g]; done) | exact tabFold_rising (fun _ _ k => by simp [k]) _ _ g) _ _ (by simp [h]) | (repeat' first | exact rfl | exact h | apply tabSet_rising)))
    | split

theorem writeSettings_frame (s : State) :
    Frame [.fwu, .vbt] s (writeSettings s) := by
  delta writeSettings
  repeat' first
    | with_reducible apply Frame.refl
    | with_reducible assumption
    | apply Eq.refl
    | lift_lets -underBinder -merge -useContext
    | (intro x; refine Frame.cut (cs := [.fwu, .vbt]) (s0 := s) (x := x) ?_ (fun hx => ?_); unfold x; rotate_left; clear_value x)
    | with_reducible apply Frame.app (putSettings_frame _ _)
    | (with_reducible refine Frame.updFwu (by decide) ?_ ?_; (intro _ h; exact h))
    | (with_reducible refine Frame.updFwu (by decide) ?_ ?_; (intro _ h; simp only [FwuSt.sorted] at h ⊢; simp [h]; done))
    | (with_reducible refine Frame.updFwu (by decide) ?_ ?_; (intro _ h; simp only [FwuSt.sorted] at h ⊢; and_intros <;> (try dsimp only) <;> (repeat' split) <;> first | (simp [h]; done) | exact tabFold_rising (fun _ _ g => by first | (simp [g]; done) | (split <;> simp [g]; done)) _ _ (by simp [h])))
    | (with_reducible refine Frame.updFwu (by decide) ?_ ?_; (intro _ h; simp only [FwuSt.sorted] at h ⊢; and_intros <;> first | (simp [h]; done) | exact tabFold_rising (fun _ _ g => by first | (simp [g]; done) | (split <;> simp [g]; done) | exact tabFold_rising (fun _ _ k => by simp [k]) _ _ g) _ _ (by simp [h]) | (repeat' first | exact rfl | exact h | apply tabSet_rising)))
    | with_reducible apply Frame.ite

theorem execSettingsWrite_frame (s : State) :
    ∀ out, execSettingsWrite s = .next out → Frame [.fwu, .vbt] s out := by
  delta execSettingsWrite
  intro out h
  injection h with h
  subst h
  repeat' first
    | with_reducible apply Frame.refl
    | with_reducible assumption
    | apply Eq.refl
    | lift_lets -underBinder -merge -useContext
    | (intro x; refine Frame.cut (cs := [.fwu, .vbt]) (s0 := s) (x := x) ?_ (fun hx => ?_); unfold x; rotate_left; clear_value x)
    | with_reducible apply Frame.app (writeSettings_frame _)
    | with_reducible apply Frame.ite

end Sys2Proof.Machine
end

