-- ==== Sys2Proof/Laws/FrameCasBase.lean ====
section
/-! SUPPORT. What each operation of Machine/CasBase.lean changes at most, and that it keeps the invariant. -/

namespace Sys2Proof.Machine

set_option linter.all false

open Sys2Proof

theorem winPut_frame (src : Party) (off : Nat) (v : Word) (s : State) : Frame [.regs, .mwin] s (winPut src off v s) := by
  delta winPut
  apply Frame.ite
  · exact Frame.updMwin rfl (fun _ h => regsOk_set _ _ _ _ (and_live v _) h) (Frame.refl _ s)
  · exact Frame.mono (regPut_frame _ _ _) rfl

theorem coutSend_frame (ws : List W64) (s : State) :
    Frame [.cas] s (coutSend ws s) := by
  delta coutSend
  repeat' first
    | with_reducible apply Frame.refl
    | with_reducible assumption
    | apply Eq.refl
    | lift_lets -underBinder -merge -useContext
    | (intro x; refine Frame.cut (cs := [.cas]) (s0 := s) (x := x) ?_ (fun hx => ?_); unfold x; rotate_left; clear_value x)
    | (with_reducible refine Frame.updCas (by decide) ?_ ?_; (intro _ h; exact h))
    | (with_reducible refine Frame.updCas (by decide) ?_ ?_; (intro _ h; simp only [CasSt.sorted] at h ⊢; simp [h]; done))
    | (with_reducible refine Frame.updCas (by decide) ?_ ?_; (intro _ h; simp only [CasSt.sorted] at h ⊢; and_intros <;> (try dsimp only) <;> (repeat' split) <;> first | (simp [h]; done) | exact tabFold_rising (fun _ _ g => by first | (simp [g]; done) | (split <;> simp [g]; done)) _ _ (by simp [h])))
    | (with_reducible refine Frame.updCas (by decide) ?_ ?_; (intro _ h; simp only [CasSt.sorted] at h ⊢; and_intros <;> first | (simp [h]; done) | exact tabFold_rising (fun _ _ g => by first | (simp [g]; done) | (split <;> simp [g]; done) | exact tabFold_rising (fun _ _ k => by simp [k]) _ _ g) _ _ (by simp [h]) | (repeat' first | exact rfl | exact h | apply tabSet_rising)))

theorem ctlSend_frame (ty dst arg : Nat) (body : List W64) (s : State) :
    Frame [.cas] s (ctlSend ty dst arg body s) := by
  delta ctlSend
  repeat' first
    | with_reducible apply Frame.refl
    | with_reducible assumption
    | apply Eq.refl
    | lift_lets -underBinder -merge -useContext
    | (intro x; refine Frame.cut (cs := [.cas]) (s0 := s) (x := x) ?_ (fun hx => ?_); unfold x; rotate_left; clear_value x)
    | with_reducible apply Frame.app (coutSend_frame _ _)
    | (with_reducible refine Frame.updCas (by decide) ?_ ?_; (intro _ h; exact h))
    | (with_reducible refine Frame.updCas (by decide) ?_ ?_; (intro _ h; simp only [CasSt.sorted] at h ⊢; simp [h]; done))
    | (with_reducible refine Frame.updCas (by decide) ?_ ?_; (intro _ h; simp only [CasSt.sorted] at h ⊢; and_intros <;> (try dsimp only) <;> (repeat' split) <;> first | (simp [h]; done) | exact tabFold_rising (fun _ _ g => by first | (simp [g]; done) | (split <;> simp [g]; done)) _ _ (by simp [h])))
    | (with_reducible refine Frame.updCas (by decide) ?_ ?_; (intro _ h; simp only [CasSt.sorted] at h ⊢; and_intros <;> first | (simp [h]; done) | exact tabFold_rising (fun _ _ g => by first | (simp [g]; done) | (split <;> simp [g]; done) | exact tabFold_rising (fun _ _ k => by simp [k]) _ _ g) _ _ (by simp [h]) | (repeat' first | exact rfl | exact h | apply tabSet_rising)))

theorem ctrlWrite_frame (dst off : Nat) (v : Word) (s : State) :
    Frame [.cas] s (ctrlWrite dst off v s) := by
  delta ctrlWrite
  repeat' first
    | with_reducible apply Frame.refl
    | with_reducible assumption
    | apply Eq.refl
    | lift_lets -underBinder -merge -useContext
    | (intro x; refine Frame.cut (cs := [.cas]) (s0 := s) (x := x) ?_ (fun hx => ?_); unfold x; rotate_left; clear_value x)
    | with_reducible apply Frame.app (ctlSend_frame _ _ _ _ _)

theorem ctrlRead_frame (dst off : Nat) (s : State) :
    Frame [.cas] s (ctrlRead dst off s) := by
  delta ctrlRead
  repeat' first
    | with_reducible apply Frame.refl
    | with_reducible assumption
    | apply Eq.refl
    | lift_lets -underBinder -merge -useContext
    | (intro x; refine Frame.cut (cs := [.cas]) (s0 := s) (x := x) ?_ (fun hx => ?_); unfold x; rotate_left; clear_value x)
    | with_reducible apply Frame.app (ctlSend_frame _ _ _ _ _)

theorem askPeers_frame (what off : Nat) (s : State) : Frame [.cas] s (askPeers what off s).2 :=
  Frame.foldlP (Frame.refl _ s) fun x a h => Frame.app (ctrlRead_frame _ _ _) rfl h

theorem askTables_frame : ∀ (ts : List (Nat × Nat)) (s : State), Frame [.cas] s (askTables ts s).2
  | [], s => Frame.refl _ s
  | (l, t) :: ts, s =>
    Frame.app (askTables_frame ts _) rfl (Frame.app (askPeers_frame _ _ _) rfl
      (Frame.app (ctrlWrite_frame _ _ _ _) rfl (Frame.refl _ s)))

theorem startJob_frame (kind stat : Nat) (tables : List (Nat × Nat)) (ws : List (Nat × Word)) (s : State) :
    Frame [.cas] s (startJob kind stat tables ws s) := by
  delta startJob
  repeat' first
    | with_reducible apply Frame.refl
    | with_reducible assumption
    | apply Eq.refl
    | lift_lets -underBinder -merge -useContext
    | (intro x; refine Frame.cut (cs := [.cas]) (s0 := s) (x := x) ?_ (fun hx => ?_); unfold x; rotate_left; clear_value x)
    | (intro x; refine Frame.cut (cs := [.cas]) (s0 := s) (x := x.2) ?_ (fun hx => ?_); unfold x; rotate_left; clear_value x)
    | (intro x; clear_value x)
    | intro x
    | with_reducible apply Frame.app (ctrlWrite_frame _ _ _ _)
    | with_reducible apply Frame.app (askPeers_frame _ _ _)
    | with_reducible apply Frame.app (askTables_frame _ _)
    | (with_reducible refine Frame.updCas (by decide) ?_ ?_; (intro _ h; exact h))
    | (with_reducible refine Frame.updCas (by decide) ?_ ?_; (intro _ h; simp only [CasSt.sorted] at h ⊢; simp [h]; done))
    | (with_reducible refine Frame.updCas (by decide) ?_ ?_; (intro _ h; simp only [CasSt.sorted] at h ⊢; and_intros <;> (try dsimp only) <;> (repeat' split) <;> first | (simp [h]; done) | exact tabFold_rising (fun _ _ g => by first | (simp [g]; done) | (split <;> simp [g]; done)) _ _ (by simp [h])))
    | (with_reducible refine Frame.updCas (by decide) ?_ ?_; (intro _ h; simp only [CasSt.sorted] at h ⊢; and_intros <;> first | (simp [h]; done) | exact tabFold_rising (fun _ _ g => by first | (simp [g]; done) | (split <;> simp [g]; done) | exact tabFold_rising (fun _ _ k => by simp [k]) _ _ g) _ _ (by simp [h]) | (repeat' first | exact rfl | exact h | apply tabSet_rising)))
    | with_reducible refine Frame.foldl ?_ (fun _ _ _ => ?_)
    | with_reducible apply Frame.ite
    | with_reducible apply_assumption
    | with_reducible refine Frame.app (Frame.ofPair (askPeers_frame _ _ _) (by assumption)) ?_ ?_
    | with_reducible refine Frame.app (Frame.ofPair (askTables_frame _ _) (by assumption)) ?_ ?_

theorem jobEnd_frame (kind : Nat) (s : State) :
    Frame [.cas] s (jobEnd kind s).2 := by
  delta jobEnd
  repeat' first
    | with_reducible apply Frame.refl
    | with_reducible assumption
    | apply Eq.refl
    | lift_lets -underBinder -merge -useContext
    | (intro x; refine Frame.cut (cs := [.cas]) (s0 := s) (x := x) ?_ (fun hx => ?_); unfold x; rotate_left; clear_value x)
    | (with_reducible refine Frame.updCas (by decide) ?_ ?_; (intro _ h; exact h))
    | (with_reducible refine Frame.updCas (by decide) ?_ ?_; (intro _ h; simp only [CasSt.sorted] at h ⊢; simp [h]; done))
    | (with_reducible refine Frame.updCas (by decide) ?_ ?_; (intro _ h; simp only [CasSt.sorted] at h ⊢; and_intros <;> (try dsimp only) <;> (repeat' split) <;> first | (simp [h]; done) | exact tabFold_rising (fun _ _ g => by first | (simp [g]; done) | (split <;> simp [g]; done)) _ _ (by simp [h])))
    | (with_reducible refine Frame.updCas (by decide) ?_ ?_; (intro _ h; simp only [CasSt.sorted] at h ⊢; and_intros <;> first | (simp [h]; done) | exact tabFold_rising (fun _ _ g => by first | (simp [g]; done) | (split <;> simp [g]; done) | exact tabFold_rising (fun _ _ k => by simp [k]) _ _ g) _ _ (by simp [h]) | (repeat' first | exact rfl | exact h | apply tabSet_rising)))

theorem ringBreaks_frame (s : State) :
    Frame [.regs, .err] s (ringBreaks s) := by
  delta ringBreaks
  repeat' first
    | with_reducible apply Frame.refl
    | with_reducible assumption
    | apply Eq.refl
    | lift_lets -underBinder -merge -useContext
    | (intro x; refine Frame.cut (cs := [.regs, .err]) (s0 := s) (x := x) ?_ (fun hx => ?_); unfold x; rotate_left; clear_value x)
    | with_reducible apply Frame.app (fieldPut_frame _ _ _ _ _)
    | with_reducible apply Frame.app (raiseInt_frame _ _ _)
    | with_reducible apply Frame.ite

theorem ringLinkLost_frame (s : State) :
    Frame [.regs, .err] s (ringLinkLost s) := by
  delta ringLinkLost
  repeat' first
    | with_reducible apply Frame.refl
    | with_reducible assumption
    | apply Eq.refl
    | lift_lets -underBinder -merge -useContext
    | (intro x; refine Frame.cut (cs := [.regs, .err]) (s0 := s) (x := x) ?_ (fun hx => ?_); unfold x; rotate_left; clear_value x)
    | with_reducible apply Frame.app (cntAdd_frame _ _ _)
    | with_reducible apply Frame.app (ringBreaks_frame _)

end Sys2Proof.Machine
end

