-- ==== Sys2Proof/Laws/FrameWake.lean ====
section
/-! SUPPORT. What each operation of Machine/Wake.lean changes at most, and that it keeps the invariant. -/

namespace Sys2Proof.Machine

set_option linter.all false

open Sys2Proof

theorem restartTimers_frame (s : State) :
    Frame [.pwr] s (restartTimers s) := by
  delta restartTimers
  repeat' first
    | with_reducible apply Frame.refl
    | with_reducible assumption
    | apply Eq.refl
    | lift_lets -underBinder -merge -useContext
    | (intro x; refine Frame.cut (cs := [.pwr]) (s0 := s) (x := x) ?_ (fun hx => ?_); unfold x; rotate_left; clear_value x)
    | (with_reducible refine Frame.updPwr (by decide) ?_ ?_; (intro _ h; exact h))
    | (with_reducible refine Frame.updPwr (by decide) ?_ ?_; (intro _ h; simp only [PwrSt.sorted] at h ⊢; simp [h]; done))
    | (with_reducible refine Frame.updPwr (by decide) ?_ ?_; (intro _ h; simp only [PwrSt.sorted] at h ⊢; and_intros <;> (try dsimp only) <;> (repeat' split) <;> first | (simp [h]; done) | exact tabFold_rising (fun _ _ g => by first | (simp [g]; done) | (split <;> simp [g]; done)) _ _ (by simp [h])))
    | (with_reducible refine Frame.updPwr (by decide) ?_ ?_; (intro _ h; simp only [PwrSt.sorted] at h ⊢; and_intros <;> first | (simp [h]; done) | exact tabFold_rising (fun _ _ g => by first | (simp [g]; done) | (split <;> simp [g]; done) | exact tabFold_rising (fun _ _ k => by simp [k]) _ _ g) _ _ (by simp [h]) | (repeat' first | exact rfl | exact h | apply tabSet_rising)))
    | with_reducible refine Frame.foldl ?_ (fun _ _ _ => ?_)
    | with_reducible apply_assumption

theorem pmbSend_frame (ts : List (Nat × Nat × Nat)) (s : State) :
    Frame [.pwr] s (pmbSend ts s) := by
  delta pmbSend
  repeat' first
    | with_reducible apply Frame.refl
    | with_reducible assumption
    | apply Eq.refl
    | lift_lets -underBinder -merge -useContext
    | (intro x; refine Frame.cut (cs := [.pwr]) (s0 := s) (x := x) ?_ (fun hx => ?_); unfold x; rotate_left; clear_value x)
    | (with_reducible refine Frame.updPwr (by decide) ?_ ?_; (intro _ h; exact h))
    | (with_reducible refine Frame.updPwr (by decide) ?_ ?_; (intro _ h; simp only [PwrSt.sorted] at h ⊢; simp [h]; done))
    | (with_reducible refine Frame.updPwr (by decide) ?_ ?_; (intro _ h; simp only [PwrSt.sorted] at h ⊢; and_intros <;> (try dsimp only) <;> (repeat' split) <;> first | (simp [h]; done) | exact tabFold_rising (fun _ _ g => by first | (simp [g]; done) | (split <;> simp [g]; done)) _ _ (by simp [h])))
    | (with_reducible refine Frame.updPwr (by decide) ?_ ?_; (intro _ h; simp only [PwrSt.sorted] at h ⊢; and_intros <;> first | (simp [h]; done) | exact tabFold_rising (fun _ _ g => by first | (simp [g]; done) | (split <;> simp [g]; done) | exact tabFold_rising (fun _ _ k => by simp [k]) _ _ g) _ _ (by simp [h]) | (repeat' first | exact rfl | exact h | apply tabSet_rising)))

theorem setRails_frame (v : Nat × Nat) (s : State) :
    Frame [.pwr] s (setRails v s) := by
  delta setRails
  repeat' first
    | with_reducible apply Frame.refl
    | with_reducible assumption
    | apply Eq.refl
    | lift_lets -underBinder -merge -useContext
    | (intro x; refine Frame.cut (cs := [.pwr]) (s0 := s) (x := x) ?_ (fun hx => ?_); unfold x; rotate_left; clear_value x)
    | with_reducible apply Frame.app (pmbSend_frame _ _)

theorem readRails_frame (s : State) :
    Frame [.pwr] s (readRails s) := by
  delta readRails
  repeat' first
    | with_reducible apply Frame.refl
    | with_reducible assumption
    | apply Eq.refl
    | lift_lets -underBinder -merge -useContext
    | (intro x; refine Frame.cut (cs := [.pwr]) (s0 := s) (x := x) ?_ (fun hx => ?_); unfold x; rotate_left; clear_value x)
    | with_reducible apply Frame.app (pmbSend_frame _ _)

theorem allRails_frame (code v : Nat) (s : State) :
    Frame [.pwr] s (allRails code v s) := by
  delta allRails
  repeat' first
    | with_reducible apply Frame.refl
    | with_reducible assumption
    | apply Eq.refl
    | lift_lets -underBinder -merge -useContext
    | (intro x; refine Frame.cut (cs := [.pwr]) (s0 := s) (x := x) ?_ (fun hx => ?_); unfold x; rotate_left; clear_value x)
    | with_reducible apply Frame.app (pmbSend_frame _ _)

theorem refuseEntry_frame (unit : Nat) (s : State) :
    Frame [.regs, .pip, .err, .pwr] s (refuseEntry unit s) := by
  delta refuseEntry
  repeat' first
    | with_reducible apply Frame.refl
    | with_reducible assumption
    | apply Eq.refl
    | lift_lets -underBinder -merge -useContext
    | (intro x; refine Frame.cut (cs := [.regs, .pip, .err, .pwr]) (s0 := s) (x := x) ?_ (fun hx => ?_); unfold x; rotate_left; clear_value x)
    | (intro x; clear_value x)
    | intro x
    | with_reducible apply Frame.app (regPut_frame _ _ _)
    | with_reducible apply Frame.app (fieldPut_frame _ _ _ _ _)
    | with_reducible apply Frame.app (flagPut_frame _ _ _ _)
    | with_reducible apply Frame.app (cntAdd_frame _ _ _)
    | with_reducible apply Frame.app (raiseInt_frame _ _ _)
    | with_reducible apply Frame.app (restartTimers_frame _)
    | (with_reducible refine Frame.updPip (by decide) ?_ ?_; (intro _ h; exact h))
    | (with_reducible refine Frame.updPip (by decide) ?_ ?_; (intro _ h; simp only [PipSt.sorted] at h ⊢; simp [h]; done))
    | (with_reducible refine Frame.updPip (by decide) ?_ ?_; (intro _ h; simp only [PipSt.sorted] at h ⊢; and_intros <;> (try dsimp only) <;> (repeat' split) <;> first | (simp [h]; done) | exact tabFold_rising (fun _ _ g => by first | (simp [g]; done) | (split <;> simp [g]; done)) _ _ (by simp [h])))
    | (with_reducible refine Frame.updPip (by decide) ?_ ?_; (intro _ h; simp only [PipSt.sorted] at h ⊢; and_intros <;> first | (simp [h]; done) | exact tabFold_rising (fun _ _ g => by first | (simp [g]; done) | (split <;> simp [g]; done) | exact tabFold_rising (fun _ _ k => by simp [k]) _ _ g) _ _ (by simp [h]) | (repeat' first | exact rfl | exact h | apply tabSet_rising)))
    | (with_reducible refine Frame.updPwr (by decide) ?_ ?_; (intro _ h; exact h))
    | (with_reducible refine Frame.updPwr (by decide) ?_ ?_; (intro _ h; simp only [PwrSt.sorted] at h ⊢; simp [h]; done))
    | (with_reducible refine Frame.updPwr (by decide) ?_ ?_; (intro _ h; simp only [PwrSt.sorted] at h ⊢; and_intros <;> (try dsimp only) <;> (repeat' split) <;> first | (simp [h]; done) | exact tabFold_rising (fun _ _ g => by first | (simp [g]; done) | (split <;> simp [g]; done)) _ _ (by simp [h])))
    | (with_reducible refine Frame.updPwr (by decide) ?_ ?_; (intro _ h; simp only [PwrSt.sorted] at h ⊢; and_intros <;> first | (simp [h]; done) | exact tabFold_rising (fun _ _ g => by first | (simp [g]; done) | (split <;> simp [g]; done) | exact tabFold_rising (fun _ _ k => by simp [k]) _ _ g) _ _ (by simp [h]) | (repeat' first | exact rfl | exact h | apply tabSet_rising)))
    | with_reducible apply Frame.ite
    | split

theorem withdraw_frame (unit : Nat) (s : State) :
    Frame [.regs, .pip, .err, .pwr] s (withdraw unit s) := by
  delta withdraw
  repeat' first
    | with_reducible apply Frame.refl
    | with_reducible assumption
    | apply Eq.refl
    | lift_lets -underBinder -merge -useContext
    | (intro x; refine Frame.cut (cs := [.regs, .pip, .err, .pwr]) (s0 := s) (x := x) ?_ (fun hx => ?_); unfold x; rotate_left; clear_value x)
    | with_reducible apply Frame.app (refuseEntry_frame _ _)
    | with_reducible apply Frame.ite
    | split

theorem startWake_frame (src : Nat) (s : State) :
    Frame [.pwr] s (startWake src s) := by
  delta startWake
  repeat' first
    | with_reducible apply Frame.refl
    | with_reducible assumption
    | apply Eq.refl
    | lift_lets -underBinder -merge -useContext
    | (intro x; refine Frame.cut (cs := [.pwr]) (s0 := s) (x := x) ?_ (fun hx => ?_); unfold x; rotate_left; clear_value x)
    | (intro x; clear_value x)
    | intro x
    | (with_reducible refine Frame.updPwr (by decide) ?_ ?_; (intro _ h; exact h))
    | (with_reducible refine Frame.updPwr (by decide) ?_ ?_; (intro _ h; simp only [PwrSt.sorted] at h ⊢; simp [h]; done))
    | (with_reducible refine Frame.updPwr (by decide) ?_ ?_; (intro _ h; simp only [PwrSt.sorted] at h ⊢; and_intros <;> (try dsimp only) <;> (repeat' split) <;> first | (simp [h]; done) | exact tabFold_rising (fun _ _ g => by first | (simp [g]; done) | (split <;> simp [g]; done)) _ _ (by simp [h])))
    | (with_reducible refine Frame.updPwr (by decide) ?_ ?_; (intro _ h; simp only [PwrSt.sorted] at h ⊢; and_intros <;> first | (simp [h]; done) | exact tabFold_rising (fun _ _ g => by first | (simp [g]; done) | (split <;> simp [g]; done) | exact tabFold_rising (fun _ _ k => by simp [k]) _ _ g) _ _ (by simp [h]) | (repeat' first | exact rfl | exact h | apply tabSet_rising)))
    | with_reducible apply Frame.ite
    | split

theorem wakeEvent_frame (src : Nat) (s : State) :
    Frame [.regs, .pip, .err, .pwr] s (wakeEvent src s) := by
  delta wakeEvent
  repeat' first
    | with_reducible apply Frame.refl
    | with_reducible assumption
    | apply Eq.refl
    | lift_lets -underBinder -merge -useContext
    | (intro x; refine Frame.cut (cs := [.regs, .pip, .err, .pwr]) (s0 := s) (x := x) ?_ (fun hx => ?_); unfold x; rotate_left; clear_value x)
    | with_reducible apply Frame.app (flagPut_frame _ _ _ _)
    | with_reducible apply Frame.app (restartTimers_frame _)
    | with_reducible apply Frame.app (refuseEntry_frame _ _)
    | with_reducible apply Frame.app (startWake_frame _ _)
    | with_reducible apply Frame.ite
    | split

end Sys2Proof.Machine
end

