-- ==== Sys2Proof/Laws/FrameLink.lean ====
section
/-! SUPPORT. What each operation of Machine/Link.lean changes at most, and that it keeps the invariant. -/

namespace Sys2Proof.Machine

set_option linter.all false

open Sys2Proof

theorem setLinkState_frame (l : LinkId) (st : Nat) (s : State) :
    Frame [.regs] s (setLinkState l st s) := by
  delta setLinkState
  repeat' first
    | with_reducible apply Frame.refl
    | with_reducible assumption
    | apply Eq.refl
    | lift_lets -underBinder -merge -useContext
    | (intro x; refine Frame.cut (cs := [.regs]) (s0 := s) (x := x) ?_ (fun hx => ?_); unfold x; rotate_left; clear_value x)
    | with_reducible apply Frame.app (fieldPut_frame _ _ _ _ _)

theorem updGrp_frame (k : Nat) (f : GrpSt → GrpSt) (s : State) :
    Frame [.lnk] s (updGrp k f s) := by
  delta updGrp
  repeat' first
    | with_reducible apply Frame.refl
    | with_reducible assumption
    | apply Eq.refl
    | lift_lets -underBinder -merge -useContext
    | (intro x; refine Frame.cut (cs := [.lnk]) (s0 := s) (x := x) ?_ (fun hx => ?_); unfold x; rotate_left; clear_value x)
    | (with_reducible refine Frame.updLnk (by decide) ?_ ?_; (intro _ h; exact h))
    | (with_reducible refine Frame.updLnk (by decide) ?_ ?_; (intro _ h; simp only [LnkSt.sorted] at h ⊢; simp [h]; done))
    | (with_reducible refine Frame.updLnk (by decide) ?_ ?_; (intro _ h; simp only [LnkSt.sorted] at h ⊢; and_intros <;> (try dsimp only) <;> (repeat' split) <;> first | (simp [h]; done) | exact tabFold_rising (fun _ _ g => by first | (simp [g]; done) | (split <;> simp [g]; done)) _ _ (by simp [h])))
    | (with_reducible refine Frame.updLnk (by decide) ?_ ?_; (intro _ h; simp only [LnkSt.sorted] at h ⊢; and_intros <;> first | (simp [h]; done) | exact tabFold_rising (fun _ _ g => by first | (simp [g]; done) | (split <;> simp [g]; done) | exact tabFold_rising (fun _ _ k => by simp [k]) _ _ g) _ _ (by simp [h]) | (repeat' first | exact rfl | exact h | apply tabSet_rising)))

theorem updLane_frame (n : Nat) (f : LaneSt → LaneSt) (s : State) :
    Frame [.lnk] s (updLane n f s) := by
  delta updLane
  repeat' first
    | with_reducible apply Frame.refl
    | with_reducible assumption
    | apply Eq.refl
    | lift_lets -underBinder -merge -useContext
    | (intro x; refine Frame.cut (cs := [.lnk]) (s0 := s) (x := x) ?_ (fun hx => ?_); unfold x; rotate_left; clear_value x)
    | (with_reducible refine Frame.updLnk (by decide) ?_ ?_; (intro _ h; exact h))
    | (with_reducible refine Frame.updLnk (by decide) ?_ ?_; (intro _ h; simp only [LnkSt.sorted] at h ⊢; simp [h]; done))
    | (with_reducible refine Frame.updLnk (by decide) ?_ ?_; (intro _ h; simp only [LnkSt.sorted] at h ⊢; and_intros <;> (try dsimp only) <;> (repeat' split) <;> first | (simp [h]; done) | exact tabFold_rising (fun _ _ g => by first | (simp [g]; done) | (split <;> simp [g]; done)) _ _ (by simp [h])))
    | (with_reducible refine Frame.updLnk (by decide) ?_ ?_; (intro _ h; simp only [LnkSt.sorted] at h ⊢; and_intros <;> first | (simp [h]; done) | exact tabFold_rising (fun _ _ g => by first | (simp [g]; done) | (split <;> simp [g]; done) | exact tabFold_rising (fun _ _ k => by simp [k]) _ _ g) _ _ (by simp [h]) | (repeat' first | exact rfl | exact h | apply tabSet_rising)))

theorem freeCredits_frame (p n : Nat) (s : State) :
    Frame [.regs] s (freeCredits p n s) := by
  delta freeCredits
  repeat' first
    | with_reducible apply Frame.refl
    | with_reducible assumption
    | apply Eq.refl
    | lift_lets -underBinder -merge -useContext
    | (intro x; refine Frame.cut (cs := [.regs]) (s0 := s) (x := x) ?_ (fun hx => ?_); unfold x; rotate_left; clear_value x)
    | with_reducible apply Frame.app (fieldPut_frame _ _ _ _ _)
    | with_reducible apply Frame.ite

theorem startTx_frame (g : Nat) (s : State) :
    Frame [.lnk] s (startTx g s) := by
  delta startTx
  repeat' first
    | with_reducible apply Frame.refl
    | with_reducible assumption
    | apply Eq.refl
    | lift_lets -underBinder -merge -useContext
    | (intro x; refine Frame.cut (cs := [.lnk]) (s0 := s) (x := x) ?_ (fun hx => ?_); unfold x; rotate_left; clear_value x)
    | with_reducible apply Frame.app (updGrp_frame _ _ _)

theorem txFrame_frame (g : Nat) (ws : List W64) (s : State) :
    Frame [.lnk] s (txFrame g ws s) := by
  delta txFrame
  repeat' first
    | with_reducible apply Frame.refl
    | with_reducible assumption
    | apply Eq.refl
    | lift_lets -underBinder -merge -useContext
    | (intro x; refine Frame.cut (cs := [.lnk]) (s0 := s) (x := x) ?_ (fun hx => ?_); unfold x; rotate_left; clear_value x)
    | (intro x; clear_value x)
    | intro x
    | with_reducible apply Frame.app (updGrp_frame _ _ _)
    | (with_reducible refine Frame.updLnk (by decide) ?_ ?_; (intro _ h; exact h))
    | (with_reducible refine Frame.updLnk (by decide) ?_ ?_; (intro _ h; simp only [LnkSt.sorted] at h ⊢; simp [h]; done))
    | (with_reducible refine Frame.updLnk (by decide) ?_ ?_; (intro _ h; simp only [LnkSt.sorted] at h ⊢; and_intros <;> (try dsimp only) <;> (repeat' split) <;> first | (simp [h]; done) | exact tabFold_rising (fun _ _ g => by first | (simp [g]; done) | (split <;> simp [g]; done)) _ _ (by simp [h])))
    | (with_reducible refine Frame.updLnk (by decide) ?_ ?_; (intro _ h; simp only [LnkSt.sorted] at h ⊢; and_intros <;> first | (simp [h]; done) | exact tabFold_rising (fun _ _ g => by first | (simp [g]; done) | (split <;> simp [g]; done) | exact tabFold_rising (fun _ _ k => by simp [k]) _ _ g) _ _ (by simp [h]) | (repeat' first | exact rfl | exact h | apply tabSet_rising)))

theorem sendCredit_frame (g : Nat) (s : State) :
    Frame [.lnk] s (sendCredit g s) := by
  delta sendCredit
  repeat' first
    | with_reducible apply Frame.refl
    | with_reducible assumption
    | apply Eq.refl
    | lift_lets -underBinder -merge -useContext
    | (intro x; refine Frame.cut (cs := [.lnk]) (s0 := s) (x := x) ?_ (fun hx => ?_); unfold x; rotate_left; clear_value x)
    | with_reducible apply Frame.app (txFrame_frame _ _ _)

theorem dropOpen_frame (g : Nat) (s : State) :
    Frame [.regs, .lnk, .err] s (dropOpen g s) := by
  delta dropOpen
  repeat' first
    | with_reducible apply Frame.refl
    | with_reducible assumption
    | apply Eq.refl
    | lift_lets -underBinder -merge -useContext
    | (intro x; refine Frame.cut (cs := [.regs, .lnk, .err]) (s0 := s) (x := x) ?_ (fun hx => ?_); unfold x; rotate_left; clear_value x)
    | (intro x; clear_value x)
    | intro x
    | with_reducible apply Frame.app (lnkEvent_frame _ _ _)
    | with_reducible apply Frame.app (updGrp_frame _ _ _)
    | with_reducible apply Frame.app (freeCredits_frame _ _ _)
    | with_reducible apply Frame.ite

theorem enterAdapt_frame (l : LinkId) (s : State) :
    Frame [.regs, .lnk] s (enterAdapt l s) := by
  delta enterAdapt
  repeat' first
    | with_reducible apply Frame.refl
    | with_reducible assumption
    | apply Eq.refl
    | lift_lets -underBinder -merge -useContext
    | (intro x; refine Frame.cut (cs := [.regs, .lnk]) (s0 := s) (x := x) ?_ (fun hx => ?_); unfold x; rotate_left; clear_value x)
    | (intro x; clear_value x)
    | intro x
    | with_reducible apply Frame.app (fieldPut_frame _ _ _ _ _)
    | with_reducible apply Frame.app (flagPut_frame _ _ _ _)
    | with_reducible apply Frame.app (setLinkState_frame _ _ _)
    | with_reducible apply Frame.app (updGrp_frame _ _ _)
    | with_reducible apply Frame.app (updLane_frame _ _ _)
    | with_reducible refine Frame.foldl ?_ (fun _ _ _ => ?_)
    | with_reducible apply_assumption
    | split

theorem leftUp_frame (l : LinkId) (s : State) :
    Frame [.regs, .lnk, .err] s (leftUp l s) := by
  delta leftUp
  repeat' first
    | with_reducible apply Frame.refl
    | with_reducible assumption
    | apply Eq.refl
    | lift_lets -underBinder -merge -useContext
    | (intro x; refine Frame.cut (cs := [.regs, .lnk, .err]) (s0 := s) (x := x) ?_ (fun hx => ?_); unfold x; rotate_left; clear_value x)
    | with_reducible apply Frame.app (raiseInt_frame _ _ _)
    | with_reducible apply Frame.app (ringLinkLost_frame _)
    | with_reducible apply Frame.app (dropOpen_frame _ _)
    | split

theorem enterDown_frame (l : LinkId) (fault : Nat) (s : State) :
    Frame [.regs, .lnk, .err] s (enterDown l fault s) := by
  delta enterDown
  repeat' first
    | with_reducible apply Frame.refl
    | with_reducible assumption
    | apply Eq.refl
    | lift_lets -underBinder -merge -useContext
    | (intro x; refine Frame.cut (cs := [.regs, .lnk, .err]) (s0 := s) (x := x) ?_ (fun hx => ?_); unfold x; rotate_left; clear_value x)
    | (intro x; clear_value x)
    | intro x
    | with_reducible apply Frame.app (fieldPut_frame _ _ _ _ _)
    | with_reducible apply Frame.app (setLinkState_frame _ _ _)
    | with_reducible apply Frame.app (updGrp_frame _ _ _)
    | with_reducible apply Frame.app (leftUp_frame _ _)
    | with_reducible apply Frame.ite

theorem enterDownQuiet_frame (l : LinkId) (s : State) :
    Frame [.regs, .lnk] s (enterDownQuiet l s) := by
  delta enterDownQuiet
  repeat' first
    | with_reducible apply Frame.refl
    | with_reducible assumption
    | apply Eq.refl
    | lift_lets -underBinder -merge -useContext
    | (intro x; refine Frame.cut (cs := [.regs, .lnk]) (s0 := s) (x := x) ?_ (fun hx => ?_); unfold x; rotate_left; clear_value x)
    | with_reducible apply Frame.app (setLinkState_frame _ _ _)
    | with_reducible apply Frame.app (updGrp_frame _ _ _)

theorem wrGrpCtl_frame (g : Fin 4) (v : Word) (s : State) :
    Frame [.regs, .lnk, .err] s (wrGrpCtl g v s) := by
  delta wrGrpCtl
  repeat' first
    | with_reducible apply Frame.refl
    | with_reducible assumption
    | apply Eq.refl
    | lift_lets -underBinder -merge -useContext
    | (intro x; refine Frame.cut (cs := [.regs, .lnk, .err]) (s0 := s) (x := x) ?_ (fun hx => ?_); unfold x; rotate_left; clear_value x)
    | (intro x; clear_value x)
    | intro x
    | with_reducible apply Frame.app (regPut_frame _ _ _)
    | with_reducible apply Frame.app (flagPut_frame _ _ _ _)
    | with_reducible apply Frame.app (raiseInt_frame _ _ _)
    | with_reducible apply Frame.app (setLinkState_frame _ _ _)
    | with_reducible apply Frame.app (startTx_frame _ _)
    | with_reducible apply Frame.app (dropOpen_frame _ _)
    | with_reducible apply Frame.app (enterAdapt_frame _ _)
    | with_reducible apply Frame.app (enterDown_frame _ _ _)
    | with_reducible apply Frame.app (enterDownQuiet_frame _ _)
    | with_reducible apply Frame.ite

theorem execAdaptDone_frame (l : LinkId) (s : State) :
    ∀ out, execAdaptDone l s = .next out → Frame [.regs] s out := by
  delta execAdaptDone
  intro out h
  injection h with h
  subst h
  repeat' first
    | with_reducible apply Frame.refl
    | with_reducible assumption
    | apply Eq.refl
    | lift_lets -underBinder -merge -useContext
    | (intro x; refine Frame.cut (cs := [.regs]) (s0 := s) (x := x) ?_ (fun hx => ?_); unfold x; rotate_left; clear_value x)
    | with_reducible apply Frame.app (fieldPut_frame _ _ _ _ _)
    | with_reducible apply Frame.app (setLinkState_frame _ _ _)
    | with_reducible refine Frame.foldl ?_ (fun _ _ _ => ?_)
    | with_reducible apply Frame.ite
    | with_reducible apply_assumption

theorem setLock_frame (l : LinkId) (n : Nat) (b : Bool) (s : State) :
    Frame [.regs] s (setLock l n b s) := by
  delta setLock
  repeat' first
    | with_reducible apply Frame.refl
    | with_reducible assumption
    | apply Eq.refl
    | lift_lets -underBinder -merge -useContext
    | (intro x; refine Frame.cut (cs := [.regs]) (s0 := s) (x := x) ?_ (fun hx => ?_); unfold x; rotate_left; clear_value x)
    | with_reducible apply Frame.app (flagPut_frame _ _ _ _)

theorem execCodewordLock_frame (l : LinkId) (s : State) :
    ∀ out, execCodewordLock l s = .next out → Frame [.regs] s out := by
  delta execCodewordLock
  intro out h
  injection h with h
  subst h
  repeat' first
    | with_reducible apply Frame.refl
    | with_reducible assumption
    | apply Eq.refl
    | lift_lets -underBinder -merge -useContext
    | (intro x; refine Frame.cut (cs := [.regs]) (s0 := s) (x := x) ?_ (fun hx => ?_); unfold x; rotate_left; clear_value x)
    | with_reducible apply Frame.app (setLinkState_frame _ _ _)
    | with_reducible apply Frame.ite

theorem execDeskew_frame (l : LinkId) (skews : List Nat) (s : State) :
    ∀ out, execDeskew l skews s = .next out → Frame [.regs, .lnk, .err] s out := by
  delta execDeskew
  intro out h
  injection h with h
  subst h
  repeat' first
    | with_reducible apply Frame.refl
    | with_reducible assumption
    | apply Eq.refl
    | lift_lets -underBinder -merge -useContext
    | (intro x; refine Frame.cut (cs := [.regs, .lnk, .err]) (s0 := s) (x := x) ?_ (fun hx => ?_); unfold x; rotate_left; clear_value x)
    | (intro x; clear_value x)
    | intro x
    | with_reducible apply Frame.app (fieldPut_frame _ _ _ _ _)
    | with_reducible apply Frame.app (setLinkState_frame _ _ _)
    | with_reducible apply Frame.app (updGrp_frame _ _ _)
    | with_reducible apply Frame.app (updLane_frame _ _ _)
    | with_reducible apply Frame.app (enterDown_frame _ _ _)
    | with_reducible refine Frame.foldl ?_ (fun _ _ _ => ?_)
    | with_reducible apply Frame.ite
    | with_reducible apply_assumption

theorem alignCopy_frame (g : Nat) (s : State) :
    Frame [.tod] s (alignCopy g s) := by
  delta alignCopy
  repeat' first
    | with_reducible apply Frame.refl
    | with_reducible assumption
    | apply Eq.refl
    | lift_lets -underBinder -merge -useContext
    | (intro x; refine Frame.cut (cs := [.tod]) (s0 := s) (x := x) ?_ (fun hx => ?_); unfold x; rotate_left; clear_value x)
    | (with_reducible refine Frame.updTod (by decide) (fun _ h => h) ?_ ?_; (intro _ h; exact h))
    | (with_reducible refine Frame.updTod (by decide) (fun _ h => h) ?_ ?_; (intro _ h; simp only [TodSt.sorted] at h ⊢; simp [h]; done))
    | (with_reducible refine Frame.updTod (by decide) (fun _ h => h) ?_ ?_; (intro _ h; simp only [TodSt.sorted] at h ⊢; and_intros <;> (try dsimp only) <;> (repeat' split) <;> first | (simp [h]; done) | exact tabFold_rising (fun _ _ g => by first | (simp [g]; done) | (split <;> simp [g]; done)) _ _ (by simp [h])))
    | (with_reducible refine Frame.updTod (by decide) (fun _ h => h) ?_ ?_; (intro _ h; simp only [TodSt.sorted] at h ⊢; and_intros <;> first | (simp [h]; done) | exact tabFold_rising (fun _ _ g => by first | (simp [g]; done) | (split <;> simp [g]; done) | exact tabFold_rising (fun _ _ k => by simp [k]) _ _ g) _ _ (by simp [h]) | (repeat' first | exact rfl | exact h | apply tabSet_rising)))

theorem execGroupUp_frame (l : LinkId) (path : Nat) (s : State) :
    ∀ out, execGroupUp l path s = .next out → Frame [.regs, .lnk, .tod] s out := by
  delta execGroupUp
  intro out h
  injection h with h
  subst h
  repeat' first
    | with_reducible apply Frame.refl
    | with_reducible assumption
    | apply Eq.refl
    | lift_lets -underBinder -merge -useContext
    | (intro x; refine Frame.cut (cs := [.regs, .lnk, .tod]) (s0 := s) (x := x) ?_ (fun hx => ?_); unfold x; rotate_left; clear_value x)
    | (intro x; clear_value x)
    | intro x
    | with_reducible apply Frame.app (fieldPut_frame _ _ _ _ _)
    | with_reducible apply Frame.app (setLinkState_frame _ _ _)
    | with_reducible apply Frame.app (updGrp_frame _ _ _)
    | with_reducible apply Frame.app (sendCredit_frame _ _)
    | with_reducible apply Frame.app (alignCopy_frame _ _)
    | with_reducible apply Frame.ite
    | split

theorem execTrainingTimeout_frame (l : LinkId) (s : State) :
    ∀ out, execTrainingTimeout l s = .next out → Frame [.regs, .lnk, .err] s out := by
  delta execTrainingTimeout
  intro out h
  injection h with h
  subst h
  repeat' first
    | with_reducible apply Frame.refl
    | with_reducible assumption
    | apply Eq.refl
    | lift_lets -underBinder -merge -useContext
    | (intro x; refine Frame.cut (cs := [.regs, .lnk, .err]) (s0 := s) (x := x) ?_ (fun hx => ?_); unfold x; rotate_left; clear_value x)
    | with_reducible apply Frame.app (enterDown_frame _ _ _)
    | with_reducible apply Frame.ite
    | split

theorem execLinkFault_frame (l : LinkId) (why : FaultCause) (s : State) :
    ∀ out, execLinkFault l why s = .next out → Frame [.regs, .lnk, .err] s out := by
  delta execLinkFault
  intro out h
  injection h with h
  subst h
  repeat' first
    | with_reducible apply Frame.refl
    | with_reducible assumption
    | apply Eq.refl
    | lift_lets -underBinder -merge -useContext
    | (intro x; refine Frame.cut (cs := [.regs, .lnk, .err]) (s0 := s) (x := x) ?_ (fun hx => ?_); unfold x; rotate_left; clear_value x)
    | (intro x; clear_value x)
    | intro x
    | with_reducible apply Frame.app (fieldPut_frame _ _ _ _ _)
    | with_reducible apply Frame.app (ringBreaks_frame _)
    | with_reducible apply Frame.app (enterDown_frame _ _ _)
    | with_reducible apply Frame.app (setLock_frame _ _ _ _)
    | with_reducible apply Frame.ite
    | split

theorem execDrainDone_frame (g : Fin 4) (s : State) :
    ∀ out, execDrainDone g s = .next out → Frame [.regs, .lnk] s out := by
  delta execDrainDone
  intro out h
  injection h with h
  subst h
  repeat' first
    | with_reducible apply Frame.refl
    | with_reducible assumption
    | apply Eq.refl
    | lift_lets -underBinder -merge -useContext
    | (intro x; refine Frame.cut (cs := [.regs, .lnk]) (s0 := s) (x := x) ?_ (fun hx => ?_); unfold x; rotate_left; clear_value x)
    | (intro x; clear_value x)
    | intro x
    | with_reducible apply Frame.app (flagPut_frame _ _ _ _)
    | with_reducible apply Frame.app (enterAdapt_frame _ _)
    | with_reducible apply Frame.app (enterDownQuiet_frame _ _)
    | with_reducible apply Frame.ite

theorem execAutoRetrain_frame (l : LinkId) (s : State) :
    ∀ out, execAutoRetrain l s = .next out → Frame [.regs, .lnk] s out := by
  delta execAutoRetrain
  intro out h
  injection h with h
  subst h
  repeat' first
    | with_reducible apply Frame.refl
    | with_reducible assumption
    | apply Eq.refl
    | lift_lets -underBinder -merge -useContext
    | (intro x; refine Frame.cut (cs := [.regs, .lnk]) (s0 := s) (x := x) ?_ (fun hx => ?_); unfold x; rotate_left; clear_value x)
    | with_reducible apply Frame.app (enterAdapt_frame _ _)
    | with_reducible apply Frame.ite
    | split

theorem execAlignmentBlock_frame (n : Fin 48) (body : BitVec 256) (placed : Bool) (s : State) :
    ∀ out, execAlignmentBlock n body placed s = .next out → Frame [.regs, .lnk] s out := by
  delta execAlignmentBlock
  intro out h
  injection h with h
  subst h
  repeat' first
    | with_reducible apply Frame.refl
    | with_reducible assumption
    | apply Eq.refl
    | lift_lets -underBinder -merge -useContext
    | (intro x; refine Frame.cut (cs := [.regs, .lnk]) (s0 := s) (x := x) ?_ (fun hx => ?_); unfold x; rotate_left; clear_value x)
    | (intro x; clear_value x)
    | intro x
    | with_reducible apply Frame.app (fieldPut_frame _ _ _ _ _)
    | with_reducible apply Frame.app (updLane_frame _ _ _)
    | with_reducible apply Frame.app (setLock_frame _ _ _ _)
    | with_reducible apply Frame.ite

theorem rewind_frame (g : Nat) (s : State) :
    Frame [.regs, .lnk] s (rewind g s) := by
  delta rewind
  repeat' first
    | with_reducible apply Frame.refl
    | with_reducible assumption
    | apply Eq.refl
    | lift_lets -underBinder -merge -useContext
    | (intro x; refine Frame.cut (cs := [.regs, .lnk]) (s0 := s) (x := x) ?_ (fun hx => ?_); unfold x; rotate_left; clear_value x)
    | (intro x; clear_value x)
    | intro x
    | with_reducible apply Frame.app (updGrp_frame _ _ _)
    | with_reducible apply Frame.app (freeCredits_frame _ _ _)

theorem endFrame_frame (g k : Nat) (s : State) :
    Frame [.regs, .lnk, .err] s (endFrame g k s) := by
  delta endFrame
  repeat' first
    | with_reducible apply Frame.refl
    | with_reducible assumption
    | apply Eq.refl
    | lift_lets -underBinder -merge -useContext
    | (intro x; refine Frame.cut (cs := [.regs, .lnk, .err]) (s0 := s) (x := x) ?_ (fun hx => ?_); unfold x; rotate_left; clear_value x)
    | with_reducible apply Frame.app (lnkEvent_frame _ _ _)
    | with_reducible apply Frame.app (updGrp_frame _ _ _)
    | with_reducible apply Frame.app (rewind_frame _ _)

theorem writeCore_frame (g : Nat) (ws : List W64) (last : Bool) (s : State) :
    Frame [.regs, .lnk, .err] s (writeCore g ws last s).1 := by
  delta writeCore
  repeat' first
    | with_reducible apply Frame.refl
    | with_reducible assumption
    | apply Eq.refl
    | lift_lets -underBinder -merge -useContext
    | (intro x; refine Frame.cut (cs := [.regs, .lnk, .err]) (s0 := s) (x := x) ?_ (fun hx => ?_); unfold x; rotate_left; clear_value x)
    | (intro x; clear_value x)
    | intro x
    | with_reducible apply Frame.app (updGrp_frame _ _ _)
    | with_reducible apply Frame.app (endFrame_frame _ _ _)
    | with_reducible apply Frame.ite
    | with_reducible apply Frame.ite1

theorem commitFrame_frame (g : Nat) (s : State) :
    Frame [.lnk] s (commitFrame g s) := by
  delta commitFrame
  repeat' first
    | with_reducible apply Frame.refl
    | with_reducible assumption
    | apply Eq.refl
    | lift_lets -underBinder -merge -useContext
    | (intro x; refine Frame.cut (cs := [.lnk]) (s0 := s) (x := x) ?_ (fun hx => ?_); unfold x; rotate_left; clear_value x)
    | (intro x; clear_value x)
    | intro x
    | with_reducible apply Frame.app (updGrp_frame _ _ _)
    | with_reducible apply Frame.ite

theorem trailerChecks_frame (g : Nat) (ws : List W64) (s : State) :
    Frame [.regs, .lnk, .pip, .err, .pwr] s (trailerChecks g ws s) := by
  delta trailerChecks
  repeat' first
    | with_reducible apply Frame.refl
    | with_reducible assumption
    | apply Eq.refl
    | lift_lets -underBinder -merge -useContext
    | (intro x; refine Frame.cut (cs := [.regs, .lnk, .pip, .err, .pwr]) (s0 := s) (x := x) ?_ (fun hx => ?_); unfold x; rotate_left; clear_value x)
    | (intro x; clear_value x)
    | intro x
    | with_reducible apply Frame.app (lnkAdd_frame _ _ _ _)
    | with_reducible apply Frame.app (wakeEvent_frame _ _)
    | with_reducible apply Frame.app (updGrp_frame _ _ _)
    | with_reducible apply Frame.app (endFrame_frame _ _ _)
    | with_reducible apply Frame.app (commitFrame_frame _ _)
    | with_reducible apply Frame.ite

theorem rxWord_frame (g : Nat) (mw : Bool × W64) (s : State) :
    Frame [.regs, .lnk, .pip, .err, .pwr] s (rxWord g mw s) := by
  delta rxWord
  repeat' first
    | with_reducible apply Frame.refl
    | with_reducible assumption
    | apply Eq.refl
    | lift_lets -underBinder -merge -useContext
    | (intro x; refine Frame.cut (cs := [.regs, .lnk, .pip, .err, .pwr]) (s0 := s) (x := x) ?_ (fun hx => ?_); unfold x; rotate_left; clear_value x)
    | (intro x; refine Frame.cut (cs := [.regs, .lnk, .pip, .err, .pwr]) (s0 := s) (x := x.1) ?_ (fun hx => ?_); unfold x; rotate_left; clear_value x)
    | (intro x; clear_value x)
    | intro x
    | with_reducible apply Frame.app (lnkEvent_frame _ _ _)
    | with_reducible apply Frame.app (updGrp_frame _ _ _)
    | with_reducible apply Frame.app (writeCore_frame _ _ _ _)
    | with_reducible apply Frame.app (trailerChecks_frame _ _ _)
    | with_reducible apply Frame.ite

theorem rxBlock_frame (l : LinkId) (b : LaneBlock) (s : State) :
    Frame [.lnk] s (rxBlock l b s).2 := by
  delta rxBlock
  repeat' first
    | with_reducible apply Frame.refl
    | with_reducible assumption
    | apply Eq.refl
    | lift_lets -underBinder -merge -useContext
    | (intro x; refine Frame.cut (cs := [.lnk]) (s0 := s) (x := x) ?_ (fun hx => ?_); unfold x; rotate_left; clear_value x)
    | (intro x; clear_value x)
    | intro x
    | with_reducible apply Frame.app (updGrp_frame _ _ _)
    | with_reducible apply Frame.app (updLane_frame _ _ _)

theorem fecCorrected_frame (g : Nat) (ns : List Nat) (s : State) :
    Frame [.regs] s (fecCorrected g ns s) := by
  delta fecCorrected
  repeat' first
    | with_reducible apply Frame.refl
    | with_reducible assumption
    | apply Eq.refl
    | lift_lets -underBinder -merge -useContext
    | (intro x; refine Frame.cut (cs := [.regs]) (s0 := s) (x := x) ?_ (fun hx => ?_); unfold x; rotate_left; clear_value x)
    | with_reducible apply Frame.app (cntAdd_frame _ _ _)
    | with_reducible refine Frame.foldl ?_ (fun _ _ _ => ?_)
    | with_reducible apply_assumption

theorem fllReceive_frame (g : Fin 4) (blocks : List LaneBlock) (s : State) :
    Frame [.regs, .lnk, .pip, .err, .pwr] s (fllReceive g blocks s) := by
  delta fllReceive
  repeat' first
    | with_reducible apply Frame.refl
    | with_reducible assumption
    | apply Eq.refl
    | lift_lets -underBinder -merge -useContext
    | (intro x; refine Frame.cut (cs := [.regs, .lnk, .pip, .err, .pwr]) (s0 := s) (x := x) ?_ (fun hx => ?_); unfold x; rotate_left; clear_value x)
    | (intro x; refine Frame.cut (cs := [.regs, .lnk, .pip, .err, .pwr]) (s0 := s) (x := x.2) ?_ (fun hx => ?_); unfold x; rotate_left; clear_value x)
    | (intro x; clear_value x)
    | intro x
    | with_reducible apply Frame.app (lnkEvent_frame _ _ _)
    | with_reducible apply Frame.app (rxWord_frame _ _ _)
    | with_reducible apply Frame.app (rxBlock_frame _ _ _)
    | with_reducible refine Frame.foldl ?_ (fun _ _ _ => ?_)
    | with_reducible apply Frame.ite
    | with_reducible apply_assumption
    | with_reducible refine Frame.app (Frame.ofPair (rxBlock_frame _ _ _) (by assumption)) ?_ ?_

theorem execCodewordUncorrectable_frame (g : Fin 4) (lane : Fin 8) (s : State) :
    ∀ out, execCodewordUncorrectable g lane s = .next out → Frame [.regs, .lnk] s out := by
  delta execCodewordUncorrectable
  intro out h
  injection h with h
  subst h
  repeat' first
    | with_reducible apply Frame.refl
    | with_reducible assumption
    | apply Eq.refl
    | lift_lets -underBinder -merge -useContext
    | (intro x; refine Frame.cut (cs := [.regs, .lnk]) (s0 := s) (x := x) ?_ (fun hx => ?_); unfold x; rotate_left; clear_value x)
    | (intro x; clear_value x)
    | intro x
    | with_reducible apply Frame.app (cntAdd_frame _ _ _)
    | with_reducible apply Frame.app (updGrp_frame _ _ _)
    | with_reducible apply Frame.ite

theorem execPoisonBoundaryDrop_frame (g : Fin 4) (s : State) :
    ∀ out, execPoisonBoundaryDrop g s = .next out → Frame [.regs, .lnk, .err] s out := by
  delta execPoisonBoundaryDrop
  intro out h
  injection h with h
  subst h
  repeat' first
    | with_reducible apply Frame.refl
    | with_reducible assumption
    | apply Eq.refl
    | lift_lets -underBinder -merge -useContext
    | (intro x; refine Frame.cut (cs := [.regs, .lnk, .err]) (s0 := s) (x := x) ?_ (fun hx => ?_); unfold x; rotate_left; clear_value x)
    | (intro x; clear_value x)
    | intro x
    | with_reducible apply Frame.app (updGrp_frame _ _ _)
    | with_reducible apply Frame.app (dropOpen_frame _ _)
    | with_reducible apply Frame.ite

theorem execFifoPtrReset_frame (g : Fin 4) (s : State) :
    ∀ out, execFifoPtrReset g s = .next out → Frame [.regs, .lnk, .err] s out := by
  delta execFifoPtrReset
  intro out h
  injection h with h
  subst h
  repeat' first
    | with_reducible apply Frame.refl
    | with_reducible assumption
    | apply Eq.refl
    | lift_lets -underBinder -merge -useContext
    | (intro x; refine Frame.cut (cs := [.regs, .lnk, .err]) (s0 := s) (x := x) ?_ (fun hx => ?_); unfold x; rotate_left; clear_value x)
    | (intro x; clear_value x)
    | intro x
    | with_reducible apply Frame.app (lnkAdd_frame _ _ _ _)
    | with_reducible apply Frame.app (lnkEvent_frame _ _ _)
    | with_reducible apply Frame.app (updGrp_frame _ _ _)
    | with_reducible apply Frame.app (freeCredits_frame _ _ _)

theorem execCreditFrame_frame (g : Fin 4) (s : State) :
    ∀ out, execCreditFrame g s = .next out → Frame [.lnk] s out := by
  delta execCreditFrame
  intro out h
  injection h with h
  subst h
  repeat' first
    | with_reducible apply Frame.refl
    | with_reducible assumption
    | apply Eq.refl
    | lift_lets -underBinder -merge -useContext
    | (intro x; refine Frame.cut (cs := [.lnk]) (s0 := s) (x := x) ?_ (fun hx => ?_); unfold x; rotate_left; clear_value x)
    | (intro x; clear_value x)
    | intro x
    | with_reducible apply Frame.app (updGrp_frame _ _ _)
    | with_reducible apply Frame.app (sendCredit_frame _ _)
    | with_reducible apply Frame.ite

theorem wrGrpMap_frame (src : Party) (v : Word) (s : State) :
    Frame [.regs, .lnk, .prt, .err] s (wrGrpMap src v s) := by
  delta wrGrpMap
  repeat' first
    | with_reducible apply Frame.refl
    | with_reducible assumption
    | apply Eq.refl
    | lift_lets -underBinder -merge -useContext
    | (intro x; refine Frame.cut (cs := [.regs, .lnk, .prt, .err]) (s0 := s) (x := x) ?_ (fun hx => ?_); unfold x; rotate_left; clear_value x)
    | (intro x; clear_value x)
    | intro x
    | with_reducible apply Frame.app (regPut_frame _ _ _)
    | with_reducible apply Frame.app (refuseReg_frame _ _ _ _ _)
    | with_reducible apply Frame.app (enterAdapt_frame _ _)
    | with_reducible refine Frame.foldl ?_ (fun _ _ _ => ?_)
    | with_reducible apply Frame.ite
    | with_reducible apply_assumption

end Sys2Proof.Machine
end

