-- ==== Sys2Proof/Laws/FrameSearch.lean ====
section
/-! SUPPORT. What each operation of Machine/Search.lean changes at most, and that it keeps the invariant. -/

namespace Sys2Proof.Machine

set_option linter.all false

open Sys2Proof

theorem readCores_frame (g n : Nat) (s : State) :
    Frame [.regs, .lnk] s (readCores g n s) := by
  delta readCores
  repeat' first
    | with_reducible apply Frame.refl
    | with_reducible assumption
    | apply Eq.refl
    | lift_lets -underBinder -merge -useContext
    | (intro x; refine Frame.cut (cs := [.regs, .lnk]) (s0 := s) (x := x) ?_ (fun hx => ?_); unfold x; rotate_left; clear_value x)
    | with_reducible apply Frame.app (updGrp_frame _ _ _)
    | with_reducible apply Frame.app (freeCredits_frame _ _ _)

theorem countHold_frame (p : Nat) (s : State) :
    Frame [.regs] s (countHold p s) := by
  delta countHold
  repeat' first
    | with_reducible apply Frame.refl
    | with_reducible assumption
    | apply Eq.refl
    | lift_lets -underBinder -merge -useContext
    | (intro x; refine Frame.cut (cs := [.regs]) (s0 := s) (x := x) ?_ (fun hx => ?_); unfold x; rotate_left; clear_value x)
    | with_reducible apply Frame.app (cntWrap_frame _ _ _)

theorem countWait_frame (p : Nat) (v : Visible) (c : Nat) (s : State) :
    Frame [.regs] s (countWait p v c s) := by
  delta countWait
  repeat' first
    | with_reducible apply Frame.refl
    | with_reducible assumption
    | apply Eq.refl
    | lift_lets -underBinder -merge -useContext
    | (intro x; refine Frame.cut (cs := [.regs]) (s0 := s) (x := x) ?_ (fun hx => ?_); unfold x; rotate_left; clear_value x)
    | with_reducible apply Frame.app (cntMax_frame _ _ _)

theorem acceptSearch_frame (p : Pipe) (v : Visible) (c reason w : Nat) (s : State) :
    Frame [.regs, .lnk, .pip, .cas, .hif, .err] s (acceptSearch p v c reason w s) := by
  delta acceptSearch
  repeat' first
    | with_reducible apply Frame.refl
    | with_reducible assumption
    | apply Eq.refl
    | lift_lets -underBinder -merge -useContext
    | (intro x; refine Frame.cut (cs := [.regs, .lnk, .pip, .cas, .hif, .err]) (s0 := s) (x := x) ?_ (fun hx => ?_); unfold x; rotate_left; clear_value x)
    | (intro x; clear_value x)
    | intro x
    | with_reducible apply Frame.app (cntWrap_frame _ _ _)
    | with_reducible apply Frame.app (cntMax_frame _ _ _)
    | with_reducible apply Frame.app (errRecord_frame _ _ _ _ _ _)
    | with_reducible apply Frame.app (intCount_frame _ _)
    | with_reducible apply Frame.app (coutSend_frame _ _)
    | with_reducible apply Frame.app (updGrp_frame _ _ _)
    | with_reducible apply Frame.app (readCores_frame _ _ _)
    | (with_reducible refine Frame.updCas (by decide) ?_ ?_; (intro _ h; exact h))
    | (with_reducible refine Frame.updCas (by decide) ?_ ?_; (intro _ h; simp only [CasSt.sorted] at h ⊢; simp [h]; done))
    | (with_reducible refine Frame.updCas (by decide) ?_ ?_; (intro _ h; simp only [CasSt.sorted] at h ⊢; and_intros <;> (try dsimp only) <;> (repeat' split) <;> first | (simp [h]; done) | exact tabFold_rising (fun _ _ g => by first | (simp [g]; done) | (split <;> simp [g]; done)) _ _ (by simp [h])))
    | (with_reducible refine Frame.updCas (by decide) ?_ ?_; (intro _ h; simp only [CasSt.sorted] at h ⊢; and_intros <;> first | (simp [h]; done) | exact tabFold_rising (fun _ _ g => by first | (simp [g]; done) | (split <;> simp [g]; done) | exact tabFold_rising (fun _ _ k => by simp [k]) _ _ g) _ _ (by simp [h]) | (repeat' first | exact rfl | exact h | apply tabSet_rising)))
    | (with_reducible refine Frame.updPip (by decide) ?_ ?_; (intro _ h; exact h))
    | (with_reducible refine Frame.updPip (by decide) ?_ ?_; (intro _ h; simp only [PipSt.sorted] at h ⊢; simp [h]; done))
    | (with_reducible refine Frame.updPip (by decide) ?_ ?_; (intro _ h; simp only [PipSt.sorted] at h ⊢; and_intros <;> (try dsimp only) <;> (repeat' split) <;> first | (simp [h]; done) | exact tabFold_rising (fun _ _ g => by first | (simp [g]; done) | (split <;> simp [g]; done)) _ _ (by simp [h])))
    | (with_reducible refine Frame.updPip (by decide) ?_ ?_; (intro _ h; simp only [PipSt.sorted] at h ⊢; and_intros <;> first | (simp [h]; done) | exact tabFold_rising (fun _ _ g => by first | (simp [g]; done) | (split <;> simp [g]; done) | exact tabFold_rising (fun _ _ k => by simp [k]) _ _ g) _ _ (by simp [h]) | (repeat' first | exact rfl | exact h | apply tabSet_rising)))
    | with_reducible apply Frame.ite

theorem execDispatch_frame (p : Pipe) (s : State) :
    ∀ out, execDispatch p s = .next out → Frame [.regs, .lnk, .pip, .cas, .hif, .err] s out := by
  delta execDispatch
  intro out h
  injection h with h
  subst h
  repeat' first
    | with_reducible apply Frame.refl
    | with_reducible assumption
    | apply Eq.refl
    | lift_lets -underBinder -merge -useContext
    | (intro x; refine Frame.cut (cs := [.regs, .lnk, .pip, .cas, .hif, .err]) (s0 := s) (x := x) ?_ (fun hx => ?_); unfold x; rotate_left; clear_value x)
    | (intro x; clear_value x)
    | intro x
    | with_reducible apply Frame.app (cntAdd_frame _ _ _)
    | with_reducible apply Frame.app (cntMax_frame _ _ _)
    | with_reducible apply Frame.app (lnkAdd_frame _ _ _ _)
    | with_reducible apply Frame.app (lnkEvent_frame _ _ _)
    | with_reducible apply Frame.app (maskReads_frame _ _)
    | with_reducible apply Frame.app (readCores_frame _ _ _)
    | with_reducible apply Frame.app (countHold_frame _ _)
    | with_reducible apply Frame.app (countWait_frame _ _ _ _)
    | with_reducible apply Frame.app (acceptSearch_frame _ _ _ _ _ _)
    | (with_reducible refine Frame.updPip (by decide) ?_ ?_; (intro _ h; exact h))
    | (with_reducible refine Frame.updPip (by decide) ?_ ?_; (intro _ h; simp only [PipSt.sorted] at h ⊢; simp [h]; done))
    | (with_reducible refine Frame.updPip (by decide) ?_ ?_; (intro _ h; simp only [PipSt.sorted] at h ⊢; and_intros <;> (try dsimp only) <;> (repeat' split) <;> first | (simp [h]; done) | exact tabFold_rising (fun _ _ g => by first | (simp [g]; done) | (split <;> simp [g]; done)) _ _ (by simp [h])))
    | (with_reducible refine Frame.updPip (by decide) ?_ ?_; (intro _ h; simp only [PipSt.sorted] at h ⊢; and_intros <;> first | (simp [h]; done) | exact tabFold_rising (fun _ _ g => by first | (simp [g]; done) | (split <;> simp [g]; done) | exact tabFold_rising (fun _ _ k => by simp [k]) _ _ g) _ _ (by simp [h]) | (repeat' first | exact rfl | exact h | apply tabSet_rising)))
    | with_reducible apply Frame.ite
    | split

theorem setFlight_frame (i : Nat) (f : Search) (s : State) :
    Frame [.pip] s (setFlight i f s) := by
  delta setFlight
  repeat' first
    | with_reducible apply Frame.refl
    | with_reducible assumption
    | apply Eq.refl
    | lift_lets -underBinder -merge -useContext
    | (intro x; refine Frame.cut (cs := [.pip]) (s0 := s) (x := x) ?_ (fun hx => ?_); unfold x; rotate_left; clear_value x)
    | (with_reducible refine Frame.updPip (by decide) ?_ ?_; (intro _ h; exact h))
    | (with_reducible refine Frame.updPip (by decide) ?_ ?_; (intro _ h; simp only [PipSt.sorted] at h ⊢; simp [h]; done))
    | (with_reducible refine Frame.updPip (by decide) ?_ ?_; (intro _ h; simp only [PipSt.sorted] at h ⊢; and_intros <;> (try dsimp only) <;> (repeat' split) <;> first | (simp [h]; done) | exact tabFold_rising (fun _ _ g => by first | (simp [g]; done) | (split <;> simp [g]; done)) _ _ (by simp [h])))
    | (with_reducible refine Frame.updPip (by decide) ?_ ?_; (intro _ h; simp only [PipSt.sorted] at h ⊢; and_intros <;> first | (simp [h]; done) | exact tabFold_rising (fun _ _ g => by first | (simp [g]; done) | (split <;> simp [g]; done) | exact tabFold_rising (fun _ _ k => by simp [k]) _ _ g) _ _ (by simp [h]) | (repeat' first | exact rfl | exact h | apply tabSet_rising)))

theorem sieveFailure_frame (f : Search) (o : SieveOut) (s : State) :
    Frame [.regs, .tbl, .hif, .err] s (sieveFailure f o s) := by
  delta sieveFailure
  repeat' first
    | with_reducible apply Frame.refl
    | with_reducible assumption
    | apply Eq.refl
    | lift_lets -underBinder -merge -useContext
    | (intro x; refine Frame.cut (cs := [.regs, .tbl, .hif, .err]) (s0 := s) (x := x) ?_ (fun hx => ?_); unfold x; rotate_left; clear_value x)
    | (intro x; clear_value x)
    | intro x
    | with_reducible apply Frame.app (errRecord_frame _ _ _ _ _ _)
    | with_reducible apply Frame.app (intCount_frame _ _)
    | (with_reducible refine Frame.updTbl (by decide) ?_ ?_; (intro _ h; exact h))
    | (with_reducible refine Frame.updTbl (by decide) ?_ ?_; (intro _ h; simp only [TblSt.sorted] at h ⊢; simp [h]; done))
    | (with_reducible refine Frame.updTbl (by decide) ?_ ?_; (intro _ h; simp only [TblSt.sorted] at h ⊢; and_intros <;> (try dsimp only) <;> (repeat' split) <;> first | (simp [h]; done) | exact tabFold_rising (fun _ _ g => by first | (simp [g]; done) | (split <;> simp [g]; done)) _ _ (by simp [h])))
    | (with_reducible refine Frame.updTbl (by decide) ?_ ?_; (intro _ h; simp only [TblSt.sorted] at h ⊢; and_intros <;> first | (simp [h]; done) | exact tabFold_rising (fun _ _ g => by first | (simp [g]; done) | (split <;> simp [g]; done) | exact tabFold_rising (fun _ _ k => by simp [k]) _ _ g) _ _ (by simp [h]) | (repeat' first | exact rfl | exact h | apply tabSet_rising)))
    | with_reducible apply Frame.ite
    | split

theorem execArraySearch_frame (p : Pipe) (badPans : List (Fin 256)) (s : State) :
    ∀ out, execArraySearch p badPans s = .next out → Frame [.regs, .arr, .tbl, .pip, .hif, .err] s out := by
  delta execArraySearch
  intro out h
  injection h with h
  subst h
  repeat' first
    | with_reducible apply Frame.refl
    | with_reducible assumption
    | apply Eq.refl
    | lift_lets -underBinder -merge -useContext
    | (intro x; refine Frame.cut (cs := [.regs, .arr, .tbl, .pip, .hif, .err]) (s0 := s) (x := x) ?_ (fun hx => ?_); unfold x; rotate_left; clear_value x)
    | (intro x; clear_value x)
    | intro x
    | with_reducible apply Frame.app (errRecord_frame _ _ _ _ _ _)
    | with_reducible apply Frame.app (intCount_frame _ _)
    | with_reducible apply Frame.app (lmapReads_frame _ _ _ _ _)
    | with_reducible apply Frame.app (hobReportRecord_frame _ _ _ _ _ _)
    | with_reducible apply Frame.app (hobFailures_frame _ _)
    | with_reducible apply Frame.app (setFlight_frame _ _ _)
    | with_reducible apply Frame.app (sieveFailure_frame _ _ _)
    | (with_reducible refine Frame.updPip (by decide) ?_ ?_; (intro _ h; exact h))
    | (with_reducible refine Frame.updPip (by decide) ?_ ?_; (intro _ h; simp only [PipSt.sorted] at h ⊢; simp [h]; done))
    | (with_reducible refine Frame.updPip (by decide) ?_ ?_; (intro _ h; simp only [PipSt.sorted] at h ⊢; and_intros <;> (try dsimp only) <;> (repeat' split) <;> first | (simp [h]; done) | exact tabFold_rising (fun _ _ g => by first | (simp [g]; done) | (split <;> simp [g]; done)) _ _ (by simp [h])))
    | (with_reducible refine Frame.updPip (by decide) ?_ ?_; (intro _ h; simp only [PipSt.sorted] at h ⊢; and_intros <;> first | (simp [h]; done) | exact tabFold_rising (fun _ _ g => by first | (simp [g]; done) | (split <;> simp [g]; done) | exact tabFold_rising (fun _ _ k => by simp [k]) _ _ g) _ _ (by simp [h]) | (repeat' first | exact rfl | exact h | apply tabSet_rising)))
    | with_reducible refine Frame.foldl ?_ (fun _ _ _ => ?_)
    | with_reducible apply Frame.ite
    | with_reducible apply_assumption
    | split

theorem checkWinner_frame (t : TableDesc) (mirror : Bool) (r : Report) (s : State) :
    Frame [.regs, .arr, .hif, .err] s (checkWinner t mirror r s).2 := by
  delta checkWinner
  repeat' first
    | with_reducible apply Frame.refl
    | with_reducible assumption
    | apply Eq.refl
    | lift_lets -underBinder -merge -useContext
    | (intro x; refine Frame.cut (cs := [.regs, .arr, .hif, .err]) (s0 := s) (x := x) ?_ (fun hx => ?_); unfold x; rotate_left; clear_value x)
    | (intro x; clear_value x)
    | intro x
    | with_reducible apply Frame.app (pantryEvent_frame _ _ _ _ _ _ _)
    | with_reducible apply Frame.app (verifyFailure_frame _ _ _ _ _ _)
    | with_reducible refine Frame.foldl ?_ (fun _ _ _ => ?_)
    | with_reducible apply Frame.ite
    | with_reducible apply Frame.ite2
    | with_reducible apply_assumption

theorem verifyLookup_frame (k : LkState) (s : State) :
    Frame [.regs, .arr, .hif, .err] s (verifyLookup k s).2 := by
  unfold verifyLookup
  split
  · exact Frame.refl _ _
  · rename_i t _
    have hp := checkWinner_frame t false k.prim s
    have hm := checkWinner_frame t true k.mirr (checkWinner t false k.prim s).2
    generalize checkWinner t false k.prim s = cp at hp hm
    generalize hcm : checkWinner t true k.mirr cp.2 = cm at hm
    obtain ⟨cp, s1⟩ := cp
    obtain ⟨cm, s2⟩ := cm
    dsimp only at hp hm hcm ⊢
    refine Frame.ite2 (Frame.refl _ _) ?_
    refine Frame.ite2 ?_ ?_
    · refine Frame.ite2 (Frame.refl _ _) ?_
      refine Frame.ite2 ?_ hp
      exact Frame.app (setActivity_frame _ _) rfl hp
    · rw [hcm]
      dsimp only
      have h2 : Frame [.regs, .arr, .hif, .err] s s2 := Frame.app hm rfl hp
      have h3 : ∀ b x m, Frame [.regs, .arr, .hif, .err] s (if b = true then divergence k.table k.prim x m s2 else s2) :=
        fun b x m => Frame.ite (Frame.app (divergence_frame _ _ _ _ _) rfl h2) h2
      split
      · exact Frame.app (setActivity_frame _ _) rfl (h3 _ _ _)
      · exact h3 _ _ _

theorem verifyAll_frame : ∀ (ks : List LkState) (s : State), Frame [.regs, .arr, .hif, .err] s (verifyAll ks s).2
  | [], s => Frame.refl _ s
  | k :: ks, s => by
    unfold verifyAll
    have h1 := verifyLookup_frame k s
    generalize verifyLookup k s = r at h1
    obtain ⟨r, t⟩ := r
    simp only at h1 ⊢
    refine Frame.app (verifyAll_frame ks _) rfl ?_
    apply Frame.ite (Frame.app (intCount_frame _ _) rfl h1)
    exact Frame.ite (Frame.app (intCount_frame _ _) rfl h1) h1

theorem dropFlight_frame (i : Nat) (s : State) :
    Frame [.pip] s (dropFlight i s) := by
  delta dropFlight
  repeat' first
    | with_reducible apply Frame.refl
    | with_reducible assumption
    | apply Eq.refl
    | lift_lets -underBinder -merge -useContext
    | (intro x; refine Frame.cut (cs := [.pip]) (s0 := s) (x := x) ?_ (fun hx => ?_); unfold x; rotate_left; clear_value x)
    | (with_reducible refine Frame.updPip (by decide) ?_ ?_; (intro _ h; exact h))
    | (with_reducible refine Frame.updPip (by decide) ?_ ?_; (intro _ h; simp only [PipSt.sorted] at h ⊢; simp [h]; done))
    | (with_reducible refine Frame.updPip (by decide) ?_ ?_; (intro _ h; simp only [PipSt.sorted] at h ⊢; and_intros <;> (try dsimp only) <;> (repeat' split) <;> first | (simp [h]; done) | exact tabFold_rising (fun _ _ g => by first | (simp [g]; done) | (split <;> simp [g]; done)) _ _ (by simp [h])))
    | (with_reducible refine Frame.updPip (by decide) ?_ ?_; (intro _ h; simp only [PipSt.sorted] at h ⊢; and_intros <;> first | (simp [h]; done) | exact tabFold_rising (fun _ _ g => by first | (simp [g]; done) | (split <;> simp [g]; done) | exact tabFold_rising (fun _ _ k => by simp [k]) _ _ g) _ _ (by simp [h]) | (repeat' first | exact rfl | exact h | apply tabSet_rising)))

theorem ownCandidate_frame (i : Nat) (f : Search) (s : State) :
    Frame [.pip, .cas] s (ownCandidate i f s) := by
  delta ownCandidate
  repeat' first
    | with_reducible apply Frame.refl
    | with_reducible assumption
    | apply Eq.refl
    | lift_lets -underBinder -merge -useContext
    | (intro x; refine Frame.cut (cs := [.pip, .cas]) (s0 := s) (x := x) ?_ (fun hx => ?_); unfold x; rotate_left; clear_value x)
    | (intro x; clear_value x)
    | intro x
    | with_reducible apply Frame.app (coutSend_frame _ _)
    | with_reducible apply Frame.app (dropFlight_frame _ _)
    | with_reducible apply Frame.ite
    | split

theorem execVerify_frame (p : Pipe) (s : State) :
    ∀ out, execVerify p s = .next out → Frame [.regs, .arr, .pip, .cas, .hif, .err] s out := by
  delta execVerify
  intro out h
  injection h with h
  subst h
  repeat' first
    | with_reducible apply Frame.refl
    | with_reducible assumption
    | apply Eq.refl
    | lift_lets -underBinder -merge -useContext
    | (intro x; refine Frame.cut (cs := [.regs, .arr, .pip, .cas, .hif, .err]) (s0 := s) (x := x) ?_ (fun hx => ?_); unfold x; rotate_left; clear_value x)
    | (intro x; refine Frame.cut (cs := [.regs, .arr, .pip, .cas, .hif, .err]) (s0 := s) (x := x.2) ?_ (fun hx => ?_); unfold x; rotate_left; clear_value x)
    | (intro x; clear_value x)
    | intro x
    | with_reducible apply Frame.app (setFlight_frame _ _ _)
    | with_reducible apply Frame.app (verifyAll_frame _ _)
    | with_reducible apply Frame.app (ownCandidate_frame _ _ _)
    | with_reducible apply Frame.ite
    | split
    | with_reducible refine Frame.app (Frame.ofPair (verifyAll_frame _ _) (by assumption)) ?_ ?_

theorem finalLookups_frame (f : Search) (s : State) :
    Frame [.regs, .err] s (finalLookups f s).2 := by
  delta finalLookups
  repeat' first
    | with_reducible apply Frame.refl
    | with_reducible assumption
    | apply Eq.refl
    | lift_lets -underBinder -merge -useContext
    | (intro x; refine Frame.cut (cs := [.regs, .err]) (s0 := s) (x := x) ?_ (fun hx => ?_); unfold x; rotate_left; clear_value x)
    | with_reducible apply Frame.app (cntAdd_frame _ _ _)
    | with_reducible apply Frame.app (raiseInt_frame _ _ _)
    | with_reducible apply Frame.ite
    | with_reducible apply Frame.ite2
    | split

theorem releaseTx_frame (f : Search) (s : State) :
    Frame [.lnk] s (releaseTx f s) := by
  delta releaseTx
  repeat' first
    | with_reducible apply Frame.refl
    | with_reducible assumption
    | apply Eq.refl
    | lift_lets -underBinder -merge -useContext
    | (intro x; refine Frame.cut (cs := [.lnk]) (s0 := s) (x := x) ?_ (fun hx => ?_); unfold x; rotate_left; clear_value x)
    | with_reducible apply Frame.app (updGrp_frame _ _ _)

theorem execResponseLeave_frame (p : Pipe) (s : State) :
    ∀ out, execResponseLeave p s = .next out → Frame [.regs, .lnk, .pip, .err] s out := by
  delta execResponseLeave
  intro out h
  injection h with h
  subst h
  repeat' first
    | with_reducible apply Frame.refl
    | with_reducible assumption
    | apply Eq.refl
    | lift_lets -underBinder -merge -useContext
    | (intro x; refine Frame.cut (cs := [.regs, .lnk, .pip, .err]) (s0 := s) (x := x) ?_ (fun hx => ?_); unfold x; rotate_left; clear_value x)
    | (intro x; refine Frame.cut (cs := [.regs, .lnk, .pip, .err]) (s0 := s) (x := x.2) ?_ (fun hx => ?_); unfold x; rotate_left; clear_value x)
    | (intro x; clear_value x)
    | intro x
    | with_reducible apply Frame.app (lnkAdd_frame _ _ _ _)
    | with_reducible apply Frame.app (lnkEvent_frame _ _ _)
    | with_reducible apply Frame.app (txFrame_frame _ _ _)
    | with_reducible apply Frame.app (dropFlight_frame _ _)
    | with_reducible apply Frame.app (finalLookups_frame _ _)
    | with_reducible apply Frame.app (releaseTx_frame _ _)
    | with_reducible apply Frame.ite
    | split
    | with_reducible refine Frame.app (Frame.ofPair (finalLookups_frame _ _) (by assumption)) ?_ ?_

end Sys2Proof.Machine
end

