-- ==== Sys2Proof/Laws/FrameRings.lean ====
section
/-! SUPPORT. What each operation of Machine/Rings.lean changes at most, and that it keeps the invariant. -/

namespace Sys2Proof.Machine

set_option linter.all false

open Sys2Proof

theorem updRing_frame (r : Nat) (f : Ring → Ring) (s : State) :
    Frame [.upd] s (updRing r f s) := by
  delta updRing
  repeat' first
    | with_reducible apply Frame.refl
    | with_reducible assumption
    | apply Eq.refl
    | lift_lets -underBinder -merge -useContext
    | (intro x; refine Frame.cut (cs := [.upd]) (s0 := s) (x := x) ?_ (fun hx => ?_); unfold x; rotate_left; clear_value x)
    | (with_reducible refine Frame.updUpd (by decide) ?_ ?_; (intro _ h; exact h))
    | (with_reducible refine Frame.updUpd (by decide) ?_ ?_; (intro _ h; simp only [UpdSt.sorted] at h ⊢; simp [h]; done))
    | (with_reducible refine Frame.updUpd (by decide) ?_ ?_; (intro _ h; simp only [UpdSt.sorted] at h ⊢; and_intros <;> (try dsimp only) <;> (repeat' split) <;> first | (simp [h]; done) | exact tabFold_rising (fun _ _ g => by first | (simp [g]; done) | (split <;> simp [g]; done)) _ _ (by simp [h])))
    | (with_reducible refine Frame.updUpd (by decide) ?_ ?_; (intro _ h; simp only [UpdSt.sorted] at h ⊢; and_intros <;> first | (simp [h]; done) | exact tabFold_rising (fun _ _ g => by first | (simp [g]; done) | (split <;> simp [g]; done) | exact tabFold_rising (fun _ _ k => by simp [k]) _ _ g) _ _ (by simp [h]) | (repeat' first | exact rfl | exact h | apply tabSet_rising)))

theorem ringFault_frame (r code : Nat) (s : State) :
    Frame [.upd] s (ringFault r code s) := by
  delta ringFault
  repeat' first
    | with_reducible apply Frame.refl
    | with_reducible assumption
    | apply Eq.refl
    | lift_lets -underBinder -merge -useContext
    | (intro x; refine Frame.cut (cs := [.upd]) (s0 := s) (x := x) ?_ (fun hx => ?_); unfold x; rotate_left; clear_value x)
    | with_reducible apply Frame.app (updRing_frame _ _ _)
    | with_reducible apply Frame.ite

theorem updCmd_frame (n : Nat) (f : Cmd → Cmd) (s : State) :
    Frame [.upd] s (updCmd n f s) := by
  delta updCmd
  repeat' first
    | with_reducible apply Frame.refl
    | with_reducible assumption
    | apply Eq.refl
    | lift_lets -underBinder -merge -useContext
    | (intro x; refine Frame.cut (cs := [.upd]) (s0 := s) (x := x) ?_ (fun hx => ?_); unfold x; rotate_left; clear_value x)
    | (with_reducible refine Frame.updUpd (by decide) ?_ ?_; (intro _ h; exact h))
    | (with_reducible refine Frame.updUpd (by decide) ?_ ?_; (intro _ h; simp only [UpdSt.sorted] at h ⊢; simp [h]; done))
    | (with_reducible refine Frame.updUpd (by decide) ?_ ?_; (intro _ h; simp only [UpdSt.sorted] at h ⊢; and_intros <;> (try dsimp only) <;> (repeat' split) <;> first | (simp [h]; done) | exact tabFold_rising (fun _ _ g => by first | (simp [g]; done) | (split <;> simp [g]; done)) _ _ (by simp [h])))
    | (with_reducible refine Frame.updUpd (by decide) ?_ ?_; (intro _ h; simp only [UpdSt.sorted] at h ⊢; and_intros <;> first | (simp [h]; done) | exact tabFold_rising (fun _ _ g => by first | (simp [g]; done) | (split <;> simp [g]; done) | exact tabFold_rising (fun _ _ k => by simp [k]) _ _ g) _ _ (by simp [h]) | (repeat' first | exact rfl | exact h | apply tabSet_rising)))
    | with_reducible apply Frame.ite

theorem ringOpens_frame (r : Nat) (s : State) :
    Frame [.upd] s (ringOpens r s) := by
  delta ringOpens
  repeat' first
    | with_reducible apply Frame.refl
    | with_reducible assumption
    | apply Eq.refl
    | lift_lets -underBinder -merge -useContext
    | (intro x; refine Frame.cut (cs := [.upd]) (s0 := s) (x := x) ?_ (fun hx => ?_); unfold x; rotate_left; clear_value x)
    | with_reducible apply Frame.app (updRing_frame _ _ _)

theorem fnOpens_frame (f : Nat) (s : State) :
    Frame [.upd] s (fnOpens f s) := by
  delta fnOpens
  repeat' first
    | with_reducible apply Frame.refl
    | with_reducible assumption
    | apply Eq.refl
    | lift_lets -underBinder -merge -useContext
    | (intro x; refine Frame.cut (cs := [.upd]) (s0 := s) (x := x) ?_ (fun hx => ?_); unfold x; rotate_left; clear_value x)
    | with_reducible apply Frame.app (ringOpens_frame _ _)
    | with_reducible refine Frame.foldl ?_ (fun _ _ _ => ?_)
    | with_reducible apply_assumption

theorem allOpen_frame (s : State) :
    Frame [.upd] s (allOpen s) := by
  delta allOpen
  repeat' first
    | with_reducible apply Frame.refl
    | with_reducible assumption
    | apply Eq.refl
    | lift_lets -underBinder -merge -useContext
    | (intro x; refine Frame.cut (cs := [.upd]) (s0 := s) (x := x) ?_ (fun hx => ?_); unfold x; rotate_left; clear_value x)
    | (with_reducible refine Frame.updUpd (by decide) ?_ ?_; (intro _ h; exact h))
    | (with_reducible refine Frame.updUpd (by decide) ?_ ?_; (intro _ h; simp only [UpdSt.sorted] at h ⊢; simp [h]; done))
    | (with_reducible refine Frame.updUpd (by decide) ?_ ?_; (intro _ h; simp only [UpdSt.sorted] at h ⊢; and_intros <;> (try dsimp only) <;> (repeat' split) <;> first | (simp [h]; done) | exact tabFold_rising (fun _ _ g => by first | (simp [g]; done) | (split <;> simp [g]; done)) _ _ (by simp [h])))
    | (with_reducible refine Frame.updUpd (by decide) ?_ ?_; (intro _ h; simp only [UpdSt.sorted] at h ⊢; and_intros <;> first | (simp [h]; done) | exact tabFold_rising (fun _ _ g => by first | (simp [g]; done) | (split <;> simp [g]; done) | exact tabFold_rising (fun _ _ k => by simp [k]) _ _ g) _ _ (by simp [h]) | (repeat' first | exact rfl | exact h | apply tabSet_rising)))

theorem dropCmd_frame (n : Nat) (s : State) : Frame [.upd] s (dropCmd n s) := by
  unfold dropCmd
  refine Frame.updUpd rfl (fun _ h => h) ?_
  have ha : Frame [.upd] s (match cmdAt n s with
      | some c => if c.barrier then ringOpens c.ring s else s
      | none => s) := by
    split
    · exact Frame.ite (ringOpens_frame _ _) (Frame.refl _ s)
    · exact Frame.refl _ s
  exact Frame.ite (Frame.app (allOpen_frame _) rfl ha) ha

theorem updDom_frame (d : Nat) (f : Domain → Domain) (s : State) :
    Frame [.epc] s (updDom d f s) := by
  delta updDom
  repeat' first
    | with_reducible apply Frame.refl
    | with_reducible assumption
    | apply Eq.refl
    | lift_lets -underBinder -merge -useContext
    | (intro x; refine Frame.cut (cs := [.epc]) (s0 := s) (x := x) ?_ (fun hx => ?_); unfold x; rotate_left; clear_value x)
    | (with_reducible refine Frame.updEpc (by decide) ?_ ?_; (intro _ h; exact h))
    | (with_reducible refine Frame.updEpc (by decide) ?_ ?_; (intro _ h; simp only [EpcSt.sorted] at h ⊢; simp [h]; done))
    | (with_reducible refine Frame.updEpc (by decide) ?_ ?_; (intro _ h; simp only [EpcSt.sorted] at h ⊢; and_intros <;> (try dsimp only) <;> (repeat' split) <;> first | (simp [h]; done) | exact tabFold_rising (fun _ _ g => by first | (simp [g]; done) | (split <;> simp [g]; done)) _ _ (by simp [h])))
    | (with_reducible refine Frame.updEpc (by decide) ?_ ?_; (intro _ h; simp only [EpcSt.sorted] at h ⊢; and_intros <;> first | (simp [h]; done) | exact tabFold_rising (fun _ _ g => by first | (simp [g]; done) | (split <;> simp [g]; done) | exact tabFold_rising (fun _ _ k => by simp [k]) _ _ g) _ _ (by simp [h]) | (repeat' first | exact rfl | exact h | apply tabSet_rising)))

theorem tableExists_frame (t : Nat) (s : State) :
    Frame [.tbl] s (tableExists t s) := by
  delta tableExists
  repeat' first
    | with_reducible apply Frame.refl
    | with_reducible assumption
    | apply Eq.refl
    | lift_lets -underBinder -merge -useContext
    | (intro x; refine Frame.cut (cs := [.tbl]) (s0 := s) (x := x) ?_ (fun hx => ?_); unfold x; rotate_left; clear_value x)
    | (with_reducible refine Frame.updTbl (by decide) ?_ ?_; (intro _ h; exact h))
    | (with_reducible refine Frame.updTbl (by decide) ?_ ?_; (intro _ h; simp only [TblSt.sorted] at h ⊢; simp [h]; done))
    | (with_reducible refine Frame.updTbl (by decide) ?_ ?_; (intro _ h; simp only [TblSt.sorted] at h ⊢; and_intros <;> (try dsimp only) <;> (repeat' split) <;> first | (simp [h]; done) | exact tabFold_rising (fun _ _ g => by first | (simp [g]; done) | (split <;> simp [g]; done)) _ _ (by simp [h])))
    | (with_reducible refine Frame.updTbl (by decide) ?_ ?_; (intro _ h; simp only [TblSt.sorted] at h ⊢; and_intros <;> first | (simp [h]; done) | exact tabFold_rising (fun _ _ g => by first | (simp [g]; done) | (split <;> simp [g]; done) | exact tabFold_rising (fun _ _ k => by simp [k]) _ _ g) _ _ (by simp [h]) | (repeat' first | exact rfl | exact h | apply tabSet_rising)))
    | split

theorem setTable_frame (t : Nat) (d : Option TableDesc) (s : State) :
    Frame [.tbl] s (setTable t d s) := by
  delta setTable
  repeat' first
    | with_reducible apply Frame.refl
    | with_reducible assumption
    | apply Eq.refl
    | lift_lets -underBinder -merge -useContext
    | (intro x; refine Frame.cut (cs := [.tbl]) (s0 := s) (x := x) ?_ (fun hx => ?_); unfold x; rotate_left; clear_value x)
    | (with_reducible refine Frame.updTbl (by decide) ?_ ?_; (intro _ h; exact h))
    | (with_reducible refine Frame.updTbl (by decide) ?_ ?_; (intro _ h; simp only [TblSt.sorted] at h ⊢; simp [h]; done))
    | (with_reducible refine Frame.updTbl (by decide) ?_ ?_; (intro _ h; simp only [TblSt.sorted] at h ⊢; and_intros <;> (try dsimp only) <;> (repeat' split) <;> first | (simp [h]; done) | exact tabFold_rising (fun _ _ g => by first | (simp [g]; done) | (split <;> simp [g]; done)) _ _ (by simp [h])))
    | (with_reducible refine Frame.updTbl (by decide) ?_ ?_; (intro _ h; simp only [TblSt.sorted] at h ⊢; and_intros <;> first | (simp [h]; done) | exact tabFold_rising (fun _ _ g => by first | (simp [g]; done) | (split <;> simp [g]; done) | exact tabFold_rising (fun _ _ k => by simp [k]) _ _ g) _ _ (by simp [h]) | (repeat' first | exact rfl | exact h | apply tabSet_rising)))
    | split

theorem completionEffects_frame (c : Cmd) (status : Nat) (s : State) :
    Frame [.tbl, .upd] s (completionEffects c status s) := by
  delta completionEffects
  repeat' first
    | with_reducible apply Frame.refl
    | with_reducible assumption
    | apply Eq.refl
    | lift_lets -underBinder -merge -useContext
    | (intro x; refine Frame.cut (cs := [.tbl, .upd]) (s0 := s) (x := x) ?_ (fun hx => ?_); unfold x; rotate_left; clear_value x)
    | (intro x; clear_value x)
    | intro x
    | with_reducible apply Frame.app (dropCmd_frame _ _)
    | with_reducible apply Frame.app (tableExists_frame _ _)
    | with_reducible apply Frame.app (setTable_frame _ _ _)
    | with_reducible apply Frame.ite

theorem writeCompletion_frame (c : Cmd) (status index detail value : Nat) (s : State) :
    Frame [.regs, .tbl, .upd, .hif] s (writeCompletion c status index detail value s) := by
  delta writeCompletion
  repeat' first
    | with_reducible apply Frame.refl
    | with_reducible assumption
    | apply Eq.refl
    | lift_lets -underBinder -merge -useContext
    | (intro x; refine Frame.cut (cs := [.regs, .tbl, .upd, .hif]) (s0 := s) (x := x) ?_ (fun hx => ?_); unfold x; rotate_left; clear_value x)
    | (intro x; clear_value x)
    | intro x
    | with_reducible apply Frame.app (cntWrap_frame _ _ _)
    | with_reducible apply Frame.app (hostSend_frame _ _)
    | with_reducible apply Frame.app (updRing_frame _ _ _)
    | with_reducible apply Frame.app (completionEffects_frame _ _ _)

theorem relayCompletion_frame (c : Cmd) (status index detail value : Nat) (s : State) :
    Frame [.regs, .tbl, .upd, .cas] s (relayCompletion c status index detail value s) := by
  delta relayCompletion
  repeat' first
    | with_reducible apply Frame.refl
    | with_reducible assumption
    | apply Eq.refl
    | lift_lets -underBinder -merge -useContext
    | (intro x; refine Frame.cut (cs := [.regs, .tbl, .upd, .cas]) (s0 := s) (x := x) ?_ (fun hx => ?_); unfold x; rotate_left; clear_value x)
    | (intro x; clear_value x)
    | intro x
    | with_reducible apply Frame.app (cntWrap_frame _ _ _)
    | with_reducible apply Frame.app (coutSend_frame _ _)
    | with_reducible apply Frame.app (completionEffects_frame _ _ _)

theorem flushOne_frame (n : Nat) (s : State) :
    Frame [.regs, .tbl, .upd, .cas, .hif] s (flushOne n s) := by
  delta flushOne
  repeat' first
    | with_reducible apply Frame.refl
    | with_reducible assumption
    | apply Eq.refl
    | lift_lets -underBinder -merge -useContext
    | (intro x; refine Frame.cut (cs := [.regs, .tbl, .upd, .cas, .hif]) (s0 := s) (x := x) ?_ (fun hx => ?_); unfold x; rotate_left; clear_value x)
    | (intro x; clear_value x)
    | intro x
    | with_reducible apply Frame.app (completionEffects_frame _ _ _)
    | with_reducible apply Frame.app (writeCompletion_frame _ _ _ _ _ _)
    | with_reducible apply Frame.app (relayCompletion_frame _ _ _ _ _ _)
    | with_reducible apply Frame.ite
    | split

theorem flushDue_frame (s : State) :
    Frame [.regs, .tbl, .upd, .cas, .hif] s (flushDue s) := by
  delta flushDue
  repeat' first
    | with_reducible apply Frame.refl
    | with_reducible assumption
    | apply Eq.refl
    | lift_lets -underBinder -merge -useContext
    | (intro x; refine Frame.cut (cs := [.regs, .tbl, .upd, .cas, .hif]) (s0 := s) (x := x) ?_ (fun hx => ?_); unfold x; rotate_left; clear_value x)
    | with_reducible apply Frame.app (flushOne_frame _ _)
    | with_reducible refine Frame.foldl ?_ (fun _ _ _ => ?_)
    | with_reducible apply_assumption

theorem finish_frame (n status index detail value : Nat) (s : State) :
    Frame [.upd] s (finish n status index detail value s) := by
  delta finish
  repeat' first
    | with_reducible apply Frame.refl
    | with_reducible assumption
    | apply Eq.refl
    | lift_lets -underBinder -merge -useContext
    | (intro x; refine Frame.cut (cs := [.upd]) (s0 := s) (x := x) ?_ (fun hx => ?_); unfold x; rotate_left; clear_value x)
    | with_reducible apply Frame.app (updCmd_frame _ _ _)
    | (with_reducible refine Frame.updUpd (by decide) ?_ ?_; (intro _ h; exact h))
    | (with_reducible refine Frame.updUpd (by decide) ?_ ?_; (intro _ h; simp only [UpdSt.sorted] at h ⊢; simp [h]; done))
    | (with_reducible refine Frame.updUpd (by decide) ?_ ?_; (intro _ h; simp only [UpdSt.sorted] at h ⊢; and_intros <;> (try dsimp only) <;> (repeat' split) <;> first | (simp [h]; done) | exact tabFold_rising (fun _ _ g => by first | (simp [g]; done) | (split <;> simp [g]; done)) _ _ (by simp [h])))
    | (with_reducible refine Frame.updUpd (by decide) ?_ ?_; (intro _ h; simp only [UpdSt.sorted] at h ⊢; and_intros <;> first | (simp [h]; done) | exact tabFold_rising (fun _ _ g => by first | (simp [g]; done) | (split <;> simp [g]; done) | exact tabFold_rising (fun _ _ k => by simp [k]) _ _ g) _ _ (by simp [h]) | (repeat' first | exact rfl | exact h | apply tabSet_rising)))

theorem parseCmd_frame (c : Cmd) (s : State) :
    Frame [.upd, .cas] s (parseCmd c s) := by
  delta parseCmd
  repeat' first
    | with_reducible apply Frame.refl
    | with_reducible assumption
    | apply Eq.refl
    | lift_lets -underBinder -merge -useContext
    | (intro x; refine Frame.cut (cs := [.upd, .cas]) (s0 := s) (x := x) ?_ (fun hx => ?_); unfold x; rotate_left; clear_value x)
    | (intro x; clear_value x)
    | intro x
    | with_reducible apply Frame.app (ctlSend_frame _ _ _ _ _)
    | with_reducible apply Frame.app (updCmd_frame _ _ _)
    | with_reducible apply Frame.app (finish_frame _ _ _ _ _ _)
    | (with_reducible refine Frame.updUpd (by decide) ?_ ?_; (intro _ h; exact h))
    | (with_reducible refine Frame.updUpd (by decide) ?_ ?_; (intro _ h; simp only [UpdSt.sorted] at h ⊢; simp [h]; done))
    | (with_reducible refine Frame.updUpd (by decide) ?_ ?_; (intro _ h; simp only [UpdSt.sorted] at h ⊢; and_intros <;> (try dsimp only) <;> (repeat' split) <;> first | (simp [h]; done) | exact tabFold_rising (fun _ _ g => by first | (simp [g]; done) | (split <;> simp [g]; done)) _ _ (by simp [h])))
    | (with_reducible refine Frame.updUpd (by decide) ?_ ?_; (intro _ h; simp only [UpdSt.sorted] at h ⊢; and_intros <;> first | (simp [h]; done) | exact tabFold_rising (fun _ _ g => by first | (simp [g]; done) | (split <;> simp [g]; done) | exact tabFold_rising (fun _ _ k => by simp [k]) _ _ g) _ _ (by simp [h]) | (repeat' first | exact rfl | exact h | apply tabSet_rising)))
    | with_reducible apply Frame.ite
    | split

theorem settleN_frame : ∀ (n : Nat) (s : State), Frame [.regs, .tbl, .upd, .cas, .hif] s (settleN n s)
  | 0, s => Frame.mono (flushDue_frame s) rfl
  | n + 1, s => by
    unfold settleN
    dsimp only
    split
    · exact Frame.app (settleN_frame n _) rfl (Frame.app (parseCmd_frame _ _) rfl (Frame.mono (flushDue_frame s) rfl))
    · exact Frame.mono (flushDue_frame s) rfl

theorem settle_frame (s : State) :
    Frame [.regs, .tbl, .upd, .cas, .hif] s (settle s) := by
  delta settle
  repeat' first
    | with_reducible apply Frame.refl
    | with_reducible assumption
    | apply Eq.refl
    | lift_lets -underBinder -merge -useContext
    | (intro x; refine Frame.cut (cs := [.regs, .tbl, .upd, .cas, .hif]) (s0 := s) (x := x) ?_ (fun hx => ?_); unfold x; rotate_left; clear_value x)
    | with_reducible apply Frame.app (settleN_frame _ _)

theorem complete_frame (n status index detail value : Nat) (s : State) :
    Frame [.regs, .tbl, .upd, .cas, .hif] s (complete n status index detail value s) := by
  delta complete
  repeat' first
    | with_reducible apply Frame.refl
    | with_reducible assumption
    | apply Eq.refl
    | lift_lets -underBinder -merge -useContext
    | (intro x; refine Frame.cut (cs := [.regs, .tbl, .upd, .cas, .hif]) (s0 := s) (x := x) ?_ (fun hx => ?_); unfold x; rotate_left; clear_value x)
    | with_reducible apply Frame.app (finish_frame _ _ _ _ _ _)
    | with_reducible apply Frame.app (settle_frame _)

theorem doorbell_frame (fn : Fin 64) (off : Nat) (v : Word) (poisoned : Bool) (s : State) :
    Frame [.regs, .tbl, .upd, .cas, .hif, .prt, .err] s (doorbell fn off v poisoned s) := by
  delta doorbell
  repeat' first
    | with_reducible apply Frame.refl
    | with_reducible assumption
    | apply Eq.refl
    | lift_lets -underBinder -merge -useContext
    | (intro x; refine Frame.cut (cs := [.regs, .tbl, .upd, .cas, .hif, .prt, .err]) (s0 := s) (x := x) ?_ (fun hx => ?_); unfold x; rotate_left; clear_value x)
    | (intro x; refine Frame.cutF (cs := [.regs, .tbl, .upd, .cas, .hif, .prt, .err]) (s0 := s) (x := x) (fun _ _ => ?_) (fun hx => ?_); unfold x; rotate_left; clear_value x)
    | (intro x; refine Frame.cutS (cs := [.regs, .tbl, .upd, .cas, .hif, .prt, .err]) (s0 := s) (x := x) (fun _ _ _ => ?_) (fun hx => ?_); unfold x; rotate_left; clear_value x)
    | (intro x; refine Frame.cutH (cs := [.regs, .tbl, .upd, .cas, .hif, .prt, .err]) (s0 := s) (x := x) (fun _ _ _ _ => ?_) (fun hx => ?_); unfold x; rotate_left; clear_value x)
    | (intro x; refine Frame.cutG (cs := [.regs, .tbl, .upd, .cas, .hif, .prt, .err]) (s0 := s) (x := x) (fun _ _ _ => ?_) (fun hx => ?_); unfold x; rotate_left; clear_value x)
    | (intro x; refine Frame.cutK (cs := [.regs, .tbl, .upd, .cas, .hif, .prt, .err]) (s0 := s) (x := x) (fun _ => ?_) (fun hx => ?_); unfold x; rotate_left; clear_value x)
    | (intro x; refine Frame.cutK2 (cs := [.regs, .tbl, .upd, .cas, .hif, .prt, .err]) (s0 := s) (x := x) (fun _ _ => ?_) (fun hx => ?_); unfold x; rotate_left; clear_value x)
    | (intro x; clear_value x)
    | intro x
    | with_reducible apply Frame.app (refuse_frame _ _ _ _ _ _ _)
    | with_reducible apply Frame.app (refusePoison_frame _ _ _ _ _)
    | with_reducible apply Frame.app (updRing_frame _ _ _)
    | with_reducible apply Frame.app (ringFault_frame _ _ _)
    | with_reducible apply Frame.app (settle_frame _)
    | with_reducible apply Frame.ite
    | with_reducible apply_assumption

theorem doorbellWrite_frame (fn : Fin 64) (off size : Nat) (full : Bool) (v : W64) (poisoned : Bool) (s : State) :
    Frame [.regs, .tbl, .pip, .upd, .cas, .hif, .prt, .err, .pwr] s (doorbellWrite fn off size full v poisoned s) := by
  delta doorbellWrite
  repeat' first
    | with_reducible apply Frame.refl
    | with_reducible assumption
    | apply Eq.refl
    | lift_lets -underBinder -merge -useContext
    | (intro x; refine Frame.cut (cs := [.regs, .tbl, .pip, .upd, .cas, .hif, .prt, .err, .pwr]) (s0 := s) (x := x) ?_ (fun hx => ?_); unfold x; rotate_left; clear_value x)
    | (intro x; clear_value x)
    | intro x
    | with_reducible apply Frame.app (refuse_frame _ _ _ _ _ _ _)
    | with_reducible apply Frame.app (wakeEvent_frame _ _)
    | with_reducible apply Frame.app (doorbell_frame _ _ _ _ _)
    | with_reducible apply Frame.ite

theorem execDoorbellSqTail_frame (fn : Fin 64) (off size : Nat) (full : Bool) (v : W64) (poisoned : Bool) (s : State) :
    ∀ out, execDoorbellSqTail fn off size full v poisoned s = .next out → Frame [.regs, .tbl, .pip, .upd, .cas, .hif, .prt, .err, .pwr] s out := by
  delta execDoorbellSqTail
  intro out h
  injection h with h
  subst h
  repeat' first
    | with_reducible apply Frame.refl
    | with_reducible assumption
    | apply Eq.refl
    | lift_lets -underBinder -merge -useContext
    | (intro x; refine Frame.cut (cs := [.regs, .tbl, .pip, .upd, .cas, .hif, .prt, .err, .pwr]) (s0 := s) (x := x) ?_ (fun hx => ?_); unfold x; rotate_left; clear_value x)
    | with_reducible apply Frame.app (doorbellWrite_frame _ _ _ _ _ _ _)

theorem execDoorbellCqHead_frame (fn : Fin 64) (off size : Nat) (full : Bool) (v : W64) (poisoned : Bool) (s : State) :
    ∀ out, execDoorbellCqHead fn off size full v poisoned s = .next out → Frame [.regs, .tbl, .pip, .upd, .cas, .hif, .prt, .err, .pwr] s out := by
  delta execDoorbellCqHead
  intro out h
  injection h with h
  subst h
  repeat' first
    | with_reducible apply Frame.refl
    | with_reducible assumption
    | apply Eq.refl
    | lift_lets -underBinder -merge -useContext
    | (intro x; refine Frame.cut (cs := [.regs, .tbl, .pip, .upd, .cas, .hif, .prt, .err, .pwr]) (s0 := s) (x := x) ?_ (fun hx => ?_); unfold x; rotate_left; clear_value x)
    | with_reducible apply Frame.app (doorbellWrite_frame _ _ _ _ _ _ _)

theorem latchRing_frame (src : Party) (r : Nat) (s : State) :
    Frame [.regs, .mwin] s (latchRing src r s) := by
  delta latchRing
  repeat' first
    | with_reducible apply Frame.refl
    | with_reducible assumption
    | apply Eq.refl
    | lift_lets -underBinder -merge -useContext
    | (intro x; refine Frame.cut (cs := [.regs, .mwin]) (s0 := s) (x := x) ?_ (fun hx => ?_); unfold x; rotate_left; clear_value x)
    | (intro x; clear_value x)
    | intro x
    | with_reducible apply Frame.app (winPut_frame _ _ _ _)
    | with_reducible refine Frame.foldl ?_ (fun _ _ _ => ?_)
    | with_reducible apply_assumption

theorem wrRingSel_frame (src : Party) (v : Word) (s : State) :
    Frame [.regs, .mwin] s (wrRingSel src v s) := by
  delta wrRingSel
  repeat' first
    | with_reducible apply Frame.refl
    | with_reducible assumption
    | apply Eq.refl
    | lift_lets -underBinder -merge -useContext
    | (intro x; refine Frame.cut (cs := [.regs, .mwin]) (s0 := s) (x := x) ?_ (fun hx => ?_); unfold x; rotate_left; clear_value x)
    | with_reducible apply Frame.app (winPut_frame _ _ _ _)
    | with_reducible apply Frame.app (latchRing_frame _ _ _)

theorem giveUp_frame (c : Cmd) (s : State) :
    Frame [.arr, .tbl, .upd, .epc, .cas] s (giveUp c s) := by
  delta giveUp
  repeat' first
    | with_reducible apply Frame.refl
    | with_reducible assumption
    | apply Eq.refl
    | lift_lets -underBinder -merge -useContext
    | (intro x; refine Frame.cut (cs := [.arr, .tbl, .upd, .epc, .cas]) (s0 := s) (x := x) ?_ (fun hx => ?_); unfold x; rotate_left; clear_value x)
    | (intro x; clear_value x)
    | intro x
    | with_reducible apply Frame.app (ctlSend_frame _ _ _ _ _)
    | with_reducible apply Frame.app (updDom_frame _ _ _)
    | (with_reducible refine Frame.updArr (by decide) ?_ ?_; (intro _ h; exact h))
    | (with_reducible refine Frame.updArr (by decide) ?_ ?_; (intro _ h; simp only [ArrSt.sorted] at h ⊢; simp [h]; done))
    | (with_reducible refine Frame.updArr (by decide) ?_ ?_; (intro _ h; simp only [ArrSt.sorted] at h ⊢; and_intros <;> (try dsimp only) <;> (repeat' split) <;> first | (simp [h]; done) | exact tabFold_rising (fun _ _ g => by first | (simp [g]; done) | (split <;> simp [g]; done)) _ _ (by simp [h])))
    | (with_reducible refine Frame.updArr (by decide) ?_ ?_; (intro _ h; simp only [ArrSt.sorted] at h ⊢; and_intros <;> first | (simp [h]; done) | exact tabFold_rising (fun _ _ g => by first | (simp [g]; done) | (split <;> simp [g]; done) | exact tabFold_rising (fun _ _ k => by simp [k]) _ _ g) _ _ (by simp [h]) | (repeat' first | exact rfl | exact h | apply tabSet_rising)))
    | (with_reducible refine Frame.updCas (by decide) ?_ ?_; (intro _ h; exact h))
    | (with_reducible refine Frame.updCas (by decide) ?_ ?_; (intro _ h; simp only [CasSt.sorted] at h ⊢; simp [h]; done))
    | (with_reducible refine Frame.updCas (by decide) ?_ ?_; (intro _ h; simp only [CasSt.sorted] at h ⊢; and_intros <;> (try dsimp only) <;> (repeat' split) <;> first | (simp [h]; done) | exact tabFold_rising (fun _ _ g => by first | (simp [g]; done) | (split <;> simp [g]; done)) _ _ (by simp [h])))
    | (with_reducible refine Frame.updCas (by decide) ?_ ?_; (intro _ h; simp only [CasSt.sorted] at h ⊢; and_intros <;> first | (simp [h]; done) | exact tabFold_rising (fun _ _ g => by first | (simp [g]; done) | (split <;> simp [g]; done) | exact tabFold_rising (fun _ _ k => by simp [k]) _ _ g) _ _ (by simp [h]) | (repeat' first | exact rfl | exact h | apply tabSet_rising)))
    | (with_reducible refine Frame.updTbl (by decide) ?_ ?_; (intro _ h; exact h))
    | (with_reducible refine Frame.updTbl (by decide) ?_ ?_; (intro _ h; simp only [TblSt.sorted] at h ⊢; simp [h]; done))
    | (with_reducible refine Frame.updTbl (by decide) ?_ ?_; (intro _ h; simp only [TblSt.sorted] at h ⊢; and_intros <;> (try dsimp only) <;> (repeat' split) <;> first | (simp [h]; done) | exact tabFold_rising (fun _ _ g => by first | (simp [g]; done) | (split <;> simp [g]; done)) _ _ (by simp [h])))
    | (with_reducible refine Frame.updTbl (by decide) ?_ ?_; (intro _ h; simp only [TblSt.sorted] at h ⊢; and_intros <;> first | (simp [h]; done) | exact tabFold_rising (fun _ _ g => by first | (simp [g]; done) | (split <;> simp [g]; done) | exact tabFold_rising (fun _ _ k => by simp [k]) _ _ g) _ _ (by simp [h]) | (repeat' first | exact rfl | exact h | apply tabSet_rising)))
    | (with_reducible refine Frame.updUpd (by decide) ?_ ?_; (intro _ h; exact h))
    | (with_reducible refine Frame.updUpd (by decide) ?_ ?_; (intro _ h; simp only [UpdSt.sorted] at h ⊢; simp [h]; done))
    | (with_reducible refine Frame.updUpd (by decide) ?_ ?_; (intro _ h; simp only [UpdSt.sorted] at h ⊢; and_intros <;> (try dsimp only) <;> (repeat' split) <;> first | (simp [h]; done) | exact tabFold_rising (fun _ _ g => by first | (simp [g]; done) | (split <;> simp [g]; done)) _ _ (by simp [h])))
    | (with_reducible refine Frame.updUpd (by decide) ?_ ?_; (intro _ h; simp only [UpdSt.sorted] at h ⊢; and_intros <;> first | (simp [h]; done) | exact tabFold_rising (fun _ _ g => by first | (simp [g]; done) | (split <;> simp [g]; done) | exact tabFold_rising (fun _ _ k => by simp [k]) _ _ g) _ _ (by simp [h]) | (repeat' first | exact rfl | exact h | apply tabSet_rising)))
    | with_reducible apply Frame.ite
    | split

theorem abortReady_frame (r : Nat) (s : State) :
    Frame [.arr, .tbl, .upd, .epc, .cas] s (abortReady r s) := by
  delta abortReady
  repeat' first
    | with_reducible apply Frame.refl
    | with_reducible assumption
    | apply Eq.refl
    | lift_lets -underBinder -merge -useContext
    | (intro x; refine Frame.cut (cs := [.arr, .tbl, .upd, .epc, .cas]) (s0 := s) (x := x) ?_ (fun hx => ?_); unfold x; rotate_left; clear_value x)
    | with_reducible apply Frame.app (finish_frame _ _ _ _ _ _)
    | with_reducible apply Frame.app (giveUp_frame _ _)
    | with_reducible refine Frame.foldl ?_ (fun _ _ _ => ?_)
    | with_reducible apply_assumption

theorem stopRing_frame (r : Nat) (s : State) :
    Frame [.regs, .arr, .tbl, .upd, .epc, .cas, .hif] s (stopRing r s) := by
  delta stopRing
  repeat' first
    | with_reducible apply Frame.refl
    | with_reducible assumption
    | apply Eq.refl
    | lift_lets -underBinder -merge -useContext
    | (intro x; refine Frame.cut (cs := [.regs, .arr, .tbl, .upd, .epc, .cas, .hif]) (s0 := s) (x := x) ?_ (fun hx => ?_); unfold x; rotate_left; clear_value x)
    | (intro x; clear_value x)
    | intro x
    | with_reducible apply Frame.app (updRing_frame _ _ _)
    | with_reducible apply Frame.app (settle_frame _)
    | with_reducible apply Frame.app (abortReady_frame _ _)
    | with_reducible apply Frame.ite

theorem wrRingCtl_frame (src : Party) (v : Word) (s : State) :
    Frame [.regs, .arr, .tbl, .upd, .epc, .cas, .hif, .prt, .err] s (wrRingCtl src v s) := by
  delta wrRingCtl
  repeat' first
    | with_reducible apply Frame.refl
    | with_reducible assumption
    | apply Eq.refl
    | lift_lets -underBinder -merge -useContext
    | (intro x; refine Frame.cut (cs := [.regs, .arr, .tbl, .upd, .epc, .cas, .hif, .prt, .err]) (s0 := s) (x := x) ?_ (fun hx => ?_); unfold x; rotate_left; clear_value x)
    | (intro x; clear_value x)
    | intro x
    | with_reducible apply Frame.app (refuseReg_frame _ _ _ _ _)
    | with_reducible apply Frame.app (updRing_frame _ _ _)
    | with_reducible apply Frame.app (stopRing_frame _ _)
    | with_reducible apply Frame.ite

theorem wrRingStat_frame (src : Party) (v : Word) (s : State) :
    Frame [.regs, .mwin, .upd] s (wrRingStat src v s) := by
  delta wrRingStat
  repeat' first
    | with_reducible apply Frame.refl
    | with_reducible assumption
    | apply Eq.refl
    | lift_lets -underBinder -merge -useContext
    | (intro x; refine Frame.cut (cs := [.regs, .mwin, .upd]) (s0 := s) (x := x) ?_ (fun hx => ?_); unfold x; rotate_left; clear_value x)
    | (intro x; clear_value x)
    | intro x
    | with_reducible apply Frame.app (winPut_frame _ _ _ _)
    | with_reducible apply Frame.app (updRing_frame _ _ _)

theorem serveRelay_frame (n : Nat) (s : State) :
    Frame [.regs, .tbl, .upd, .cas, .hif] s (serveRelay n s) := by
  delta serveRelay
  repeat' first
    | with_reducible apply Frame.refl
    | with_reducible assumption
    | apply Eq.refl
    | lift_lets -underBinder -merge -useContext
    | (intro x; refine Frame.cut (cs := [.regs, .tbl, .upd, .cas, .hif]) (s0 := s) (x := x) ?_ (fun hx => ?_); unfold x; rotate_left; clear_value x)
    | (intro x; clear_value x)
    | intro x
    | with_reducible apply Frame.app (fieldPut_frame _ _ _ _ _)
    | with_reducible apply Frame.app (updRing_frame _ _ _)
    | with_reducible apply Frame.app (settle_frame _)
    | (with_reducible refine Frame.updCas (by decide) ?_ ?_; (intro _ h; exact h))
    | (with_reducible refine Frame.updCas (by decide) ?_ ?_; (intro _ h; simp only [CasSt.sorted] at h ⊢; simp [h]; done))
    | (with_reducible refine Frame.updCas (by decide) ?_ ?_; (intro _ h; simp only [CasSt.sorted] at h ⊢; and_intros <;> (try dsimp only) <;> (repeat' split) <;> first | (simp [h]; done) | exact tabFold_rising (fun _ _ g => by first | (simp [g]; done) | (split <;> simp [g]; done)) _ _ (by simp [h])))
    | (with_reducible refine Frame.updCas (by decide) ?_ ?_; (intro _ h; simp only [CasSt.sorted] at h ⊢; and_intros <;> first | (simp [h]; done) | exact tabFold_rising (fun _ _ g => by first | (simp [g]; done) | (split <;> simp [g]; done) | exact tabFold_rising (fun _ _ k => by simp [k]) _ _ g) _ _ (by simp [h]) | (repeat' first | exact rfl | exact h | apply tabSet_rising)))
    | (with_reducible refine Frame.updUpd (by decide) ?_ ?_; (intro _ h; exact h))
    | (with_reducible refine Frame.updUpd (by decide) ?_ ?_; (intro _ h; simp only [UpdSt.sorted] at h ⊢; simp [h]; done))
    | (with_reducible refine Frame.updUpd (by decide) ?_ ?_; (intro _ h; simp only [UpdSt.sorted] at h ⊢; and_intros <;> (try dsimp only) <;> (repeat' split) <;> first | (simp [h]; done) | exact tabFold_rising (fun _ _ g => by first | (simp [g]; done) | (split <;> simp [g]; done)) _ _ (by simp [h])))
    | (with_reducible refine Frame.updUpd (by decide) ?_ ?_; (intro _ h; simp only [UpdSt.sorted] at h ⊢; and_intros <;> first | (simp [h]; done) | exact tabFold_rising (fun _ _ g => by first | (simp [g]; done) | (split <;> simp [g]; done) | exact tabFold_rising (fun _ _ k => by simp [k]) _ _ g) _ _ (by simp [h]) | (repeat' first | exact rfl | exact h | apply tabSet_rising)))
    | with_reducible refine Frame.foldl ?_ (fun _ _ _ => ?_)
    | with_reducible apply_assumption

theorem fetchCmds_frame (r size turn first k : Nat) : ∀ (hs : List W64) (i pos : Nat) (s : State),
    Frame [.upd] s (fetchCmds r size turn first k hs i pos s)
  | [], _, _, s => Frame.refl _ s
  | _ :: hs, _, _, s =>
    Frame.app (fetchCmds_frame r size turn first k hs _ _ _) rfl (Frame.updUpd rfl (fun _ h => h) (Frame.refl _ s))

theorem execIntentSchedule_frame (heads : List (Fin 16384 × List W64)) (s : State) :
    ∀ out, execIntentSchedule heads s = .next out → Frame [.regs, .tbl, .upd, .cas, .hif] s out := by
  delta execIntentSchedule
  intro out h
  injection h with h
  subst h
  repeat' first
    | with_reducible apply Frame.refl
    | with_reducible assumption
    | apply Eq.refl
    | lift_lets -underBinder -merge -useContext
    | (intro x; refine Frame.cut (cs := [.regs, .tbl, .upd, .cas, .hif]) (s0 := s) (x := x) ?_ (fun hx => ?_); unfold x; rotate_left; clear_value x)
    | (intro x; clear_value x)
    | intro x
    | with_reducible apply Frame.app (fieldPut_frame _ _ _ _ _)
    | with_reducible apply Frame.app (cntMax_frame _ _ _)
    | with_reducible apply Frame.app (hostRead_frame _ _ _ _ _)
    | with_reducible apply Frame.app (updRing_frame _ _ _)
    | with_reducible apply Frame.app (serveRelay_frame _ _)
    | with_reducible apply Frame.app (fetchCmds_frame _ _ _ _ _ _ _ _ _)
    | (with_reducible refine Frame.updUpd (by decide) ?_ ?_; (intro _ h; exact h))
    | (with_reducible refine Frame.updUpd (by decide) ?_ ?_; (intro _ h; simp only [UpdSt.sorted] at h ⊢; simp [h]; done))
    | (with_reducible refine Frame.updUpd (by decide) ?_ ?_; (intro _ h; simp only [UpdSt.sorted] at h ⊢; and_intros <;> (try dsimp only) <;> (repeat' split) <;> first | (simp [h]; done) | exact tabFold_rising (fun _ _ g => by first | (simp [g]; done) | (split <;> simp [g]; done)) _ _ (by simp [h])))
    | (with_reducible refine Frame.updUpd (by decide) ?_ ?_; (intro _ h; simp only [UpdSt.sorted] at h ⊢; and_intros <;> first | (simp [h]; done) | exact tabFold_rising (fun _ _ g => by first | (simp [g]; done) | (split <;> simp [g]; done) | exact tabFold_rising (fun _ _ k => by simp [k]) _ _ g) _ _ (by simp [h]) | (repeat' first | exact rfl | exact h | apply tabSet_rising)))
    | with_reducible apply Frame.ite
    | split

theorem readFailed_frame (c : Cmd) (s : State) :
    Frame [.regs, .tbl, .upd, .cas, .hif] s (readFailed c s) := by
  delta readFailed
  repeat' first
    | with_reducible apply Frame.refl
    | with_reducible assumption
    | apply Eq.refl
    | lift_lets -underBinder -merge -useContext
    | (intro x; refine Frame.cut (cs := [.regs, .tbl, .upd, .cas, .hif]) (s0 := s) (x := x) ?_ (fun hx => ?_); unfold x; rotate_left; clear_value x)
    | with_reducible apply Frame.app (ringFault_frame _ _ _)
    | with_reducible apply Frame.app (dropCmd_frame _ _)
    | with_reducible apply Frame.app (settle_frame _)

theorem execDescriptorArrive_frame (n : Nat) (data : Option (List W64)) (s : State) :
    ∀ out, execDescriptorArrive n data s = .next out → Frame [.regs, .tbl, .upd, .cas, .hif] s out := by
  delta execDescriptorArrive
  intro out h
  injection h with h
  subst h
  repeat' first
    | with_reducible apply Frame.refl
    | with_reducible assumption
    | apply Eq.refl
    | lift_lets -underBinder -merge -useContext
    | (intro x; refine Frame.cut (cs := [.regs, .tbl, .upd, .cas, .hif]) (s0 := s) (x := x) ?_ (fun hx => ?_); unfold x; rotate_left; clear_value x)
    | with_reducible apply Frame.app (updCmd_frame _ _ _)
    | with_reducible apply Frame.app (settle_frame _)
    | with_reducible apply Frame.app (readFailed_frame _ _)
    | with_reducible apply Frame.ite
    | split

theorem execRingInterrupt_frame (r : Fin 16384) (s : State) :
    ∀ out, execRingInterrupt r s = .next out → Frame [.upd, .hif] s out := by
  delta execRingInterrupt
  intro out h
  injection h with h
  subst h
  repeat' first
    | with_reducible apply Frame.refl
    | with_reducible assumption
    | apply Eq.refl
    | lift_lets -underBinder -merge -useContext
    | (intro x; refine Frame.cut (cs := [.upd, .hif]) (s0 := s) (x := x) ?_ (fun hx => ?_); unfold x; rotate_left; clear_value x)
    | (intro x; clear_value x)
    | intro x
    | with_reducible apply Frame.app (raiseVec_frame _ _)
    | with_reducible apply Frame.app (updRing_frame _ _ _)
    | with_reducible apply Frame.ite

theorem execCompletionWriteRefused_frame (r : Fin 16384) (s : State) :
    ∀ out, execCompletionWriteRefused r s = .next out → Frame [.upd] s out := by
  delta execCompletionWriteRefused
  intro out h
  injection h with h
  subst h
  repeat' first
    | with_reducible apply Frame.refl
    | with_reducible assumption
    | apply Eq.refl
    | lift_lets -underBinder -merge -useContext
    | (intro x; refine Frame.cut (cs := [.upd]) (s0 := s) (x := x) ?_ (fun hx => ?_); unfold x; rotate_left; clear_value x)
    | with_reducible apply Frame.app (ringFault_frame _ _ _)

theorem execHeldCommandRelease_frame (d : Fin 8) (s : State) :
    ∀ out, execHeldCommandRelease d s = .next out → Frame [.upd] s out := by
  delta execHeldCommandRelease
  intro out h
  injection h with h
  subst h
  repeat' first
    | with_reducible apply Frame.refl
    | with_reducible assumption
    | apply Eq.refl
    | lift_lets -underBinder -merge -useContext
    | (intro x; refine Frame.cut (cs := [.upd]) (s0 := s) (x := x) ?_ (fun hx => ?_); unfold x; rotate_left; clear_value x)
    | (with_reducible refine Frame.updUpd (by decide) ?_ ?_; (intro _ h; exact h))
    | (with_reducible refine Frame.updUpd (by decide) ?_ ?_; (intro _ h; simp only [UpdSt.sorted] at h ⊢; simp [h]; done))
    | (with_reducible refine Frame.updUpd (by decide) ?_ ?_; (intro _ h; simp only [UpdSt.sorted] at h ⊢; and_intros <;> (try dsimp only) <;> (repeat' split) <;> first | (simp [h]; done) | exact tabFold_rising (fun _ _ g => by first | (simp [g]; done) | (split <;> simp [g]; done)) _ _ (by simp [h])))
    | (with_reducible refine Frame.updUpd (by decide) ?_ ?_; (intro _ h; simp only [UpdSt.sorted] at h ⊢; and_intros <;> first | (simp [h]; done) | exact tabFold_rising (fun _ _ g => by first | (simp [g]; done) | (split <;> simp [g]; done) | exact tabFold_rising (fun _ _ k => by simp [k]) _ _ g) _ _ (by simp [h]) | (repeat' first | exact rfl | exact h | apply tabSet_rising)))
    | with_reducible apply Frame.ite

end Sys2Proof.Machine
end

