-- ==== Sys2Proof/Laws/FrameSpatula.lean ====
section
/-! SUPPORT. What each operation of Machine/Spatula.lean changes at most, and that it keeps the invariant. -/

namespace Sys2Proof.Machine

set_option linter.all false

open Sys2Proof

theorem dirPut_frame (idx : Nat) (e : Option Entry) (s : State) :
    Frame [.arr] s (dirPut idx e s) := by
  delta dirPut
  repeat' first
    | with_reducible apply Frame.refl
    | with_reducible assumption
    | apply Eq.refl
    | lift_lets -underBinder -merge -useContext
    | (intro x; refine Frame.cut (cs := [.arr]) (s0 := s) (x := x) ?_ (fun hx => ?_); unfold x; rotate_left; clear_value x)
    | (with_reducible refine Frame.updArr (by decide) ?_ ?_; (intro _ h; exact h))
    | (with_reducible refine Frame.updArr (by decide) ?_ ?_; (intro _ h; simp only [ArrSt.sorted] at h ⊢; simp [h]; done))
    | (with_reducible refine Frame.updArr (by decide) ?_ ?_; (intro _ h; simp only [ArrSt.sorted] at h ⊢; and_intros <;> (try dsimp only) <;> (repeat' split) <;> first | (simp [h]; done) | exact tabFold_rising (fun _ _ g => by first | (simp [g]; done) | (split <;> simp [g]; done)) _ _ (by simp [h])))
    | (with_reducible refine Frame.updArr (by decide) ?_ ?_; (intro _ h; simp only [ArrSt.sorted] at h ⊢; and_intros <;> first | (simp [h]; done) | exact tabFold_rising (fun _ _ g => by first | (simp [g]; done) | (split <;> simp [g]; done) | exact tabFold_rising (fun _ _ k => by simp [k]) _ _ g) _ _ (by simp [h]) | (repeat' first | exact rfl | exact h | apply tabSet_rising)))
    | split

theorem setPanBroad_frame (d : TableDesc) (pan : Nat) (b : Bool) (s : State) :
    Frame [.regs] s (setPanBroad d pan b s) := by
  delta setPanBroad
  repeat' first
    | with_reducible apply Frame.refl
    | with_reducible assumption
    | apply Eq.refl
    | lift_lets -underBinder -merge -useContext
    | (intro x; refine Frame.cut (cs := [.regs]) (s0 := s) (x := x) ?_ (fun hx => ?_); unfold x; rotate_left; clear_value x)
    | (intro x; clear_value x)
    | intro x
    | with_reducible apply Frame.app (flagPut_frame _ _ _ _)
    | with_reducible apply Frame.ite

theorem nameEntry_frame (d : TableDesc) (t pan : Nat) (key mask : BitVec 640) (s : State) :
    Frame [.regs, .tbl] s (nameEntry d t pan key mask s).1 := by
  delta nameEntry
  repeat' first
    | with_reducible apply Frame.refl
    | with_reducible assumption
    | apply Eq.refl
    | lift_lets -underBinder -merge -useContext
    | (intro x; refine Frame.cut (cs := [.regs, .tbl]) (s0 := s) (x := x) ?_ (fun hx => ?_); unfold x; rotate_left; clear_value x)
    | (intro x; clear_value x)
    | intro x
    | with_reducible apply Frame.app (maskWrite_frame _ _ _ _)
    | with_reducible apply Frame.app (setPanBroad_frame _ _ _ _)
    | with_reducible apply Frame.ite
    | with_reducible apply Frame.ite1

theorem tidyBucket_frame (d : TableDesc) (t pan k : Nat) (s : State) :
    Frame [.regs, .tbl] s (tidyBucket d t pan k s) := by
  delta tidyBucket
  repeat' first
    | with_reducible apply Frame.refl
    | with_reducible assumption
    | apply Eq.refl
    | lift_lets -underBinder -merge -useContext
    | (intro x; refine Frame.cut (cs := [.regs, .tbl]) (s0 := s) (x := x) ?_ (fun hx => ?_); unfold x; rotate_left; clear_value x)
    | (intro x; refine Frame.cutF (cs := [.regs, .tbl]) (s0 := s) (x := x) (fun _ _ => ?_) (fun hx => ?_); unfold x; rotate_left; clear_value x)
    | (intro x; refine Frame.cutS (cs := [.regs, .tbl]) (s0 := s) (x := x) (fun _ _ _ => ?_) (fun hx => ?_); unfold x; rotate_left; clear_value x)
    | (intro x; refine Frame.cutH (cs := [.regs, .tbl]) (s0 := s) (x := x) (fun _ _ _ _ => ?_) (fun hx => ?_); unfold x; rotate_left; clear_value x)
    | (intro x; refine Frame.cutG (cs := [.regs, .tbl]) (s0 := s) (x := x) (fun _ _ _ => ?_) (fun hx => ?_); unfold x; rotate_left; clear_value x)
    | (intro x; refine Frame.cutK (cs := [.regs, .tbl]) (s0 := s) (x := x) (fun _ => ?_) (fun hx => ?_); unfold x; rotate_left; clear_value x)
    | (intro x; refine Frame.cutK2 (cs := [.regs, .tbl]) (s0 := s) (x := x) (fun _ _ => ?_) (fun hx => ?_); unfold x; rotate_left; clear_value x)
    | (intro x; clear_value x)
    | intro x
    | with_reducible apply Frame.app (maskWrite_frame _ _ _ _)
    | with_reducible apply Frame.app (setPanBroad_frame _ _ _ _)
    | with_reducible refine Frame.foldl ?_ (fun _ _ _ => ?_)
    | with_reducible apply Frame.ite
    | with_reducible apply_assumption

theorem writeRanks_frame (d : TableDesc) (idx r : Nat) (s : State) :
    Frame [.arr] s (writeRanks d idx r s) := by
  delta writeRanks
  repeat' first
    | with_reducible apply Frame.refl
    | with_reducible assumption
    | apply Eq.refl
    | lift_lets -underBinder -merge -useContext
    | (intro x; refine Frame.cut (cs := [.arr]) (s0 := s) (x := x) ?_ (fun hx => ?_); unfold x; rotate_left; clear_value x)
    | with_reducible apply Frame.app (writeRank_frame _ _ _)
    | with_reducible refine Frame.foldl ?_ (fun _ _ _ => ?_)
    | with_reducible apply Frame.ite
    | with_reducible apply_assumption

theorem queueRows_frame (d : TableDesc) (t idx : Nat) (e : Option Entry) (notBefore : Nat) (movedFrom movedTo : Option Nat) (kept : Bool) (bucket : Option Nat) (tag : MTag) (s : State) :
    Frame [.arr] s (queueRows d t idx e notBefore movedFrom movedTo kept bucket tag s) := by
  delta queueRows
  repeat' first
    | with_reducible apply Frame.refl
    | with_reducible assumption
    | apply Eq.refl
    | lift_lets -underBinder -merge -useContext
    | (intro x; refine Frame.cut (cs := [.arr]) (s0 := s) (x := x) ?_ (fun hx => ?_); unfold x; rotate_left; clear_value x)
    | (intro x; clear_value x)
    | intro x
    | (with_reducible refine Frame.updArr (by decide) ?_ ?_; (intro _ h; exact h))
    | (with_reducible refine Frame.updArr (by decide) ?_ ?_; (intro _ h; simp only [ArrSt.sorted] at h ⊢; simp [h]; done))
    | (with_reducible refine Frame.updArr (by decide) ?_ ?_; (intro _ h; simp only [ArrSt.sorted] at h ⊢; and_intros <;> (try dsimp only) <;> (repeat' split) <;> first | (simp [h]; done) | exact tabFold_rising (fun _ _ g => by first | (simp [g]; done) | (split <;> simp [g]; done)) _ _ (by simp [h])))
    | (with_reducible refine Frame.updArr (by decide) ?_ ?_; (intro _ h; simp only [ArrSt.sorted] at h ⊢; and_intros <;> first | (simp [h]; done) | exact tabFold_rising (fun _ _ g => by first | (simp [g]; done) | (split <;> simp [g]; done) | exact tabFold_rising (fun _ _ k => by simp [k]) _ _ g) _ _ (by simp [h]) | (repeat' first | exact rfl | exact h | apply tabSet_rising)))
    | with_reducible refine Frame.foldl ?_ (fun _ _ _ => ?_)
    | with_reducible apply Frame.ite
    | with_reducible apply_assumption

theorem queueGold_frame (idx t : Nat) (e : Option Entry) (plan : Option Nat) (s : State) :
    Frame [.arr] s (queueGold idx t e plan s) := by
  delta queueGold
  repeat' first
    | with_reducible apply Frame.refl
    | with_reducible assumption
    | apply Eq.refl
    | lift_lets -underBinder -merge -useContext
    | (intro x; refine Frame.cut (cs := [.arr]) (s0 := s) (x := x) ?_ (fun hx => ?_); unfold x; rotate_left; clear_value x)
    | (with_reducible refine Frame.updArr (by decide) ?_ ?_; (intro _ h; exact h))
    | (with_reducible refine Frame.updArr (by decide) ?_ ?_; (intro _ h; simp only [ArrSt.sorted] at h ⊢; simp [h]; done))
    | (with_reducible refine Frame.updArr (by decide) ?_ ?_; (intro _ h; simp only [ArrSt.sorted] at h ⊢; and_intros <;> (try dsimp only) <;> (repeat' split) <;> first | (simp [h]; done) | exact tabFold_rising (fun _ _ g => by first | (simp [g]; done) | (split <;> simp [g]; done)) _ _ (by simp [h])))
    | (with_reducible refine Frame.updArr (by decide) ?_ ?_; (intro _ h; simp only [ArrSt.sorted] at h ⊢; and_intros <;> first | (simp [h]; done) | exact tabFold_rising (fun _ _ g => by first | (simp [g]; done) | (split <;> simp [g]; done) | exact tabFold_rising (fun _ _ k => by simp [k]) _ _ g) _ _ (by simp [h]) | (repeat' first | exact rfl | exact h | apply tabSet_rising)))

theorem showStranded_frame (s : State) :
    Frame [.regs, .arr] s (showStranded s) := by
  delta showStranded
  repeat' first
    | with_reducible apply Frame.refl
    | with_reducible assumption
    | apply Eq.refl
    | lift_lets -underBinder -merge -useContext
    | (intro x; refine Frame.cut (cs := [.regs, .arr]) (s0 := s) (x := x) ?_ (fun hx => ?_); unfold x; rotate_left; clear_value x)
    | (intro x; clear_value x)
    | intro x
    | with_reducible apply Frame.app (fieldPut_frame _ _ _ _ _)
    | (with_reducible refine Frame.updArr (by decide) ?_ ?_; (intro _ h; exact h))
    | (with_reducible refine Frame.updArr (by decide) ?_ ?_; (intro _ h; simp only [ArrSt.sorted] at h ⊢; simp [h]; done))
    | (with_reducible refine Frame.updArr (by decide) ?_ ?_; (intro _ h; simp only [ArrSt.sorted] at h ⊢; and_intros <;> (try dsimp only) <;> (repeat' split) <;> first | (simp [h]; done) | exact tabFold_rising (fun _ _ g => by first | (simp [g]; done) | (split <;> simp [g]; done)) _ _ (by simp [h])))
    | (with_reducible refine Frame.updArr (by decide) ?_ ?_; (intro _ h; simp only [ArrSt.sorted] at h ⊢; and_intros <;> first | (simp [h]; done) | exact tabFold_rising (fun _ _ g => by first | (simp [g]; done) | (split <;> simp [g]; done) | exact tabFold_rising (fun _ _ k => by simp [k]) _ _ g) _ _ (by simp [h]) | (repeat' first | exact rfl | exact h | apply tabSet_rising)))

theorem queueFree_frame (t idx prim : Nat) (s : State) :
    Frame [.arr] s (queueFree t idx prim s) := by
  delta queueFree
  repeat' first
    | with_reducible apply Frame.refl
    | with_reducible assumption
    | apply Eq.refl
    | lift_lets -underBinder -merge -useContext
    | (intro x; refine Frame.cut (cs := [.arr]) (s0 := s) (x := x) ?_ (fun hx => ?_); unfold x; rotate_left; clear_value x)
    | (with_reducible refine Frame.updArr (by decide) ?_ ?_; (intro _ h; exact h))
    | (with_reducible refine Frame.updArr (by decide) ?_ ?_; (intro _ h; simp only [ArrSt.sorted] at h ⊢; simp [h]; done))
    | (with_reducible refine Frame.updArr (by decide) ?_ ?_; (intro _ h; simp only [ArrSt.sorted] at h ⊢; and_intros <;> (try dsimp only) <;> (repeat' split) <;> first | (simp [h]; done) | exact tabFold_rising (fun _ _ g => by first | (simp [g]; done) | (split <;> simp [g]; done)) _ _ (by simp [h])))
    | (with_reducible refine Frame.updArr (by decide) ?_ ?_; (intro _ h; simp only [ArrSt.sorted] at h ⊢; and_intros <;> first | (simp [h]; done) | exact tabFold_rising (fun _ _ g => by first | (simp [g]; done) | (split <;> simp [g]; done) | exact tabFold_rising (fun _ _ k => by simp [k]) _ _ g) _ _ (by simp [h]) | (repeat' first | exact rfl | exact h | apply tabSet_rising)))

theorem startHold_frame (h : Hold) (s : State) :
    Frame [.arr] s (startHold h s) := by
  delta startHold
  repeat' first
    | with_reducible apply Frame.refl
    | with_reducible assumption
    | apply Eq.refl
    | lift_lets -underBinder -merge -useContext
    | (intro x; refine Frame.cut (cs := [.arr]) (s0 := s) (x := x) ?_ (fun hx => ?_); unfold x; rotate_left; clear_value x)
    | (with_reducible refine Frame.updArr (by decide) ?_ ?_; (intro _ h; exact h))
    | (with_reducible refine Frame.updArr (by decide) ?_ ?_; (intro _ h; simp only [ArrSt.sorted] at h ⊢; simp [h]; done))
    | (with_reducible refine Frame.updArr (by decide) ?_ ?_; (intro _ h; simp only [ArrSt.sorted] at h ⊢; and_intros <;> (try dsimp only) <;> (repeat' split) <;> first | (simp [h]; done) | exact tabFold_rising (fun _ _ g => by first | (simp [g]; done) | (split <;> simp [g]; done)) _ _ (by simp [h])))
    | (with_reducible refine Frame.updArr (by decide) ?_ ?_; (intro _ h; simp only [ArrSt.sorted] at h ⊢; and_intros <;> first | (simp [h]; done) | exact tabFold_rising (fun _ _ g => by first | (simp [g]; done) | (split <;> simp [g]; done) | exact tabFold_rising (fun _ _ k => by simp [k]) _ _ g) _ _ (by simp [h]) | (repeat' first | exact rfl | exact h | apply tabSet_rising)))

theorem markDead_frame (c : Nat) (s : State) :
    Frame [.upd] s (markDead c s) := by
  delta markDead
  repeat' first
    | with_reducible apply Frame.refl
    | with_reducible assumption
    | apply Eq.refl
    | lift_lets -underBinder -merge -useContext
    | (intro x; refine Frame.cut (cs := [.upd]) (s0 := s) (x := x) ?_ (fun hx => ?_); unfold x; rotate_left; clear_value x)
    | (with_reducible refine Frame.updUpd (by decide) ?_ ?_; (intro _ h; exact h))
    | (with_reducible refine Frame.updUpd (by decide) ?_ ?_; (intro _ h; simp only [UpdSt.sorted] at h ⊢; simp [h]; done))
    | (with_reducible refine Frame.updUpd (by decide) ?_ ?_; (intro _ h; simp only [UpdSt.sorted] at h ⊢; and_intros <;> (try dsimp only) <;> (repeat' split) <;> first | (simp [h]; done) | exact tabFold_rising (fun _ _ g => by first | (simp [g]; done) | (split <;> simp [g]; done)) _ _ (by simp [h])))
    | (with_reducible refine Frame.updUpd (by decide) ?_ ?_; (intro _ h; simp only [UpdSt.sorted] at h ⊢; and_intros <;> first | (simp [h]; done) | exact tabFold_rising (fun _ _ g => by first | (simp [g]; done) | (split <;> simp [g]; done) | exact tabFold_rising (fun _ _ k => by simp [k]) _ _ g) _ _ (by simp [h]) | (repeat' first | exact rfl | exact h | apply tabSet_rising)))

theorem updPlan_frame (n : Nat) (f : Plan → Plan) (s : State) :
    Frame [.upd] s (updPlan n f s) := by
  delta updPlan
  repeat' first
    | with_reducible apply Frame.refl
    | with_reducible assumption
    | apply Eq.refl
    | lift_lets -underBinder -merge -useContext
    | (intro x; refine Frame.cut (cs := [.upd]) (s0 := s) (x := x) ?_ (fun hx => ?_); unfold x; rotate_left; clear_value x)
    | (with_reducible refine Frame.updUpd (by decide) ?_ ?_; (intro _ h; exact h))
    | (with_reducible refine Frame.updUpd (by decide) ?_ ?_; (intro _ h; simp only [UpdSt.sorted] at h ⊢; simp [h]; done))
    | (with_reducible refine Frame.updUpd (by decide) ?_ ?_; (intro _ h; simp only [UpdSt.sorted] at h ⊢; and_intros <;> (try dsimp only) <;> (repeat' split) <;> first | (simp [h]; done) | exact tabFold_rising (fun _ _ g => by first | (simp [g]; done) | (split <;> simp [g]; done)) _ _ (by simp [h])))
    | (with_reducible refine Frame.updUpd (by decide) ?_ ?_; (intro _ h; simp only [UpdSt.sorted] at h ⊢; and_intros <;> first | (simp [h]; done) | exact tabFold_rising (fun _ _ g => by first | (simp [g]; done) | (split <;> simp [g]; done) | exact tabFold_rising (fun _ _ k => by simp [k]) _ _ g) _ _ (by simp [h]) | (repeat' first | exact rfl | exact h | apply tabSet_rising)))
    | with_reducible apply Frame.ite

theorem dropPlan_frame (n : Nat) (s : State) :
    Frame [.upd] s (dropPlan n s) := by
  delta dropPlan
  repeat' first
    | with_reducible apply Frame.refl
    | with_reducible assumption
    | apply Eq.refl
    | lift_lets -underBinder -merge -useContext
    | (intro x; refine Frame.cut (cs := [.upd]) (s0 := s) (x := x) ?_ (fun hx => ?_); unfold x; rotate_left; clear_value x)
    | (with_reducible refine Frame.updUpd (by decide) ?_ ?_; (intro _ h; exact h))
    | (with_reducible refine Frame.updUpd (by decide) ?_ ?_; (intro _ h; simp only [UpdSt.sorted] at h ⊢; simp [h]; done))
    | (with_reducible refine Frame.updUpd (by decide) ?_ ?_; (intro _ h; simp only [UpdSt.sorted] at h ⊢; and_intros <;> (try dsimp only) <;> (repeat' split) <;> first | (simp [h]; done) | exact tabFold_rising (fun _ _ g => by first | (simp [g]; done) | (split <;> simp [g]; done)) _ _ (by simp [h])))
    | (with_reducible refine Frame.updUpd (by decide) ?_ ?_; (intro _ h; simp only [UpdSt.sorted] at h ⊢; and_intros <;> first | (simp [h]; done) | exact tabFold_rising (fun _ _ g => by first | (simp [g]; done) | (split <;> simp [g]; done) | exact tabFold_rising (fun _ _ k => by simp [k]) _ _ g) _ _ (by simp [h]) | (repeat' first | exact rfl | exact h | apply tabSet_rising)))

theorem journalRow_frame (d : TableDesc) (q : MReq) (s : State) :
    Frame [.epc] s (journalRow d q s) := by
  delta journalRow
  repeat' first
    | with_reducible apply Frame.refl
    | with_reducible assumption
    | apply Eq.refl
    | lift_lets -underBinder -merge -useContext
    | (intro x; refine Frame.cut (cs := [.epc]) (s0 := s) (x := x) ?_ (fun hx => ?_); unfold x; rotate_left; clear_value x)
    | with_reducible apply Frame.app (updDom_frame _ _ _)
    | with_reducible apply Frame.ite
    | split

theorem retarget_frame (d : TableDesc) (src dst : Nat) (s : State) :
    Frame [.arr] s (retarget d src dst s) := by
  delta retarget
  repeat' first
    | with_reducible apply Frame.refl
    | with_reducible assumption
    | apply Eq.refl
    | lift_lets -underBinder -merge -useContext
    | (intro x; refine Frame.cut (cs := [.arr]) (s0 := s) (x := x) ?_ (fun hx => ?_); unfold x; rotate_left; clear_value x)
    | (intro x; clear_value x)
    | intro x
    | (with_reducible refine Frame.updArr (by decide) ?_ ?_; (intro _ h; exact h))
    | (with_reducible refine Frame.updArr (by decide) ?_ ?_; (intro _ h; simp only [ArrSt.sorted] at h ⊢; simp [h]; done))
    | (with_reducible refine Frame.updArr (by decide) ?_ ?_; (intro _ h; simp only [ArrSt.sorted] at h ⊢; and_intros <;> (try dsimp only) <;> (repeat' split) <;> first | (simp [h]; done) | exact tabFold_rising (fun _ _ g => by first | (simp [g]; done) | (split <;> simp [g]; done)) _ _ (by simp [h])))
    | (with_reducible refine Frame.updArr (by decide) ?_ ?_; (intro _ h; simp only [ArrSt.sorted] at h ⊢; and_intros <;> first | (simp [h]; done) | exact tabFold_rising (fun _ _ g => by first | (simp [g]; done) | (split <;> simp [g]; done) | exact tabFold_rising (fun _ _ k => by simp [k]) _ _ g) _ _ (by simp [h]) | (repeat' first | exact rfl | exact h | apply tabSet_rising)))
    | with_reducible apply Frame.ite
    | with_reducible apply_assumption

theorem performRow_frame (q : MReq) (c : Nat) (s : State) :
    Frame [.arr, .upd, .epc] s (performRow q c s) := by
  delta performRow
  repeat' first
    | with_reducible apply Frame.refl
    | with_reducible assumption
    | apply Eq.refl
    | lift_lets -underBinder -merge -useContext
    | (intro x; refine Frame.cut (cs := [.arr, .upd, .epc]) (s0 := s) (x := x) ?_ (fun hx => ?_); unfold x; rotate_left; clear_value x)
    | (intro x; clear_value x)
    | intro x
    | with_reducible apply Frame.app (writeEntrySlots_frame _ _ _ _)
    | with_reducible apply Frame.app (dirPut_frame _ _ _)
    | with_reducible apply Frame.app (writeRanks_frame _ _ _ _)
    | with_reducible apply Frame.app (queueGold_frame _ _ _ _ _)
    | with_reducible apply Frame.app (queueFree_frame _ _ _ _)
    | with_reducible apply Frame.app (startHold_frame _ _)
    | with_reducible apply Frame.app (markDead_frame _ _)
    | with_reducible apply Frame.app (journalRow_frame _ _ _)
    | with_reducible apply Frame.app (retarget_frame _ _ _ _)
    | with_reducible apply Frame.ite
    | split

theorem putRecords_frame (d : TableDesc) (idx : Nat) (r : List Word) (s : State) :
    Frame [.regs, .mem, .hif, .err] s (putRecords d idx r s) := by
  delta putRecords
  repeat' first
    | with_reducible apply Frame.refl
    | with_reducible assumption
    | apply Eq.refl
    | lift_lets -underBinder -merge -useContext
    | (intro x; refine Frame.cut (cs := [.regs, .mem, .hif, .err]) (s0 := s) (x := x) ?_ (fun hx => ?_); unfold x; rotate_left; clear_value x)
    | (intro x; clear_value x)
    | intro x
    | with_reducible apply Frame.app (recordWrite_frame _ _ _ _ _)
    | with_reducible apply Frame.ite

theorem putRanks_frame (d : TableDesc) (idx r : Nat) (s : State) :
    Frame [.arr] s (putRanks d idx r s) := by
  delta putRanks
  repeat' first
    | with_reducible apply Frame.refl
    | with_reducible assumption
    | apply Eq.refl
    | lift_lets -underBinder -merge -useContext
    | (intro x; refine Frame.cut (cs := [.arr]) (s0 := s) (x := x) ?_ (fun hx => ?_); unfold x; rotate_left; clear_value x)
    | with_reducible apply Frame.app (writeRanks_frame _ _ _ _)
    | with_reducible refine Frame.foldl ?_ (fun _ _ _ => ?_)
    | with_reducible apply_assumption

theorem putAttr_frame (idx t : Nat) (f : Entry → Entry) (plan : Nat) (s : State) :
    Frame [.arr] s (putAttr idx t f plan s) := by
  delta putAttr
  repeat' first
    | with_reducible apply Frame.refl
    | with_reducible assumption
    | apply Eq.refl
    | lift_lets -underBinder -merge -useContext
    | (intro x; refine Frame.cut (cs := [.arr]) (s0 := s) (x := x) ?_ (fun hx => ?_); unfold x; rotate_left; clear_value x)
    | with_reducible apply Frame.app (dirPut_frame _ _ _)
    | with_reducible apply Frame.app (queueGold_frame _ _ _ _ _)
    | split

theorem beginStep_frame (p : Plan) (st : PStep) (d : TableDesc) (s : State) :
    ∀ t b, beginStep p st d s = some (t, b) → Frame [.regs, .arr, .tbl, .mem, .hif, .err] s t := by
  intro t b h
  unfold beginStep at h
  split at h
  · cases h
  · dsimp only at h
    split at h
    · cases h
    · generalize (match (leaving _ _).bind fun i => dirAt i s with
        | some o => _
        | none => _ : Entry) = e at h
      generalize hq : nameEntry _ _ _ _ _ _ = q at h
      obtain ⟨q, fresh⟩ := q
      injection h with h
      injection h with h
      subst h
      refine Frame.app (queueRows_frame _ _ _ _ _ _ _ _ _ _ _) (by decide) ?_
      refine Frame.app (Frame.ofFst (nameEntry_frame _ _ _ _ _ _) hq) (by decide) ?_
      exact Frame.app (putRanks_frame _ _ _ _) (by decide) (Frame.app (putRecords_frame _ _ _ _) (by decide) (Frame.refl _ s))
  · injection h with h
    injection h with h
    subst h
    exact Frame.app (queueRows_frame _ _ _ _ _ _ _ _ _ _ _) (by decide) (Frame.refl _ s)
  · split at h
    · injection h with h
      injection h with h
      subst h
      exact Frame.app (putAttr_frame _ _ _ _ _) (by decide) (Frame.app (putRecords_frame _ _ _ _) (by decide) (Frame.refl _ s))
    · cases h
  · split at h
    · injection h with h
      injection h with h
      subst h
      exact Frame.app (putAttr_frame _ _ _ _ _) (by decide) (Frame.app (putRanks_frame _ _ _ _) (by decide) (Frame.refl _ s))
    · cases h

theorem endPlan_frame (p : Plan) (s : State) :
    Frame [.regs, .tbl, .upd, .cas, .hif] s (endPlan p s) := by
  delta endPlan
  repeat' first
    | with_reducible apply Frame.refl
    | with_reducible assumption
    | apply Eq.refl
    | lift_lets -underBinder -merge -useContext
    | (intro x; refine Frame.cut (cs := [.regs, .tbl, .upd, .cas, .hif]) (s0 := s) (x := x) ?_ (fun hx => ?_); unfold x; rotate_left; clear_value x)
    | with_reducible apply Frame.app (complete_frame _ _ _ _ _ _)
    | with_reducible apply Frame.app (dropPlan_frame _ _)
    | with_reducible apply Frame.ite
    | split

theorem advanceN_frame : ∀ (k n : Nat) (s : State), Frame [.regs, .arr, .tbl, .mem, .upd, .cas, .hif, .err] s (advanceN k n s)
  | 0, _, s => Frame.refl _ s
  | k + 1, n, s => by
    unfold advanceN
    split
    · exact Frame.refl _ s
    · split
      · split
        · exact Frame.refl _ s
        · exact Frame.app (advanceN_frame k n _) rfl (Frame.app (updPlan_frame _ _ _) rfl (Frame.refl _ s))
      · split
        · exact Frame.mono (endPlan_frame _ _) rfl
        · split
          · exact Frame.refl _ s
          · split
            · exact Frame.refl _ s
            · rename_i t b h
              have h := Frame.mono (cs := [.regs, .arr, .tbl, .mem, .upd, .cas, .hif, .err]) (beginStep_frame _ _ _ _ t b h) rfl
              apply Frame.ite
              · exact Frame.app (advanceN_frame k n _) rfl (Frame.app (updPlan_frame _ _ _) rfl h)
              · exact Frame.app (updPlan_frame _ _ _) rfl h

theorem advance_frame (n : Nat) (s : State) :
    Frame [.regs, .arr, .tbl, .mem, .upd, .cas, .hif, .err] s (advance n s) := by
  delta advance
  repeat' first
    | with_reducible apply Frame.refl
    | with_reducible assumption
    | apply Eq.refl
    | lift_lets -underBinder -merge -useContext
    | (intro x; refine Frame.cut (cs := [.regs, .arr, .tbl, .mem, .upd, .cas, .hif, .err]) (s0 := s) (x := x) ?_ (fun hx => ?_); unfold x; rotate_left; clear_value x)
    | with_reducible apply Frame.app (advanceN_frame _ _ _)
    | split

theorem advanceAll_frame (s : State) :
    Frame [.regs, .arr, .tbl, .mem, .upd, .cas, .hif, .err] s (advanceAll s) := by
  delta advanceAll
  repeat' first
    | with_reducible apply Frame.refl
    | with_reducible assumption
    | apply Eq.refl
    | lift_lets -underBinder -merge -useContext
    | (intro x; refine Frame.cut (cs := [.regs, .arr, .tbl, .mem, .upd, .cas, .hif, .err]) (s0 := s) (x := x) ?_ (fun hx => ?_); unfold x; rotate_left; clear_value x)
    | with_reducible apply Frame.app (advance_frame _ _)
    | with_reducible refine Frame.foldl ?_ (fun _ _ _ => ?_)
    | with_reducible apply_assumption

theorem startPlan_frame (p : Plan) (s : State) :
    Frame [.regs, .arr, .tbl, .mem, .upd, .cas, .hif, .err] s (startPlan p s) := by
  delta startPlan
  repeat' first
    | with_reducible apply Frame.refl
    | with_reducible assumption
    | apply Eq.refl
    | lift_lets -underBinder -merge -useContext
    | (intro x; refine Frame.cut (cs := [.regs, .arr, .tbl, .mem, .upd, .cas, .hif, .err]) (s0 := s) (x := x) ?_ (fun hx => ?_); unfold x; rotate_left; clear_value x)
    | with_reducible apply Frame.app (advance_frame _ _)
    | (with_reducible refine Frame.updUpd (by decide) ?_ ?_; (intro _ h; exact h))
    | (with_reducible refine Frame.updUpd (by decide) ?_ ?_; (intro _ h; simp only [UpdSt.sorted] at h ⊢; simp [h]; done))
    | (with_reducible refine Frame.updUpd (by decide) ?_ ?_; (intro _ h; simp only [UpdSt.sorted] at h ⊢; and_intros <;> (try dsimp only) <;> (repeat' split) <;> first | (simp [h]; done) | exact tabFold_rising (fun _ _ g => by first | (simp [g]; done) | (split <;> simp [g]; done)) _ _ (by simp [h])))
    | (with_reducible refine Frame.updUpd (by decide) ?_ ?_; (intro _ h; simp only [UpdSt.sorted] at h ⊢; and_intros <;> first | (simp [h]; done) | exact tabFold_rising (fun _ _ g => by first | (simp [g]; done) | (split <;> simp [g]; done) | exact tabFold_rising (fun _ _ k => by simp [k]) _ _ g) _ _ (by simp [h]) | (repeat' first | exact rfl | exact h | apply tabSet_rising)))

theorem execSpatulaMove_frame (n : Nat) (s : State) :
    ∀ out, execSpatulaMove n s = .next out → Frame [.regs, .arr, .mem, .upd, .hif, .err] s out := by
  delta execSpatulaMove
  intro out h
  injection h with h
  subst h
  repeat' first
    | with_reducible apply Frame.refl
    | with_reducible assumption
    | apply Eq.refl
    | lift_lets -underBinder -merge -useContext
    | (intro x; refine Frame.cut (cs := [.regs, .arr, .mem, .upd, .hif, .err]) (s0 := s) (x := x) ?_ (fun hx => ?_); unfold x; rotate_left; clear_value x)
    | (intro x; clear_value x)
    | intro x
    | with_reducible apply Frame.app (queueRows_frame _ _ _ _ _ _ _ _ _ _ _)
    | with_reducible apply Frame.app (updPlan_frame _ _ _)
    | with_reducible apply Frame.app (putRecords_frame _ _ _ _)
    | with_reducible apply Frame.app (putRanks_frame _ _ _ _)
    | with_reducible apply Frame.ite
    | split

theorem mergeActivity_frame (src dst : List Nat) (s : State) :
    Frame [.regs, .arr] s (mergeActivity src dst s) := by
  delta mergeActivity
  repeat' first
    | with_reducible apply Frame.refl
    | with_reducible assumption
    | apply Eq.refl
    | lift_lets -underBinder -merge -useContext
    | (intro x; refine Frame.cut (cs := [.regs, .arr]) (s0 := s) (x := x) ?_ (fun hx => ?_); unfold x; rotate_left; clear_value x)
    | (intro x; clear_value x)
    | intro x
    | with_reducible apply Frame.app (fixActivities_frame _ _)
    | with_reducible apply Frame.app (setActivity_frame _ _)
    | with_reducible apply Frame.app (clearActivity_frame _ _)
    | with_reducible apply Frame.ite

theorem execReuseHoldEnd_frame (s : State) :
    ∀ out, execReuseHoldEnd s = .next out → Frame [.regs, .arr, .tbl, .mem, .upd, .cas, .hif, .err] s out := by
  delta execReuseHoldEnd
  intro out h
  injection h with h
  subst h
  repeat' first
    | with_reducible apply Frame.refl
    | with_reducible assumption
    | apply Eq.refl
    | lift_lets -underBinder -merge -useContext
    | (intro x; refine Frame.cut (cs := [.regs, .arr, .tbl, .mem, .upd, .cas, .hif, .err]) (s0 := s) (x := x) ?_ (fun hx => ?_); unfold x; rotate_left; clear_value x)
    | (intro x; clear_value x)
    | intro x
    | with_reducible apply Frame.app (tidyBucket_frame _ _ _ _ _)
    | with_reducible apply Frame.app (queueFree_frame _ _ _ _)
    | with_reducible apply Frame.app (advanceAll_frame _)
    | with_reducible apply Frame.app (mergeActivity_frame _ _ _)
    | (with_reducible refine Frame.updArr (by decide) ?_ ?_; (intro _ h; exact h))
    | (with_reducible refine Frame.updArr (by decide) ?_ ?_; (intro _ h; simp only [ArrSt.sorted] at h ⊢; simp [h]; done))
    | (with_reducible refine Frame.updArr (by decide) ?_ ?_; (intro _ h; simp only [ArrSt.sorted] at h ⊢; and_intros <;> (try dsimp only) <;> (repeat' split) <;> first | (simp [h]; done) | exact tabFold_rising (fun _ _ g => by first | (simp [g]; done) | (split <;> simp [g]; done)) _ _ (by simp [h])))
    | (with_reducible refine Frame.updArr (by decide) ?_ ?_; (intro _ h; simp only [ArrSt.sorted] at h ⊢; and_intros <;> first | (simp [h]; done) | exact tabFold_rising (fun _ _ g => by first | (simp [g]; done) | (split <;> simp [g]; done) | exact tabFold_rising (fun _ _ k => by simp [k]) _ _ g) _ _ (by simp [h]) | (repeat' first | exact rfl | exact h | apply tabSet_rising)))
    | with_reducible apply Frame.ite
    | split

theorem goldRecord_frame (d : TableDesc) (idx : Nat) (r : List Word) (s : State) :
    Frame [.arr] s (goldRecord d idx r s) := by
  delta goldRecord
  repeat' first
    | with_reducible apply Frame.refl
    | with_reducible assumption
    | apply Eq.refl
    | lift_lets -underBinder -merge -useContext
    | (intro x; refine Frame.cut (cs := [.arr]) (s0 := s) (x := x) ?_ (fun hx => ?_); unfold x; rotate_left; clear_value x)
    | (intro x; clear_value x)
    | intro x
    | (with_reducible refine Frame.updArr (by decide) ?_ ?_; (intro _ h; exact h))
    | (with_reducible refine Frame.updArr (by decide) ?_ ?_; (intro _ h; simp only [ArrSt.sorted] at h ⊢; simp [h]; done))
    | (with_reducible refine Frame.updArr (by decide) ?_ ?_; (intro _ h; simp only [ArrSt.sorted] at h ⊢; and_intros <;> (try dsimp only) <;> (repeat' split) <;> first | (simp [h]; done) | exact tabFold_rising (fun _ _ g => by first | (simp [g]; done) | (split <;> simp [g]; done)) _ _ (by simp [h])))
    | (with_reducible refine Frame.updArr (by decide) ?_ ?_; (intro _ h; simp only [ArrSt.sorted] at h ⊢; and_intros <;> first | (simp [h]; done) | exact tabFold_rising (fun _ _ g => by first | (simp [g]; done) | (split <;> simp [g]; done) | exact tabFold_rising (fun _ _ k => by simp [k]) _ _ g) _ _ (by simp [h]) | (repeat' first | exact rfl | exact h | apply tabSet_rising)))
    | with_reducible refine Frame.foldl ?_ (fun _ _ _ => ?_)
    | with_reducible apply Frame.ite
    | with_reducible apply_assumption

theorem execGoldenWriteDone_frame (s : State) :
    ∀ out, execGoldenWriteDone s = .next out → Frame [.regs, .arr, .tbl, .mem, .upd, .cas, .hif, .err] s out := by
  delta execGoldenWriteDone
  intro out h
  injection h with h
  subst h
  repeat' first
    | with_reducible apply Frame.refl
    | with_reducible assumption
    | apply Eq.refl
    | lift_lets -underBinder -merge -useContext
    | (intro x; refine Frame.cut (cs := [.regs, .arr, .tbl, .mem, .upd, .cas, .hif, .err]) (s0 := s) (x := x) ?_ (fun hx => ?_); unfold x; rotate_left; clear_value x)
    | (intro x; clear_value x)
    | intro x
    | with_reducible apply Frame.app (advance_frame _ _)
    | with_reducible apply Frame.app (goldRecord_frame _ _ _ _)
    | (with_reducible refine Frame.updArr (by decide) ?_ ?_; (intro _ h; exact h))
    | (with_reducible refine Frame.updArr (by decide) ?_ ?_; (intro _ h; simp only [ArrSt.sorted] at h ⊢; simp [h]; done))
    | (with_reducible refine Frame.updArr (by decide) ?_ ?_; (intro _ h; simp only [ArrSt.sorted] at h ⊢; and_intros <;> (try dsimp only) <;> (repeat' split) <;> first | (simp [h]; done) | exact tabFold_rising (fun _ _ g => by first | (simp [g]; done) | (split <;> simp [g]; done)) _ _ (by simp [h])))
    | (with_reducible refine Frame.updArr (by decide) ?_ ?_; (intro _ h; simp only [ArrSt.sorted] at h ⊢; and_intros <;> first | (simp [h]; done) | exact tabFold_rising (fun _ _ g => by first | (simp [g]; done) | (split <;> simp [g]; done) | exact tabFold_rising (fun _ _ k => by simp [k]) _ _ g) _ _ (by simp [h]) | (repeat' first | exact rfl | exact h | apply tabSet_rising)))
    | split

end Sys2Proof.Machine
end

