-- ==== Sys2Proof/Laws/FrameSched.lean ====
section
/-! SUPPORT. What each operation of Machine/Sched.lean changes at most, and that it keeps the invariant. -/

namespace Sys2Proof.Machine

set_option linter.all false

open Sys2Proof

theorem schedFail_frame (st : Word) (s : State) :
    Frame [.regs] s (schedFail st s) := by
  delta schedFail
  repeat' first
    | with_reducible apply Frame.refl
    | with_reducible assumption
    | apply Eq.refl
    | lift_lets -underBinder -merge -useContext
    | (intro x; refine Frame.cut (cs := [.regs]) (s0 := s) (x := x) ?_ (fun hx => ?_); unfold x; rotate_left; clear_value x)
    | with_reducible apply Frame.app (regPut_frame _ _ _)
    | with_reducible apply Frame.app (flagPut_frame _ _ _ _)

theorem fixBoundary_frame (s : State) :
    Frame [.pip] s (fixBoundary s) := by
  delta fixBoundary
  repeat' first
    | with_reducible apply Frame.refl
    | with_reducible assumption
    | apply Eq.refl
    | lift_lets -underBinder -merge -useContext
    | (intro x; refine Frame.cut (cs := [.pip]) (s0 := s) (x := x) ?_ (fun hx => ?_); unfold x; rotate_left; clear_value x)
    | (intro x; clear_value x)
    | intro x
    | (with_reducible refine Frame.updPip (by decide) ?_ ?_; (intro _ h; exact h))
    | (with_reducible refine Frame.updPip (by decide) ?_ ?_; (intro _ h; simp only [PipSt.sorted] at h ⊢; simp [h]; done))
    | (with_reducible refine Frame.updPip (by decide) ?_ ?_; (intro _ h; simp only [PipSt.sorted] at h ⊢; and_intros <;> (try dsimp only) <;> (repeat' split) <;> first | (simp [h]; done) | exact tabFold_rising (fun _ _ g => by first | (simp [g]; done) | (split <;> simp [g]; done)) _ _ (by simp [h])))
    | (with_reducible refine Frame.updPip (by decide) ?_ ?_; (intro _ h; simp only [PipSt.sorted] at h ⊢; and_intros <;> first | (simp [h]; done) | exact tabFold_rising (fun _ _ g => by first | (simp [g]; done) | (split <;> simp [g]; done) | exact tabFold_rising (fun _ _ k => by simp [k]) _ _ g) _ _ (by simp [h]) | (repeat' first | exact rfl | exact h | apply tabSet_rising)))

theorem schedValidate_frame (s : State) :
    Frame [.regs, .pip, .cas] s (schedValidate s) := by
  delta schedValidate
  repeat' first
    | with_reducible apply Frame.refl
    | with_reducible assumption
    | apply Eq.refl
    | lift_lets -underBinder -merge -useContext
    | (intro x; refine Frame.cut (cs := [.regs, .pip, .cas]) (s0 := s) (x := x) ?_ (fun hx => ?_); unfold x; rotate_left; clear_value x)
    | with_reducible apply Frame.app (startJob_frame _ _ _ _ _)
    | with_reducible apply Frame.app (schedFail_frame _ _)
    | with_reducible apply Frame.app (fixBoundary_frame _)
    | (with_reducible refine Frame.updPip (by decide) ?_ ?_; (intro _ h; exact h))
    | (with_reducible refine Frame.updPip (by decide) ?_ ?_; (intro _ h; simp only [PipSt.sorted] at h ⊢; simp [h]; done))
    | (with_reducible refine Frame.updPip (by decide) ?_ ?_; (intro _ h; simp only [PipSt.sorted] at h ⊢; and_intros <;> (try dsimp only) <;> (repeat' split) <;> first | (simp [h]; done) | exact tabFold_rising (fun _ _ g => by first | (simp [g]; done) | (split <;> simp [g]; done)) _ _ (by simp [h])))
    | (with_reducible refine Frame.updPip (by decide) ?_ ?_; (intro _ h; simp only [PipSt.sorted] at h ⊢; and_intros <;> first | (simp [h]; done) | exact tabFold_rising (fun _ _ g => by first | (simp [g]; done) | (split <;> simp [g]; done) | exact tabFold_rising (fun _ _ k => by simp [k]) _ _ g) _ _ (by simp [h]) | (repeat' first | exact rfl | exact h | apply tabSet_rising)))
    | with_reducible apply Frame.ite
    | split

theorem schedTick_frame (s : State) :
    Frame [.regs, .pip, .cas] s (schedTick s) := by
  delta schedTick
  repeat' first
    | with_reducible apply Frame.refl
    | with_reducible assumption
    | apply Eq.refl
    | lift_lets -underBinder -merge -useContext
    | (intro x; refine Frame.cut (cs := [.regs, .pip, .cas]) (s0 := s) (x := x) ?_ (fun hx => ?_); unfold x; rotate_left; clear_value x)
    | with_reducible apply Frame.app (schedValidate_frame _)
    | with_reducible apply Frame.ite

theorem schedGo_frame (s : State) :
    Frame [.regs, .pip, .cas] s (schedGo s) := by
  delta schedGo
  repeat' first
    | with_reducible apply Frame.refl
    | with_reducible assumption
    | apply Eq.refl
    | lift_lets -underBinder -merge -useContext
    | (intro x; refine Frame.cut (cs := [.regs, .pip, .cas]) (s0 := s) (x := x) ?_ (fun hx => ?_); unfold x; rotate_left; clear_value x)
    | (intro x; refine Frame.cut (cs := [.regs, .pip, .cas]) (s0 := s) (x := x.2) ?_ (fun hx => ?_); unfold x; rotate_left; clear_value x)
    | (intro x; clear_value x)
    | intro x
    | with_reducible apply Frame.app (fieldPut_frame _ _ _ _ _)
    | with_reducible apply Frame.app (jobEnd_frame _ _)
    | with_reducible apply Frame.app (schedFail_frame _ _)
    | with_reducible apply Frame.app (fixBoundary_frame _)
    | (with_reducible refine Frame.updPip (by decide) ?_ ?_; (intro _ h; exact h))
    | (with_reducible refine Frame.updPip (by decide) ?_ ?_; (intro _ h; simp only [PipSt.sorted] at h ⊢; simp [h]; done))
    | (with_reducible refine Frame.updPip (by decide) ?_ ?_; (intro _ h; simp only [PipSt.sorted] at h ⊢; and_intros <;> (try dsimp only) <;> (repeat' split) <;> first | (simp [h]; done) | exact tabFold_rising (fun _ _ g => by first | (simp [g]; done) | (split <;> simp [g]; done)) _ _ (by simp [h])))
    | (with_reducible refine Frame.updPip (by decide) ?_ ?_; (intro _ h; simp only [PipSt.sorted] at h ⊢; and_intros <;> first | (simp [h]; done) | exact tabFold_rising (fun _ _ g => by first | (simp [g]; done) | (split <;> simp [g]; done) | exact tabFold_rising (fun _ _ k => by simp [k]) _ _ g) _ _ (by simp [h]) | (repeat' first | exact rfl | exact h | apply tabSet_rising)))
    | with_reducible apply Frame.ite
    | split
    | with_reducible refine Frame.app (Frame.ofPair (jobEnd_frame _ _) (by assumption)) ?_ ?_

theorem wrSched_frame (src : Party) (off : Nat) (v : Word) (s : State) :
    Frame [.regs, .pip, .prt, .err] s (wrSched src off v s) := by
  delta wrSched
  repeat' first
    | with_reducible apply Frame.refl
    | with_reducible assumption
    | apply Eq.refl
    | lift_lets -underBinder -merge -useContext
    | (intro x; refine Frame.cut (cs := [.regs, .pip, .prt, .err]) (s0 := s) (x := x) ?_ (fun hx => ?_); unfold x; rotate_left; clear_value x)
    | with_reducible apply Frame.app (refuseReg_frame _ _ _ _ _)
    | (with_reducible refine Frame.updPip (by decide) ?_ ?_; (intro _ h; exact h))
    | (with_reducible refine Frame.updPip (by decide) ?_ ?_; (intro _ h; simp only [PipSt.sorted] at h ⊢; simp [h]; done))
    | (with_reducible refine Frame.updPip (by decide) ?_ ?_; (intro _ h; simp only [PipSt.sorted] at h ⊢; and_intros <;> (try dsimp only) <;> (repeat' split) <;> first | (simp [h]; done) | exact tabFold_rising (fun _ _ g => by first | (simp [g]; done) | (split <;> simp [g]; done)) _ _ (by simp [h])))
    | (with_reducible refine Frame.updPip (by decide) ?_ ?_; (intro _ h; simp only [PipSt.sorted] at h ⊢; and_intros <;> first | (simp [h]; done) | exact tabFold_rising (fun _ _ g => by first | (simp [g]; done) | (split <;> simp [g]; done) | exact tabFold_rising (fun _ _ k => by simp [k]) _ _ g) _ _ (by simp [h]) | (repeat' first | exact rfl | exact h | apply tabSet_rising)))
    | with_reducible apply Frame.ite
    | split

theorem showLat_frame (s : State) :
    Frame [.regs] s (showLat s) := by
  delta showLat
  repeat' first
    | with_reducible apply Frame.refl
    | with_reducible assumption
    | apply Eq.refl
    | lift_lets -underBinder -merge -useContext
    | (intro x; refine Frame.cut (cs := [.regs]) (s0 := s) (x := x) ?_ (fun hx => ?_); unfold x; rotate_left; clear_value x)
    | with_reducible apply Frame.app (regPut_frame _ _ _)
    | with_reducible refine Frame.foldl ?_ (fun _ _ _ => ?_)
    | with_reducible apply_assumption

theorem Inv.shadow {s : State} (i : Inv s) : tabRising s.pip.schedShadow = true := by
  have := i.pipTabs
  simp only [PipSt.sorted] at this
  exact this.2.2.2.2.2.1

theorem setSchedule_frame (t : Tab Word) (s : State) (ht : Inv s → tabRising t = true) :
    Frame [.regs, .pip] s (setSchedule t s) := by
  delta setSchedule
  refine Frame.app (showLat_frame _) (by decide) ⟨fun c hc => ?_, fun i => ?_⟩
  · cases c <;> first | exact rfl | exact absurd (by decide) hc
  · refine (Frame.updPip (cs := [.pip]) (f := fun x => { x with schedActive := t, schedShadow := t, switchAt := none }) (by decide) ?_
      (Frame.refl _ s)).inv i
    intro a h
    have ht := ht i
    simp only [PipSt.sorted] at h ⊢
    simp [h, ht]

theorem switchSched_frame (b : Nat) (s : State) :
    Frame [.regs, .pip, .fwu] s (switchSched b s) := by
  delta switchSched
  repeat' first
    | with_reducible apply Frame.refl
    | with_reducible assumption
    | apply Eq.refl
    | lift_lets -underBinder -merge -useContext
    | (intro x; refine Frame.cut (cs := [.regs, .pip, .fwu]) (s0 := s) (x := x) ?_ (fun hx => ?_); unfold x; rotate_left; clear_value x)
    | (intro x; clear_value x)
    | intro x
    | with_reducible apply Frame.app (markDirty_frame _)
    | with_reducible apply Frame.app (schedFail_frame _ _)
    | (with_reducible refine Frame.updPip (by decide) ?_ ?_; (intro _ h; exact h))
    | (with_reducible refine Frame.updPip (by decide) ?_ ?_; (intro _ h; simp only [PipSt.sorted] at h ⊢; simp [h]; done))
    | (with_reducible refine Frame.updPip (by decide) ?_ ?_; (intro _ h; simp only [PipSt.sorted] at h ⊢; and_intros <;> (try dsimp only) <;> (repeat' split) <;> first | (simp [h]; done) | exact tabFold_rising (fun _ _ g => by first | (simp [g]; done) | (split <;> simp [g]; done)) _ _ (by simp [h])))
    | (with_reducible refine Frame.updPip (by decide) ?_ ?_; (intro _ h; simp only [PipSt.sorted] at h ⊢; and_intros <;> first | (simp [h]; done) | exact tabFold_rising (fun _ _ g => by first | (simp [g]; done) | (split <;> simp [g]; done) | exact tabFold_rising (fun _ _ k => by simp [k]) _ _ g) _ _ (by simp [h]) | (repeat' first | exact rfl | exact h | apply tabSet_rising)))
    | with_reducible refine Frame.app (setSchedule_frame _ _ (fun i => by first | exact i.shadow | exact tabFold_rising (fun _ _ g => by simp [g]) _ _ rfl | decide)) ?_ ?_

theorem execSchedSwitchBoundary_frame (elsewhere : Bool) (s : State) :
    ∀ out, execSchedSwitchBoundary elsewhere s = .next out → Frame [.regs, .pip, .cas, .fwu] s out := by
  delta execSchedSwitchBoundary
  intro out h
  injection h with h
  subst h
  repeat' first
    | with_reducible apply Frame.refl
    | with_reducible assumption
    | apply Eq.refl
    | lift_lets -underBinder -merge -useContext
    | (intro x; refine Frame.cut (cs := [.regs, .pip, .cas, .fwu]) (s0 := s) (x := x) ?_ (fun hx => ?_); unfold x; rotate_left; clear_value x)
    | (intro x; clear_value x)
    | intro x
    | with_reducible apply Frame.app (schedFail_frame _ _)
    | with_reducible apply Frame.app (schedGo_frame _)
    | with_reducible apply Frame.app (switchSched_frame _ _)
    | (with_reducible refine Frame.updPip (by decide) ?_ ?_; (intro _ h; exact h))
    | (with_reducible refine Frame.updPip (by decide) ?_ ?_; (intro _ h; simp only [PipSt.sorted] at h ⊢; simp [h]; done))
    | (with_reducible refine Frame.updPip (by decide) ?_ ?_; (intro _ h; simp only [PipSt.sorted] at h ⊢; and_intros <;> (try dsimp only) <;> (repeat' split) <;> first | (simp [h]; done) | exact tabFold_rising (fun _ _ g => by first | (simp [g]; done) | (split <;> simp [g]; done)) _ _ (by simp [h])))
    | (with_reducible refine Frame.updPip (by decide) ?_ ?_; (intro _ h; simp only [PipSt.sorted] at h ⊢; and_intros <;> first | (simp [h]; done) | exact tabFold_rising (fun _ _ g => by first | (simp [g]; done) | (split <;> simp [g]; done) | exact tabFold_rising (fun _ _ k => by simp [k]) _ _ g) _ _ (by simp [h]) | (repeat' first | exact rfl | exact h | apply tabSet_rising)))
    | with_reducible apply Frame.ite
    | split

theorem putStaging_frame (p : Profile) (s : State) :
    Frame [.regs] s (putStaging p s) := by
  delta putStaging
  repeat' first
    | with_reducible apply Frame.refl
    | with_reducible assumption
    | apply Eq.refl
    | lift_lets -underBinder -merge -useContext
    | (intro x; refine Frame.cut (cs := [.regs]) (s0 := s) (x := x) ?_ (fun hx => ?_); unfold x; rotate_left; clear_value x)
    | (intro x; clear_value x)
    | intro x
    | with_reducible apply Frame.app (regPut_frame _ _ _)
    | with_reducible refine Frame.foldl ?_ (fun _ _ _ => ?_)
    | with_reducible apply_assumption

theorem sendPrf_frame (o : PrfOp) (s : State) :
    Frame [.tbl, .cas] s (sendPrf o s) := by
  delta sendPrf
  repeat' first
    | with_reducible apply Frame.refl
    | with_reducible assumption
    | apply Eq.refl
    | lift_lets -underBinder -merge -useContext
    | (intro x; refine Frame.cut (cs := [.tbl, .cas]) (s0 := s) (x := x) ?_ (fun hx => ?_); unfold x; rotate_left; clear_value x)
    | (intro x; clear_value x)
    | intro x
    | with_reducible apply Frame.app (startJob_frame _ _ _ _ _)
    | (with_reducible refine Frame.updTbl (by decide) ?_ ?_; (intro _ h; exact h))
    | (with_reducible refine Frame.updTbl (by decide) ?_ ?_; (intro _ h; simp only [TblSt.sorted] at h ⊢; simp [h]; done))
    | (with_reducible refine Frame.updTbl (by decide) ?_ ?_; (intro _ h; simp only [TblSt.sorted] at h ⊢; and_intros <;> (try dsimp only) <;> (repeat' split) <;> first | (simp [h]; done) | exact tabFold_rising (fun _ _ g => by first | (simp [g]; done) | (split <;> simp [g]; done)) _ _ (by simp [h])))
    | (with_reducible refine Frame.updTbl (by decide) ?_ ?_; (intro _ h; simp only [TblSt.sorted] at h ⊢; and_intros <;> first | (simp [h]; done) | exact tabFold_rising (fun _ _ g => by first | (simp [g]; done) | (split <;> simp [g]; done) | exact tabFold_rising (fun _ _ k => by simp [k]) _ _ g) _ _ (by simp [h]) | (repeat' first | exact rfl | exact h | apply tabSet_rising)))
    | with_reducible apply Frame.ite

theorem undestroy_frame (t : Nat) (s : State) :
    Frame [.tbl] s (undestroy t s) := by
  delta undestroy
  repeat' first
    | with_reducible apply Frame.refl
    | with_reducible assumption
    | apply Eq.refl
    | lift_lets -underBinder -merge -useContext
    | (intro x; refine Frame.cut (cs := [.tbl]) (s0 := s) (x := x) ?_ (fun hx => ?_); unfold x; rotate_left; clear_value x)
    | (with_reducible refine Frame.updTbl (by decide) ?_ ?_; (intro _ h; exact h))
    | (with_reducible refine Frame.updTbl (by decide) ?_ ?_; (intro _ h; simp only [TblSt.sorted] at h ⊢; simp [h]; done))
    | (with_reducible refine Frame.updTbl (by decide) ?_ ?_; (intro _ h; simp only [TblSt.sorted] at h ⊢; and_intros <;> (try dsimp only) <;> (repeat' split) <;> first | (simp [h]; done) | exact tabFold_rising (fun _ _ g => by first | (simp [g]; done) | (split <;> simp [g]; done)) _ _ (by simp [h])))
    | (with_reducible refine Frame.updTbl (by decide) ?_ ?_; (intro _ h; simp only [TblSt.sorted] at h ⊢; and_intros <;> first | (simp [h]; done) | exact tabFold_rising (fun _ _ g => by first | (simp [g]; done) | (split <;> simp [g]; done) | exact tabFold_rising (fun _ _ k => by simp [k]) _ _ g) _ _ (by simp [h]) | (repeat' first | exact rfl | exact h | apply tabSet_rising)))
    | split

theorem installFirst_frame (p : Profile) (s : State) :
    Frame [.tbl, .upd] s (installFirst p s) := by
  delta installFirst
  repeat' first
    | with_reducible apply Frame.refl
    | with_reducible assumption
    | apply Eq.refl
    | lift_lets -underBinder -merge -useContext
    | (intro x; refine Frame.cut (cs := [.tbl, .upd]) (s0 := s) (x := x) ?_ (fun hx => ?_); unfold x; rotate_left; clear_value x)
    | (intro x; clear_value x)
    | intro x
    | with_reducible apply Frame.app (finish_frame _ _ _ _ _ _)
    | with_reducible apply Frame.app (undestroy_frame _ _)
    | with_reducible refine Frame.foldl ?_ (fun _ _ _ => ?_)
    | with_reducible apply Frame.ite
    | with_reducible apply_assumption

theorem startPrf_frame (op n : Nat) (s : State) :
    Frame [.regs, .tbl, .upd, .cas] s (startPrf op n s) := by
  delta startPrf
  repeat' first
    | with_reducible apply Frame.refl
    | with_reducible assumption
    | apply Eq.refl
    | lift_lets -underBinder -merge -useContext
    | (intro x; refine Frame.cut (cs := [.regs, .tbl, .upd, .cas]) (s0 := s) (x := x) ?_ (fun hx => ?_); unfold x; rotate_left; clear_value x)
    | (intro x; clear_value x)
    | intro x
    | with_reducible apply Frame.app (regPut_frame _ _ _)
    | with_reducible apply Frame.app (flagPut_frame _ _ _ _)
    | with_reducible apply Frame.app (sendPrf_frame _ _)
    | with_reducible apply Frame.app (installFirst_frame _ _)
    | (with_reducible refine Frame.updTbl (by decide) ?_ ?_; (intro _ h; exact h))
    | (with_reducible refine Frame.updTbl (by decide) ?_ ?_; (intro _ h; simp only [TblSt.sorted] at h ⊢; simp [h]; done))
    | (with_reducible refine Frame.updTbl (by decide) ?_ ?_; (intro _ h; simp only [TblSt.sorted] at h ⊢; and_intros <;> (try dsimp only) <;> (repeat' split) <;> first | (simp [h]; done) | exact tabFold_rising (fun _ _ g => by first | (simp [g]; done) | (split <;> simp [g]; done)) _ _ (by simp [h])))
    | (with_reducible refine Frame.updTbl (by decide) ?_ ?_; (intro _ h; simp only [TblSt.sorted] at h ⊢; and_intros <;> first | (simp [h]; done) | exact tabFold_rising (fun _ _ g => by first | (simp [g]; done) | (split <;> simp [g]; done) | exact tabFold_rising (fun _ _ k => by simp [k]) _ _ g) _ _ (by simp [h]) | (repeat' first | exact rfl | exact h | apply tabSet_rising)))
    | with_reducible apply Frame.ite

theorem wrPrfCtl_frame (src : Party) (v : Word) (s : State) :
    Frame [.regs, .tbl, .upd, .cas, .prt, .err] s (wrPrfCtl src v s) := by
  delta wrPrfCtl
  repeat' first
    | with_reducible apply Frame.refl
    | with_reducible assumption
    | apply Eq.refl
    | lift_lets -underBinder -merge -useContext
    | (intro x; refine Frame.cut (cs := [.regs, .tbl, .upd, .cas, .prt, .err]) (s0 := s) (x := x) ?_ (fun hx => ?_); unfold x; rotate_left; clear_value x)
    | with_reducible apply Frame.app (refuseReg_frame _ _ _ _ _)
    | with_reducible apply Frame.app (startPrf_frame _ _ _)
    | with_reducible apply Frame.ite

theorem wrPrfStage_frame (src : Party) (off : Nat) (v : Word) (s : State) :
    Frame [.regs, .prt, .err] s (wrPrfStage src off v s) := by
  delta wrPrfStage
  repeat' first
    | with_reducible apply Frame.refl
    | with_reducible assumption
    | apply Eq.refl
    | lift_lets -underBinder -merge -useContext
    | (intro x; refine Frame.cut (cs := [.regs, .prt, .err]) (s0 := s) (x := x) ?_ (fun hx => ?_); unfold x; rotate_left; clear_value x)
    | with_reducible apply Frame.app (plainWrite_frame _ _ _)
    | with_reducible apply Frame.app (refuseReg_frame _ _ _ _ _)
    | with_reducible apply Frame.ite

theorem setProfile_frame (n : Nat) (p : Option Profile) (s : State) :
    Frame [.tbl] s (setProfile n p s) := by
  delta setProfile
  repeat' first
    | with_reducible apply Frame.refl
    | with_reducible assumption
    | apply Eq.refl
    | lift_lets -underBinder -merge -useContext
    | (intro x; refine Frame.cut (cs := [.tbl]) (s0 := s) (x := x) ?_ (fun hx => ?_); unfold x; rotate_left; clear_value x)
    | (with_reducible refine Frame.updTbl (by decide) ?_ ?_; (intro _ h; exact h))
    | (with_reducible refine Frame.updTbl (by decide) ?_ ?_; (intro _ h; simp only [TblSt.sorted] at h ⊢; simp [h]; done))
    | (with_reducible refine Frame.updTbl (by decide) ?_ ?_; (intro _ h; simp only [TblSt.sorted] at h ⊢; and_intros <;> (try dsimp only) <;> (repeat' split) <;> first | (simp [h]; done) | exact tabFold_rising (fun _ _ g => by first | (simp [g]; done) | (split <;> simp [g]; done)) _ _ (by simp [h])))
    | (with_reducible refine Frame.updTbl (by decide) ?_ ?_; (intro _ h; simp only [TblSt.sorted] at h ⊢; and_intros <;> first | (simp [h]; done) | exact tabFold_rising (fun _ _ g => by first | (simp [g]; done) | (split <;> simp [g]; done) | exact tabFold_rising (fun _ _ k => by simp [k]) _ _ g) _ _ (by simp [h]) | (repeat' first | exact rfl | exact h | apply tabSet_rising)))
    | split

theorem endPrf_frame (o : PrfOp) (elsewhere : Bool) (s : State) :
    Frame [.regs, .tbl, .cas] s (endPrf o elsewhere s) := by
  delta endPrf
  repeat' first
    | with_reducible apply Frame.refl
    | with_reducible assumption
    | apply Eq.refl
    | lift_lets -underBinder -merge -useContext
    | (intro x; refine Frame.cut (cs := [.regs, .tbl, .cas]) (s0 := s) (x := x) ?_ (fun hx => ?_); unfold x; rotate_left; clear_value x)
    | (intro x; refine Frame.cut (cs := [.regs, .tbl, .cas]) (s0 := s) (x := x.2) ?_ (fun hx => ?_); unfold x; rotate_left; clear_value x)
    | (intro x; clear_value x)
    | intro x
    | with_reducible apply Frame.app (regPut_frame _ _ _)
    | with_reducible apply Frame.app (fieldPut_frame _ _ _ _ _)
    | with_reducible apply Frame.app (jobEnd_frame _ _)
    | with_reducible apply Frame.app (putStaging_frame _ _)
    | with_reducible apply Frame.app (setProfile_frame _ _ _)
    | (with_reducible refine Frame.updTbl (by decide) ?_ ?_; (intro _ h; exact h))
    | (with_reducible refine Frame.updTbl (by decide) ?_ ?_; (intro _ h; simp only [TblSt.sorted] at h ⊢; simp [h]; done))
    | (with_reducible refine Frame.updTbl (by decide) ?_ ?_; (intro _ h; simp only [TblSt.sorted] at h ⊢; and_intros <;> (try dsimp only) <;> (repeat' split) <;> first | (simp [h]; done) | exact tabFold_rising (fun _ _ g => by first | (simp [g]; done) | (split <;> simp [g]; done)) _ _ (by simp [h])))
    | (with_reducible refine Frame.updTbl (by decide) ?_ ?_; (intro _ h; simp only [TblSt.sorted] at h ⊢; and_intros <;> first | (simp [h]; done) | exact tabFold_rising (fun _ _ g => by first | (simp [g]; done) | (split <;> simp [g]; done) | exact tabFold_rising (fun _ _ k => by simp [k]) _ _ g) _ _ (by simp [h]) | (repeat' first | exact rfl | exact h | apply tabSet_rising)))
    | with_reducible apply Frame.ite
    | split
    | with_reducible refine Frame.app (Frame.ofPair (jobEnd_frame _ _) (by assumption)) ?_ ?_

theorem execProfileSwitch_frame (elsewhere : Bool) (s : State) :
    ∀ out, execProfileSwitch elsewhere s = .next out → Frame [.regs, .tbl, .cas] s out := by
  delta execProfileSwitch
  intro out h
  injection h with h
  subst h
  repeat' first
    | with_reducible apply Frame.refl
    | with_reducible assumption
    | apply Eq.refl
    | lift_lets -underBinder -merge -useContext
    | (intro x; refine Frame.cut (cs := [.regs, .tbl, .cas]) (s0 := s) (x := x) ?_ (fun hx => ?_); unfold x; rotate_left; clear_value x)
    | with_reducible apply Frame.app (sendPrf_frame _ _)
    | with_reducible apply Frame.app (endPrf_frame _ _ _)
    | with_reducible apply Frame.ite
    | split

theorem wrSchedCtl_frame (src : Party) (v : Word) (s : State) :
    Frame [.regs, .tbl, .pip, .cas, .prt, .err] s (wrSchedCtl src v s) := by
  delta wrSchedCtl
  repeat' first
    | with_reducible apply Frame.refl
    | with_reducible assumption
    | apply Eq.refl
    | lift_lets -underBinder -merge -useContext
    | (intro x; refine Frame.cut (cs := [.regs, .tbl, .pip, .cas, .prt, .err]) (s0 := s) (x := x) ?_ (fun hx => ?_); unfold x; rotate_left; clear_value x)
    | (intro x; clear_value x)
    | intro x
    | with_reducible apply Frame.app (fieldPut_frame _ _ _ _ _)
    | with_reducible apply Frame.app (flagPut_frame _ _ _ _)
    | with_reducible apply Frame.app (refuseReg_frame _ _ _ _ _)
    | with_reducible apply Frame.app (schedValidate_frame _)
    | with_reducible apply Frame.app (endPrf_frame _ _ _)
    | with_reducible apply Frame.ite
    | split

theorem wrTblSel_frame (src : Party) (v : Word) (s : State) :
    Frame [.regs, .mwin] s (wrTblSel src v s) := by
  delta wrTblSel
  repeat' first
    | with_reducible apply Frame.refl
    | with_reducible assumption
    | apply Eq.refl
    | lift_lets -underBinder -merge -useContext
    | (intro x; refine Frame.cut (cs := [.regs, .mwin]) (s0 := s) (x := x) ?_ (fun hx => ?_); unfold x; rotate_left; clear_value x)
    | (intro x; clear_value x)
    | intro x
    | with_reducible apply Frame.app (winPut_frame _ _ _ _)
    | with_reducible refine Frame.foldl ?_ (fun _ _ _ => ?_)
    | with_reducible apply_assumption

theorem wrMapSel_frame (src : Party) (v : Word) (s : State) :
    Frame [.regs, .mwin] s (wrMapSel src v s) := by
  delta wrMapSel
  repeat' first
    | with_reducible apply Frame.refl
    | with_reducible assumption
    | apply Eq.refl
    | lift_lets -underBinder -merge -useContext
    | (intro x; refine Frame.cut (cs := [.regs, .mwin]) (s0 := s) (x := x) ?_ (fun hx => ?_); unfold x; rotate_left; clear_value x)
    | (intro x; clear_value x)
    | intro x
    | with_reducible apply Frame.app (winPut_frame _ _ _ _)
    | with_reducible refine Frame.foldl ?_ (fun _ _ _ => ?_)
    | with_reducible apply Frame.ite
    | with_reducible apply_assumption

end Sys2Proof.Machine
end

