-- ==== Sys2Proof/Laws/FrameCommands.lean ====
section
/-! SUPPORT. What each operation of Machine/Commands.lean changes at most, and that it keeps the invariant. -/

namespace Sys2Proof.Machine

set_option linter.all false

open Sys2Proof

theorem yieldSlack_frame (s : State) :
    Frame [.upd] s (yieldSlack s) := by
  delta yieldSlack
  repeat' first
    | with_reducible apply Frame.refl
    | with_reducible assumption
    | apply Eq.refl
    | lift_lets -underBinder -merge -useContext
    | (intro x; refine Frame.cut (cs := [.upd]) (s0 := s) (x := x) ?_ (fun hx => ?_); unfold x; rotate_left; clear_value x)
    | (with_reducible refine Frame.updUpd (by decide) ?_ ?_; (intro _ h; exact h))
    | (with_reducible refine Frame.updUpd (by decide) ?_ ?_; (intro _ h; simp only [UpdSt.sorted] at h ⊢; simp [h]; done))
    | (with_reducible refine Frame.updUpd (by decide) ?_ ?_; (intro _ h; simp only [UpdSt.sorted] at h ⊢; and_intros <;> (try dsimp only) <;> (repeat' split) <;> first | (simp [h]; done) | exact tabFold_rising (fun _ _ g => by first | (simp [g]; done) | (split <;> simp [g]; done)) _ _ (by simp [h])))
    | (with_reducible refine Frame.updUpd (by decide) ?_ ?_; (intro _ h; simp only [UpdSt.sorted] at h ⊢; and_intros <;> first | (simp [h]; done) | exact tabFold_rising (fun _ _ g => by first | (simp [g]; done) | (split <;> simp [g]; done) | exact tabFold_rising (fun _ _ k => by simp [k]) _ _ g) _ _ (by simp [h]) | (repeat' first | exact rfl | exact h | apply tabSet_rising)))
    | split

theorem withTable_frame {cs : List Comp} {s0 s : State} {n : Nat} {ops : List Nat} {f : Cmd → TableDesc → State → State}
    (hc : [Comp.regs, .tbl, .upd, .cas, .hif].all cs.contains = true)
    (hf : ∀ c d t, Frame cs s0 t → Frame cs s0 (f c d t)) (h : Frame cs s0 s) : Frame cs s0 (withTable n ops f s) := by
  unfold withTable
  split
  · exact h
  · split
    · exact h
    · exact Frame.ite (Frame.app (complete_frame _ _ _ _ _ _) hc h) (hf _ _ _ h)

theorem runUpdate_frame {cs : List Comp} {s0 s : State} {n op : Nat} {f : Cmd → TableDesc → State → State}
    (hc : [Comp.regs, .tbl, .upd, .cas, .hif].all cs.contains = true)
    (hf : ∀ c d t, Frame cs s0 t → Frame cs s0 (f c d t)) (h : Frame cs s0 s) : Frame cs s0 (runUpdate n op f s) := by
  refine withTable_frame hc (fun c d t g => ?_) h
  have hu : [Comp.upd].all cs.contains = true := by
    simp only [List.all_cons, List.all_nil, Bool.and_true, Bool.and_eq_true] at hc ⊢
    exact hc.2.2.1
  have hy := Frame.app (yieldSlack_frame t) hu g
  exact Frame.ite (Frame.app (complete_frame _ _ _ _ _ _) hc hy) (Frame.ite hy (hf _ _ _ hy))

theorem beginPlan_frame (c : Cmd) (steps : List PStep) (idx moves : Nat) (s : State) :
    Frame [.regs, .arr, .tbl, .mem, .upd, .cas, .hif, .err] s (beginPlan c steps idx moves s) := by
  delta beginPlan
  repeat' first
    | with_reducible apply Frame.refl
    | with_reducible assumption
    | apply Eq.refl
    | lift_lets -underBinder -merge -useContext
    | (intro x; refine Frame.cut (cs := [.regs, .arr, .tbl, .mem, .upd, .cas, .hif, .err]) (s0 := s) (x := x) ?_ (fun hx => ?_); unfold x; rotate_left; clear_value x)
    | with_reducible apply Frame.app (updCmd_frame _ _ _)
    | with_reducible apply Frame.app (startPlan_frame _ _)

theorem placeNew_frame (c : Cmd) (d : TableDesc) (e : Entry) (old : Option (Nat × Entry)) (s : State) :
    Frame [.regs, .arr, .tbl, .mem, .upd, .cas, .hif, .err] s (placeNew c d e old s) := by
  delta placeNew
  repeat' first
    | with_reducible apply Frame.refl
    | with_reducible assumption
    | apply Eq.refl
    | lift_lets -underBinder -merge -useContext
    | (intro x; refine Frame.cut (cs := [.regs, .arr, .tbl, .mem, .upd, .cas, .hif, .err]) (s0 := s) (x := x) ?_ (fun hx => ?_); unfold x; rotate_left; clear_value x)
    | (intro x; clear_value x)
    | intro x
    | with_reducible apply Frame.app (complete_frame _ _ _ _ _ _)
    | with_reducible apply Frame.app (beginPlan_frame _ _ _ _ _)
    | with_reducible apply Frame.ite
    | split

theorem runInsert_frame (c : Cmd) (d : TableDesc) (s : State) :
    Frame [.regs, .arr, .tbl, .mem, .upd, .cas, .hif, .err] s (runInsert c d s) := by
  delta runInsert
  repeat' first
    | with_reducible apply Frame.refl
    | with_reducible assumption
    | apply Eq.refl
    | lift_lets -underBinder -merge -useContext
    | (intro x; refine Frame.cut (cs := [.regs, .arr, .tbl, .mem, .upd, .cas, .hif, .err]) (s0 := s) (x := x) ?_ (fun hx => ?_); unfold x; rotate_left; clear_value x)
    | (intro x; clear_value x)
    | intro x
    | with_reducible apply Frame.app (complete_frame _ _ _ _ _ _)
    | with_reducible apply Frame.app (placeNew_frame _ _ _ _ _)
    | split

theorem execInsert_frame (n : Nat) (s : State) :
    ∀ out, execInsert n s = .next out → Frame [.regs, .arr, .tbl, .mem, .upd, .cas, .hif, .err] s out := by
  delta execInsert
  intro out h
  injection h with h
  subst h
  repeat' first
    | with_reducible apply Frame.refl
    | with_reducible assumption
    | apply Eq.refl
    | lift_lets -underBinder -merge -useContext
    | (intro x; refine Frame.cut (cs := [.regs, .arr, .tbl, .mem, .upd, .cas, .hif, .err]) (s0 := s) (x := x) ?_ (fun hx => ?_); unfold x; rotate_left; clear_value x)
    | with_reducible refine runUpdate_frame (by decide) (fun _ _ _ _ => ?_) ?_
    | with_reducible apply Frame.app (runInsert_frame _ _ _)

theorem withLive_frame {cs : List Comp} {s0 s : State} {c : Cmd} {d : TableDesc} {f : Nat → Entry → State → State}
    (hc : [Comp.regs, .tbl, .upd, .cas, .hif].all cs.contains = true)
    (hf : ∀ i e t, Frame cs s0 t → Frame cs s0 (f i e t)) (h : Frame cs s0 s) : Frame cs s0 (withLive c d f s) := by
  have hcomp : ∀ n a b c d t, Frame cs s0 t → Frame cs s0 (complete n a b c d t) := fun _ _ _ _ _ _ g => Frame.app (complete_frame _ _ _ _ _ _) hc g
  delta withLive
  repeat' first
    | with_reducible assumption
    | with_reducible apply hcomp
    | with_reducible apply hf
    | lift_lets -underBinder -merge -useContext
    | (intro x; clear_value x)
    | with_reducible apply Frame.ite
    | split

theorem runDelete_frame (c : Cmd) (d : TableDesc) (s : State) :
    Frame [.regs, .arr, .tbl, .mem, .upd, .cas, .hif, .err] s (runDelete c d s) := by
  delta runDelete
  repeat' first
    | with_reducible apply Frame.refl
    | with_reducible assumption
    | apply Eq.refl
    | lift_lets -underBinder -merge -useContext
    | (intro x; refine Frame.cut (cs := [.regs, .arr, .tbl, .mem, .upd, .cas, .hif, .err]) (s0 := s) (x := x) ?_ (fun hx => ?_); unfold x; rotate_left; clear_value x)
    | (intro x; clear_value x)
    | intro x
    | with_reducible apply Frame.app (beginPlan_frame _ _ _ _ _)
    | with_reducible refine withLive_frame (by decide) (fun _ _ _ _ => ?_) ?_
    | with_reducible apply Frame.ite

theorem execDelete_frame (n : Nat) (s : State) :
    ∀ out, execDelete n s = .next out → Frame [.regs, .arr, .tbl, .mem, .upd, .cas, .hif, .err] s out := by
  delta execDelete
  intro out h
  injection h with h
  subst h
  repeat' first
    | with_reducible apply Frame.refl
    | with_reducible assumption
    | apply Eq.refl
    | lift_lets -underBinder -merge -useContext
    | (intro x; refine Frame.cut (cs := [.regs, .arr, .tbl, .mem, .upd, .cas, .hif, .err]) (s0 := s) (x := x) ?_ (fun hx => ?_); unfold x; rotate_left; clear_value x)
    | with_reducible refine runUpdate_frame (by decide) (fun _ _ _ _ => ?_) ?_
    | with_reducible apply Frame.app (runDelete_frame _ _ _)

theorem runModifyData_frame (c : Cmd) (d : TableDesc) (s : State) :
    Frame [.regs, .arr, .tbl, .mem, .upd, .cas, .hif, .err] s (runModifyData c d s) := by
  delta runModifyData
  repeat' first
    | with_reducible apply Frame.refl
    | with_reducible assumption
    | apply Eq.refl
    | lift_lets -underBinder -merge -useContext
    | (intro x; refine Frame.cut (cs := [.regs, .arr, .tbl, .mem, .upd, .cas, .hif, .err]) (s0 := s) (x := x) ?_ (fun hx => ?_); unfold x; rotate_left; clear_value x)
    | with_reducible apply Frame.app (beginPlan_frame _ _ _ _ _)
    | with_reducible apply Frame.app (placeNew_frame _ _ _ _ _)
    | with_reducible refine withLive_frame (by decide) (fun _ _ _ _ => ?_) ?_
    | with_reducible apply Frame.ite

theorem execModifyData_frame (n : Nat) (s : State) :
    ∀ out, execModifyData n s = .next out → Frame [.regs, .arr, .tbl, .mem, .upd, .cas, .hif, .err] s out := by
  delta execModifyData
  intro out h
  injection h with h
  subst h
  repeat' first
    | with_reducible apply Frame.refl
    | with_reducible assumption
    | apply Eq.refl
    | lift_lets -underBinder -merge -useContext
    | (intro x; refine Frame.cut (cs := [.regs, .arr, .tbl, .mem, .upd, .cas, .hif, .err]) (s0 := s) (x := x) ?_ (fun hx => ?_); unfold x; rotate_left; clear_value x)
    | with_reducible refine runUpdate_frame (by decide) (fun _ _ _ _ => ?_) ?_
    | with_reducible apply Frame.app (runModifyData_frame _ _ _)

theorem moveOut_frame (c : Cmd) (d : TableDesc) (i : Nat) (e : Entry) (s : State) :
    Frame [.regs, .arr, .tbl, .mem, .upd, .cas, .hif, .err] s (moveOut c d i e s) := by
  delta moveOut
  repeat' first
    | with_reducible apply Frame.refl
    | with_reducible assumption
    | apply Eq.refl
    | lift_lets -underBinder -merge -useContext
    | (intro x; refine Frame.cut (cs := [.regs, .arr, .tbl, .mem, .upd, .cas, .hif, .err]) (s0 := s) (x := x) ?_ (fun hx => ?_); unfold x; rotate_left; clear_value x)
    | (intro x; clear_value x)
    | intro x
    | with_reducible apply Frame.app (complete_frame _ _ _ _ _ _)
    | with_reducible apply Frame.app (beginPlan_frame _ _ _ _ _)
    | with_reducible apply Frame.ite
    | split

theorem runModifyRank_frame (c : Cmd) (d : TableDesc) (s : State) :
    Frame [.regs, .arr, .tbl, .mem, .upd, .cas, .hif, .err] s (runModifyRank c d s) := by
  delta runModifyRank
  repeat' first
    | with_reducible apply Frame.refl
    | with_reducible assumption
    | apply Eq.refl
    | lift_lets -underBinder -merge -useContext
    | (intro x; refine Frame.cut (cs := [.regs, .arr, .tbl, .mem, .upd, .cas, .hif, .err]) (s0 := s) (x := x) ?_ (fun hx => ?_); unfold x; rotate_left; clear_value x)
    | (intro x; clear_value x)
    | intro x
    | with_reducible apply Frame.app (beginPlan_frame _ _ _ _ _)
    | with_reducible apply Frame.app (placeNew_frame _ _ _ _ _)
    | with_reducible refine withLive_frame (by decide) (fun _ _ _ _ => ?_) ?_
    | with_reducible apply Frame.app (moveOut_frame _ _ _ _ _)
    | with_reducible apply Frame.ite
    | split

theorem execModifyRank_frame (n : Nat) (s : State) :
    ∀ out, execModifyRank n s = .next out → Frame [.regs, .arr, .tbl, .mem, .upd, .cas, .hif, .err] s out := by
  delta execModifyRank
  intro out h
  injection h with h
  subst h
  repeat' first
    | with_reducible apply Frame.refl
    | with_reducible assumption
    | apply Eq.refl
    | lift_lets -underBinder -merge -useContext
    | (intro x; refine Frame.cut (cs := [.regs, .arr, .tbl, .mem, .upd, .cas, .hif, .err]) (s0 := s) (x := x) ?_ (fun hx => ?_); unfold x; rotate_left; clear_value x)
    | with_reducible refine runUpdate_frame (by decide) (fun _ _ _ _ => ?_) ?_
    | with_reducible apply Frame.app (runModifyRank_frame _ _ _)

theorem answerRead_frame (c : Cmd) (d : TableDesc) (idx : Nat) (e : Entry) (s : State) :
    Frame [.regs, .tbl, .upd, .cas, .hif] s (answerRead c d idx e s) := by
  delta answerRead
  repeat' first
    | with_reducible apply Frame.refl
    | with_reducible assumption
    | apply Eq.refl
    | lift_lets -underBinder -merge -useContext
    | (intro x; refine Frame.cut (cs := [.regs, .tbl, .upd, .cas, .hif]) (s0 := s) (x := x) ?_ (fun hx => ?_); unfold x; rotate_left; clear_value x)
    | with_reducible apply Frame.app (hostWrite_frame _ _ _ _)
    | with_reducible apply Frame.app (complete_frame _ _ _ _ _ _)

theorem execRead_frame (n : Nat) (s : State) :
    ∀ out, execRead n s = .next out → Frame [.regs, .tbl, .upd, .cas, .hif] s out := by
  delta execRead
  intro out h
  injection h with h
  subst h
  repeat' first
    | with_reducible apply Frame.refl
    | with_reducible assumption
    | apply Eq.refl
    | lift_lets -underBinder -merge -useContext
    | (intro x; refine Frame.cut (cs := [.regs, .tbl, .upd, .cas, .hif]) (s0 := s) (x := x) ?_ (fun hx => ?_); unfold x; rotate_left; clear_value x)
    | (intro x; clear_value x)
    | intro x
    | with_reducible apply Frame.app (complete_frame _ _ _ _ _ _)
    | with_reducible refine withTable_frame (by decide) (fun _ _ _ _ => ?_) ?_
    | with_reducible apply Frame.app (answerRead_frame _ _ _ _ _)
    | with_reducible apply Frame.ite
    | split

theorem execSnapshot_frame (n : Nat) (s : State) :
    ∀ out, execSnapshot n s = .next out → Frame [.regs, .tbl, .upd, .cas, .hif] s out := by
  delta execSnapshot
  intro out h
  injection h with h
  subst h
  repeat' first
    | with_reducible apply Frame.refl
    | with_reducible assumption
    | apply Eq.refl
    | lift_lets -underBinder -merge -useContext
    | (intro x; refine Frame.cut (cs := [.regs, .tbl, .upd, .cas, .hif]) (s0 := s) (x := x) ?_ (fun hx => ?_); unfold x; rotate_left; clear_value x)
    | (intro x; clear_value x)
    | intro x
    | with_reducible apply Frame.app (hostWrite_frame _ _ _ _)
    | with_reducible apply Frame.app (updCmd_frame _ _ _)
    | with_reducible apply Frame.app (complete_frame _ _ _ _ _ _)
    | with_reducible refine withTable_frame (by decide) (fun _ _ _ _ => ?_) ?_
    | (with_reducible refine Frame.updUpd (by decide) ?_ ?_; (intro _ h; exact h))
    | (with_reducible refine Frame.updUpd (by decide) ?_ ?_; (intro _ h; simp only [UpdSt.sorted] at h ⊢; simp [h]; done))
    | (with_reducible refine Frame.updUpd (by decide) ?_ ?_; (intro _ h; simp only [UpdSt.sorted] at h ⊢; and_intros <;> (try dsimp only) <;> (repeat' split) <;> first | (simp [h]; done) | exact tabFold_rising (fun _ _ g => by first | (simp [g]; done) | (split <;> simp [g]; done)) _ _ (by simp [h])))
    | (with_reducible refine Frame.updUpd (by decide) ?_ ?_; (intro _ h; simp only [UpdSt.sorted] at h ⊢; and_intros <;> first | (simp [h]; done) | exact tabFold_rising (fun _ _ g => by first | (simp [g]; done) | (split <;> simp [g]; done) | exact tabFold_rising (fun _ _ k => by simp [k]) _ _ g) _ _ (by simp [h]) | (repeat' first | exact rfl | exact h | apply tabSet_rising)))
    | with_reducible refine Frame.foldl ?_ (fun _ _ _ => ?_)
    | with_reducible apply Frame.ite
    | with_reducible apply_assumption

theorem execSnapshotDone_frame (n : Nat) (s : State) :
    ∀ out, execSnapshotDone n s = .next out → Frame [.regs, .tbl, .upd, .cas, .hif] s out := by
  delta execSnapshotDone
  intro out h
  injection h with h
  subst h
  repeat' first
    | with_reducible apply Frame.refl
    | with_reducible assumption
    | apply Eq.refl
    | lift_lets -underBinder -merge -useContext
    | (intro x; refine Frame.cut (cs := [.regs, .tbl, .upd, .cas, .hif]) (s0 := s) (x := x) ?_ (fun hx => ?_); unfold x; rotate_left; clear_value x)
    | with_reducible apply Frame.app (complete_frame _ _ _ _ _ _)
    | (with_reducible refine Frame.updUpd (by decide) ?_ ?_; (intro _ h; exact h))
    | (with_reducible refine Frame.updUpd (by decide) ?_ ?_; (intro _ h; simp only [UpdSt.sorted] at h ⊢; simp [h]; done))
    | (with_reducible refine Frame.updUpd (by decide) ?_ ?_; (intro _ h; simp only [UpdSt.sorted] at h ⊢; and_intros <;> (try dsimp only) <;> (repeat' split) <;> first | (simp [h]; done) | exact tabFold_rising (fun _ _ g => by first | (simp [g]; done) | (split <;> simp [g]; done)) _ _ (by simp [h])))
    | (with_reducible refine Frame.updUpd (by decide) ?_ ?_; (intro _ h; simp only [UpdSt.sorted] at h ⊢; and_intros <;> first | (simp [h]; done) | exact tabFold_rising (fun _ _ g => by first | (simp [g]; done) | (split <;> simp [g]; done) | exact tabFold_rising (fun _ _ k => by simp [k]) _ _ g) _ _ (by simp [h]) | (repeat' first | exact rfl | exact h | apply tabSet_rising)))
    | with_reducible apply Frame.ite
    | split

theorem execFence_frame (n : Nat) (s : State) :
    ∀ out, execFence n s = .next out → Frame [.upd] s out := by
  delta execFence
  intro out h
  injection h with h
  subst h
  repeat' first
    | with_reducible apply Frame.refl
    | with_reducible assumption
    | apply Eq.refl
    | lift_lets -underBinder -merge -useContext
    | (intro x; refine Frame.cut (cs := [.upd]) (s0 := s) (x := x) ?_ (fun hx => ?_); unfold x; rotate_left; clear_value x)
    | with_reducible apply Frame.app (updCmd_frame _ _ _)
    | with_reducible apply Frame.ite
    | split

theorem execFenceComplete_frame (n : Nat) (s : State) :
    ∀ out, execFenceComplete n s = .next out → Frame [.regs, .tbl, .upd, .cas, .hif] s out := by
  delta execFenceComplete
  intro out h
  injection h with h
  subst h
  repeat' first
    | with_reducible apply Frame.refl
    | with_reducible assumption
    | apply Eq.refl
    | lift_lets -underBinder -merge -useContext
    | (intro x; refine Frame.cut (cs := [.regs, .tbl, .upd, .cas, .hif]) (s0 := s) (x := x) ?_ (fun hx => ?_); unfold x; rotate_left; clear_value x)
    | with_reducible apply Frame.app (complete_frame _ _ _ _ _ _)
    | with_reducible apply Frame.ite
    | split

theorem freePans_frame (ps : List Nat) (s : State) :
    Frame [.arr] s (freePans ps s) := by
  delta freePans
  repeat' first
    | with_reducible apply Frame.refl
    | with_reducible assumption
    | apply Eq.refl
    | lift_lets -underBinder -merge -useContext
    | (intro x; refine Frame.cut (cs := [.arr]) (s0 := s) (x := x) ?_ (fun hx => ?_); unfold x; rotate_left; clear_value x)
    | (intro x; clear_value x)
    | intro x
    | (with_reducible refine Frame.updArr (by decide) ?_ ?_; (intro _ h; exact h))
    | (with_reducible refine Frame.updArr (by decide) ?_ ?_; (intro _ h; simp only [ArrSt.sorted] at h ⊢; simp [h]; done))
    | (with_reducible refine Frame.updArr (by decide) ?_ ?_; (intro _ h; simp only [ArrSt.sorted] at h ⊢; and_intros <;> (try dsimp only) <;> (repeat' split) <;> first | (simp [h]; done) | exact tabFold_rising (fun _ _ g => by first | (simp [g]; done) | (split <;> simp [g]; done)) _ _ (by simp [h])))
    | (with_reducible refine Frame.updArr (by decide) ?_ ?_; (intro _ h; simp only [ArrSt.sorted] at h ⊢; and_intros <;> first | (simp [h]; done) | exact tabFold_rising (fun _ _ g => by first | (simp [g]; done) | (split <;> simp [g]; done) | exact tabFold_rising (fun _ _ k => by simp [k]) _ _ g) _ _ (by simp [h]) | (repeat' first | exact rfl | exact h | apply tabSet_rising)))
    | with_reducible apply_assumption

theorem zeroRegions_frame (rs : List (Nat × Nat)) (s : State) :
    Frame [.mem] s (zeroRegions rs s) := by
  delta zeroRegions
  repeat' first
    | with_reducible apply Frame.refl
    | with_reducible assumption
    | apply Eq.refl
    | lift_lets -underBinder -merge -useContext
    | (intro x; refine Frame.cut (cs := [.mem]) (s0 := s) (x := x) ?_ (fun hx => ?_); unfold x; rotate_left; clear_value x)
    | (intro x; clear_value x)
    | intro x
    | (with_reducible refine Frame.updMem (by decide) (fun _ h => h) (fun _ h => h) (fun _ h => h) ?_ ?_; (intro _ h; exact h))
    | (with_reducible refine Frame.updMem (by decide) (fun _ h => h) (fun _ h => h) (fun _ h => h) ?_ ?_; (intro _ h; simp only [MemSt.sorted] at h ⊢; simp [h]; done))
    | (with_reducible refine Frame.updMem (by decide) (fun _ h => h) (fun _ h => h) (fun _ h => h) ?_ ?_; (intro _ h; simp only [MemSt.sorted] at h ⊢; and_intros <;> (try dsimp only) <;> (repeat' split) <;> first | (simp [h]; done) | exact tabFold_rising (fun _ _ g => by first | (simp [g]; done) | (split <;> simp [g]; done)) _ _ (by simp [h])))
    | (with_reducible refine Frame.updMem (by decide) (fun _ h => h) (fun _ h => h) (fun _ h => h) ?_ ?_; (intro _ h; simp only [MemSt.sorted] at h ⊢; and_intros <;> first | (simp [h]; done) | exact tabFold_rising (fun _ _ g => by first | (simp [g]; done) | (split <;> simp [g]; done) | exact tabFold_rising (fun _ _ k => by simp [k]) _ _ g) _ _ (by simp [h]) | (repeat' first | exact rfl | exact h | apply tabSet_rising)))
    | (with_reducible refine Frame.updMem (by decide) (fun _ h => by first | exact h | exact memNil_wf | exact memSetWord_wf _ _ _ h | exact memFilter_wf _ _ h) (fun _ h => by first | exact h | exact memNil_wf | exact memSetWord_wf _ _ _ h | exact memFilter_wf _ _ h) (fun _ h => by first | exact h | exact memNil_wf | exact memSetByte_wf _ _ _ h | exact memFilter_wf _ _ h) ?_ ?_; (intro _ h; exact h))
    | (with_reducible refine Frame.updMem (by decide) (fun _ h => by first | exact h | exact memNil_wf | exact memSetWord_wf _ _ _ h | exact memFilter_wf _ _ h) (fun _ h => by first | exact h | exact memNil_wf | exact memSetWord_wf _ _ _ h | exact memFilter_wf _ _ h) (fun _ h => by first | exact h | exact memNil_wf | exact memSetByte_wf _ _ _ h | exact memFilter_wf _ _ h) ?_ ?_; (intro _ h; simp only [MemSt.sorted] at h ⊢; simp [h]; done))
    | (with_reducible refine Frame.updMem (by decide) (fun _ h => by first | exact h | exact memNil_wf | exact memSetWord_wf _ _ _ h | exact memFilter_wf _ _ h) (fun _ h => by first | exact h | exact memNil_wf | exact memSetWord_wf _ _ _ h | exact memFilter_wf _ _ h) (fun _ h => by first | exact h | exact memNil_wf | exact memSetByte_wf _ _ _ h | exact memFilter_wf _ _ h) ?_ ?_; (intro _ h; simp only [MemSt.sorted] at h ⊢; and_intros <;> (try dsimp only) <;> (repeat' split) <;> first | (simp [h]; done) | exact tabFold_rising (fun _ _ g => by first | (simp [g]; done) | (split <;> simp [g]; done)) _ _ (by simp [h])))
    | (with_reducible refine Frame.updMem (by decide) (fun _ h => by first | exact h | exact memNil_wf | exact memSetWord_wf _ _ _ h | exact memFilter_wf _ _ h) (fun _ h => by first | exact h | exact memNil_wf | exact memSetWord_wf _ _ _ h | exact memFilter_wf _ _ h) (fun _ h => by first | exact h | exact memNil_wf | exact memSetByte_wf _ _ _ h | exact memFilter_wf _ _ h) ?_ ?_; (intro _ h; simp only [MemSt.sorted] at h ⊢; and_intros <;> first | (simp [h]; done) | exact tabFold_rising (fun _ _ g => by first | (simp [g]; done) | (split <;> simp [g]; done) | exact tabFold_rising (fun _ _ k => by simp [k]) _ _ g) _ _ (by simp [h]) | (repeat' first | exact rfl | exact h | apply tabSet_rising)))
    | with_reducible apply_assumption

theorem zeroGold_frame (rs : List (Nat × Nat)) (s : State) :
    Frame [.arr] s (zeroGold rs s) := by
  delta zeroGold
  repeat' first
    | with_reducible apply Frame.refl
    | with_reducible assumption
    | apply Eq.refl
    | lift_lets -underBinder -merge -useContext
    | (intro x; refine Frame.cut (cs := [.arr]) (s0 := s) (x := x) ?_ (fun hx => ?_); unfold x; rotate_left; clear_value x)
    | (with_reducible refine Frame.updArr (by decide) ?_ ?_; (intro _ h; exact h))
    | (with_reducible refine Frame.updArr (by decide) ?_ ?_; (intro _ h; simp only [ArrSt.sorted] at h ⊢; simp [h]; done))
    | (with_reducible refine Frame.updArr (by decide) ?_ ?_; (intro _ h; simp only [ArrSt.sorted] at h ⊢; and_intros <;> (try dsimp only) <;> (repeat' split) <;> first | (simp [h]; done) | exact tabFold_rising (fun _ _ g => by first | (simp [g]; done) | (split <;> simp [g]; done)) _ _ (by simp [h])))
    | (with_reducible refine Frame.updArr (by decide) ?_ ?_; (intro _ h; simp only [ArrSt.sorted] at h ⊢; and_intros <;> first | (simp [h]; done) | exact tabFold_rising (fun _ _ g => by first | (simp [g]; done) | (split <;> simp [g]; done) | exact tabFold_rising (fun _ _ k => by simp [k]) _ _ g) _ _ (by simp [h]) | (repeat' first | exact rfl | exact h | apply tabSet_rising)))

theorem zeroMasks_frame (t : Nat) (s : State) :
    Frame [.tbl] s (zeroMasks t s) := by
  delta zeroMasks
  repeat' first
    | with_reducible apply Frame.refl
    | with_reducible assumption
    | apply Eq.refl
    | lift_lets -underBinder -merge -useContext
    | (intro x; refine Frame.cut (cs := [.tbl]) (s0 := s) (x := x) ?_ (fun hx => ?_); unfold x; rotate_left; clear_value x)
    | (intro x; clear_value x)
    | intro x
    | (with_reducible refine Frame.updTbl (by decide) ?_ ?_; (intro _ h; exact h))
    | (with_reducible refine Frame.updTbl (by decide) ?_ ?_; (intro _ h; simp only [TblSt.sorted] at h ⊢; simp [h]; done))
    | (with_reducible refine Frame.updTbl (by decide) ?_ ?_; (intro _ h; simp only [TblSt.sorted] at h ⊢; and_intros <;> (try dsimp only) <;> (repeat' split) <;> first | (simp [h]; done) | exact tabFold_rising (fun _ _ g => by first | (simp [g]; done) | (split <;> simp [g]; done)) _ _ (by simp [h])))
    | (with_reducible refine Frame.updTbl (by decide) ?_ ?_; (intro _ h; simp only [TblSt.sorted] at h ⊢; and_intros <;> first | (simp [h]; done) | exact tabFold_rising (fun _ _ g => by first | (simp [g]; done) | (split <;> simp [g]; done) | exact tabFold_rising (fun _ _ k => by simp [k]) _ _ g) _ _ (by simp [h]) | (repeat' first | exact rfl | exact h | apply tabSet_rising)))
    | with_reducible apply_assumption

theorem assignPans_frame (d : TableDesc) (t : Option Nat) (s : State) :
    Frame [.regs] s (assignPans d t s) := by
  delta assignPans
  repeat' first
    | with_reducible apply Frame.refl
    | with_reducible assumption
    | apply Eq.refl
    | lift_lets -underBinder -merge -useContext
    | (intro x; refine Frame.cut (cs := [.regs]) (s0 := s) (x := x) ?_ (fun hx => ?_); unfold x; rotate_left; clear_value x)
    | (intro x; clear_value x)
    | intro x
    | with_reducible apply Frame.app (regPut_frame _ _ _)
    | with_reducible refine Frame.foldl ?_ (fun _ _ _ => ?_)
    | with_reducible apply_assumption
    | split

theorem execTableCreate_frame (n : Nat) (s : State) :
    ∀ out, execTableCreate n s = .next out → Frame [.regs, .arr, .tbl, .mem, .upd, .cas, .hif, .err] s out := by
  delta execTableCreate
  intro out h
  injection h with h
  subst h
  repeat' first
    | with_reducible apply Frame.refl
    | with_reducible assumption
    | apply Eq.refl
    | lift_lets -underBinder -merge -useContext
    | (intro x; refine Frame.cut (cs := [.regs, .arr, .tbl, .mem, .upd, .cas, .hif, .err]) (s0 := s) (x := x) ?_ (fun hx => ?_); unfold x; rotate_left; clear_value x)
    | (intro x; clear_value x)
    | intro x
    | with_reducible apply Frame.app (updCmd_frame _ _ _)
    | with_reducible apply Frame.app (setTable_frame _ _ _)
    | with_reducible apply Frame.app (complete_frame _ _ _ _ _ _)
    | with_reducible apply Frame.app (queueGold_frame _ _ _ _ _)
    | with_reducible apply Frame.app (startPlan_frame _ _)
    | with_reducible apply Frame.app (freePans_frame _ _)
    | with_reducible apply Frame.app (zeroRegions_frame _ _)
    | with_reducible apply Frame.app (zeroGold_frame _ _)
    | with_reducible apply Frame.app (zeroMasks_frame _ _)
    | with_reducible apply Frame.app (assignPans_frame _ _ _)
    | with_reducible apply Frame.ite
    | split

theorem freeTable_frame (c : Cmd) (s : State) :
    Frame [.regs, .arr, .tbl, .upd, .cas, .hif] s (freeTable c s) := by
  delta freeTable
  repeat' first
    | with_reducible apply Frame.refl
    | with_reducible assumption
    | apply Eq.refl
    | lift_lets -underBinder -merge -useContext
    | (intro x; refine Frame.cut (cs := [.regs, .arr, .tbl, .upd, .cas, .hif]) (s0 := s) (x := x) ?_ (fun hx => ?_); unfold x; rotate_left; clear_value x)
    | (intro x; clear_value x)
    | intro x
    | with_reducible apply Frame.app (updCmd_frame _ _ _)
    | with_reducible apply Frame.app (finish_frame _ _ _ _ _ _)
    | with_reducible apply Frame.app (settle_frame _)
    | with_reducible apply Frame.app (showStranded_frame _)
    | with_reducible apply Frame.app (markDead_frame _ _)
    | with_reducible apply Frame.app (freePans_frame _ _)
    | with_reducible apply Frame.app (zeroMasks_frame _ _)
    | (with_reducible refine Frame.updArr (by decide) ?_ ?_; (intro _ h; exact h))
    | (with_reducible refine Frame.updArr (by decide) ?_ ?_; (intro _ h; simp only [ArrSt.sorted] at h ⊢; simp [h]; done))
    | (with_reducible refine Frame.updArr (by decide) ?_ ?_; (intro _ h; simp only [ArrSt.sorted] at h ⊢; and_intros <;> (try dsimp only) <;> (repeat' split) <;> first | (simp [h]; done) | exact tabFold_rising (fun _ _ g => by first | (simp [g]; done) | (split <;> simp [g]; done)) _ _ (by simp [h])))
    | (with_reducible refine Frame.updArr (by decide) ?_ ?_; (intro _ h; simp only [ArrSt.sorted] at h ⊢; and_intros <;> first | (simp [h]; done) | exact tabFold_rising (fun _ _ g => by first | (simp [g]; done) | (split <;> simp [g]; done) | exact tabFold_rising (fun _ _ k => by simp [k]) _ _ g) _ _ (by simp [h]) | (repeat' first | exact rfl | exact h | apply tabSet_rising)))
    | with_reducible refine Frame.foldl ?_ (fun _ _ _ => ?_)
    | with_reducible apply Frame.ite
    | with_reducible apply_assumption
    | split

theorem execTableDestroy_frame (n : Nat) (s : State) :
    ∀ out, execTableDestroy n s = .next out → Frame [.regs, .arr, .tbl, .upd, .cas, .hif] s out := by
  delta execTableDestroy
  intro out h
  injection h with h
  subst h
  repeat' first
    | with_reducible apply Frame.refl
    | with_reducible assumption
    | apply Eq.refl
    | lift_lets -underBinder -merge -useContext
    | (intro x; refine Frame.cut (cs := [.regs, .arr, .tbl, .upd, .cas, .hif]) (s0 := s) (x := x) ?_ (fun hx => ?_); unfold x; rotate_left; clear_value x)
    | (intro x; clear_value x)
    | intro x
    | with_reducible apply Frame.app (updCmd_frame _ _ _)
    | with_reducible apply Frame.app (complete_frame _ _ _ _ _ _)
    | with_reducible apply Frame.app (yieldSlack_frame _)
    | with_reducible apply Frame.app (freeTable_frame _ _)
    | (with_reducible refine Frame.updTbl (by decide) ?_ ?_; (intro _ h; exact h))
    | (with_reducible refine Frame.updTbl (by decide) ?_ ?_; (intro _ h; simp only [TblSt.sorted] at h ⊢; simp [h]; done))
    | (with_reducible refine Frame.updTbl (by decide) ?_ ?_; (intro _ h; simp only [TblSt.sorted] at h ⊢; and_intros <;> (try dsimp only) <;> (repeat' split) <;> first | (simp [h]; done) | exact tabFold_rising (fun _ _ g => by first | (simp [g]; done) | (split <;> simp [g]; done)) _ _ (by simp [h])))
    | (with_reducible refine Frame.updTbl (by decide) ?_ ?_; (intro _ h; simp only [TblSt.sorted] at h ⊢; and_intros <;> first | (simp [h]; done) | exact tabFold_rising (fun _ _ g => by first | (simp [g]; done) | (split <;> simp [g]; done) | exact tabFold_rising (fun _ _ k => by simp [k]) _ _ g) _ _ (by simp [h]) | (repeat' first | exact rfl | exact h | apply tabSet_rising)))
    | with_reducible apply Frame.ite
    | split

theorem execTableRelease_frame (t : Fin 128) (s : State) :
    ∀ out, execTableRelease t s = .next out → Frame [.regs, .tbl, .upd, .cas, .hif] s out := by
  delta execTableRelease
  intro out h
  injection h with h
  subst h
  repeat' first
    | with_reducible apply Frame.refl
    | with_reducible assumption
    | apply Eq.refl
    | lift_lets -underBinder -merge -useContext
    | (intro x; refine Frame.cut (cs := [.regs, .tbl, .upd, .cas, .hif]) (s0 := s) (x := x) ?_ (fun hx => ?_); unfold x; rotate_left; clear_value x)
    | (intro x; clear_value x)
    | intro x
    | with_reducible apply Frame.app (complete_frame _ _ _ _ _ _)
    | with_reducible apply Frame.app (assignPans_frame _ _ _)
    | (with_reducible refine Frame.updTbl (by decide) ?_ ?_; (intro _ h; exact h))
    | (with_reducible refine Frame.updTbl (by decide) ?_ ?_; (intro _ h; simp only [TblSt.sorted] at h ⊢; simp [h]; done))
    | (with_reducible refine Frame.updTbl (by decide) ?_ ?_; (intro _ h; simp only [TblSt.sorted] at h ⊢; and_intros <;> (try dsimp only) <;> (repeat' split) <;> first | (simp [h]; done) | exact tabFold_rising (fun _ _ g => by first | (simp [g]; done) | (split <;> simp [g]; done)) _ _ (by simp [h])))
    | (with_reducible refine Frame.updTbl (by decide) ?_ ?_; (intro _ h; simp only [TblSt.sorted] at h ⊢; and_intros <;> first | (simp [h]; done) | exact tabFold_rising (fun _ _ g => by first | (simp [g]; done) | (split <;> simp [g]; done) | exact tabFold_rising (fun _ _ k => by simp [k]) _ _ g) _ _ (by simp [h]) | (repeat' first | exact rfl | exact h | apply tabSet_rising)))
    | with_reducible apply Frame.ite
    | split

end Sys2Proof.Machine
end

