-- ==== Sys2Proof/Laws/FrameSession.lean ====
section
/-! SUPPORT. What each operation of Machine/Session.lean changes at most, and that it keeps the invariant. -/

namespace Sys2Proof.Machine

set_option linter.all false

open Sys2Proof

theorem endSession_frame (s : State) :
    Frame [.regs, .err, .fwu] s (endSession s) := by
  delta endSession
  repeat' first
    | with_reducible apply Frame.refl
    | with_reducible assumption
    | apply Eq.refl
    | lift_lets -underBinder -merge -useContext
    | (intro x; refine Frame.cut (cs := [.regs, .err, .fwu]) (s0 := s) (x := x) ?_ (fun hx => ?_); unfold x; rotate_left; clear_value x)
    | (intro x; clear_value x)
    | intro x
    | with_reducible apply Frame.app (regPut_frame _ _ _)
    | with_reducible apply Frame.app (fieldPut_frame _ _ _ _ _)
    | with_reducible apply Frame.app (flagPut_frame _ _ _ _)
    | with_reducible apply Frame.app (raiseInt_frame _ _ _)
    | (with_reducible refine Frame.updFwu (by decide) ?_ ?_; (intro _ h; exact h))
    | (with_reducible refine Frame.updFwu (by decide) ?_ ?_; (intro _ h; simp only [FwuSt.sorted] at h ⊢; simp [h]; done))
    | (with_reducible refine Frame.updFwu (by decide) ?_ ?_; (intro _ h; simp only [FwuSt.sorted] at h ⊢; and_intros <;> (try dsimp only) <;> (repeat' split) <;> first | (simp [h]; done) | exact tabFold_rising (fun _ _ g => by first | (simp [g]; done) | (split <;> simp [g]; done)) _ _ (by simp [h])))
    | (with_reducible refine Frame.updFwu (by decide) ?_ ?_; (intro _ h; simp only [FwuSt.sorted] at h ⊢; and_intros <;> first | (simp [h]; done) | exact tabFold_rising (fun _ _ g => by first | (simp [g]; done) | (split <;> simp [g]; done) | exact tabFold_rising (fun _ _ k => by simp [k]) _ _ g) _ _ (by simp [h]) | (repeat' first | exact rfl | exact h | apply tabSet_rising)))
    | with_reducible apply Frame.ite

end Sys2Proof.Machine
end

