-- ==== Sys2Proof/Laws/FrameEpochs.lean ====
section
/-! SUPPORT. What each operation of Machine/Epochs.lean changes at most, and that it keeps the invariant. -/

namespace Sys2Proof.Machine

set_option linter.all false

open Sys2Proof

theorem epcEvent_frame (b d : Nat) (s : State) :
    Frame [.regs, .err] s (epcEvent b d s) := by
  delta epcEvent
  repeat' first
    | with_reducible apply Frame.refl
    | with_reducible assumption
    | apply Eq.refl
    | lift_lets -underBinder -merge -useContext
    | (intro x; refine Frame.cut (cs := [.regs, .err]) (s0 := s) (x := x) ?_ (fun hx => ?_); unfold x; rotate_left; clear_value x)
    | with_reducible apply Frame.app (raiseInt_frame _ _ _)

theorem flip_frame (d t : Nat) (s : State) :
    Frame [.regs, .pip, .epc, .err, .pwr] s (flip d t s) := by
  delta flip
  repeat' first
    | with_reducible apply Frame.refl
    | with_reducible assumption
    | apply Eq.refl
    | lift_lets -underBinder -merge -useContext
    | (intro x; refine Frame.cut (cs := [.regs, .pip, .epc, .err, .pwr]) (s0 := s) (x := x) ?_ (fun hx => ?_); unfold x; rotate_left; clear_value x)
    | (intro x; clear_value x)
    | intro x
    | with_reducible apply Frame.app (withdraw_frame _ _)
    | with_reducible apply Frame.app (updDom_frame _ _ _)
    | with_reducible apply Frame.app (epcEvent_frame _ _ _)

theorem settleSlot_frame (n : Nat) (tag : MTag) (kept : Bool) (s : State) (x : Nat × Nat) :
    Frame [.arr] s (settleSlot n tag kept s x) := by
  delta settleSlot
  repeat' first
    | with_reducible apply Frame.refl
    | with_reducible assumption
    | apply Eq.refl
    | lift_lets -underBinder -merge -useContext
    | (intro x; refine Frame.cut (cs := [.arr]) (s0 := s) (x := x) ?_ (fun hx => ?_); unfold x; rotate_left; clear_value x)
    | with_reducible apply Frame.app (queueRows_frame _ _ _ _ _ _ _ _ _ _ _)
    | with_reducible apply Frame.ite
    | split

theorem startDiscard_frame (d : Nat) (s : State) :
    Frame [.arr, .epc] s (startDiscard d s) := by
  delta startDiscard
  repeat' first
    | with_reducible apply Frame.refl
    | with_reducible assumption
    | apply Eq.refl
    | lift_lets -underBinder -merge -useContext
    | (intro x; refine Frame.cut (cs := [.arr, .epc]) (s0 := s) (x := x) ?_ (fun hx => ?_); unfold x; rotate_left; clear_value x)
    | (intro x; clear_value x)
    | intro x
    | with_reducible apply Frame.app (updDom_frame _ _ _)
    | with_reducible apply Frame.app (settleSlot_frame _ _ _ _ _)
    | with_reducible refine Frame.foldl ?_ (fun _ _ _ => ?_)
    | with_reducible apply_assumption

theorem discardOwned_frame (r : Nat) (s : State) :
    Frame [.arr, .epc] s (discardOwned r s) := by
  delta discardOwned
  repeat' first
    | with_reducible apply Frame.refl
    | with_reducible assumption
    | apply Eq.refl
    | lift_lets -underBinder -merge -useContext
    | (intro x; refine Frame.cut (cs := [.arr, .epc]) (s0 := s) (x := x) ?_ (fun hx => ?_); unfold x; rotate_left; clear_value x)
    | (intro x; clear_value x)
    | intro x
    | with_reducible apply Frame.app (startDiscard_frame _ _)
    | with_reducible refine Frame.foldl ?_ (fun _ _ _ => ?_)
    | with_reducible apply Frame.ite
    | with_reducible apply_assumption

theorem execBatchBegin_frame (n : Nat) (s : State) :
    ∀ out, execBatchBegin n s = .next out → Frame [.regs, .tbl, .upd, .epc, .cas, .hif] s out := by
  delta execBatchBegin
  intro out h
  injection h with h
  subst h
  repeat' first
    | with_reducible apply Frame.refl
    | with_reducible assumption
    | apply Eq.refl
    | lift_lets -underBinder -merge -useContext
    | (intro x; refine Frame.cut (cs := [.regs, .tbl, .upd, .epc, .cas, .hif]) (s0 := s) (x := x) ?_ (fun hx => ?_); unfold x; rotate_left; clear_value x)
    | (intro x; clear_value x)
    | intro x
    | with_reducible apply Frame.app (updDom_frame _ _ _)
    | with_reducible apply Frame.app (complete_frame _ _ _ _ _ _)
    | with_reducible apply Frame.ite
    | split

theorem execBatchEnd_frame (n : Nat) (s : State) :
    ∀ out, execBatchEnd n s = .next out → Frame [.regs, .arr, .tbl, .upd, .epc, .cas, .hif] s out := by
  delta execBatchEnd
  intro out h
  injection h with h
  subst h
  repeat' first
    | with_reducible apply Frame.refl
    | with_reducible assumption
    | apply Eq.refl
    | lift_lets -underBinder -merge -useContext
    | (intro x; refine Frame.cut (cs := [.regs, .arr, .tbl, .upd, .epc, .cas, .hif]) (s0 := s) (x := x) ?_ (fun hx => ?_); unfold x; rotate_left; clear_value x)
    | (intro x; clear_value x)
    | intro x
    | with_reducible apply Frame.app (updCmd_frame _ _ _)
    | with_reducible apply Frame.app (updDom_frame _ _ _)
    | with_reducible apply Frame.app (complete_frame _ _ _ _ _ _)
    | with_reducible apply Frame.app (startDiscard_frame _ _)
    | with_reducible apply Frame.ite
    | split

theorem execDiscardDone_frame (d : Fin 8) (s : State) :
    ∀ out, execDiscardDone d s = .next out → Frame [.regs, .tbl, .upd, .epc, .cas, .hif, .err] s out := by
  delta execDiscardDone
  intro out h
  injection h with h
  subst h
  repeat' first
    | with_reducible apply Frame.refl
    | with_reducible assumption
    | apply Eq.refl
    | lift_lets -underBinder -merge -useContext
    | (intro x; refine Frame.cut (cs := [.regs, .tbl, .upd, .epc, .cas, .hif, .err]) (s0 := s) (x := x) ?_ (fun hx => ?_); unfold x; rotate_left; clear_value x)
    | (intro x; clear_value x)
    | intro x
    | with_reducible apply Frame.app (updDom_frame _ _ _)
    | with_reducible apply Frame.app (complete_frame _ _ _ _ _ _)
    | with_reducible apply Frame.app (epcEvent_frame _ _ _)
    | with_reducible apply Frame.ite
    | split

theorem sendPrepare_frame (c : Cmd) (t : Nat) (s : State) :
    Frame [.upd, .cas] s (sendPrepare c t s) := by
  delta sendPrepare
  repeat' first
    | with_reducible apply Frame.refl
    | with_reducible assumption
    | apply Eq.refl
    | lift_lets -underBinder -merge -useContext
    | (intro x; refine Frame.cut (cs := [.upd, .cas]) (s0 := s) (x := x) ?_ (fun hx => ?_); unfold x; rotate_left; clear_value x)
    | (intro x; clear_value x)
    | intro x
    | with_reducible apply Frame.app (ctlSend_frame _ _ _ _ _)
    | with_reducible apply Frame.app (updCmd_frame _ _ _)
    | (with_reducible refine Frame.updCas (by decide) ?_ ?_; (intro _ h; exact h))
    | (with_reducible refine Frame.updCas (by decide) ?_ ?_; (intro _ h; simp only [CasSt.sorted] at h ⊢; simp [h]; done))
    | (with_reducible refine Frame.updCas (by decide) ?_ ?_; (intro _ h; simp only [CasSt.sorted] at h ⊢; and_intros <;> (try dsimp only) <;> (repeat' split) <;> first | (simp [h]; done) | exact tabFold_rising (fun _ _ g => by first | (simp [g]; done) | (split <;> simp [g]; done)) _ _ (by simp [h])))
    | (with_reducible refine Frame.updCas (by decide) ?_ ?_; (intro _ h; simp only [CasSt.sorted] at h ⊢; and_intros <;> first | (simp [h]; done) | exact tabFold_rising (fun _ _ g => by first | (simp [g]; done) | (split <;> simp [g]; done) | exact tabFold_rising (fun _ _ k => by simp [k]) _ _ g) _ _ (by simp [h]) | (repeat' first | exact rfl | exact h | apply tabSet_rising)))

theorem runCommit_frame {cs : List Comp} {s0 s : State} {n op : Nat} {f : Cmd → Domain → State → State}
    (hc : [Comp.regs, .tbl, .upd, .cas, .hif].all cs.contains = true)
    (hf : ∀ c m t, Frame cs s0 t → Frame cs s0 (f c m t)) (h : Frame cs s0 s) : Frame cs s0 (runCommit n op f s) := by
  have hcomp : ∀ n a b c d t, Frame cs s0 t → Frame cs s0 (complete n a b c d t) := fun _ _ _ _ _ _ g => Frame.app (complete_frame _ _ _ _ _ _) hc g
  delta runCommit
  repeat' first
    | with_reducible assumption
    | with_reducible apply hcomp
    | with_reducible apply hf
    | lift_lets -underBinder -merge -useContext
    | (intro x; clear_value x)
    | with_reducible apply Frame.ite
    | split

theorem execCommit_frame (n : Nat) (s : State) :
    ∀ out, execCommit n s = .next out → Frame [.regs, .tbl, .pip, .upd, .epc, .cas, .hif, .err, .pwr] s out := by
  delta execCommit
  intro out h
  injection h with h
  subst h
  repeat' first
    | with_reducible apply Frame.refl
    | with_reducible assumption
    | apply Eq.refl
    | lift_lets -underBinder -merge -useContext
    | (intro x; refine Frame.cut (cs := [.regs, .tbl, .pip, .upd, .epc, .cas, .hif, .err, .pwr]) (s0 := s) (x := x) ?_ (fun hx => ?_); unfold x; rotate_left; clear_value x)
    | with_reducible apply Frame.app (complete_frame _ _ _ _ _ _)
    | with_reducible apply Frame.app (flip_frame _ _ _)
    | with_reducible apply Frame.app (sendPrepare_frame _ _ _)
    | with_reducible refine runCommit_frame (by decide) (fun _ _ _ _ => ?_) ?_
    | with_reducible apply Frame.ite

theorem execCommitAt_frame (n : Nat) (s : State) :
    ∀ out, execCommitAt n s = .next out → Frame [.regs, .tbl, .upd, .epc, .cas, .hif] s out := by
  delta execCommitAt
  intro out h
  injection h with h
  subst h
  repeat' first
    | with_reducible apply Frame.refl
    | with_reducible assumption
    | apply Eq.refl
    | lift_lets -underBinder -merge -useContext
    | (intro x; refine Frame.cut (cs := [.regs, .tbl, .upd, .epc, .cas, .hif]) (s0 := s) (x := x) ?_ (fun hx => ?_); unfold x; rotate_left; clear_value x)
    | (intro x; clear_value x)
    | intro x
    | with_reducible apply Frame.app (updDom_frame _ _ _)
    | with_reducible apply Frame.app (complete_frame _ _ _ _ _ _)
    | with_reducible apply Frame.app (sendPrepare_frame _ _ _)
    | with_reducible refine runCommit_frame (by decide) (fun _ _ _ _ => ?_) ?_
    | with_reducible apply Frame.ite

theorem execScheduledFlip_frame (d : Fin 8) (s : State) :
    ∀ out, execScheduledFlip d s = .next out → Frame [.regs, .pip, .epc, .err, .pwr] s out := by
  delta execScheduledFlip
  intro out h
  injection h with h
  subst h
  repeat' first
    | with_reducible apply Frame.refl
    | with_reducible assumption
    | apply Eq.refl
    | lift_lets -underBinder -merge -useContext
    | (intro x; refine Frame.cut (cs := [.regs, .pip, .epc, .err, .pwr]) (s0 := s) (x := x) ?_ (fun hx => ?_); unfold x; rotate_left; clear_value x)
    | (intro x; clear_value x)
    | intro x
    | with_reducible apply Frame.app (flip_frame _ _ _)
    | with_reducible apply Frame.ite
    | split

theorem execEpochRetire_frame (d : Fin 8) (s : State) :
    ∀ out, execEpochRetire d s = .next out → Frame [.arr, .epc] s out := by
  delta execEpochRetire
  intro out h
  injection h with h
  subst h
  repeat' first
    | with_reducible apply Frame.refl
    | with_reducible assumption
    | apply Eq.refl
    | lift_lets -underBinder -merge -useContext
    | (intro x; refine Frame.cut (cs := [.arr, .epc]) (s0 := s) (x := x) ?_ (fun hx => ?_); unfold x; rotate_left; clear_value x)
    | (intro x; clear_value x)
    | intro x
    | with_reducible apply Frame.app (updDom_frame _ _ _)
    | with_reducible apply Frame.app (settleSlot_frame _ _ _ _ _)
    | with_reducible refine Frame.foldl ?_ (fun _ _ _ => ?_)
    | with_reducible apply Frame.ite
    | with_reducible apply_assumption
    | split

theorem execReconciliationDone_frame (d : Fin 8) (s : State) :
    ∀ out, execReconciliationDone d s = .next out → Frame [.regs, .epc, .err] s out := by
  delta execReconciliationDone
  intro out h
  injection h with h
  subst h
  repeat' first
    | with_reducible apply Frame.refl
    | with_reducible assumption
    | apply Eq.refl
    | lift_lets -underBinder -merge -useContext
    | (intro x; refine Frame.cut (cs := [.regs, .epc, .err]) (s0 := s) (x := x) ?_ (fun hx => ?_); unfold x; rotate_left; clear_value x)
    | (intro x; clear_value x)
    | intro x
    | with_reducible apply Frame.app (updDom_frame _ _ _)
    | with_reducible apply Frame.app (epcEvent_frame _ _ _)
    | with_reducible apply Frame.ite

theorem ringOff_frame (r : Nat) (s : State) :
    Frame [.regs, .arr, .upd, .epc, .cas, .err, .fwu] s (ringOff r s) := by
  delta ringOff
  repeat' first
    | with_reducible apply Frame.refl
    | with_reducible assumption
    | apply Eq.refl
    | lift_lets -underBinder -merge -useContext
    | (intro x; refine Frame.cut (cs := [.regs, .arr, .upd, .epc, .cas, .err, .fwu]) (s0 := s) (x := x) ?_ (fun hx => ?_); unfold x; rotate_left; clear_value x)
    | (intro x; clear_value x)
    | intro x
    | with_reducible apply Frame.app (updRing_frame _ _ _)
    | with_reducible apply Frame.app (endSession_frame _)
    | with_reducible apply Frame.app (discardOwned_frame _ _)
    | (with_reducible refine Frame.updCas (by decide) ?_ ?_; (intro _ h; exact h))
    | (with_reducible refine Frame.updCas (by decide) ?_ ?_; (intro _ h; simp only [CasSt.sorted] at h ⊢; simp [h]; done))
    | (with_reducible refine Frame.updCas (by decide) ?_ ?_; (intro _ h; simp only [CasSt.sorted] at h ⊢; and_intros <;> (try dsimp only) <;> (repeat' split) <;> first | (simp [h]; done) | exact tabFold_rising (fun _ _ g => by first | (simp [g]; done) | (split <;> simp [g]; done)) _ _ (by simp [h])))
    | (with_reducible refine Frame.updCas (by decide) ?_ ?_; (intro _ h; simp only [CasSt.sorted] at h ⊢; and_intros <;> first | (simp [h]; done) | exact tabFold_rising (fun _ _ g => by first | (simp [g]; done) | (split <;> simp [g]; done) | exact tabFold_rising (fun _ _ k => by simp [k]) _ _ g) _ _ (by simp [h]) | (repeat' first | exact rfl | exact h | apply tabSet_rising)))
    | with_reducible apply Frame.ite

theorem execRingStopDone_frame (r : Fin 16384) (s : State) :
    ∀ out, execRingStopDone r s = .next out → Frame [.regs, .arr, .upd, .epc, .cas, .err, .fwu] s out := by
  delta execRingStopDone
  intro out h
  injection h with h
  subst h
  repeat' first
    | with_reducible apply Frame.refl
    | with_reducible assumption
    | apply Eq.refl
    | lift_lets -underBinder -merge -useContext
    | (intro x; refine Frame.cut (cs := [.regs, .arr, .upd, .epc, .cas, .err, .fwu]) (s0 := s) (x := x) ?_ (fun hx => ?_); unfold x; rotate_left; clear_value x)
    | with_reducible apply Frame.app (ringOff_frame _ _)

theorem wrEpcSel_frame (src : Party) (v : Word) (s : State) :
    Frame [.regs, .mwin] s (wrEpcSel src v s) := by
  delta wrEpcSel
  repeat' first
    | with_reducible apply Frame.refl
    | with_reducible assumption
    | apply Eq.refl
    | lift_lets -underBinder -merge -useContext
    | (intro x; refine Frame.cut (cs := [.regs, .mwin]) (s0 := s) (x := x) ?_ (fun hx => ?_); unfold x; rotate_left; clear_value x)
    | (intro x; clear_value x)
    | intro x
    | with_reducible apply Frame.app (winPut_frame _ _ _ _)
    | with_reducible refine Frame.foldl ?_ (fun _ _ _ => ?_)
    | with_reducible apply Frame.ite
    | with_reducible apply_assumption

end Sys2Proof.Machine
end

