-- ==== Sys2Proof/Laws/FrameTime.lean ====
section
/-! SUPPORT. What each operation of Machine/Time.lean changes at most, and that it keeps the invariant. -/

namespace Sys2Proof.Machine

set_option linter.all false

open Sys2Proof

theorem putTod_frame (v : Int) (s : State) : Frame [.clk, .tod] s (putTod v s) := by
  delta putTod
  split
  · rename_i h
    exact Frame.updTod rfl (fun _ _ => by dsimp only; omega) (fun _ h => h) (Frame.refl _ s)
  · exact Frame.updTod rfl (fun _ _ => Nat.mod_lt _ (by decide)) (fun _ h => h) (Frame.mono (nextFree_frame s) rfl)

theorem todTick_frame (s : State) :
    Frame [.clk, .tod] s (todTick s) := by
  delta todTick
  repeat' first
    | with_reducible apply Frame.refl
    | with_reducible assumption
    | apply Eq.refl
    | lift_lets -underBinder -merge -useContext
    | (intro x; refine Frame.cut (cs := [.clk, .tod]) (s0 := s) (x := x) ?_ (fun hx => ?_); unfold x; rotate_left; clear_value x)
    | (intro x; clear_value x)
    | intro x
    | with_reducible apply Frame.app (nextFree_frame _)
    | with_reducible apply Frame.app (putTod_frame _ _)
    | (with_reducible refine Frame.updTod (by decide) (fun _ h => h) ?_ ?_; (intro _ h; exact h))
    | (with_reducible refine Frame.updTod (by decide) (fun _ h => h) ?_ ?_; (intro _ h; simp only [TodSt.sorted] at h ⊢; simp [h]; done))
    | (with_reducible refine Frame.updTod (by decide) (fun _ h => h) ?_ ?_; (intro _ h; simp only [TodSt.sorted] at h ⊢; and_intros <;> (try dsimp only) <;> (repeat' split) <;> first | (simp [h]; done) | exact tabFold_rising (fun _ _ g => by first | (simp [g]; done) | (split <;> simp [g]; done)) _ _ (by simp [h])))
    | (with_reducible refine Frame.updTod (by decide) (fun _ h => h) ?_ ?_; (intro _ h; simp only [TodSt.sorted] at h ⊢; and_intros <;> first | (simp [h]; done) | exact tabFold_rising (fun _ _ g => by first | (simp [g]; done) | (split <;> simp [g]; done) | exact tabFold_rising (fun _ _ k => by simp [k]) _ _ g) _ _ (by simp [h]) | (repeat' first | exact rfl | exact h | apply tabSet_rising)))
    | with_reducible apply Frame.ite

theorem wrTodCtl_frame (src : Party) (v : Word) (s : State) :
    Frame [.regs, .tod, .prt, .err] s (wrTodCtl src v s) := by
  delta wrTodCtl
  repeat' first
    | with_reducible apply Frame.refl
    | with_reducible assumption
    | apply Eq.refl
    | lift_lets -underBinder -merge -useContext
    | (intro x; refine Frame.cut (cs := [.regs, .tod, .prt, .err]) (s0 := s) (x := x) ?_ (fun hx => ?_); unfold x; rotate_left; clear_value x)
    | (intro x; clear_value x)
    | intro x
    | with_reducible apply Frame.app (regPut_frame _ _ _)
    | with_reducible apply Frame.app (flagPut_frame _ _ _ _)
    | with_reducible apply Frame.app (refuseReg_frame _ _ _ _ _)
    | (with_reducible refine Frame.updTod (by decide) (fun _ h => h) ?_ ?_; (intro _ h; exact h))
    | (with_reducible refine Frame.updTod (by decide) (fun _ h => h) ?_ ?_; (intro _ h; simp only [TodSt.sorted] at h ⊢; simp [h]; done))
    | (with_reducible refine Frame.updTod (by decide) (fun _ h => h) ?_ ?_; (intro _ h; simp only [TodSt.sorted] at h ⊢; and_intros <;> (try dsimp only) <;> (repeat' split) <;> first | (simp [h]; done) | exact tabFold_rising (fun _ _ g => by first | (simp [g]; done) | (split <;> simp [g]; done)) _ _ (by simp [h])))
    | (with_reducible refine Frame.updTod (by decide) (fun _ h => h) ?_ ?_; (intro _ h; simp only [TodSt.sorted] at h ⊢; and_intros <;> first | (simp [h]; done) | exact tabFold_rising (fun _ _ g => by first | (simp [g]; done) | (split <;> simp [g]; done) | exact tabFold_rising (fun _ _ k => by simp [k]) _ _ g) _ _ (by simp [h]) | (repeat' first | exact rfl | exact h | apply tabSet_rising)))
    | with_reducible apply Frame.ite

theorem stepCopy_frame (g : Nat) (back : Bool) (s : State) :
    Frame [.lnk, .tod] s (stepCopy g back s) := by
  delta stepCopy
  repeat' first
    | with_reducible apply Frame.refl
    | with_reducible assumption
    | apply Eq.refl
    | lift_lets -underBinder -merge -useContext
    | (intro x; refine Frame.cut (cs := [.lnk, .tod]) (s0 := s) (x := x) ?_ (fun hx => ?_); unfold x; rotate_left; clear_value x)
    | (intro x; clear_value x)
    | intro x
    | with_reducible apply Frame.app (updGrp_frame _ _ _)
    | with_reducible apply Frame.app (alignCopy_frame _ _)
    | with_reducible apply Frame.ite

theorem applyTod_frame (v : Int) (s : State) :
    Frame [.clk, .regs, .lnk, .tod, .vbt] s (applyTod v s) := by
  delta applyTod
  repeat' first
    | with_reducible apply Frame.refl
    | with_reducible assumption
    | apply Eq.refl
    | lift_lets -underBinder -merge -useContext
    | (intro x; refine Frame.cut (cs := [.clk, .regs, .lnk, .tod, .vbt]) (s0 := s) (x := x) ?_ (fun hx => ?_); unfold x; rotate_left; clear_value x)
    | (intro x; clear_value x)
    | intro x
    | with_reducible apply Frame.app (regPut_frame _ _ _)
    | with_reducible apply Frame.app (flagPut_frame _ _ _ _)
    | with_reducible apply Frame.app (saveTod_frame _)
    | with_reducible apply Frame.app (putTod_frame _ _)
    | with_reducible apply Frame.app (stepCopy_frame _ _ _)
    | (with_reducible refine Frame.updTod (by decide) (fun _ h => h) ?_ ?_; (intro _ h; exact h))
    | (with_reducible refine Frame.updTod (by decide) (fun _ h => h) ?_ ?_; (intro _ h; simp only [TodSt.sorted] at h ⊢; simp [h]; done))
    | (with_reducible refine Frame.updTod (by decide) (fun _ h => h) ?_ ?_; (intro _ h; simp only [TodSt.sorted] at h ⊢; and_intros <;> (try dsimp only) <;> (repeat' split) <;> first | (simp [h]; done) | exact tabFold_rising (fun _ _ g => by first | (simp [g]; done) | (split <;> simp [g]; done)) _ _ (by simp [h])))
    | (with_reducible refine Frame.updTod (by decide) (fun _ h => h) ?_ ?_; (intro _ h; simp only [TodSt.sorted] at h ⊢; and_intros <;> first | (simp [h]; done) | exact tabFold_rising (fun _ _ g => by first | (simp [g]; done) | (split <;> simp [g]; done) | exact tabFold_rising (fun _ _ k => by simp [k]) _ _ g) _ _ (by simp [h]) | (repeat' first | exact rfl | exact h | apply tabSet_rising)))
    | with_reducible refine Frame.foldl ?_ (fun _ _ _ => ?_)
    | with_reducible apply_assumption

theorem execTodAdjustApply_frame (s : State) :
    ∀ out, execTodAdjustApply s = .next out → Frame [.clk, .regs, .lnk, .tod, .vbt] s out := by
  delta execTodAdjustApply
  intro out h
  injection h with h
  subst h
  repeat' first
    | with_reducible apply Frame.refl
    | with_reducible assumption
    | apply Eq.refl
    | lift_lets -underBinder -merge -useContext
    | (intro x; refine Frame.cut (cs := [.clk, .regs, .lnk, .tod, .vbt]) (s0 := s) (x := x) ?_ (fun hx => ?_); unfold x; rotate_left; clear_value x)
    | (intro x; clear_value x)
    | intro x
    | with_reducible apply Frame.app (flagPut_frame _ _ _ _)
    | with_reducible apply Frame.app (applyTod_frame _ _)
    | with_reducible apply Frame.ite

theorem execSlewDone_frame (s : State) :
    ∀ out, execSlewDone s = .next out → Frame [.regs] s out := by
  delta execSlewDone
  intro out h
  injection h with h
  subst h
  repeat' first
    | with_reducible apply Frame.refl
    | with_reducible assumption
    | apply Eq.refl
    | lift_lets -underBinder -merge -useContext
    | (intro x; refine Frame.cut (cs := [.regs]) (s0 := s) (x := x) ?_ (fun hx => ?_); unfold x; rotate_left; clear_value x)
    | with_reducible apply Frame.app (flagPut_frame _ _ _ _)
    | with_reducible apply Frame.ite

theorem readSlewAmt_frame (s : State) :
    Frame [.clk] s (readSlewAmt s).2 := by
  delta readSlewAmt
  repeat' first
    | with_reducible apply Frame.refl
    | with_reducible assumption
    | apply Eq.refl
    | lift_lets -underBinder -merge -useContext
    | (intro x; refine Frame.cut (cs := [.clk]) (s0 := s) (x := x) ?_ (fun hx => ?_); unfold x; rotate_left; clear_value x)
    | (intro x; clear_value x)
    | intro x
    | with_reducible apply Frame.app (nextFree_frame _)
    | with_reducible apply Frame.ite
    | with_reducible apply Frame.ite2

theorem execPpsOutRise_frame (s : State) :
    ∀ out, execPpsOutRise s = .next out → Frame [.tod] s out := by
  delta execPpsOutRise
  intro out h
  injection h with h
  subst h
  repeat' first
    | with_reducible apply Frame.refl
    | with_reducible assumption
    | apply Eq.refl
    | lift_lets -underBinder -merge -useContext
    | (intro x; refine Frame.cut (cs := [.tod]) (s0 := s) (x := x) ?_ (fun hx => ?_); unfold x; rotate_left; clear_value x)
    | (with_reducible refine Frame.updTod (by decide) (fun _ h => h) ?_ ?_; (intro _ h; exact h))
    | (with_reducible refine Frame.updTod (by decide) (fun _ h => h) ?_ ?_; (intro _ h; simp only [TodSt.sorted] at h ⊢; simp [h]; done))
    | (with_reducible refine Frame.updTod (by decide) (fun _ h => h) ?_ ?_; (intro _ h; simp only [TodSt.sorted] at h ⊢; and_intros <;> (try dsimp only) <;> (repeat' split) <;> first | (simp [h]; done) | exact tabFold_rising (fun _ _ g => by first | (simp [g]; done) | (split <;> simp [g]; done)) _ _ (by simp [h])))
    | (with_reducible refine Frame.updTod (by decide) (fun _ h => h) ?_ ?_; (intro _ h; simp only [TodSt.sorted] at h ⊢; and_intros <;> first | (simp [h]; done) | exact tabFold_rising (fun _ _ g => by first | (simp [g]; done) | (split <;> simp [g]; done) | exact tabFold_rising (fun _ _ k => by simp [k]) _ _ g) _ _ (by simp [h]) | (repeat' first | exact rfl | exact h | apply tabSet_rising)))
    | with_reducible apply Frame.ite

theorem execPpsOutFall_frame (s : State) :
    ∀ out, execPpsOutFall s = .next out → Frame [.tod] s out := by
  delta execPpsOutFall
  intro out h
  injection h with h
  subst h
  repeat' first
    | with_reducible apply Frame.refl
    | with_reducible assumption
    | apply Eq.refl
    | lift_lets -underBinder -merge -useContext
    | (intro x; refine Frame.cut (cs := [.tod]) (s0 := s) (x := x) ?_ (fun hx => ?_); unfold x; rotate_left; clear_value x)
    | (with_reducible refine Frame.updTod (by decide) (fun _ h => h) ?_ ?_; (intro _ h; exact h))
    | (with_reducible refine Frame.updTod (by decide) (fun _ h => h) ?_ ?_; (intro _ h; simp only [TodSt.sorted] at h ⊢; simp [h]; done))
    | (with_reducible refine Frame.updTod (by decide) (fun _ h => h) ?_ ?_; (intro _ h; simp only [TodSt.sorted] at h ⊢; and_intros <;> (try dsimp only) <;> (repeat' split) <;> first | (simp [h]; done) | exact tabFold_rising (fun _ _ g => by first | (simp [g]; done) | (split <;> simp [g]; done)) _ _ (by simp [h])))
    | (with_reducible refine Frame.updTod (by decide) (fun _ h => h) ?_ ?_; (intro _ h; simp only [TodSt.sorted] at h ⊢; and_intros <;> first | (simp [h]; done) | exact tabFold_rising (fun _ _ g => by first | (simp [g]; done) | (split <;> simp [g]; done) | exact tabFold_rising (fun _ _ k => by simp [k]) _ _ g) _ _ (by simp [h]) | (repeat' first | exact rfl | exact h | apply tabSet_rising)))
    | with_reducible apply Frame.ite

theorem updPulse_frame (i : Nat) (f : Pulse → Pulse) (s : State) :
    Frame [.tod] s (updPulse i f s) := by
  delta updPulse
  repeat' first
    | with_reducible apply Frame.refl
    | with_reducible assumption
    | apply Eq.refl
    | lift_lets -underBinder -merge -useContext
    | (intro x; refine Frame.cut (cs := [.tod]) (s0 := s) (x := x) ?_ (fun hx => ?_); unfold x; rotate_left; clear_value x)
    | (with_reducible refine Frame.updTod (by decide) (fun _ h => h) ?_ ?_; (intro _ h; exact h))
    | (with_reducible refine Frame.updTod (by decide) (fun _ h => h) ?_ ?_; (intro _ h; simp only [TodSt.sorted] at h ⊢; simp [h]; done))
    | (with_reducible refine Frame.updTod (by decide) (fun _ h => h) ?_ ?_; (intro _ h; simp only [TodSt.sorted] at h ⊢; and_intros <;> (try dsimp only) <;> (repeat' split) <;> first | (simp [h]; done) | exact tabFold_rising (fun _ _ g => by first | (simp [g]; done) | (split <;> simp [g]; done)) _ _ (by simp [h])))
    | (with_reducible refine Frame.updTod (by decide) (fun _ h => h) ?_ ?_; (intro _ h; simp only [TodSt.sorted] at h ⊢; and_intros <;> first | (simp [h]; done) | exact tabFold_rising (fun _ _ g => by first | (simp [g]; done) | (split <;> simp [g]; done) | exact tabFold_rising (fun _ _ k => by simp [k]) _ _ g) _ _ (by simp [h]) | (repeat' first | exact rfl | exact h | apply tabSet_rising)))

theorem missPulse_frame (i : Nat) (s : State) :
    Frame [.regs, .err] s (missPulse i s) := by
  delta missPulse
  repeat' first
    | with_reducible apply Frame.refl
    | with_reducible assumption
    | apply Eq.refl
    | lift_lets -underBinder -merge -useContext
    | (intro x; refine Frame.cut (cs := [.regs, .err]) (s0 := s) (x := x) ?_ (fun hx => ?_); unfold x; rotate_left; clear_value x)
    | (intro x; clear_value x)
    | intro x
    | with_reducible apply Frame.app (fieldPut_frame _ _ _ _ _)
    | with_reducible apply Frame.app (raiseInt_frame _ _ _)

theorem execPulseEdge_frame (i : Fin 3) (s : State) :
    ∀ out, execPulseEdge i s = .next out → Frame [.regs, .tod, .err] s out := by
  delta execPulseEdge
  intro out h
  injection h with h
  subst h
  repeat' first
    | with_reducible apply Frame.refl
    | with_reducible assumption
    | apply Eq.refl
    | lift_lets -underBinder -merge -useContext
    | (intro x; refine Frame.cut (cs := [.regs, .tod, .err]) (s0 := s) (x := x) ?_ (fun hx => ?_); unfold x; rotate_left; clear_value x)
    | with_reducible apply Frame.app (updPulse_frame _ _ _)
    | with_reducible apply Frame.app (missPulse_frame _ _)
    | with_reducible apply Frame.ite

theorem capturePulse_frame (i : Nat) (s : State) :
    Frame [.tod] s (capturePulse i s) := by
  delta capturePulse
  repeat' first
    | with_reducible apply Frame.refl
    | with_reducible assumption
    | apply Eq.refl
    | lift_lets -underBinder -merge -useContext
    | (intro x; refine Frame.cut (cs := [.tod]) (s0 := s) (x := x) ?_ (fun hx => ?_); unfold x; rotate_left; clear_value x)
    | with_reducible apply Frame.app (updPulse_frame _ _ _)
    | with_reducible apply Frame.ite
    | split

theorem pulseTick_frame (s : State) :
    Frame [.tod] s (pulseTick s) := by
  delta pulseTick
  repeat' first
    | with_reducible apply Frame.refl
    | with_reducible assumption
    | apply Eq.refl
    | lift_lets -underBinder -merge -useContext
    | (intro x; refine Frame.cut (cs := [.tod]) (s0 := s) (x := x) ?_ (fun hx => ?_); unfold x; rotate_left; clear_value x)
    | with_reducible apply Frame.app (capturePulse_frame _ _)
    | with_reducible refine Frame.foldl ?_ (fun _ _ _ => ?_)
    | with_reducible apply Frame.ite
    | with_reducible apply_assumption
    | split

theorem dropPulse_frame (i : Nat) (s : State) :
    Frame [.regs, .tod, .err] s (dropPulse i s) := by
  delta dropPulse
  repeat' first
    | with_reducible apply Frame.refl
    | with_reducible assumption
    | apply Eq.refl
    | lift_lets -underBinder -merge -useContext
    | (intro x; refine Frame.cut (cs := [.regs, .tod, .err]) (s0 := s) (x := x) ?_ (fun hx => ?_); unfold x; rotate_left; clear_value x)
    | with_reducible apply Frame.app (updPulse_frame _ _ _)
    | with_reducible apply Frame.app (missPulse_frame _ _)
    | with_reducible apply Frame.ite

theorem execPulseRearm_frame (i : Fin 3) (s : State) :
    ∀ out, execPulseRearm i s = .next out → Frame [.tod] s out := by
  delta execPulseRearm
  intro out h
  injection h with h
  subst h
  repeat' first
    | with_reducible apply Frame.refl
    | with_reducible assumption
    | apply Eq.refl
    | lift_lets -underBinder -merge -useContext
    | (intro x; refine Frame.cut (cs := [.tod]) (s0 := s) (x := x) ?_ (fun hx => ?_); unfold x; rotate_left; clear_value x)
    | (intro x; clear_value x)
    | intro x
    | with_reducible apply Frame.app (updPulse_frame _ _ _)
    | with_reducible apply Frame.app (capturePulse_frame _ _)
    | with_reducible apply Frame.ite

theorem wrPulseStat_frame (v : Word) (s : State) :
    Frame [.regs] s (wrPulseStat v s) := by
  delta wrPulseStat
  repeat' first
    | with_reducible apply Frame.refl
    | with_reducible assumption
    | apply Eq.refl
    | lift_lets -underBinder -merge -useContext
    | (intro x; refine Frame.cut (cs := [.regs]) (s0 := s) (x := x) ?_ (fun hx => ?_); unfold x; rotate_left; clear_value x)
    | with_reducible apply Frame.app (fieldPut_frame _ _ _ _ _)
    | with_reducible apply Frame.app (flagPut_frame _ _ _ _)
    | with_reducible refine Frame.foldl ?_ (fun _ _ _ => ?_)
    | with_reducible apply Frame.ite
    | with_reducible apply_assumption

theorem execStampRealign_frame (s : State) :
    ∀ out, execStampRealign s = .next out → Frame [.tod] s out := by
  delta execStampRealign
  intro out h
  injection h with h
  subst h
  repeat' first
    | with_reducible apply Frame.refl
    | with_reducible assumption
    | apply Eq.refl
    | lift_lets -underBinder -merge -useContext
    | (intro x; refine Frame.cut (cs := [.tod]) (s0 := s) (x := x) ?_ (fun hx => ?_); unfold x; rotate_left; clear_value x)
    | with_reducible apply Frame.app (alignCopy_frame _ _)
    | with_reducible refine Frame.foldl ?_ (fun _ _ _ => ?_)
    | with_reducible apply Frame.ite
    | with_reducible apply_assumption

theorem wrSnapSel_frame (src : Party) (v : Word) (s : State) :
    Frame [.regs, .mwin] s (wrSnapSel src v s) := by
  delta wrSnapSel
  repeat' first
    | with_reducible apply Frame.refl
    | with_reducible assumption
    | apply Eq.refl
    | lift_lets -underBinder -merge -useContext
    | (intro x; refine Frame.cut (cs := [.regs, .mwin]) (s0 := s) (x := x) ?_ (fun hx => ?_); unfold x; rotate_left; clear_value x)
    | (intro x; clear_value x)
    | intro x
    | with_reducible apply Frame.app (winPut_frame _ _ _ _)
    | with_reducible refine Frame.foldl ?_ (fun _ _ _ => ?_)
    | with_reducible apply Frame.ite
    | with_reducible apply_assumption

end Sys2Proof.Machine
end

