-- ==== Sys2Proof/Laws/FrameCascade.lean ====
section
/-! SUPPORT. What each operation of Machine/Cascade.lean changes at most, and that it keeps the invariant. -/

namespace Sys2Proof.Machine

set_option linter.all false

open Sys2Proof

theorem enterRing_frame (st : Nat) (s : State) :
    Frame [.regs, .cas, .err] s (enterRing st s) := by
  delta enterRing
  repeat' first
    | with_reducible apply Frame.refl
    | with_reducible assumption
    | apply Eq.refl
    | lift_lets -underBinder -merge -useContext
    | (intro x; refine Frame.cut (cs := [.regs, .cas, .err]) (s0 := s) (x := x) ?_ (fun hx => ?_); unfold x; rotate_left; clear_value x)
    | (intro x; clear_value x)
    | intro x
    | with_reducible apply Frame.app (fieldPut_frame _ _ _ _ _)
    | with_reducible apply Frame.app (flagPut_frame _ _ _ _)
    | with_reducible apply Frame.app (raiseInt_frame _ _ _)
    | (with_reducible refine Frame.updCas (by decide) ?_ ?_; (intro _ h; exact h))
    | (with_reducible refine Frame.updCas (by decide) ?_ ?_; (intro _ h; simp only [CasSt.sorted] at h ⊢; simp [h]; done))
    | (with_reducible refine Frame.updCas (by decide) ?_ ?_; (intro _ h; simp only [CasSt.sorted] at h ⊢; and_intros <;> (try dsimp only) <;> (repeat' split) <;> first | (simp [h]; done) | exact tabFold_rising (fun _ _ g => by first | (simp [g]; done) | (split <;> simp [g]; done)) _ _ (by simp [h])))
    | (with_reducible refine Frame.updCas (by decide) ?_ ?_; (intro _ h; simp only [CasSt.sorted] at h ⊢; and_intros <;> first | (simp [h]; done) | exact tabFold_rising (fun _ _ g => by first | (simp [g]; done) | (split <;> simp [g]; done) | exact tabFold_rising (fun _ _ k => by simp [k]) _ _ g) _ _ (by simp [h]) | (repeat' first | exact rfl | exact h | apply tabSet_rising)))
    | with_reducible apply Frame.ite

theorem ringEnable_frame (s : State) :
    Frame [.regs, .cas, .err] s (ringEnable s) := by
  delta ringEnable
  repeat' first
    | with_reducible apply Frame.refl
    | with_reducible assumption
    | apply Eq.refl
    | lift_lets -underBinder -merge -useContext
    | (intro x; refine Frame.cut (cs := [.regs, .cas, .err]) (s0 := s) (x := x) ?_ (fun hx => ?_); unfold x; rotate_left; clear_value x)
    | with_reducible apply Frame.app (enterRing_frame _ _)
    | with_reducible apply Frame.ite

theorem wrCasCfg_frame (src : Party) (v : Word) (s : State) :
    Frame [.regs, .cas, .prt, .err, .fwu] s (wrCasCfg src v s) := by
  delta wrCasCfg
  repeat' first
    | with_reducible apply Frame.refl
    | with_reducible assumption
    | apply Eq.refl
    | lift_lets -underBinder -merge -useContext
    | (intro x; refine Frame.cut (cs := [.regs, .cas, .prt, .err, .fwu]) (s0 := s) (x := x) ?_ (fun hx => ?_); unfold x; rotate_left; clear_value x)
    | (intro x; clear_value x)
    | intro x
    | with_reducible apply Frame.app (regPut_frame _ _ _)
    | with_reducible apply Frame.app (refuseReg_frame _ _ _ _ _)
    | with_reducible apply Frame.app (markDirty_frame _)
    | with_reducible apply Frame.app (ringEnable_frame _)
    | with_reducible apply Frame.ite
    | with_reducible apply_assumption

theorem execRingLinksUp_frame (s : State) :
    ∀ out, execRingLinksUp s = .next out → Frame [.regs, .cas, .err] s out := by
  delta execRingLinksUp
  intro out h
  injection h with h
  subst h
  repeat' first
    | with_reducible apply Frame.refl
    | with_reducible assumption
    | apply Eq.refl
    | lift_lets -underBinder -merge -useContext
    | (intro x; refine Frame.cut (cs := [.regs, .cas, .err]) (s0 := s) (x := x) ?_ (fun hx => ?_); unfold x; rotate_left; clear_value x)
    | (intro x; clear_value x)
    | intro x
    | with_reducible apply Frame.app (ctlSend_frame _ _ _ _ _)
    | with_reducible apply Frame.app (enterRing_frame _ _)
    | (with_reducible refine Frame.updCas (by decide) ?_ ?_; (intro _ h; exact h))
    | (with_reducible refine Frame.updCas (by decide) ?_ ?_; (intro _ h; simp only [CasSt.sorted] at h ⊢; simp [h]; done))
    | (with_reducible refine Frame.updCas (by decide) ?_ ?_; (intro _ h; simp only [CasSt.sorted] at h ⊢; and_intros <;> (try dsimp only) <;> (repeat' split) <;> first | (simp [h]; done) | exact tabFold_rising (fun _ _ g => by first | (simp [g]; done) | (split <;> simp [g]; done)) _ _ (by simp [h])))
    | (with_reducible refine Frame.updCas (by decide) ?_ ?_; (intro _ h; simp only [CasSt.sorted] at h ⊢; and_intros <;> first | (simp [h]; done) | exact tabFold_rising (fun _ _ g => by first | (simp [g]; done) | (split <;> simp [g]; done) | exact tabFold_rising (fun _ _ k => by simp [k]) _ _ g) _ _ (by simp [h]) | (repeat' first | exact rfl | exact h | apply tabSet_rising)))
    | with_reducible apply Frame.ite

theorem fclCrc_frame (s : State) :
    Frame [.regs, .err] s (fclCrc s) := by
  delta fclCrc
  repeat' first
    | with_reducible apply Frame.refl
    | with_reducible assumption
    | apply Eq.refl
    | lift_lets -underBinder -merge -useContext
    | (intro x; refine Frame.cut (cs := [.regs, .err]) (s0 := s) (x := x) ?_ (fun hx => ?_); unfold x; rotate_left; clear_value x)
    | with_reducible apply Frame.app (cntAdd_frame _ _ _)
    | with_reducible apply Frame.app (raiseInt_frame _ _ _)

theorem fclStray_frame (s : State) :
    Frame [.regs] s (fclStray s) := by
  delta fclStray
  repeat' first
    | with_reducible apply Frame.refl
    | with_reducible assumption
    | apply Eq.refl
    | lift_lets -underBinder -merge -useContext
    | (intro x; refine Frame.cut (cs := [.regs]) (s0 := s) (x := x) ?_ (fun hx => ?_); unfold x; rotate_left; clear_value x)
    | with_reducible apply Frame.app (cntAdd_frame _ _ _)

theorem ctlReceive_frame {cs : List Comp} {s0 s : State} {ty : Nat} {lens : List Nat} {ws : List W64} {consume : State → State}
    (hc : [Comp.regs, .cas, .err].all cs.contains = true) (hf : ∀ t, Frame cs s0 t → Frame cs s0 (consume t)) (h : Frame cs s0 s) :
    Frame cs s0 (ctlReceive ty lens ws consume s) := by
  have h1 : ∀ t, Frame cs s0 t → Frame cs s0 (fclCrc t) := fun _ g =>
    Frame.app (Frame.mono (cs := [.regs, .cas, .err]) (fclCrc_frame _) rfl) hc g
  have h2 : ∀ t, Frame cs s0 t → Frame cs s0 (fclStray t) := fun _ g =>
    Frame.app (Frame.mono (cs := [.regs, .cas, .err]) (fclStray_frame _) rfl) hc g
  have h3 : ∀ w t, Frame cs s0 t → Frame cs s0 (coutSend w t) := fun _ _ g =>
    Frame.app (Frame.mono (cs := [.regs, .cas, .err]) (coutSend_frame _ _) rfl) hc g
  delta ctlReceive
  repeat' first
    | with_reducible assumption
    | with_reducible apply hf
    | with_reducible apply h1
    | with_reducible apply h2
    | with_reducible apply h3
    | lift_lets -underBinder -merge -useContext
    | (intro x; refine Frame.cut (cs := cs) (s0 := s0) (x := x) ?_ (fun hx => ?_); unfold x; rotate_left; clear_value x)
    | (intro x; clear_value x)
    | with_reducible apply Frame.ite

theorem sendAck_frame (h : W64) (result : Nat) (data : List W64) (s : State) :
    Frame [.cas] s (sendAck h result data s) := by
  delta sendAck
  repeat' first
    | with_reducible apply Frame.refl
    | with_reducible assumption
    | apply Eq.refl
    | lift_lets -underBinder -merge -useContext
    | (intro x; refine Frame.cut (cs := [.cas]) (s0 := s) (x := x) ?_ (fun hx => ?_); unfold x; rotate_left; clear_value x)
    | with_reducible apply Frame.app (coutSend_frame _ _)

theorem execDiscoverFrame_frame (words : List W64) (s : State) :
    ∀ out, execDiscoverFrame words s = .next out → Frame [.regs, .cas, .err] s out := by
  delta execDiscoverFrame
  intro out h
  injection h with h
  subst h
  repeat' first
    | with_reducible apply Frame.refl
    | with_reducible assumption
    | apply Eq.refl
    | lift_lets -underBinder -merge -useContext
    | (intro x; refine Frame.cut (cs := [.regs, .cas, .err]) (s0 := s) (x := x) ?_ (fun hx => ?_); unfold x; rotate_left; clear_value x)
    | (intro x; clear_value x)
    | intro x
    | with_reducible apply Frame.app (coutSend_frame _ _)
    | with_reducible apply Frame.app (fclCrc_frame _)
    | with_reducible apply Frame.app (fclStray_frame _)
    | (with_reducible refine Frame.updCas (by decide) ?_ ?_; (intro _ h; exact h))
    | (with_reducible refine Frame.updCas (by decide) ?_ ?_; (intro _ h; simp only [CasSt.sorted] at h ⊢; simp [h]; done))
    | (with_reducible refine Frame.updCas (by decide) ?_ ?_; (intro _ h; simp only [CasSt.sorted] at h ⊢; and_intros <;> (try dsimp only) <;> (repeat' split) <;> first | (simp [h]; done) | exact tabFold_rising (fun _ _ g => by first | (simp [g]; done) | (split <;> simp [g]; done)) _ _ (by simp [h])))
    | (with_reducible refine Frame.updCas (by decide) ?_ ?_; (intro _ h; simp only [CasSt.sorted] at h ⊢; and_intros <;> first | (simp [h]; done) | exact tabFold_rising (fun _ _ g => by first | (simp [g]; done) | (split <;> simp [g]; done) | exact tabFold_rising (fun _ _ k => by simp [k]) _ _ g) _ _ (by simp [h]) | (repeat' first | exact rfl | exact h | apply tabSet_rising)))
    | with_reducible apply Frame.ite

theorem setWk_frame (k st cause : Nat) (s : State) :
    Frame [.regs] s (setWk k st cause s) := by
  delta setWk
  repeat' first
    | with_reducible apply Frame.refl
    | with_reducible assumption
    | apply Eq.refl
    | lift_lets -underBinder -merge -useContext
    | (intro x; refine Frame.cut (cs := [.regs]) (s0 := s) (x := x) ?_ (fun hx => ?_); unfold x; rotate_left; clear_value x)
    | with_reducible apply Frame.app (fieldPut_frame _ _ _ _ _)

theorem updWk_frame (k : Nat) (f : WkFacts → WkFacts) (s : State) :
    Frame [.cas] s (updWk k f s) := by
  delta updWk
  repeat' first
    | with_reducible apply Frame.refl
    | with_reducible assumption
    | apply Eq.refl
    | lift_lets -underBinder -merge -useContext
    | (intro x; refine Frame.cut (cs := [.cas]) (s0 := s) (x := x) ?_ (fun hx => ?_); unfold x; rotate_left; clear_value x)
    | (with_reducible refine Frame.updCas (by decide) ?_ ?_; (intro _ h; exact h))
    | (with_reducible refine Frame.updCas (by decide) ?_ ?_; (intro _ h; simp only [CasSt.sorted] at h ⊢; simp [h]; done))
    | (with_reducible refine Frame.updCas (by decide) ?_ ?_; (intro _ h; simp only [CasSt.sorted] at h ⊢; and_intros <;> (try dsimp only) <;> (repeat' split) <;> first | (simp [h]; done) | exact tabFold_rising (fun _ _ g => by first | (simp [g]; done) | (split <;> simp [g]; done)) _ _ (by simp [h])))
    | (with_reducible refine Frame.updCas (by decide) ?_ ?_; (intro _ h; simp only [CasSt.sorted] at h ⊢; and_intros <;> first | (simp [h]; done) | exact tabFold_rising (fun _ _ g => by first | (simp [g]; done) | (split <;> simp [g]; done) | exact tabFold_rising (fun _ _ k => by simp [k]) _ _ g) _ _ (by simp [h]) | (repeat' first | exact rfl | exact h | apply tabSet_rising)))

theorem serveImage_frame (dst : Nat) (s : State) :
    Frame [.cas] s (serveImage dst s) := by
  delta serveImage
  repeat' first
    | with_reducible apply Frame.refl
    | with_reducible assumption
    | apply Eq.refl
    | lift_lets -underBinder -merge -useContext
    | (intro x; refine Frame.cut (cs := [.cas]) (s0 := s) (x := x) ?_ (fun hx => ?_); unfold x; rotate_left; clear_value x)
    | (intro x; clear_value x)
    | intro x
    | with_reducible apply Frame.app (ctlSend_frame _ _ _ _ _)
    | with_reducible refine Frame.foldl ?_ (fun _ _ _ => ?_)
    | with_reducible apply_assumption

theorem discovered_frame (fault count : Nat) (s : State) :
    Frame [.regs, .cas, .err] s (discovered fault count s) := by
  delta discovered
  repeat' first
    | with_reducible apply Frame.refl
    | with_reducible assumption
    | apply Eq.refl
    | lift_lets -underBinder -merge -useContext
    | (intro x; refine Frame.cut (cs := [.regs, .cas, .err]) (s0 := s) (x := x) ?_ (fun hx => ?_); unfold x; rotate_left; clear_value x)
    | (intro x; clear_value x)
    | intro x
    | with_reducible apply Frame.app (fieldPut_frame _ _ _ _ _)
    | with_reducible apply Frame.app (raiseInt_frame _ _ _)
    | with_reducible apply Frame.app (enterRing_frame _ _)
    | with_reducible apply Frame.app (setWk_frame _ _ _ _)
    | with_reducible apply Frame.app (updWk_frame _ _ _)
    | with_reducible apply Frame.app (serveImage_frame _ _)
    | with_reducible refine Frame.foldl ?_ (fun _ _ _ => ?_)
    | with_reducible apply Frame.ite
    | with_reducible apply_assumption

theorem execDiscoverReturn_frame (words : List W64) (s : State) :
    ∀ out, execDiscoverReturn words s = .next out → Frame [.regs, .cas, .err] s out := by
  delta execDiscoverReturn
  intro out h
  injection h with h
  subst h
  repeat' first
    | with_reducible apply Frame.refl
    | with_reducible assumption
    | apply Eq.refl
    | lift_lets -underBinder -merge -useContext
    | (intro x; refine Frame.cut (cs := [.regs, .cas, .err]) (s0 := s) (x := x) ?_ (fun hx => ?_); unfold x; rotate_left; clear_value x)
    | (intro x; clear_value x)
    | intro x
    | with_reducible apply Frame.app (fclCrc_frame _)
    | with_reducible apply Frame.app (fclStray_frame _)
    | with_reducible apply Frame.app (discovered_frame _ _ _)
    | with_reducible apply Frame.ite

theorem execDiscoverTimeout_frame (s : State) :
    ∀ out, execDiscoverTimeout s = .next out → Frame [.regs, .cas, .err] s out := by
  delta execDiscoverTimeout
  intro out h
  injection h with h
  subst h
  repeat' first
    | with_reducible apply Frame.refl
    | with_reducible assumption
    | apply Eq.refl
    | lift_lets -underBinder -merge -useContext
    | (intro x; refine Frame.cut (cs := [.regs, .cas, .err]) (s0 := s) (x := x) ?_ (fun hx => ?_); unfold x; rotate_left; clear_value x)
    | with_reducible apply Frame.app (discovered_frame _ _ _)
    | with_reducible apply Frame.ite
    | split

theorem sendState_frame (k d : Nat) (s : State) :
    Frame [.cas] s (sendState k d s) := by
  delta sendState
  repeat' first
    | with_reducible apply Frame.refl
    | with_reducible assumption
    | apply Eq.refl
    | lift_lets -underBinder -merge -useContext
    | (intro x; refine Frame.cut (cs := [.cas]) (s0 := s) (x := x) ?_ (fun hx => ?_); unfold x; rotate_left; clear_value x)
    | (intro x; clear_value x)
    | intro x
    | with_reducible apply Frame.app (ctlSend_frame _ _ _ _ _)

theorem replayTo_frame (k : Nat) (s : State) :
    Frame [.cas] s (replayTo k s) := by
  delta replayTo
  repeat' first
    | with_reducible apply Frame.refl
    | with_reducible assumption
    | apply Eq.refl
    | lift_lets -underBinder -merge -useContext
    | (intro x; refine Frame.cut (cs := [.cas]) (s0 := s) (x := x) ?_ (fun hx => ?_); unfold x; rotate_left; clear_value x)
    | with_reducible apply Frame.app (updWk_frame _ _ _)
    | with_reducible apply Frame.app (sendState_frame _ _ _)
    | with_reducible refine Frame.foldl ?_ (fun _ _ _ => ?_)
    | with_reducible apply_assumption

theorem withholdWk_frame (k : Nat) (s : State) :
    Frame [.regs, .err] s (withholdWk k s) := by
  delta withholdWk
  repeat' first
    | with_reducible apply Frame.refl
    | with_reducible assumption
    | apply Eq.refl
    | lift_lets -underBinder -merge -useContext
    | (intro x; refine Frame.cut (cs := [.regs, .err]) (s0 := s) (x := x) ?_ (fun hx => ?_); unfold x; rotate_left; clear_value x)
    | with_reducible apply Frame.app (raiseInt_frame _ _ _)
    | with_reducible apply Frame.app (setWk_frame _ _ _ _)

theorem judgeWk_frame (k : Nat) (s : State) :
    Frame [.regs, .err] s (judgeWk k s) := by
  delta judgeWk
  repeat' first
    | with_reducible apply Frame.refl
    | with_reducible assumption
    | apply Eq.refl
    | lift_lets -underBinder -merge -useContext
    | (intro x; refine Frame.cut (cs := [.regs, .err]) (s0 := s) (x := x) ?_ (fun hx => ?_); unfold x; rotate_left; clear_value x)
    | (intro x; clear_value x)
    | intro x
    | with_reducible apply Frame.app (setWk_frame _ _ _ _)
    | with_reducible apply Frame.app (withholdWk_frame _ _)
    | with_reducible apply Frame.ite

theorem execRingLoadDone_frame (s : State) :
    ∀ out, execRingLoadDone s = .next out → Frame [.regs, .cas, .err] s out := by
  delta execRingLoadDone
  intro out h
  injection h with h
  subst h
  repeat' first
    | with_reducible apply Frame.refl
    | with_reducible assumption
    | apply Eq.refl
    | lift_lets -underBinder -merge -useContext
    | (intro x; refine Frame.cut (cs := [.regs, .cas, .err]) (s0 := s) (x := x) ?_ (fun hx => ?_); unfold x; rotate_left; clear_value x)
    | (intro x; clear_value x)
    | intro x
    | with_reducible apply Frame.app (enterRing_frame _ _)
    | with_reducible apply Frame.app (setWk_frame _ _ _ _)
    | with_reducible apply Frame.app (replayTo_frame _ _)
    | with_reducible apply Frame.app (withholdWk_frame _ _)
    | (with_reducible refine Frame.updCas (by decide) ?_ ?_; (intro _ h; exact h))
    | (with_reducible refine Frame.updCas (by decide) ?_ ?_; (intro _ h; simp only [CasSt.sorted] at h ⊢; simp [h]; done))
    | (with_reducible refine Frame.updCas (by decide) ?_ ?_; (intro _ h; simp only [CasSt.sorted] at h ⊢; and_intros <;> (try dsimp only) <;> (repeat' split) <;> first | (simp [h]; done) | exact tabFold_rising (fun _ _ g => by first | (simp [g]; done) | (split <;> simp [g]; done)) _ _ (by simp [h])))
    | (with_reducible refine Frame.updCas (by decide) ?_ ?_; (intro _ h; simp only [CasSt.sorted] at h ⊢; and_intros <;> first | (simp [h]; done) | exact tabFold_rising (fun _ _ g => by first | (simp [g]; done) | (split <;> simp [g]; done) | exact tabFold_rising (fun _ _ k => by simp [k]) _ _ g) _ _ (by simp [h]) | (repeat' first | exact rfl | exact h | apply tabSet_rising)))
    | with_reducible refine Frame.foldl ?_ (fun _ _ _ => ?_)
    | with_reducible apply Frame.ite
    | with_reducible apply_assumption

theorem execRingAlignDone_frame (s : State) :
    ∀ out, execRingAlignDone s = .next out → Frame [.regs, .cas, .err] s out := by
  delta execRingAlignDone
  intro out h
  injection h with h
  subst h
  repeat' first
    | with_reducible apply Frame.refl
    | with_reducible assumption
    | apply Eq.refl
    | lift_lets -underBinder -merge -useContext
    | (intro x; refine Frame.cut (cs := [.regs, .cas, .err]) (s0 := s) (x := x) ?_ (fun hx => ?_); unfold x; rotate_left; clear_value x)
    | (intro x; clear_value x)
    | intro x
    | with_reducible apply Frame.app (enterRing_frame _ _)
    | with_reducible apply Frame.app (withholdWk_frame _ _)
    | with_reducible refine Frame.foldl ?_ (fun _ _ _ => ?_)
    | with_reducible apply Frame.ite
    | with_reducible apply_assumption

theorem noteOff_frame (was : Bool) (s : State) :
    Frame [.regs, .err] s (noteOff was s) := by
  delta noteOff
  repeat' first
    | with_reducible apply Frame.refl
    | with_reducible assumption
    | apply Eq.refl
    | lift_lets -underBinder -merge -useContext
    | (intro x; refine Frame.cut (cs := [.regs, .err]) (s0 := s) (x := x) ?_ (fun hx => ?_); unfold x; rotate_left; clear_value x)
    | with_reducible apply Frame.app (raiseInt_frame _ _ _)
    | with_reducible apply Frame.ite

theorem execWorkerAdmit_frame (k : Fin 16) (reload : Bool) (s : State) :
    ∀ out, execWorkerAdmit k reload s = .next out → Frame [.regs, .cas, .err] s out := by
  delta execWorkerAdmit
  intro out h
  injection h with h
  subst h
  repeat' first
    | with_reducible apply Frame.refl
    | with_reducible assumption
    | apply Eq.refl
    | lift_lets -underBinder -merge -useContext
    | (intro x; refine Frame.cut (cs := [.regs, .cas, .err]) (s0 := s) (x := x) ?_ (fun hx => ?_); unfold x; rotate_left; clear_value x)
    | (intro x; clear_value x)
    | intro x
    | with_reducible apply Frame.app (raiseInt_frame _ _ _)
    | with_reducible apply Frame.app (setWk_frame _ _ _ _)
    | with_reducible apply Frame.app (updWk_frame _ _ _)
    | with_reducible apply Frame.app (noteOff_frame _ _)
    | (with_reducible refine Frame.updCas (by decide) ?_ ?_; (intro _ h; exact h))
    | (with_reducible refine Frame.updCas (by decide) ?_ ?_; (intro _ h; simp only [CasSt.sorted] at h ⊢; simp [h]; done))
    | (with_reducible refine Frame.updCas (by decide) ?_ ?_; (intro _ h; simp only [CasSt.sorted] at h ⊢; and_intros <;> (try dsimp only) <;> (repeat' split) <;> first | (simp [h]; done) | exact tabFold_rising (fun _ _ g => by first | (simp [g]; done) | (split <;> simp [g]; done)) _ _ (by simp [h])))
    | (with_reducible refine Frame.updCas (by decide) ?_ ?_; (intro _ h; simp only [CasSt.sorted] at h ⊢; and_intros <;> first | (simp [h]; done) | exact tabFold_rising (fun _ _ g => by first | (simp [g]; done) | (split <;> simp [g]; done) | exact tabFold_rising (fun _ _ k => by simp [k]) _ _ g) _ _ (by simp [h]) | (repeat' first | exact rfl | exact h | apply tabSet_rising)))
    | with_reducible apply Frame.ite

theorem wrCasCtl_frame (v : Word) (s : State) :
    Frame [.regs, .cas, .err] s (wrCasCtl v s) := by
  delta wrCasCtl
  repeat' first
    | with_reducible apply Frame.refl
    | with_reducible assumption
    | apply Eq.refl
    | lift_lets -underBinder -merge -useContext
    | (intro x; refine Frame.cut (cs := [.regs, .cas, .err]) (s0 := s) (x := x) ?_ (fun hx => ?_); unfold x; rotate_left; clear_value x)
    | (intro x; clear_value x)
    | intro x
    | with_reducible apply Frame.app (fieldPut_frame _ _ _ _ _)
    | with_reducible apply Frame.app (flagPut_frame _ _ _ _)
    | with_reducible apply Frame.app (enterRing_frame _ _)
    | with_reducible apply Frame.app (updWk_frame _ _ _)
    | with_reducible apply Frame.app (judgeWk_frame _ _)
    | with_reducible apply Frame.ite

theorem deadSearch_frame (h : W64) (s : State) :
    Frame [.pip] s (deadSearch h s) := by
  delta deadSearch
  repeat' first
    | with_reducible apply Frame.refl
    | with_reducible assumption
    | apply Eq.refl
    | lift_lets -underBinder -merge -useContext
    | (intro x; refine Frame.cut (cs := [.pip]) (s0 := s) (x := x) ?_ (fun hx => ?_); unfold x; rotate_left; clear_value x)
    | (intro x; clear_value x)
    | intro x
    | (with_reducible refine Frame.updPip (by decide) ?_ ?_; (intro _ h; exact h))
    | (with_reducible refine Frame.updPip (by decide) ?_ ?_; (intro _ h; simp only [PipSt.sorted] at h ⊢; simp [h]; done))
    | (with_reducible refine Frame.updPip (by decide) ?_ ?_; (intro _ h; simp only [PipSt.sorted] at h ⊢; and_intros <;> (try dsimp only) <;> (repeat' split) <;> first | (simp [h]; done) | exact tabFold_rising (fun _ _ g => by first | (simp [g]; done) | (split <;> simp [g]; done)) _ _ (by simp [h])))
    | (with_reducible refine Frame.updPip (by decide) ?_ ?_; (intro _ h; simp only [PipSt.sorted] at h ⊢; and_intros <;> first | (simp [h]; done) | exact tabFold_rising (fun _ _ g => by first | (simp [g]; done) | (split <;> simp [g]; done) | exact tabFold_rising (fun _ _ k => by simp [k]) _ _ g) _ _ (by simp [h]) | (repeat' first | exact rfl | exact h | apply tabSet_rising)))
    | with_reducible apply Frame.ite

theorem deadCand_frame (f : Search) (s : State) :
    Frame [.clk, .cas] s (deadCand f s) := by
  delta deadCand
  repeat' first
    | with_reducible apply Frame.refl
    | with_reducible assumption
    | apply Eq.refl
    | lift_lets -underBinder -merge -useContext
    | (intro x; refine Frame.cut (cs := [.clk, .cas]) (s0 := s) (x := x) ?_ (fun hx => ?_); unfold x; rotate_left; clear_value x)
    | (intro x; clear_value x)
    | intro x
    | with_reducible apply Frame.app (nextFree_frame _)
    | with_reducible apply Frame.app (coutSend_frame _ _)
    | split

theorem expireCands_frame (s : State) :
    Frame [.clk, .pip, .cas] s (expireCands s) := by
  delta expireCands
  repeat' first
    | with_reducible apply Frame.refl
    | with_reducible assumption
    | apply Eq.refl
    | lift_lets -underBinder -merge -useContext
    | (intro x; refine Frame.cut (cs := [.clk, .pip, .cas]) (s0 := s) (x := x) ?_ (fun hx => ?_); unfold x; rotate_left; clear_value x)
    | (intro x; clear_value x)
    | intro x
    | with_reducible apply Frame.app (coutSend_frame _ _)
    | with_reducible apply Frame.app (deadCand_frame _ _)
    | (with_reducible refine Frame.updPip (by decide) ?_ ?_; (intro _ h; exact h))
    | (with_reducible refine Frame.updPip (by decide) ?_ ?_; (intro _ h; simp only [PipSt.sorted] at h ⊢; simp [h]; done))
    | (with_reducible refine Frame.updPip (by decide) ?_ ?_; (intro _ h; simp only [PipSt.sorted] at h ⊢; and_intros <;> (try dsimp only) <;> (repeat' split) <;> first | (simp [h]; done) | exact tabFold_rising (fun _ _ g => by first | (simp [g]; done) | (split <;> simp [g]; done)) _ _ (by simp [h])))
    | (with_reducible refine Frame.updPip (by decide) ?_ ?_; (intro _ h; simp only [PipSt.sorted] at h ⊢; and_intros <;> first | (simp [h]; done) | exact tabFold_rising (fun _ _ g => by first | (simp [g]; done) | (split <;> simp [g]; done) | exact tabFold_rising (fun _ _ k => by simp [k]) _ _ g) _ _ (by simp [h]) | (repeat' first | exact rfl | exact h | apply tabSet_rising)))
    | with_reducible refine Frame.foldl ?_ (fun _ _ _ => ?_)
    | with_reducible apply Frame.ite
    | with_reducible apply_assumption

theorem workerSearch_frame (ws : List W64) (s : State) :
    Frame [.clk, .regs, .pip, .cas, .hif, .err] s (workerSearch ws s) := by
  delta workerSearch
  repeat' first
    | with_reducible apply Frame.refl
    | with_reducible assumption
    | apply Eq.refl
    | lift_lets -underBinder -merge -useContext
    | (intro x; refine Frame.cut (cs := [.clk, .regs, .pip, .cas, .hif, .err]) (s0 := s) (x := x) ?_ (fun hx => ?_); unfold x; rotate_left; clear_value x)
    | (intro x; clear_value x)
    | intro x
    | with_reducible apply Frame.app (cntAdd_frame _ _ _)
    | with_reducible apply Frame.app (nextFree_frame _)
    | with_reducible apply Frame.app (errRecord_frame _ _ _ _ _ _)
    | with_reducible apply Frame.app (intCount_frame _ _)
    | with_reducible apply Frame.app (noteOff_frame _ _)
    | with_reducible apply Frame.app (deadSearch_frame _ _)
    | (with_reducible refine Frame.updCas (by decide) ?_ ?_; (intro _ h; exact h))
    | (with_reducible refine Frame.updCas (by decide) ?_ ?_; (intro _ h; simp only [CasSt.sorted] at h ⊢; simp [h]; done))
    | (with_reducible refine Frame.updCas (by decide) ?_ ?_; (intro _ h; simp only [CasSt.sorted] at h ⊢; and_intros <;> (try dsimp only) <;> (repeat' split) <;> first | (simp [h]; done) | exact tabFold_rising (fun _ _ g => by first | (simp [g]; done) | (split <;> simp [g]; done)) _ _ (by simp [h])))
    | (with_reducible refine Frame.updCas (by decide) ?_ ?_; (intro _ h; simp only [CasSt.sorted] at h ⊢; and_intros <;> first | (simp [h]; done) | exact tabFold_rising (fun _ _ g => by first | (simp [g]; done) | (split <;> simp [g]; done) | exact tabFold_rising (fun _ _ k => by simp [k]) _ _ g) _ _ (by simp [h]) | (repeat' first | exact rfl | exact h | apply tabSet_rising)))
    | (with_reducible refine Frame.updPip (by decide) ?_ ?_; (intro _ h; exact h))
    | (with_reducible refine Frame.updPip (by decide) ?_ ?_; (intro _ h; simp only [PipSt.sorted] at h ⊢; simp [h]; done))
    | (with_reducible refine Frame.updPip (by decide) ?_ ?_; (intro _ h; simp only [PipSt.sorted] at h ⊢; and_intros <;> (try dsimp only) <;> (repeat' split) <;> first | (simp [h]; done) | exact tabFold_rising (fun _ _ g => by first | (simp [g]; done) | (split <;> simp [g]; done)) _ _ (by simp [h])))
    | (with_reducible refine Frame.updPip (by decide) ?_ ?_; (intro _ h; simp only [PipSt.sorted] at h ⊢; and_intros <;> first | (simp [h]; done) | exact tabFold_rising (fun _ _ g => by first | (simp [g]; done) | (split <;> simp [g]; done) | exact tabFold_rising (fun _ _ k => by simp [k]) _ _ g) _ _ (by simp [h]) | (repeat' first | exact rfl | exact h | apply tabSet_rising)))
    | with_reducible apply Frame.ite
    | split

theorem execCsearch_frame (words : List W64) (s : State) :
    ∀ out, execCsearch words s = .next out → Frame [.clk, .regs, .pip, .cas, .hif, .err, .pwr] s out := by
  delta execCsearch
  intro out h
  injection h with h
  subst h
  repeat' first
    | with_reducible apply Frame.refl
    | with_reducible assumption
    | apply Eq.refl
    | lift_lets -underBinder -merge -useContext
    | (intro x; refine Frame.cut (cs := [.clk, .regs, .pip, .cas, .hif, .err, .pwr]) (s0 := s) (x := x) ?_ (fun hx => ?_); unfold x; rotate_left; clear_value x)
    | (intro x; clear_value x)
    | intro x
    | with_reducible apply Frame.app (wakeEvent_frame _ _)
    | with_reducible apply Frame.app (coutSend_frame _ _)
    | with_reducible apply Frame.app (fclCrc_frame _)
    | with_reducible apply Frame.app (fclStray_frame _)
    | with_reducible apply Frame.app (deadSearch_frame _ _)
    | with_reducible apply Frame.app (expireCands_frame _)
    | with_reducible apply Frame.app (workerSearch_frame _ _)
    | with_reducible apply Frame.ite

theorem execCand_frame (words : List W64) (s : State) :
    ∀ out, execCand words s = .next out → Frame [.clk, .regs, .pip, .cas, .err] s out := by
  delta execCand
  intro out h
  injection h with h
  subst h
  repeat' first
    | with_reducible apply Frame.refl
    | with_reducible assumption
    | apply Eq.refl
    | lift_lets -underBinder -merge -useContext
    | (intro x; refine Frame.cut (cs := [.clk, .regs, .pip, .cas, .err]) (s0 := s) (x := x) ?_ (fun hx => ?_); unfold x; rotate_left; clear_value x)
    | (intro x; clear_value x)
    | intro x
    | with_reducible apply Frame.app (cntAdd_frame _ _ _)
    | with_reducible apply Frame.app (cntWrap_frame _ _ _)
    | with_reducible apply Frame.app (coutSend_frame _ _)
    | with_reducible apply Frame.app (setFlight_frame _ _ _)
    | with_reducible apply Frame.app (dropFlight_frame _ _)
    | with_reducible apply Frame.app (fclCrc_frame _)
    | with_reducible apply Frame.app (fclStray_frame _)
    | with_reducible apply Frame.app (expireCands_frame _)
    | with_reducible apply Frame.ite
    | split

theorem execCasPrepare_frame (words : List W64) (s : State) :
    ∀ out, execCasPrepare words s = .next out → Frame [.regs, .epc, .cas, .err] s out := by
  delta execCasPrepare
  intro out h
  injection h with h
  subst h
  repeat' first
    | with_reducible apply Frame.refl
    | with_reducible assumption
    | apply Eq.refl
    | lift_lets -underBinder -merge -useContext
    | (intro x; refine Frame.cut (cs := [.regs, .epc, .cas, .err]) (s0 := s) (x := x) ?_ (fun hx => ?_); unfold x; rotate_left; clear_value x)
    | (intro x; clear_value x)
    | intro x
    | with_reducible apply Frame.app (updDom_frame _ _ _)
    | with_reducible refine ctlReceive_frame (by decide) (fun _ _ => ?_) ?_
    | with_reducible apply Frame.app (sendAck_frame _ _ _ _)
    | with_reducible apply Frame.ite

theorem execCasDecide_frame (words : List W64) (s : State) :
    ∀ out, execCasDecide words s = .next out → Frame [.regs, .epc, .cas, .err] s out := by
  delta execCasDecide
  intro out h
  injection h with h
  subst h
  repeat' first
    | with_reducible apply Frame.refl
    | with_reducible assumption
    | apply Eq.refl
    | lift_lets -underBinder -merge -useContext
    | (intro x; refine Frame.cut (cs := [.regs, .epc, .cas, .err]) (s0 := s) (x := x) ?_ (fun hx => ?_); unfold x; rotate_left; clear_value x)
    | (intro x; clear_value x)
    | intro x
    | with_reducible apply Frame.app (updDom_frame _ _ _)
    | with_reducible refine ctlReceive_frame (by decide) (fun _ _ => ?_) ?_
    | with_reducible apply Frame.app (sendAck_frame _ _ _ _)
    | with_reducible apply Frame.ite

theorem decideCommit_frame (c : CasCommit) (outcome dev code : Nat) (s : State) :
    Frame [.regs, .cas] s (decideCommit c outcome dev code s) := by
  delta decideCommit
  repeat' first
    | with_reducible apply Frame.refl
    | with_reducible assumption
    | apply Eq.refl
    | lift_lets -underBinder -merge -useContext
    | (intro x; refine Frame.cut (cs := [.regs, .cas]) (s0 := s) (x := x) ?_ (fun hx => ?_); unfold x; rotate_left; clear_value x)
    | (intro x; clear_value x)
    | intro x
    | with_reducible apply Frame.app (regPut_frame _ _ _)
    | with_reducible apply Frame.app (ctlSend_frame _ _ _ _ _)
    | (with_reducible refine Frame.updCas (by decide) ?_ ?_; (intro _ h; exact h))
    | (with_reducible refine Frame.updCas (by decide) ?_ ?_; (intro _ h; simp only [CasSt.sorted] at h ⊢; simp [h]; done))
    | (with_reducible refine Frame.updCas (by decide) ?_ ?_; (intro _ h; simp only [CasSt.sorted] at h ⊢; and_intros <;> (try dsimp only) <;> (repeat' split) <;> first | (simp [h]; done) | exact tabFold_rising (fun _ _ g => by first | (simp [g]; done) | (split <;> simp [g]; done)) _ _ (by simp [h])))
    | (with_reducible refine Frame.updCas (by decide) ?_ ?_; (intro _ h; simp only [CasSt.sorted] at h ⊢; and_intros <;> first | (simp [h]; done) | exact tabFold_rising (fun _ _ g => by first | (simp [g]; done) | (split <;> simp [g]; done) | exact tabFold_rising (fun _ _ k => by simp [k]) _ _ g) _ _ (by simp [h]) | (repeat' first | exact rfl | exact h | apply tabSet_rising)))
    | with_reducible apply Frame.ite

theorem completeCommit_frame (n status value : Nat) (s : State) :
    Frame [.regs, .tbl, .upd, .cas, .hif] s (completeCommit n status value s) := by
  delta completeCommit
  repeat' first
    | with_reducible apply Frame.refl
    | with_reducible assumption
    | apply Eq.refl
    | lift_lets -underBinder -merge -useContext
    | (intro x; refine Frame.cut (cs := [.regs, .tbl, .upd, .cas, .hif]) (s0 := s) (x := x) ?_ (fun hx => ?_); unfold x; rotate_left; clear_value x)
    | with_reducible apply Frame.app (complete_frame _ _ _ _ _ _)
    | with_reducible apply Frame.ite

theorem abortCommit_frame (c : CasCommit) (outcome dev code : Nat) (s : State) :
    Frame [.regs, .tbl, .upd, .cas, .hif, .err] s (abortCommit c outcome dev code s) := by
  delta abortCommit
  repeat' first
    | with_reducible apply Frame.refl
    | with_reducible assumption
    | apply Eq.refl
    | lift_lets -underBinder -merge -useContext
    | (intro x; refine Frame.cut (cs := [.regs, .tbl, .upd, .cas, .hif, .err]) (s0 := s) (x := x) ?_ (fun hx => ?_); unfold x; rotate_left; clear_value x)
    | (intro x; clear_value x)
    | intro x
    | with_reducible apply Frame.app (cntAdd_frame _ _ _)
    | with_reducible apply Frame.app (raiseInt_frame _ _ _)
    | with_reducible apply Frame.app (decideCommit_frame _ _ _ _ _)
    | with_reducible apply Frame.app (completeCommit_frame _ _ _ _)

theorem goCommit_frame (c : CasCommit) (s : State) :
    Frame [.regs, .tbl, .upd, .epc, .cas, .hif] s (goCommit c s) := by
  delta goCommit
  repeat' first
    | with_reducible apply Frame.refl
    | with_reducible assumption
    | apply Eq.refl
    | lift_lets -underBinder -merge -useContext
    | (intro x; refine Frame.cut (cs := [.regs, .tbl, .upd, .epc, .cas, .hif]) (s0 := s) (x := x) ?_ (fun hx => ?_); unfold x; rotate_left; clear_value x)
    | (intro x; clear_value x)
    | intro x
    | with_reducible apply Frame.app (updDom_frame _ _ _)
    | with_reducible apply Frame.app (decideCommit_frame _ _ _ _ _)
    | with_reducible apply Frame.app (completeCommit_frame _ _ _ _)

theorem ackPrepare_frame (k cseq result : Nat) (s : State) :
    Frame [.regs, .tbl, .upd, .epc, .cas, .hif, .err] s (ackPrepare k cseq result s) := by
  delta ackPrepare
  repeat' first
    | with_reducible apply Frame.refl
    | with_reducible assumption
    | apply Eq.refl
    | lift_lets -underBinder -merge -useContext
    | (intro x; refine Frame.cut (cs := [.regs, .tbl, .upd, .epc, .cas, .hif, .err]) (s0 := s) (x := x) ?_ (fun hx => ?_); unfold x; rotate_left; clear_value x)
    | (intro x; clear_value x)
    | intro x
    | with_reducible apply Frame.app (abortCommit_frame _ _ _ _ _)
    | with_reducible apply Frame.app (goCommit_frame _ _)
    | (with_reducible refine Frame.updCas (by decide) ?_ ?_; (intro _ h; exact h))
    | (with_reducible refine Frame.updCas (by decide) ?_ ?_; (intro _ h; simp only [CasSt.sorted] at h ⊢; simp [h]; done))
    | (with_reducible refine Frame.updCas (by decide) ?_ ?_; (intro _ h; simp only [CasSt.sorted] at h ⊢; and_intros <;> (try dsimp only) <;> (repeat' split) <;> first | (simp [h]; done) | exact tabFold_rising (fun _ _ g => by first | (simp [g]; done) | (split <;> simp [g]; done)) _ _ (by simp [h])))
    | (with_reducible refine Frame.updCas (by decide) ?_ ?_; (intro _ h; simp only [CasSt.sorted] at h ⊢; and_intros <;> first | (simp [h]; done) | exact tabFold_rising (fun _ _ g => by first | (simp [g]; done) | (split <;> simp [g]; done) | exact tabFold_rising (fun _ _ k => by simp [k]) _ _ g) _ _ (by simp [h]) | (repeat' first | exact rfl | exact h | apply tabSet_rising)))
    | with_reducible apply Frame.ite
    | split

theorem ackJob_frame (k cseq : Nat) (v : Word) (s : State) :
    Frame [.regs, .tbl, .pip, .cas] s (ackJob k cseq v s) := by
  delta ackJob
  repeat' first
    | with_reducible apply Frame.refl
    | with_reducible assumption
    | apply Eq.refl
    | lift_lets -underBinder -merge -useContext
    | (intro x; refine Frame.cut (cs := [.regs, .tbl, .pip, .cas]) (s0 := s) (x := x) ?_ (fun hx => ?_); unfold x; rotate_left; clear_value x)
    | (intro x; clear_value x)
    | intro x
    | with_reducible apply Frame.app (schedGo_frame _)
    | (with_reducible refine Frame.updCas (by decide) ?_ ?_; (intro _ h; exact h))
    | (with_reducible refine Frame.updCas (by decide) ?_ ?_; (intro _ h; simp only [CasSt.sorted] at h ⊢; simp [h]; done))
    | (with_reducible refine Frame.updCas (by decide) ?_ ?_; (intro _ h; simp only [CasSt.sorted] at h ⊢; and_intros <;> (try dsimp only) <;> (repeat' split) <;> first | (simp [h]; done) | exact tabFold_rising (fun _ _ g => by first | (simp [g]; done) | (split <;> simp [g]; done)) _ _ (by simp [h])))
    | (with_reducible refine Frame.updCas (by decide) ?_ ?_; (intro _ h; simp only [CasSt.sorted] at h ⊢; and_intros <;> first | (simp [h]; done) | exact tabFold_rising (fun _ _ g => by first | (simp [g]; done) | (split <;> simp [g]; done) | exact tabFold_rising (fun _ _ k => by simp [k]) _ _ g) _ _ (by simp [h]) | (repeat' first | exact rfl | exact h | apply tabSet_rising)))
    | (with_reducible refine Frame.updTbl (by decide) ?_ ?_; (intro _ h; exact h))
    | (with_reducible refine Frame.updTbl (by decide) ?_ ?_; (intro _ h; simp only [TblSt.sorted] at h ⊢; simp [h]; done))
    | (with_reducible refine Frame.updTbl (by decide) ?_ ?_; (intro _ h; simp only [TblSt.sorted] at h ⊢; and_intros <;> (try dsimp only) <;> (repeat' split) <;> first | (simp [h]; done) | exact tabFold_rising (fun _ _ g => by first | (simp [g]; done) | (split <;> simp [g]; done)) _ _ (by simp [h])))
    | (with_reducible refine Frame.updTbl (by decide) ?_ ?_; (intro _ h; simp only [TblSt.sorted] at h ⊢; and_intros <;> first | (simp [h]; done) | exact tabFold_rising (fun _ _ g => by first | (simp [g]; done) | (split <;> simp [g]; done) | exact tabFold_rising (fun _ _ k => by simp [k]) _ _ g) _ _ (by simp [h]) | (repeat' first | exact rfl | exact h | apply tabSet_rising)))
    | with_reducible apply Frame.ite

theorem remoteDone_frame (cseq result : Nat) (v : Word) (s : State) :
    Frame [.regs, .cas] s (remoteDone cseq result v s) := by
  delta remoteDone
  repeat' first
    | with_reducible apply Frame.refl
    | with_reducible assumption
    | apply Eq.refl
    | lift_lets -underBinder -merge -useContext
    | (intro x; refine Frame.cut (cs := [.regs, .cas]) (s0 := s) (x := x) ?_ (fun hx => ?_); unfold x; rotate_left; clear_value x)
    | (intro x; clear_value x)
    | intro x
    | with_reducible apply Frame.app (regPut_frame _ _ _)
    | with_reducible apply Frame.app (fieldPut_frame _ _ _ _ _)
    | with_reducible apply Frame.app (flagPut_frame _ _ _ _)
    | (with_reducible refine Frame.updCas (by decide) ?_ ?_; (intro _ h; exact h))
    | (with_reducible refine Frame.updCas (by decide) ?_ ?_; (intro _ h; simp only [CasSt.sorted] at h ⊢; simp [h]; done))
    | (with_reducible refine Frame.updCas (by decide) ?_ ?_; (intro _ h; simp only [CasSt.sorted] at h ⊢; and_intros <;> (try dsimp only) <;> (repeat' split) <;> first | (simp [h]; done) | exact tabFold_rising (fun _ _ g => by first | (simp [g]; done) | (split <;> simp [g]; done)) _ _ (by simp [h])))
    | (with_reducible refine Frame.updCas (by decide) ?_ ?_; (intro _ h; simp only [CasSt.sorted] at h ⊢; and_intros <;> first | (simp [h]; done) | exact tabFold_rising (fun _ _ g => by first | (simp [g]; done) | (split <;> simp [g]; done) | exact tabFold_rising (fun _ _ k => by simp [k]) _ _ g) _ _ (by simp [h]) | (repeat' first | exact rfl | exact h | apply tabSet_rising)))
    | with_reducible apply Frame.ite
    | split

theorem ackEffect_frame (words : List W64) (s : State) :
    Frame [.regs, .tbl, .pip, .upd, .epc, .cas, .hif, .err] s (ackEffect words s) := by
  delta ackEffect
  repeat' first
    | with_reducible apply Frame.refl
    | with_reducible assumption
    | apply Eq.refl
    | lift_lets -underBinder -merge -useContext
    | (intro x; refine Frame.cut (cs := [.regs, .tbl, .pip, .upd, .epc, .cas, .hif, .err]) (s0 := s) (x := x) ?_ (fun hx => ?_); unfold x; rotate_left; clear_value x)
    | (intro x; clear_value x)
    | intro x
    | with_reducible apply Frame.app (updWk_frame _ _ _)
    | with_reducible apply Frame.app (replayTo_frame _ _)
    | with_reducible apply Frame.app (withholdWk_frame _ _)
    | with_reducible apply Frame.app (judgeWk_frame _ _)
    | with_reducible apply Frame.app (ackPrepare_frame _ _ _ _)
    | with_reducible apply Frame.app (ackJob_frame _ _ _ _)
    | with_reducible apply Frame.app (remoteDone_frame _ _ _ _)
    | with_reducible apply Frame.ite
    | split

theorem recvAck_frame (words : List W64) (s : State) :
    Frame [.regs, .tbl, .pip, .upd, .epc, .cas, .hif, .err] s (recvAck words s) := by
  delta recvAck
  repeat' first
    | with_reducible apply Frame.refl
    | with_reducible assumption
    | apply Eq.refl
    | lift_lets -underBinder -merge -useContext
    | (intro x; refine Frame.cut (cs := [.regs, .tbl, .pip, .upd, .epc, .cas, .hif, .err]) (s0 := s) (x := x) ?_ (fun hx => ?_); unfold x; rotate_left; clear_value x)
    | with_reducible refine ctlReceive_frame (by decide) (fun _ _ => ?_) ?_
    | with_reducible apply Frame.app (ackEffect_frame _ _)
    | with_reducible apply Frame.ite

theorem execCasAck_frame (words : List W64) (s : State) :
    ∀ out, execCasAck words s = .next out → Frame [.regs, .tbl, .pip, .upd, .epc, .cas, .hif, .err] s out := by
  delta execCasAck
  intro out h
  injection h with h
  subst h
  repeat' first
    | with_reducible apply Frame.refl
    | with_reducible assumption
    | apply Eq.refl
    | lift_lets -underBinder -merge -useContext
    | (intro x; refine Frame.cut (cs := [.regs, .tbl, .pip, .upd, .epc, .cas, .hif, .err]) (s0 := s) (x := x) ?_ (fun hx => ?_); unfold x; rotate_left; clear_value x)
    | with_reducible apply Frame.app (recvAck_frame _ _)

theorem execPrepareTimeout_frame (s : State) :
    ∀ out, execPrepareTimeout s = .next out → Frame [.regs, .tbl, .upd, .cas, .hif, .err] s out := by
  delta execPrepareTimeout
  intro out h
  injection h with h
  subst h
  repeat' first
    | with_reducible apply Frame.refl
    | with_reducible assumption
    | apply Eq.refl
    | lift_lets -underBinder -merge -useContext
    | (intro x; refine Frame.cut (cs := [.regs, .tbl, .upd, .cas, .hif, .err]) (s0 := s) (x := x) ?_ (fun hx => ?_); unfold x; rotate_left; clear_value x)
    | with_reducible apply Frame.app (abortCommit_frame _ _ _ _ _)
    | with_reducible apply Frame.ite
    | split

theorem seenWorker_frame (w : WorkerSeen) (s : State) :
    Frame [.regs, .cas, .err] s (seenWorker w s) := by
  delta seenWorker
  repeat' first
    | with_reducible apply Frame.refl
    | with_reducible assumption
    | apply Eq.refl
    | lift_lets -underBinder -merge -useContext
    | (intro x; refine Frame.cut (cs := [.regs, .cas, .err]) (s0 := s) (x := x) ?_ (fun hx => ?_); unfold x; rotate_left; clear_value x)
    | (intro x; clear_value x)
    | intro x
    | with_reducible apply Frame.app (fieldPut_frame _ _ _ _ _)
    | with_reducible apply Frame.app (updWk_frame _ _ _)
    | with_reducible apply Frame.app (serveImage_frame _ _)
    | with_reducible apply Frame.app (replayTo_frame _ _)
    | with_reducible apply Frame.app (judgeWk_frame _ _)
    | with_reducible apply Frame.ite
    | split

theorem execTimeFrameSend_frame (seen : List WorkerSeen) (s : State) :
    ∀ out, execTimeFrameSend seen s = .next out → Frame [.regs, .cas, .err] s out := by
  delta execTimeFrameSend
  intro out h
  injection h with h
  subst h
  repeat' first
    | with_reducible apply Frame.refl
    | with_reducible assumption
    | apply Eq.refl
    | lift_lets -underBinder -merge -useContext
    | (intro x; refine Frame.cut (cs := [.regs, .cas, .err]) (s0 := s) (x := x) ?_ (fun hx => ?_); unfold x; rotate_left; clear_value x)
    | with_reducible apply Frame.app (ctlSend_frame _ _ _ _ _)
    | with_reducible apply Frame.app (seenWorker_frame _ _)
    | (with_reducible refine Frame.updCas (by decide) ?_ ?_; (intro _ h; exact h))
    | (with_reducible refine Frame.updCas (by decide) ?_ ?_; (intro _ h; simp only [CasSt.sorted] at h ⊢; simp [h]; done))
    | (with_reducible refine Frame.updCas (by decide) ?_ ?_; (intro _ h; simp only [CasSt.sorted] at h ⊢; and_intros <;> (try dsimp only) <;> (repeat' split) <;> first | (simp [h]; done) | exact tabFold_rising (fun _ _ g => by first | (simp [g]; done) | (split <;> simp [g]; done)) _ _ (by simp [h])))
    | (with_reducible refine Frame.updCas (by decide) ?_ ?_; (intro _ h; simp only [CasSt.sorted] at h ⊢; and_intros <;> first | (simp [h]; done) | exact tabFold_rising (fun _ _ g => by first | (simp [g]; done) | (split <;> simp [g]; done) | exact tabFold_rising (fun _ _ k => by simp [k]) _ _ g) _ _ (by simp [h]) | (repeat' first | exact rfl | exact h | apply tabSet_rising)))
    | with_reducible refine Frame.foldl ?_ (fun _ _ _ => ?_)
    | with_reducible apply Frame.ite
    | with_reducible apply_assumption

theorem steer_frame (off : Int) (s : State) :
    Frame [.clk, .regs, .tod] s (steer off s) := by
  delta steer
  repeat' first
    | with_reducible apply Frame.refl
    | with_reducible assumption
    | apply Eq.refl
    | lift_lets -underBinder -merge -useContext
    | (intro x; refine Frame.cut (cs := [.clk, .regs, .tod]) (s0 := s) (x := x) ?_ (fun hx => ?_); unfold x; rotate_left; clear_value x)
    | (intro x; clear_value x)
    | intro x
    | with_reducible apply Frame.app (regPut_frame _ _ _)
    | with_reducible apply Frame.app (flagPut_frame _ _ _ _)
    | with_reducible apply Frame.app (nextFree_frame _)
    | (with_reducible refine Frame.updTod (by decide) (fun _ h => h) ?_ ?_; (intro _ h; exact h))
    | (with_reducible refine Frame.updTod (by decide) (fun _ h => h) ?_ ?_; (intro _ h; simp only [TodSt.sorted] at h ⊢; simp [h]; done))
    | (with_reducible refine Frame.updTod (by decide) (fun _ h => h) ?_ ?_; (intro _ h; simp only [TodSt.sorted] at h ⊢; and_intros <;> (try dsimp only) <;> (repeat' split) <;> first | (simp [h]; done) | exact tabFold_rising (fun _ _ g => by first | (simp [g]; done) | (split <;> simp [g]; done)) _ _ (by simp [h])))
    | (with_reducible refine Frame.updTod (by decide) (fun _ h => h) ?_ ?_; (intro _ h; simp only [TodSt.sorted] at h ⊢; and_intros <;> first | (simp [h]; done) | exact tabFold_rising (fun _ _ g => by first | (simp [g]; done) | (split <;> simp [g]; done) | exact tabFold_rising (fun _ _ k => by simp [k]) _ _ g) _ _ (by simp [h]) | (repeat' first | exact rfl | exact h | apply tabSet_rising)))

theorem timeReceived_frame (words : List W64) (s : State) :
    Frame [.clk, .regs, .lnk, .tod, .cas, .err, .vbt] s (timeReceived words s) := by
  have hb : ∀ w : W64, bits w 31 26 < 64 := fun w => by unfold bits; omega
  delta timeReceived
  repeat' first
    | with_reducible apply Frame.refl
    | with_reducible assumption
    | apply Eq.refl
    | with_reducible refine Frame.updClk rfl (fun _ _ => hb _) ?_
    | lift_lets -underBinder -merge -useContext
    | (intro x; refine Frame.cut (cs := [.clk, .regs, .lnk, .tod, .cas, .err, .vbt]) (s0 := s) (x := x) ?_ (fun hx => ?_); unfold x; rotate_left; clear_value x)
    | (intro x; clear_value x)
    | intro x
    | with_reducible apply Frame.app (raiseInt_frame _ _ _)
    | with_reducible apply Frame.app (applyTod_frame _ _)
    | with_reducible apply Frame.app (noteOff_frame _ _)
    | with_reducible apply Frame.app (steer_frame _ _)
    | (with_reducible refine Frame.updCas (by decide) ?_ ?_; (intro _ h; exact h))
    | (with_reducible refine Frame.updCas (by decide) ?_ ?_; (intro _ h; simp only [CasSt.sorted] at h ⊢; simp [h]; done))
    | (with_reducible refine Frame.updCas (by decide) ?_ ?_; (intro _ h; simp only [CasSt.sorted] at h ⊢; and_intros <;> (try dsimp only) <;> (repeat' split) <;> first | (simp [h]; done) | exact tabFold_rising (fun _ _ g => by first | (simp [g]; done) | (split <;> simp [g]; done)) _ _ (by simp [h])))
    | (with_reducible refine Frame.updCas (by decide) ?_ ?_; (intro _ h; simp only [CasSt.sorted] at h ⊢; and_intros <;> first | (simp [h]; done) | exact tabFold_rising (fun _ _ g => by first | (simp [g]; done) | (split <;> simp [g]; done) | exact tabFold_rising (fun _ _ k => by simp [k]) _ _ g) _ _ (by simp [h]) | (repeat' first | exact rfl | exact h | apply tabSet_rising)))
    | with_reducible refine Frame.updClk (by decide) (fun _ h => by first | exact h | exact regsNil_ok) ?_
    | with_reducible apply Frame.ite

theorem execTimeFrame_frame (words : List W64) (s : State) :
    ∀ out, execTimeFrame words s = .next out → Frame [.clk, .regs, .lnk, .tod, .cas, .err, .vbt] s out := by
  delta execTimeFrame
  intro out h
  injection h with h
  subst h
  repeat' first
    | with_reducible apply Frame.refl
    | with_reducible assumption
    | apply Eq.refl
    | lift_lets -underBinder -merge -useContext
    | (intro x; refine Frame.cut (cs := [.clk, .regs, .lnk, .tod, .cas, .err, .vbt]) (s0 := s) (x := x) ?_ (fun hx => ?_); unfold x; rotate_left; clear_value x)
    | with_reducible refine ctlReceive_frame (by decide) (fun _ _ => ?_) ?_
    | with_reducible apply Frame.app (timeReceived_frame _ _)
    | with_reducible apply Frame.ite

theorem applyState_frame (d counter code t : Nat) (go : Bool) (s : State) :
    Frame [.regs, .pip, .epc, .err, .pwr] s (applyState d counter code t go s) := by
  delta applyState
  repeat' first
    | with_reducible apply Frame.refl
    | with_reducible assumption
    | apply Eq.refl
    | lift_lets -underBinder -merge -useContext
    | (intro x; refine Frame.cut (cs := [.regs, .pip, .epc, .err, .pwr]) (s0 := s) (x := x) ?_ (fun hx => ?_); unfold x; rotate_left; clear_value x)
    | (intro x; clear_value x)
    | intro x
    | with_reducible apply Frame.app (updDom_frame _ _ _)
    | with_reducible apply Frame.app (flip_frame _ _ _)
    | with_reducible apply Frame.ite

theorem execStateFrame_frame (words : List W64) (s : State) :
    ∀ out, execStateFrame words s = .next out → Frame [.regs, .pip, .epc, .cas, .err, .pwr] s out := by
  delta execStateFrame
  intro out h
  injection h with h
  subst h
  repeat' first
    | with_reducible apply Frame.refl
    | with_reducible assumption
    | apply Eq.refl
    | lift_lets -underBinder -merge -useContext
    | (intro x; refine Frame.cut (cs := [.regs, .pip, .epc, .cas, .err, .pwr]) (s0 := s) (x := x) ?_ (fun hx => ?_); unfold x; rotate_left; clear_value x)
    | (intro x; clear_value x)
    | intro x
    | with_reducible refine ctlReceive_frame (by decide) (fun _ _ => ?_) ?_
    | with_reducible apply Frame.app (sendAck_frame _ _ _ _)
    | with_reducible apply Frame.app (applyState_frame _ _ _ _ _ _)
    | with_reducible apply Frame.ite

theorem relayCommand_frame (words : List W64) (s : State) :
    Frame [.regs, .upd, .cas] s (relayCommand words s) := by
  delta relayCommand
  repeat' first
    | with_reducible apply Frame.refl
    | with_reducible assumption
    | apply Eq.refl
    | lift_lets -underBinder -merge -useContext
    | (intro x; refine Frame.cut (cs := [.regs, .upd, .cas]) (s0 := s) (x := x) ?_ (fun hx => ?_); unfold x; rotate_left; clear_value x)
    | (intro x; clear_value x)
    | intro x
    | with_reducible apply Frame.app (updRing_frame _ _ _)
    | with_reducible apply Frame.app (ringOpens_frame _ _)
    | with_reducible apply Frame.app (fclStray_frame _)
    | (with_reducible refine Frame.updCas (by decide) ?_ ?_; (intro _ h; exact h))
    | (with_reducible refine Frame.updCas (by decide) ?_ ?_; (intro _ h; simp only [CasSt.sorted] at h ⊢; simp [h]; done))
    | (with_reducible refine Frame.updCas (by decide) ?_ ?_; (intro _ h; simp only [CasSt.sorted] at h ⊢; and_intros <;> (try dsimp only) <;> (repeat' split) <;> first | (simp [h]; done) | exact tabFold_rising (fun _ _ g => by first | (simp [g]; done) | (split <;> simp [g]; done)) _ _ (by simp [h])))
    | (with_reducible refine Frame.updCas (by decide) ?_ ?_; (intro _ h; simp only [CasSt.sorted] at h ⊢; and_intros <;> first | (simp [h]; done) | exact tabFold_rising (fun _ _ g => by first | (simp [g]; done) | (split <;> simp [g]; done) | exact tabFold_rising (fun _ _ k => by simp [k]) _ _ g) _ _ (by simp [h]) | (repeat' first | exact rfl | exact h | apply tabSet_rising)))
    | with_reducible apply Frame.ite

theorem relayDone_frame (words : List W64) (s : State) :
    Frame [.regs, .tbl, .upd, .cas, .hif] s (relayDone words s) := by
  delta relayDone
  repeat' first
    | with_reducible apply Frame.refl
    | with_reducible assumption
    | apply Eq.refl
    | lift_lets -underBinder -merge -useContext
    | (intro x; refine Frame.cut (cs := [.regs, .tbl, .upd, .cas, .hif]) (s0 := s) (x := x) ?_ (fun hx => ?_); unfold x; rotate_left; clear_value x)
    | (intro x; clear_value x)
    | intro x
    | with_reducible apply Frame.app (complete_frame _ _ _ _ _ _)
    | with_reducible apply Frame.app (fclStray_frame _)
    | split

theorem execRelayFrame_frame (words : List W64) (s : State) :
    ∀ out, execRelayFrame words s = .next out → Frame [.regs, .tbl, .upd, .cas, .hif, .err] s out := by
  delta execRelayFrame
  intro out h
  injection h with h
  subst h
  repeat' first
    | with_reducible apply Frame.refl
    | with_reducible assumption
    | apply Eq.refl
    | lift_lets -underBinder -merge -useContext
    | (intro x; refine Frame.cut (cs := [.regs, .tbl, .upd, .cas, .hif, .err]) (s0 := s) (x := x) ?_ (fun hx => ?_); unfold x; rotate_left; clear_value x)
    | with_reducible refine ctlReceive_frame (by decide) (fun _ _ => ?_) ?_
    | with_reducible apply Frame.app (relayCommand_frame _ _)
    | with_reducible apply Frame.app (relayDone_frame _ _)
    | with_reducible apply Frame.ite

theorem wrRaCtl_frame (src : Party) (v : Word) (s : State) :
    Frame [.regs, .cas, .prt, .err] s (wrRaCtl src v s) := by
  delta wrRaCtl
  repeat' first
    | with_reducible apply Frame.refl
    | with_reducible assumption
    | apply Eq.refl
    | lift_lets -underBinder -merge -useContext
    | (intro x; refine Frame.cut (cs := [.regs, .cas, .prt, .err]) (s0 := s) (x := x) ?_ (fun hx => ?_); unfold x; rotate_left; clear_value x)
    | (intro x; clear_value x)
    | intro x
    | with_reducible apply Frame.app (flagPut_frame _ _ _ _)
    | with_reducible apply Frame.app (refuseReg_frame _ _ _ _ _)
    | with_reducible apply Frame.app (ctrlWrite_frame _ _ _ _)
    | with_reducible apply Frame.app (ctrlRead_frame _ _ _)
    | (with_reducible refine Frame.updCas (by decide) ?_ ?_; (intro _ h; exact h))
    | (with_reducible refine Frame.updCas (by decide) ?_ ?_; (intro _ h; simp only [CasSt.sorted] at h ⊢; simp [h]; done))
    | (with_reducible refine Frame.updCas (by decide) ?_ ?_; (intro _ h; simp only [CasSt.sorted] at h ⊢; and_intros <;> (try dsimp only) <;> (repeat' split) <;> first | (simp [h]; done) | exact tabFold_rising (fun _ _ g => by first | (simp [g]; done) | (split <;> simp [g]; done)) _ _ (by simp [h])))
    | (with_reducible refine Frame.updCas (by decide) ?_ ?_; (intro _ h; simp only [CasSt.sorted] at h ⊢; and_intros <;> first | (simp [h]; done) | exact tabFold_rising (fun _ _ g => by first | (simp [g]; done) | (split <;> simp [g]; done) | exact tabFold_rising (fun _ _ k => by simp [k]) _ _ g) _ _ (by simp [h]) | (repeat' first | exact rfl | exact h | apply tabSet_rising)))
    | with_reducible apply Frame.ite

theorem wrRaWindow_frame (src : Party) (off : Nat) (v : Word) (s : State) :
    Frame [.regs, .prt, .err] s (wrRaWindow src off v s) := by
  delta wrRaWindow
  repeat' first
    | with_reducible apply Frame.refl
    | with_reducible assumption
    | apply Eq.refl
    | lift_lets -underBinder -merge -useContext
    | (intro x; refine Frame.cut (cs := [.regs, .prt, .err]) (s0 := s) (x := x) ?_ (fun hx => ?_); unfold x; rotate_left; clear_value x)
    | with_reducible apply Frame.app (plainWrite_frame _ _ _)
    | with_reducible apply Frame.app (refuseReg_frame _ _ _ _ _)
    | with_reducible apply Frame.ite

theorem execCasRaDone_frame (words : List W64) (s : State) :
    ∀ out, execCasRaDone words s = .next out → Frame [.regs, .tbl, .pip, .upd, .epc, .cas, .hif, .err] s out := by
  delta execCasRaDone
  intro out h
  injection h with h
  subst h
  repeat' first
    | with_reducible apply Frame.refl
    | with_reducible assumption
    | apply Eq.refl
    | lift_lets -underBinder -merge -useContext
    | (intro x; refine Frame.cut (cs := [.regs, .tbl, .pip, .upd, .epc, .cas, .hif, .err]) (s0 := s) (x := x) ?_ (fun hx => ?_); unfold x; rotate_left; clear_value x)
    | with_reducible apply Frame.app (recvAck_frame _ _)

end Sys2Proof.Machine
end

