-- ==== Sys2Proof/Laws/FrameDram.lean ====
section
/-! SUPPORT. What each operation of Machine/Dram.lean changes at most, and that it keeps the invariant. -/

namespace Sys2Proof.Machine

set_option linter.all false

open Sys2Proof

theorem setOwner_frame (n o : Nat) (s : State) :
    Frame [.regs] s (setOwner n o s) := by
  delta setOwner
  repeat' first
    | with_reducible apply Frame.refl
    | with_reducible assumption
    | apply Eq.refl
    | lift_lets -underBinder -merge -useContext
    | (intro x; refine Frame.cut (cs := [.regs]) (s0 := s) (x := x) ?_ (fun hx => ?_); unfold x; rotate_left; clear_value x)
    | with_reducible apply Frame.app (fieldPut_frame _ _ _ _ _)

theorem ownAll_frame (o : Nat) (s : State) :
    Frame [.regs, .drc] s (ownAll o s) := by
  delta ownAll
  repeat' first
    | with_reducible apply Frame.refl
    | with_reducible assumption
    | apply Eq.refl
    | lift_lets -underBinder -merge -useContext
    | (intro x; refine Frame.cut (cs := [.regs, .drc]) (s0 := s) (x := x) ?_ (fun hx => ?_); unfold x; rotate_left; clear_value x)
    | with_reducible apply Frame.app (flagPut_frame _ _ _ _)
    | with_reducible apply Frame.app (setOwner_frame _ _ _)
    | (with_reducible refine Frame.updDrc (by decide) ?_ ?_; (intro _ h; exact h))
    | (with_reducible refine Frame.updDrc (by decide) ?_ ?_; (intro _ h; simp only [DrcSt.sorted] at h ⊢; simp [h]; done))
    | (with_reducible refine Frame.updDrc (by decide) ?_ ?_; (intro _ h; simp only [DrcSt.sorted] at h ⊢; and_intros <;> (try dsimp only) <;> (repeat' split) <;> first | (simp [h]; done) | exact tabFold_rising (fun _ _ g => by first | (simp [g]; done) | (split <;> simp [g]; done)) _ _ (by simp [h])))
    | (with_reducible refine Frame.updDrc (by decide) ?_ ?_; (intro _ h; simp only [DrcSt.sorted] at h ⊢; and_intros <;> first | (simp [h]; done) | exact tabFold_rising (fun _ _ g => by first | (simp [g]; done) | (split <;> simp [g]; done) | exact tabFold_rising (fun _ _ k => by simp [k]) _ _ g) _ _ (by simp [h]) | (repeat' first | exact rfl | exact h | apply tabSet_rising)))
    | with_reducible refine Frame.foldl ?_ (fun _ _ _ => ?_)
    | with_reducible apply_assumption

theorem startTraining_frame (s : State) :
    Frame [.regs, .lnk] s (startTraining s) := by
  delta startTraining
  repeat' first
    | with_reducible apply Frame.refl
    | with_reducible assumption
    | apply Eq.refl
    | lift_lets -underBinder -merge -useContext
    | (intro x; refine Frame.cut (cs := [.regs, .lnk]) (s0 := s) (x := x) ?_ (fun hx => ?_); unfold x; rotate_left; clear_value x)
    | with_reducible apply Frame.app (startTx_frame _ _)
    | with_reducible apply Frame.app (enterAdapt_frame _ _)
    | with_reducible refine Frame.foldl ?_ (fun _ _ _ => ?_)
    | with_reducible apply Frame.ite
    | with_reducible apply_assumption

theorem enterService_frame (s : State) :
    Frame [.regs, .lnk] s (enterService s) := by
  delta enterService
  repeat' first
    | with_reducible apply Frame.refl
    | with_reducible assumption
    | apply Eq.refl
    | lift_lets -underBinder -merge -useContext
    | (intro x; refine Frame.cut (cs := [.regs, .lnk]) (s0 := s) (x := x) ?_ (fun hx => ?_); unfold x; rotate_left; clear_value x)
    | (intro x; clear_value x)
    | intro x
    | with_reducible apply Frame.app (fieldPut_frame _ _ _ _ _)
    | with_reducible apply Frame.app (flagPut_frame _ _ _ _)
    | with_reducible apply Frame.app (startTraining_frame _)
    | with_reducible apply Frame.ite

theorem wrMemMode_frame (src : Party) (v : Word) (s : State) :
    Frame [.regs, .lnk, .prt, .err, .drc] s (wrMemMode src v s) := by
  delta wrMemMode
  repeat' first
    | with_reducible apply Frame.refl
    | with_reducible assumption
    | apply Eq.refl
    | lift_lets -underBinder -merge -useContext
    | (intro x; refine Frame.cut (cs := [.regs, .lnk, .prt, .err, .drc]) (s0 := s) (x := x) ?_ (fun hx => ?_); unfold x; rotate_left; clear_value x)
    | (intro x; refine Frame.cutK (cs := [.regs, .lnk, .prt, .err, .drc]) (s0 := s) (x := x) (fun _ => ?_) (fun hx => ?_); unfold x; rotate_left; clear_value x)
    | (intro x; refine Frame.cutK2 (cs := [.regs, .lnk, .prt, .err, .drc]) (s0 := s) (x := x) (fun _ _ => ?_) (fun hx => ?_); unfold x; rotate_left; clear_value x)
    | (intro x; clear_value x)
    | intro x
    | with_reducible apply Frame.app (fieldPut_frame _ _ _ _ _)
    | with_reducible apply Frame.app (refuseReg_frame _ _ _ _ _)
    | with_reducible apply Frame.app (ownAll_frame _ _)
    | with_reducible apply Frame.app (enterService_frame _)
    | with_reducible apply Frame.ite
    | with_reducible apply_assumption

theorem wrBankOwn_frame (src : Party) (n : Nat) (v : Word) (s : State) :
    Frame [.regs, .prt, .err, .drc] s (wrBankOwn src n v s) := by
  delta wrBankOwn
  repeat' first
    | with_reducible apply Frame.refl
    | with_reducible assumption
    | apply Eq.refl
    | lift_lets -underBinder -merge -useContext
    | (intro x; refine Frame.cut (cs := [.regs, .prt, .err, .drc]) (s0 := s) (x := x) ?_ (fun hx => ?_); unfold x; rotate_left; clear_value x)
    | (intro x; clear_value x)
    | intro x
    | with_reducible apply Frame.app (fieldPut_frame _ _ _ _ _)
    | with_reducible apply Frame.app (flagPut_frame _ _ _ _)
    | with_reducible apply Frame.app (refuseReg_frame _ _ _ _ _)
    | (with_reducible refine Frame.updDrc (by decide) ?_ ?_; (intro _ h; exact h))
    | (with_reducible refine Frame.updDrc (by decide) ?_ ?_; (intro _ h; simp only [DrcSt.sorted] at h ⊢; simp [h]; done))
    | (with_reducible refine Frame.updDrc (by decide) ?_ ?_; (intro _ h; simp only [DrcSt.sorted] at h ⊢; and_intros <;> (try dsimp only) <;> (repeat' split) <;> first | (simp [h]; done) | exact tabFold_rising (fun _ _ g => by first | (simp [g]; done) | (split <;> simp [g]; done)) _ _ (by simp [h])))
    | (with_reducible refine Frame.updDrc (by decide) ?_ ?_; (intro _ h; simp only [DrcSt.sorted] at h ⊢; and_intros <;> first | (simp [h]; done) | exact tabFold_rising (fun _ _ g => by first | (simp [g]; done) | (split <;> simp [g]; done) | exact tabFold_rising (fun _ _ k => by simp [k]) _ _ g) _ _ (by simp [h]) | (repeat' first | exact rfl | exact h | apply tabSet_rising)))
    | with_reducible apply Frame.ite

theorem lendMailbox_frame (s : State) :
    Frame [.regs] s (lendMailbox s) := by
  delta lendMailbox
  repeat' first
    | with_reducible apply Frame.refl
    | with_reducible assumption
    | apply Eq.refl
    | lift_lets -underBinder -merge -useContext
    | (intro x; refine Frame.cut (cs := [.regs]) (s0 := s) (x := x) ?_ (fun hx => ?_); unfold x; rotate_left; clear_value x)
    | with_reducible apply Frame.app (setOwner_frame _ _ _)
    | with_reducible refine Frame.foldl ?_ (fun _ _ _ => ?_)
    | with_reducible apply_assumption

theorem mailboxTaken_frame (s : State) :
    Frame [.regs, .fwu] s (mailboxTaken s) := by
  delta mailboxTaken
  repeat' first
    | with_reducible apply Frame.refl
    | with_reducible assumption
    | apply Eq.refl
    | lift_lets -underBinder -merge -useContext
    | (intro x; refine Frame.cut (cs := [.regs, .fwu]) (s0 := s) (x := x) ?_ (fun hx => ?_); unfold x; rotate_left; clear_value x)
    | (intro x; clear_value x)
    | intro x
    | with_reducible apply Frame.app (lendMailbox_frame _)
    | (with_reducible refine Frame.updFwu (by decide) ?_ ?_; (intro _ h; exact h))
    | (with_reducible refine Frame.updFwu (by decide) ?_ ?_; (intro _ h; simp only [FwuSt.sorted] at h ⊢; simp [h]; done))
    | (with_reducible refine Frame.updFwu (by decide) ?_ ?_; (intro _ h; simp only [FwuSt.sorted] at h ⊢; and_intros <;> (try dsimp only) <;> (repeat' split) <;> first | (simp [h]; done) | exact tabFold_rising (fun _ _ g => by first | (simp [g]; done) | (split <;> simp [g]; done)) _ _ (by simp [h])))
    | (with_reducible refine Frame.updFwu (by decide) ?_ ?_; (intro _ h; simp only [FwuSt.sorted] at h ⊢; and_intros <;> first | (simp [h]; done) | exact tabFold_rising (fun _ _ g => by first | (simp [g]; done) | (split <;> simp [g]; done) | exact tabFold_rising (fun _ _ k => by simp [k]) _ _ g) _ _ (by simp [h]) | (repeat' first | exact rfl | exact h | apply tabSet_rising)))
    | with_reducible apply Frame.ite
    | split

theorem execBankHandoverDone_frame (n : Fin 72) (s : State) :
    ∀ out, execBankHandoverDone n s = .next out → Frame [.regs, .drc, .fwu] s out := by
  delta execBankHandoverDone
  intro out h
  injection h with h
  subst h
  repeat' first
    | with_reducible apply Frame.refl
    | with_reducible assumption
    | apply Eq.refl
    | lift_lets -underBinder -merge -useContext
    | (intro x; refine Frame.cut (cs := [.regs, .drc, .fwu]) (s0 := s) (x := x) ?_ (fun hx => ?_); unfold x; rotate_left; clear_value x)
    | with_reducible apply Frame.app (flagPut_frame _ _ _ _)
    | with_reducible apply Frame.app (setOwner_frame _ _ _)
    | with_reducible apply Frame.app (mailboxTaken_frame _)
    | (with_reducible refine Frame.updDrc (by decide) ?_ ?_; (intro _ h; exact h))
    | (with_reducible refine Frame.updDrc (by decide) ?_ ?_; (intro _ h; simp only [DrcSt.sorted] at h ⊢; simp [h]; done))
    | (with_reducible refine Frame.updDrc (by decide) ?_ ?_; (intro _ h; simp only [DrcSt.sorted] at h ⊢; and_intros <;> (try dsimp only) <;> (repeat' split) <;> first | (simp [h]; done) | exact tabFold_rising (fun _ _ g => by first | (simp [g]; done) | (split <;> simp [g]; done)) _ _ (by simp [h])))
    | (with_reducible refine Frame.updDrc (by decide) ?_ ?_; (intro _ h; simp only [DrcSt.sorted] at h ⊢; and_intros <;> first | (simp [h]; done) | exact tabFold_rising (fun _ _ g => by first | (simp [g]; done) | (split <;> simp [g]; done) | exact tabFold_rising (fun _ _ k => by simp [k]) _ _ g) _ _ (by simp [h]) | (repeat' first | exact rfl | exact h | apply tabSet_rising)))
    | with_reducible apply Frame.ite

theorem handBack_frame (n : Nat) (s : State) :
    Frame [.regs] s (handBack n s) := by
  delta handBack
  repeat' first
    | with_reducible apply Frame.refl
    | with_reducible assumption
    | apply Eq.refl
    | lift_lets -underBinder -merge -useContext
    | (intro x; refine Frame.cut (cs := [.regs]) (s0 := s) (x := x) ?_ (fun hx => ?_); unfold x; rotate_left; clear_value x)
    | with_reducible apply Frame.app (setOwner_frame _ _ _)

theorem clearBank_frame (n : Nat) (s : State) :
    Frame [.mem] s (clearBank n s) := by
  delta clearBank
  repeat' first
    | with_reducible apply Frame.refl
    | with_reducible assumption
    | apply Eq.refl
    | lift_lets -underBinder -merge -useContext
    | (intro x; refine Frame.cut (cs := [.mem]) (s0 := s) (x := x) ?_ (fun hx => ?_); unfold x; rotate_left; clear_value x)
    | (with_reducible refine Frame.updMem (by decide) (fun _ h => h) (fun _ h => h) (fun _ h => h) ?_ ?_; (intro _ h; exact h))
    | (with_reducible refine Frame.updMem (by decide) (fun _ h => h) (fun _ h => h) (fun _ h => h) ?_ ?_; (intro _ h; simp only [MemSt.sorted] at h ⊢; simp [h]; done))
    | (with_reducible refine Frame.updMem (by decide) (fun _ h => h) (fun _ h => h) (fun _ h => h) ?_ ?_; (intro _ h; simp only [MemSt.sorted] at h ⊢; and_intros <;> (try dsimp only) <;> (repeat' split) <;> first | (simp [h]; done) | exact tabFold_rising (fun _ _ g => by first | (simp [g]; done) | (split <;> simp [g]; done)) _ _ (by simp [h])))
    | (with_reducible refine Frame.updMem (by decide) (fun _ h => h) (fun _ h => h) (fun _ h => h) ?_ ?_; (intro _ h; simp only [MemSt.sorted] at h ⊢; and_intros <;> first | (simp [h]; done) | exact tabFold_rising (fun _ _ g => by first | (simp [g]; done) | (split <;> simp [g]; done) | exact tabFold_rising (fun _ _ k => by simp [k]) _ _ g) _ _ (by simp [h]) | (repeat' first | exact rfl | exact h | apply tabSet_rising)))
    | (with_reducible refine Frame.updMem (by decide) (fun _ h => by first | exact h | exact memNil_wf | exact memSetWord_wf _ _ _ h | exact memFilter_wf _ _ h) (fun _ h => by first | exact h | exact memNil_wf | exact memSetWord_wf _ _ _ h | exact memFilter_wf _ _ h) (fun _ h => by first | exact h | exact memNil_wf | exact memSetByte_wf _ _ _ h | exact memFilter_wf _ _ h) ?_ ?_; (intro _ h; exact h))
    | (with_reducible refine Frame.updMem (by decide) (fun _ h => by first | exact h | exact memNil_wf | exact memSetWord_wf _ _ _ h | exact memFilter_wf _ _ h) (fun _ h => by first | exact h | exact memNil_wf | exact memSetWord_wf _ _ _ h | exact memFilter_wf _ _ h) (fun _ h => by first | exact h | exact memNil_wf | exact memSetByte_wf _ _ _ h | exact memFilter_wf _ _ h) ?_ ?_; (intro _ h; simp only [MemSt.sorted] at h ⊢; simp [h]; done))
    | (with_reducible refine Frame.updMem (by decide) (fun _ h => by first | exact h | exact memNil_wf | exact memSetWord_wf _ _ _ h | exact memFilter_wf _ _ h) (fun _ h => by first | exact h | exact memNil_wf | exact memSetWord_wf _ _ _ h | exact memFilter_wf _ _ h) (fun _ h => by first | exact h | exact memNil_wf | exact memSetByte_wf _ _ _ h | exact memFilter_wf _ _ h) ?_ ?_; (intro _ h; simp only [MemSt.sorted] at h ⊢; and_intros <;> (try dsimp only) <;> (repeat' split) <;> first | (simp [h]; done) | exact tabFold_rising (fun _ _ g => by first | (simp [g]; done) | (split <;> simp [g]; done)) _ _ (by simp [h])))
    | (with_reducible refine Frame.updMem (by decide) (fun _ h => by first | exact h | exact memNil_wf | exact memSetWord_wf _ _ _ h | exact memFilter_wf _ _ h) (fun _ h => by first | exact h | exact memNil_wf | exact memSetWord_wf _ _ _ h | exact memFilter_wf _ _ h) (fun _ h => by first | exact h | exact memNil_wf | exact memSetByte_wf _ _ _ h | exact memFilter_wf _ _ h) ?_ ?_; (intro _ h; simp only [MemSt.sorted] at h ⊢; and_intros <;> first | (simp [h]; done) | exact tabFold_rising (fun _ _ g => by first | (simp [g]; done) | (split <;> simp [g]; done) | exact tabFold_rising (fun _ _ k => by simp [k]) _ _ g) _ _ (by simp [h]) | (repeat' first | exact rfl | exact h | apply tabSet_rising)))
    | with_reducible apply Frame.ite

theorem execBistDone_frame (n : Fin 72) (bad : Nat) (s : State) :
    ∀ out, execBistDone n bad s = .next out → Frame [.regs, .mem] s out := by
  delta execBistDone
  intro out h
  injection h with h
  subst h
  repeat' first
    | with_reducible apply Frame.refl
    | with_reducible assumption
    | apply Eq.refl
    | lift_lets -underBinder -merge -useContext
    | (intro x; refine Frame.cut (cs := [.regs, .mem]) (s0 := s) (x := x) ?_ (fun hx => ?_); unfold x; rotate_left; clear_value x)
    | with_reducible apply Frame.app (flagPut_frame _ _ _ _)
    | with_reducible apply Frame.app (handBack_frame _ _)
    | with_reducible apply Frame.app (clearBank_frame _ _)
    | with_reducible apply Frame.ite

theorem fillScratch_frame (i : Nat) (s : State) : Frame [.clk, .mem] s (fillScratch i s) := by
  delta fillScratch
  generalize List.range 8192 = l
  refine Frame.updMem rfl (fun _ h => h) (fun m h => ?_) (fun _ h => h) (fun _ h => by simp only [MemSt.sorted] at h ⊢; simp [h]) (Frame.mono (nextFree_frame s) rfl)
  exact memFold_wf (fun _ _ g => memSetWord_wf _ _ _ g) _ _ h

theorem goldBank_frame (n : Nat) (s : State) :
    Frame [.mem] s (goldBank n s) := by
  delta goldBank
  repeat' first
    | with_reducible apply Frame.refl
    | with_reducible assumption
    | apply Eq.refl
    | lift_lets -underBinder -merge -useContext
    | (intro x; refine Frame.cut (cs := [.mem]) (s0 := s) (x := x) ?_ (fun hx => ?_); unfold x; rotate_left; clear_value x)
    | (intro x; clear_value x)
    | intro x
    | with_reducible apply Frame.app (unitFill_frame _ _ _)
    | with_reducible refine Frame.foldl ?_ (fun _ _ _ => ?_)
    | with_reducible apply Frame.ite
    | with_reducible apply_assumption

theorem execLoaderDone_frame (n : Fin 72) (s : State) :
    ∀ out, execLoaderDone n s = .next out → Frame [.clk, .regs, .mem] s out := by
  delta execLoaderDone
  intro out h
  injection h with h
  subst h
  repeat' first
    | with_reducible apply Frame.refl
    | with_reducible assumption
    | apply Eq.refl
    | lift_lets -underBinder -merge -useContext
    | (intro x; refine Frame.cut (cs := [.clk, .regs, .mem]) (s0 := s) (x := x) ?_ (fun hx => ?_); unfold x; rotate_left; clear_value x)
    | with_reducible apply Frame.app (grantUnit_frame _ _ _)
    | with_reducible apply Frame.app (handBack_frame _ _)
    | with_reducible apply Frame.app (fillScratch_frame _ _)
    | with_reducible apply Frame.app (goldBank_frame _ _)
    | with_reducible apply Frame.ite

theorem setDebt_frame (sc d : Nat) (s : State) :
    Frame [.regs] s (setDebt sc d s) := by
  delta setDebt
  repeat' first
    | with_reducible apply Frame.refl
    | with_reducible assumption
    | apply Eq.refl
    | lift_lets -underBinder -merge -useContext
    | (intro x; refine Frame.cut (cs := [.regs]) (s0 := s) (x := x) ?_ (fun hx => ?_); unfold x; rotate_left; clear_value x)
    | (intro x; clear_value x)
    | intro x
    | with_reducible apply Frame.app (fieldPut_frame _ _ _ _ _)
    | with_reducible apply Frame.ite

theorem forceRefresh_frame (sc : Nat) (s : State) :
    Frame [.regs, .err] s (forceRefresh sc s) := by
  delta forceRefresh
  repeat' first
    | with_reducible apply Frame.refl
    | with_reducible assumption
    | apply Eq.refl
    | lift_lets -underBinder -merge -useContext
    | (intro x; refine Frame.cut (cs := [.regs, .err]) (s0 := s) (x := x) ?_ (fun hx => ?_); unfold x; rotate_left; clear_value x)
    | (intro x; clear_value x)
    | intro x
    | with_reducible apply Frame.app (cntAdd_frame _ _ _)
    | with_reducible apply Frame.app (raiseInt_frame _ _ _)
    | with_reducible apply Frame.app (setDebt_frame _ _ _)
    | with_reducible apply Frame.ite

theorem refreshDue_frame (sc t : Nat) (s : State) :
    Frame [.regs, .err, .drc] s (refreshDue sc t s) := by
  delta refreshDue
  repeat' first
    | with_reducible apply Frame.refl
    | with_reducible assumption
    | apply Eq.refl
    | lift_lets -underBinder -merge -useContext
    | (intro x; refine Frame.cut (cs := [.regs, .err, .drc]) (s0 := s) (x := x) ?_ (fun hx => ?_); unfold x; rotate_left; clear_value x)
    | with_reducible apply Frame.app (setDebt_frame _ _ _)
    | with_reducible apply Frame.app (forceRefresh_frame _ _)
    | (with_reducible refine Frame.updDrc (by decide) ?_ ?_; (intro _ h; exact h))
    | (with_reducible refine Frame.updDrc (by decide) ?_ ?_; (intro _ h; simp only [DrcSt.sorted] at h ⊢; simp [h]; done))
    | (with_reducible refine Frame.updDrc (by decide) ?_ ?_; (intro _ h; simp only [DrcSt.sorted] at h ⊢; and_intros <;> (try dsimp only) <;> (repeat' split) <;> first | (simp [h]; done) | exact tabFold_rising (fun _ _ g => by first | (simp [g]; done) | (split <;> simp [g]; done)) _ _ (by simp [h])))
    | (with_reducible refine Frame.updDrc (by decide) ?_ ?_; (intro _ h; simp only [DrcSt.sorted] at h ⊢; and_intros <;> first | (simp [h]; done) | exact tabFold_rising (fun _ _ g => by first | (simp [g]; done) | (split <;> simp [g]; done) | exact tabFold_rising (fun _ _ k => by simp [k]) _ _ g) _ _ (by simp [h]) | (repeat' first | exact rfl | exact h | apply tabSet_rising)))

theorem execRefreshTick_frame (sc : Fin 4) (s : State) :
    ∀ out, execRefreshTick sc s = .next out → Frame [.regs, .err, .drc] s out := by
  delta execRefreshTick
  intro out h
  injection h with h
  subst h
  repeat' first
    | with_reducible apply Frame.refl
    | with_reducible assumption
    | apply Eq.refl
    | lift_lets -underBinder -merge -useContext
    | (intro x; refine Frame.cut (cs := [.regs, .err, .drc]) (s0 := s) (x := x) ?_ (fun hx => ?_); unfold x; rotate_left; clear_value x)
    | with_reducible apply Frame.app (refreshDue_frame _ _ _)
    | with_reducible apply Frame.ite

theorem setHot_frame (sc : Nat) (b : Bool) (s : State) :
    Frame [.regs] s (setHot sc b s) := by
  delta setHot
  repeat' first
    | with_reducible apply Frame.refl
    | with_reducible assumption
    | apply Eq.refl
    | lift_lets -underBinder -merge -useContext
    | (intro x; refine Frame.cut (cs := [.regs]) (s0 := s) (x := x) ?_ (fun hx => ?_); unfold x; rotate_left; clear_value x)
    | with_reducible apply Frame.app (flagPut_frame _ _ _ _)

theorem execRefreshPoll_frame (sc : Fin 4) (hot hotter : Bool) (s : State) :
    ∀ out, execRefreshPoll sc hot hotter s = .next out → Frame [.regs, .err, .drc] s out := by
  delta execRefreshPoll
  intro out h
  injection h with h
  subst h
  repeat' first
    | with_reducible apply Frame.refl
    | with_reducible assumption
    | apply Eq.refl
    | lift_lets -underBinder -merge -useContext
    | (intro x; refine Frame.cut (cs := [.regs, .err, .drc]) (s0 := s) (x := x) ?_ (fun hx => ?_); unfold x; rotate_left; clear_value x)
    | (intro x; clear_value x)
    | intro x
    | with_reducible apply Frame.app (flagPut_frame _ _ _ _)
    | with_reducible apply Frame.app (cntAdd_frame _ _ _)
    | with_reducible apply Frame.app (raiseInt_frame _ _ _)
    | with_reducible apply Frame.app (setDebt_frame _ _ _)
    | with_reducible apply Frame.app (forceRefresh_frame _ _)
    | with_reducible apply Frame.app (refreshDue_frame _ _ _)
    | with_reducible apply Frame.app (setHot_frame _ _ _)
    | (with_reducible refine Frame.updDrc (by decide) ?_ ?_; (intro _ h; exact h))
    | (with_reducible refine Frame.updDrc (by decide) ?_ ?_; (intro _ h; simp only [DrcSt.sorted] at h ⊢; simp [h]; done))
    | (with_reducible refine Frame.updDrc (by decide) ?_ ?_; (intro _ h; simp only [DrcSt.sorted] at h ⊢; and_intros <;> (try dsimp only) <;> (repeat' split) <;> first | (simp [h]; done) | exact tabFold_rising (fun _ _ g => by first | (simp [g]; done) | (split <;> simp [g]; done)) _ _ (by simp [h])))
    | (with_reducible refine Frame.updDrc (by decide) ?_ ?_; (intro _ h; simp only [DrcSt.sorted] at h ⊢; and_intros <;> first | (simp [h]; done) | exact tabFold_rising (fun _ _ g => by first | (simp [g]; done) | (split <;> simp [g]; done) | exact tabFold_rising (fun _ _ k => by simp [k]) _ _ g) _ _ (by simp [h]) | (repeat' first | exact rfl | exact h | apply tabSet_rising)))
    | with_reducible apply Frame.ite
    | split

theorem execRefreshOpportunistic_frame (sc : Fin 4) (s : State) :
    ∀ out, execRefreshOpportunistic sc s = .next out → Frame [.regs] s out := by
  delta execRefreshOpportunistic
  intro out h
  injection h with h
  subst h
  repeat' first
    | with_reducible apply Frame.refl
    | with_reducible assumption
    | apply Eq.refl
    | lift_lets -underBinder -merge -useContext
    | (intro x; refine Frame.cut (cs := [.regs]) (s0 := s) (x := x) ?_ (fun hx => ?_); unfold x; rotate_left; clear_value x)
    | with_reducible apply Frame.app (fieldPut_frame _ _ _ _ _)
    | with_reducible apply Frame.app (cntWrap_frame _ _ _)
    | with_reducible apply Frame.ite

theorem wrRefCfg_frame (v : Word) (s : State) :
    Frame [.regs, .err] s (wrRefCfg v s) := by
  delta wrRefCfg
  repeat' first
    | with_reducible apply Frame.refl
    | with_reducible assumption
    | apply Eq.refl
    | lift_lets -underBinder -merge -useContext
    | (intro x; refine Frame.cut (cs := [.regs, .err]) (s0 := s) (x := x) ?_ (fun hx => ?_); unfold x; rotate_left; clear_value x)
    | with_reducible apply Frame.app (plainWrite_frame _ _ _)
    | with_reducible apply Frame.app (forceRefresh_frame _ _)
    | with_reducible refine Frame.foldl ?_ (fun _ _ _ => ?_)
    | with_reducible apply_assumption

theorem activateRow_frame (a : RowAct) (s : State) :
    Frame [.clk, .regs, .err, .drc] s (activateRow a s) := by
  delta activateRow
  repeat' first
    | with_reducible apply Frame.refl
    | with_reducible assumption
    | apply Eq.refl
    | lift_lets -underBinder -merge -useContext
    | (intro x; refine Frame.cut (cs := [.clk, .regs, .err, .drc]) (s0 := s) (x := x) ?_ (fun hx => ?_); unfold x; rotate_left; clear_value x)
    | (intro x; clear_value x)
    | intro x
    | with_reducible apply Frame.app (flagPut_frame _ _ _ _)
    | with_reducible apply Frame.app (cntAdd_frame _ _ _)
    | with_reducible apply Frame.app (nextFree_frame _)
    | with_reducible apply Frame.app (raiseInt_frame _ _ _)
    | (with_reducible refine Frame.updDrc (by decide) ?_ ?_; (intro _ h; exact h))
    | (with_reducible refine Frame.updDrc (by decide) ?_ ?_; (intro _ h; simp only [DrcSt.sorted] at h ⊢; simp [h]; done))
    | (with_reducible refine Frame.updDrc (by decide) ?_ ?_; (intro _ h; simp only [DrcSt.sorted] at h ⊢; and_intros <;> (try dsimp only) <;> (repeat' split) <;> first | (simp [h]; done) | exact tabFold_rising (fun _ _ g => by first | (simp [g]; done) | (split <;> simp [g]; done)) _ _ (by simp [h])))
    | (with_reducible refine Frame.updDrc (by decide) ?_ ?_; (intro _ h; simp only [DrcSt.sorted] at h ⊢; and_intros <;> first | (simp [h]; done) | exact tabFold_rising (fun _ _ g => by first | (simp [g]; done) | (split <;> simp [g]; done) | exact tabFold_rising (fun _ _ k => by simp [k]) _ _ g) _ _ (by simp [h]) | (repeat' first | exact rfl | exact h | apply tabSet_rising)))
    | with_reducible apply Frame.ite

theorem execRatWindowReset_frame (s : State) :
    ∀ out, execRatWindowReset s = .next out → Frame [.regs, .drc] s out := by
  delta execRatWindowReset
  intro out h
  injection h with h
  subst h
  repeat' first
    | with_reducible apply Frame.refl
    | with_reducible assumption
    | apply Eq.refl
    | lift_lets -underBinder -merge -useContext
    | (intro x; refine Frame.cut (cs := [.regs, .drc]) (s0 := s) (x := x) ?_ (fun hx => ?_); unfold x; rotate_left; clear_value x)
    | with_reducible apply Frame.app (fieldPut_frame _ _ _ _ _)
    | (with_reducible refine Frame.updDrc (by decide) ?_ ?_; (intro _ h; exact h))
    | (with_reducible refine Frame.updDrc (by decide) ?_ ?_; (intro _ h; simp only [DrcSt.sorted] at h ⊢; simp [h]; done))
    | (with_reducible refine Frame.updDrc (by decide) ?_ ?_; (intro _ h; simp only [DrcSt.sorted] at h ⊢; and_intros <;> (try dsimp only) <;> (repeat' split) <;> first | (simp [h]; done) | exact tabFold_rising (fun _ _ g => by first | (simp [g]; done) | (split <;> simp [g]; done)) _ _ (by simp [h])))
    | (with_reducible refine Frame.updDrc (by decide) ?_ ?_; (intro _ h; simp only [DrcSt.sorted] at h ⊢; and_intros <;> first | (simp [h]; done) | exact tabFold_rising (fun _ _ g => by first | (simp [g]; done) | (split <;> simp [g]; done) | exact tabFold_rising (fun _ _ k => by simp [k]) _ _ g) _ _ (by simp [h]) | (repeat' first | exact rfl | exact h | apply tabSet_rising)))
    | with_reducible apply Frame.ite

theorem enterSelfRefresh_frame (s : State) :
    Frame [.regs, .drc] s (enterSelfRefresh s) := by
  delta enterSelfRefresh
  repeat' first
    | with_reducible apply Frame.refl
    | with_reducible assumption
    | apply Eq.refl
    | lift_lets -underBinder -merge -useContext
    | (intro x; refine Frame.cut (cs := [.regs, .drc]) (s0 := s) (x := x) ?_ (fun hx => ?_); unfold x; rotate_left; clear_value x)
    | (intro x; clear_value x)
    | intro x
    | with_reducible apply Frame.app (fieldPut_frame _ _ _ _ _)
    | with_reducible apply Frame.app (flagPut_frame _ _ _ _)
    | with_reducible apply Frame.app (cntWrap_frame _ _ _)
    | (with_reducible refine Frame.updDrc (by decide) ?_ ?_; (intro _ h; exact h))
    | (with_reducible refine Frame.updDrc (by decide) ?_ ?_; (intro _ h; simp only [DrcSt.sorted] at h ⊢; simp [h]; done))
    | (with_reducible refine Frame.updDrc (by decide) ?_ ?_; (intro _ h; simp only [DrcSt.sorted] at h ⊢; and_intros <;> (try dsimp only) <;> (repeat' split) <;> first | (simp [h]; done) | exact tabFold_rising (fun _ _ g => by first | (simp [g]; done) | (split <;> simp [g]; done)) _ _ (by simp [h])))
    | (with_reducible refine Frame.updDrc (by decide) ?_ ?_; (intro _ h; simp only [DrcSt.sorted] at h ⊢; and_intros <;> first | (simp [h]; done) | exact tabFold_rising (fun _ _ g => by first | (simp [g]; done) | (split <;> simp [g]; done) | exact tabFold_rising (fun _ _ k => by simp [k]) _ _ g) _ _ (by simp [h]) | (repeat' first | exact rfl | exact h | apply tabSet_rising)))
    | with_reducible refine Frame.foldl ?_ (fun _ _ _ => ?_)
    | with_reducible apply_assumption

theorem exitSelfRefresh_frame (s : State) :
    Frame [.regs, .drc] s (exitSelfRefresh s) := by
  delta exitSelfRefresh
  repeat' first
    | with_reducible apply Frame.refl
    | with_reducible assumption
    | apply Eq.refl
    | lift_lets -underBinder -merge -useContext
    | (intro x; refine Frame.cut (cs := [.regs, .drc]) (s0 := s) (x := x) ?_ (fun hx => ?_); unfold x; rotate_left; clear_value x)
    | (intro x; clear_value x)
    | intro x
    | with_reducible apply Frame.app (fieldPut_frame _ _ _ _ _)
    | with_reducible apply Frame.app (flagPut_frame _ _ _ _)
    | (with_reducible refine Frame.updDrc (by decide) ?_ ?_; (intro _ h; exact h))
    | (with_reducible refine Frame.updDrc (by decide) ?_ ?_; (intro _ h; simp only [DrcSt.sorted] at h ⊢; simp [h]; done))
    | (with_reducible refine Frame.updDrc (by decide) ?_ ?_; (intro _ h; simp only [DrcSt.sorted] at h ⊢; and_intros <;> (try dsimp only) <;> (repeat' split) <;> first | (simp [h]; done) | exact tabFold_rising (fun _ _ g => by first | (simp [g]; done) | (split <;> simp [g]; done)) _ _ (by simp [h])))
    | (with_reducible refine Frame.updDrc (by decide) ?_ ?_; (intro _ h; simp only [DrcSt.sorted] at h ⊢; and_intros <;> first | (simp [h]; done) | exact tabFold_rising (fun _ _ g => by first | (simp [g]; done) | (split <;> simp [g]; done) | exact tabFold_rising (fun _ _ k => by simp [k]) _ _ g) _ _ (by simp [h]) | (repeat' first | exact rfl | exact h | apply tabSet_rising)))
    | with_reducible refine Frame.foldl ?_ (fun _ _ _ => ?_)
    | with_reducible apply_assumption

theorem dramPut_frame (addr : Nat) (b : Byte) (s : State) :
    Frame [.mem] s (dramPut addr b s) := by
  delta dramPut
  repeat' first
    | with_reducible apply Frame.refl
    | with_reducible assumption
    | apply Eq.refl
    | lift_lets -underBinder -merge -useContext
    | (intro x; refine Frame.cut (cs := [.mem]) (s0 := s) (x := x) ?_ (fun hx => ?_); unfold x; rotate_left; clear_value x)
    | (with_reducible refine Frame.updMem (by decide) (fun _ h => h) (fun _ h => h) (fun _ h => h) ?_ ?_; (intro _ h; exact h))
    | (with_reducible refine Frame.updMem (by decide) (fun _ h => h) (fun _ h => h) (fun _ h => h) ?_ ?_; (intro _ h; simp only [MemSt.sorted] at h ⊢; simp [h]; done))
    | (with_reducible refine Frame.updMem (by decide) (fun _ h => h) (fun _ h => h) (fun _ h => h) ?_ ?_; (intro _ h; simp only [MemSt.sorted] at h ⊢; and_intros <;> (try dsimp only) <;> (repeat' split) <;> first | (simp [h]; done) | exact tabFold_rising (fun _ _ g => by first | (simp [g]; done) | (split <;> simp [g]; done)) _ _ (by simp [h])))
    | (with_reducible refine Frame.updMem (by decide) (fun _ h => h) (fun _ h => h) (fun _ h => h) ?_ ?_; (intro _ h; simp only [MemSt.sorted] at h ⊢; and_intros <;> first | (simp [h]; done) | exact tabFold_rising (fun _ _ g => by first | (simp [g]; done) | (split <;> simp [g]; done) | exact tabFold_rising (fun _ _ k => by simp [k]) _ _ g) _ _ (by simp [h]) | (repeat' first | exact rfl | exact h | apply tabSet_rising)))
    | (with_reducible refine Frame.updMem (by decide) (fun _ h => by first | exact h | exact memNil_wf | exact memSetWord_wf _ _ _ h | exact memFilter_wf _ _ h) (fun _ h => by first | exact h | exact memNil_wf | exact memSetWord_wf _ _ _ h | exact memFilter_wf _ _ h) (fun _ h => by first | exact h | exact memNil_wf | exact memSetByte_wf _ _ _ h | exact memFilter_wf _ _ h) ?_ ?_; (intro _ h; exact h))
    | (with_reducible refine Frame.updMem (by decide) (fun _ h => by first | exact h | exact memNil_wf | exact memSetWord_wf _ _ _ h | exact memFilter_wf _ _ h) (fun _ h => by first | exact h | exact memNil_wf | exact memSetWord_wf _ _ _ h | exact memFilter_wf _ _ h) (fun _ h => by first | exact h | exact memNil_wf | exact memSetByte_wf _ _ _ h | exact memFilter_wf _ _ h) ?_ ?_; (intro _ h; simp only [MemSt.sorted] at h ⊢; simp [h]; done))
    | (with_reducible refine Frame.updMem (by decide) (fun _ h => by first | exact h | exact memNil_wf | exact memSetWord_wf _ _ _ h | exact memFilter_wf _ _ h) (fun _ h => by first | exact h | exact memNil_wf | exact memSetWord_wf _ _ _ h | exact memFilter_wf _ _ h) (fun _ h => by first | exact h | exact memNil_wf | exact memSetByte_wf _ _ _ h | exact memFilter_wf _ _ h) ?_ ?_; (intro _ h; simp only [MemSt.sorted] at h ⊢; and_intros <;> (try dsimp only) <;> (repeat' split) <;> first | (simp [h]; done) | exact tabFold_rising (fun _ _ g => by first | (simp [g]; done) | (split <;> simp [g]; done)) _ _ (by simp [h])))
    | (with_reducible refine Frame.updMem (by decide) (fun _ h => by first | exact h | exact memNil_wf | exact memSetWord_wf _ _ _ h | exact memFilter_wf _ _ h) (fun _ h => by first | exact h | exact memNil_wf | exact memSetWord_wf _ _ _ h | exact memFilter_wf _ _ h) (fun _ h => by first | exact h | exact memNil_wf | exact memSetByte_wf _ _ _ h | exact memFilter_wf _ _ h) ?_ ?_; (intro _ h; simp only [MemSt.sorted] at h ⊢; and_intros <;> first | (simp [h]; done) | exact tabFold_rising (fun _ _ g => by first | (simp [g]; done) | (split <;> simp [g]; done) | exact tabFold_rising (fun _ _ k => by simp [k]) _ _ g) _ _ (by simp [h]) | (repeat' first | exact rfl | exact h | apply tabSet_rising)))
    | with_reducible apply Frame.ite

theorem areaWritten_frame (a : Nat) (s : State) :
    Frame [.mem] s (areaWritten a s) := by
  delta areaWritten
  repeat' first
    | with_reducible apply Frame.refl
    | with_reducible assumption
    | apply Eq.refl
    | lift_lets -underBinder -merge -useContext
    | (intro x; refine Frame.cut (cs := [.mem]) (s0 := s) (x := x) ?_ (fun hx => ?_); unfold x; rotate_left; clear_value x)
    | (with_reducible refine Frame.updMem (by decide) (fun _ h => h) (fun _ h => h) (fun _ h => h) ?_ ?_; (intro _ h; exact h))
    | (with_reducible refine Frame.updMem (by decide) (fun _ h => h) (fun _ h => h) (fun _ h => h) ?_ ?_; (intro _ h; simp only [MemSt.sorted] at h ⊢; simp [h]; done))
    | (with_reducible refine Frame.updMem (by decide) (fun _ h => h) (fun _ h => h) (fun _ h => h) ?_ ?_; (intro _ h; simp only [MemSt.sorted] at h ⊢; and_intros <;> (try dsimp only) <;> (repeat' split) <;> first | (simp [h]; done) | exact tabFold_rising (fun _ _ g => by first | (simp [g]; done) | (split <;> simp [g]; done)) _ _ (by simp [h])))
    | (with_reducible refine Frame.updMem (by decide) (fun _ h => h) (fun _ h => h) (fun _ h => h) ?_ ?_; (intro _ h; simp only [MemSt.sorted] at h ⊢; and_intros <;> first | (simp [h]; done) | exact tabFold_rising (fun _ _ g => by first | (simp [g]; done) | (split <;> simp [g]; done) | exact tabFold_rising (fun _ _ k => by simp [k]) _ _ g) _ _ (by simp [h]) | (repeat' first | exact rfl | exact h | apply tabSet_rising)))
    | (with_reducible refine Frame.updMem (by decide) (fun _ h => by first | exact h | exact memNil_wf | exact memSetWord_wf _ _ _ h | exact memFilter_wf _ _ h) (fun _ h => by first | exact h | exact memNil_wf | exact memSetWord_wf _ _ _ h | exact memFilter_wf _ _ h) (fun _ h => by first | exact h | exact memNil_wf | exact memSetByte_wf _ _ _ h | exact memFilter_wf _ _ h) ?_ ?_; (intro _ h; exact h))
    | (with_reducible refine Frame.updMem (by decide) (fun _ h => by first | exact h | exact memNil_wf | exact memSetWord_wf _ _ _ h | exact memFilter_wf _ _ h) (fun _ h => by first | exact h | exact memNil_wf | exact memSetWord_wf _ _ _ h | exact memFilter_wf _ _ h) (fun _ h => by first | exact h | exact memNil_wf | exact memSetByte_wf _ _ _ h | exact memFilter_wf _ _ h) ?_ ?_; (intro _ h; simp only [MemSt.sorted] at h ⊢; simp [h]; done))
    | (with_reducible refine Frame.updMem (by decide) (fun _ h => by first | exact h | exact memNil_wf | exact memSetWord_wf _ _ _ h | exact memFilter_wf _ _ h) (fun _ h => by first | exact h | exact memNil_wf | exact memSetWord_wf _ _ _ h | exact memFilter_wf _ _ h) (fun _ h => by first | exact h | exact memNil_wf | exact memSetByte_wf _ _ _ h | exact memFilter_wf _ _ h) ?_ ?_; (intro _ h; simp only [MemSt.sorted] at h ⊢; and_intros <;> (try dsimp only) <;> (repeat' split) <;> first | (simp [h]; done) | exact tabFold_rising (fun _ _ g => by first | (simp [g]; done) | (split <;> simp [g]; done)) _ _ (by simp [h])))
    | (with_reducible refine Frame.updMem (by decide) (fun _ h => by first | exact h | exact memNil_wf | exact memSetWord_wf _ _ _ h | exact memFilter_wf _ _ h) (fun _ h => by first | exact h | exact memNil_wf | exact memSetWord_wf _ _ _ h | exact memFilter_wf _ _ h) (fun _ h => by first | exact h | exact memNil_wf | exact memSetByte_wf _ _ _ h | exact memFilter_wf _ _ h) ?_ ?_; (intro _ h; simp only [MemSt.sorted] at h ⊢; and_intros <;> first | (simp [h]; done) | exact tabFold_rising (fun _ _ g => by first | (simp [g]; done) | (split <;> simp [g]; done) | exact tabFold_rising (fun _ _ k => by simp [k]) _ _ g) _ _ (by simp [h]) | (repeat' first | exact rfl | exact h | apply tabSet_rising)))

theorem dramLineBad_frame (line : Nat) (s : State) :
    Frame [.regs, .hif, .err] s (dramLineBad line s) := by
  delta dramLineBad
  repeat' first
    | with_reducible apply Frame.refl
    | with_reducible assumption
    | apply Eq.refl
    | lift_lets -underBinder -merge -useContext
    | (intro x; refine Frame.cut (cs := [.regs, .hif, .err]) (s0 := s) (x := x) ?_ (fun hx => ?_); unfold x; rotate_left; clear_value x)
    | (intro x; clear_value x)
    | intro x
    | with_reducible apply Frame.app (cntAdd_frame _ _ _)
    | with_reducible apply Frame.app (errRecord_frame _ _ _ _ _ _)
    | with_reducible apply Frame.app (raiseInt_frame _ _ _)
    | with_reducible apply Frame.app (intCount_frame _ _)
    | with_reducible apply Frame.app (intEvent_frame _ _)

theorem dramLineSoft_frame (line : Nat) (s : State) :
    Frame [.regs, .hif, .err] s (dramLineSoft line s) := by
  delta dramLineSoft
  repeat' first
    | with_reducible apply Frame.refl
    | with_reducible assumption
    | apply Eq.refl
    | lift_lets -underBinder -merge -useContext
    | (intro x; refine Frame.cut (cs := [.regs, .hif, .err]) (s0 := s) (x := x) ?_ (fun hx => ?_); unfold x; rotate_left; clear_value x)
    | with_reducible apply Frame.app (cntAdd_frame _ _ _)
    | with_reducible apply Frame.app (errRecord_frame _ _ _ _ _ _)
    | with_reducible apply Frame.app (intCount_frame _ _)

theorem readLines_frame (ls : List Nat) (s : State) :
    Frame [.regs, .hif, .err] s (readLines ls s) := by
  delta readLines
  repeat' first
    | with_reducible apply Frame.refl
    | with_reducible assumption
    | apply Eq.refl
    | lift_lets -underBinder -merge -useContext
    | (intro x; refine Frame.cut (cs := [.regs, .hif, .err]) (s0 := s) (x := x) ?_ (fun hx => ?_); unfold x; rotate_left; clear_value x)
    | with_reducible apply Frame.app (dramLineBad_frame _ _)
    | with_reducible apply Frame.app (dramLineSoft_frame _ _)
    | with_reducible refine Frame.foldl ?_ (fun _ _ _ => ?_)
    | with_reducible apply Frame.ite
    | with_reducible apply_assumption

theorem readZero_frame (be : List Bool) (s : State) :
    Frame [.hif] s (readZero be s) := by
  delta readZero
  repeat' first
    | with_reducible apply Frame.refl
    | with_reducible assumption
    | apply Eq.refl
    | lift_lets -underBinder -merge -useContext
    | (intro x; refine Frame.cut (cs := [.hif]) (s0 := s) (x := x) ?_ (fun hx => ?_); unfold x; rotate_left; clear_value x)
    | with_reducible apply Frame.app (answer_frame _ _)

theorem busError_frame (space cause byte : Nat) (s : State) :
    Frame [.regs, .hif] s (busError space cause byte s) := by
  delta busError
  repeat' first
    | with_reducible apply Frame.refl
    | with_reducible assumption
    | apply Eq.refl
    | lift_lets -underBinder -merge -useContext
    | (intro x; refine Frame.cut (cs := [.regs, .hif]) (s0 := s) (x := x) ?_ (fun hx => ?_); unfold x; rotate_left; clear_value x)
    | (intro x; clear_value x)
    | intro x
    | with_reducible apply Frame.app (regPut_frame _ _ _)
    | with_reducible apply Frame.app (answer_frame _ _)
    | with_reducible apply Frame.ite

theorem readDram_frame (m : MemMaster) (byte : Nat) (be : List Bool) (s : State) :
    Frame [.clk, .regs, .hif, .err] s (readDram m byte be s) := by
  delta readDram
  repeat' first
    | with_reducible apply Frame.refl
    | with_reducible assumption
    | apply Eq.refl
    | lift_lets -underBinder -merge -useContext
    | (intro x; refine Frame.cut (cs := [.clk, .regs, .hif, .err]) (s0 := s) (x := x) ?_ (fun hx => ?_); unfold x; rotate_left; clear_value x)
    | (intro x; clear_value x)
    | intro x
    | with_reducible apply Frame.app (nextFree_frame _)
    | with_reducible apply Frame.app (answer_frame _ _)
    | with_reducible apply Frame.app (readLines_frame _ _)
    | with_reducible apply Frame.app (readZero_frame _ _)
    | with_reducible apply Frame.app (busError_frame _ _ _ _)
    | with_reducible apply Frame.ite
    | split

theorem writeLine_frame (m : MemMaster) (byte : Nat) (data : List (Option Byte)) (s : State) (l : Nat) :
    Frame [.regs, .mem, .hif, .err] s (writeLine m byte data s l) := by
  delta writeLine
  repeat' first
    | with_reducible apply Frame.refl
    | with_reducible assumption
    | apply Eq.refl
    | lift_lets -underBinder -merge -useContext
    | (intro x; refine Frame.cut (cs := [.regs, .mem, .hif, .err]) (s0 := s) (x := x) ?_ (fun hx => ?_); unfold x; rotate_left; clear_value x)
    | (intro x; clear_value x)
    | intro x
    | with_reducible apply Frame.app (dramPut_frame _ _ _)
    | with_reducible apply Frame.app (readLines_frame _ _)
    | with_reducible apply Frame.app (busError_frame _ _ _ _)
    | (with_reducible refine Frame.updMem (by decide) (fun _ h => h) (fun _ h => h) (fun _ h => h) ?_ ?_; (intro _ h; exact h))
    | (with_reducible refine Frame.updMem (by decide) (fun _ h => h) (fun _ h => h) (fun _ h => h) ?_ ?_; (intro _ h; simp only [MemSt.sorted] at h ⊢; simp [h]; done))
    | (with_reducible refine Frame.updMem (by decide) (fun _ h => h) (fun _ h => h) (fun _ h => h) ?_ ?_; (intro _ h; simp only [MemSt.sorted] at h ⊢; and_intros <;> (try dsimp only) <;> (repeat' split) <;> first | (simp [h]; done) | exact tabFold_rising (fun _ _ g => by first | (simp [g]; done) | (split <;> simp [g]; done)) _ _ (by simp [h])))
    | (with_reducible refine Frame.updMem (by decide) (fun _ h => h) (fun _ h => h) (fun _ h => h) ?_ ?_; (intro _ h; simp only [MemSt.sorted] at h ⊢; and_intros <;> first | (simp [h]; done) | exact tabFold_rising (fun _ _ g => by first | (simp [g]; done) | (split <;> simp [g]; done) | exact tabFold_rising (fun _ _ k => by simp [k]) _ _ g) _ _ (by simp [h]) | (repeat' first | exact rfl | exact h | apply tabSet_rising)))
    | (with_reducible refine Frame.updMem (by decide) (fun _ h => by first | exact h | exact memNil_wf | exact memSetWord_wf _ _ _ h | exact memFilter_wf _ _ h) (fun _ h => by first | exact h | exact memNil_wf | exact memSetWord_wf _ _ _ h | exact memFilter_wf _ _ h) (fun _ h => by first | exact h | exact memNil_wf | exact memSetByte_wf _ _ _ h | exact memFilter_wf _ _ h) ?_ ?_; (intro _ h; exact h))
    | (with_reducible refine Frame.updMem (by decide) (fun _ h => by first | exact h | exact memNil_wf | exact memSetWord_wf _ _ _ h | exact memFilter_wf _ _ h) (fun _ h => by first | exact h | exact memNil_wf | exact memSetWord_wf _ _ _ h | exact memFilter_wf _ _ h) (fun _ h => by first | exact h | exact memNil_wf | exact memSetByte_wf _ _ _ h | exact memFilter_wf _ _ h) ?_ ?_; (intro _ h; simp only [MemSt.sorted] at h ⊢; simp [h]; done))
    | (with_reducible refine Frame.updMem (by decide) (fun _ h => by first | exact h | exact memNil_wf | exact memSetWord_wf _ _ _ h | exact memFilter_wf _ _ h) (fun _ h => by first | exact h | exact memNil_wf | exact memSetWord_wf _ _ _ h | exact memFilter_wf _ _ h) (fun _ h => by first | exact h | exact memNil_wf | exact memSetByte_wf _ _ _ h | exact memFilter_wf _ _ h) ?_ ?_; (intro _ h; simp only [MemSt.sorted] at h ⊢; and_intros <;> (try dsimp only) <;> (repeat' split) <;> first | (simp [h]; done) | exact tabFold_rising (fun _ _ g => by first | (simp [g]; done) | (split <;> simp [g]; done)) _ _ (by simp [h])))
    | (with_reducible refine Frame.updMem (by decide) (fun _ h => by first | exact h | exact memNil_wf | exact memSetWord_wf _ _ _ h | exact memFilter_wf _ _ h) (fun _ h => by first | exact h | exact memNil_wf | exact memSetWord_wf _ _ _ h | exact memFilter_wf _ _ h) (fun _ h => by first | exact h | exact memNil_wf | exact memSetByte_wf _ _ _ h | exact memFilter_wf _ _ h) ?_ ?_; (intro _ h; simp only [MemSt.sorted] at h ⊢; and_intros <;> first | (simp [h]; done) | exact tabFold_rising (fun _ _ g => by first | (simp [g]; done) | (split <;> simp [g]; done) | exact tabFold_rising (fun _ _ k => by simp [k]) _ _ g) _ _ (by simp [h]) | (repeat' first | exact rfl | exact h | apply tabSet_rising)))
    | with_reducible refine Frame.foldl ?_ (fun _ _ _ => ?_)
    | with_reducible apply Frame.ite
    | with_reducible apply_assumption
    | split

theorem writeDram_frame (m : MemMaster) (byte : Nat) (data : List (Option Byte)) (s : State) :
    Frame [.regs, .mem, .hif, .err] s (writeDram m byte data s) := by
  delta writeDram
  repeat' first
    | with_reducible apply Frame.refl
    | with_reducible assumption
    | apply Eq.refl
    | lift_lets -underBinder -merge -useContext
    | (intro x; refine Frame.cut (cs := [.regs, .mem, .hif, .err]) (s0 := s) (x := x) ?_ (fun hx => ?_); unfold x; rotate_left; clear_value x)
    | with_reducible apply Frame.app (writeLine_frame _ _ _ _ _)
    | with_reducible refine Frame.foldl ?_ (fun _ _ _ => ?_)
    | with_reducible apply_assumption

theorem dramAsked_frame (r : Nat) (s : State) :
    Frame [.regs, .pip, .err, .pwr] s (dramAsked r s) := by
  delta dramAsked
  repeat' first
    | with_reducible apply Frame.refl
    | with_reducible assumption
    | apply Eq.refl
    | lift_lets -underBinder -merge -useContext
    | (intro x; refine Frame.cut (cs := [.regs, .pip, .err, .pwr]) (s0 := s) (x := x) ?_ (fun hx => ?_); unfold x; rotate_left; clear_value x)
    | with_reducible apply Frame.app (refuseEntry_frame _ _)
    | with_reducible apply Frame.ite

theorem askRead_frame (m : MemMaster) (byte : Nat) (be : List Bool) (s : State) :
    Frame [.regs, .pip, .err, .drc, .pwr] s (askRead m byte be s) := by
  delta askRead
  repeat' first
    | with_reducible apply Frame.refl
    | with_reducible assumption
    | apply Eq.refl
    | lift_lets -underBinder -merge -useContext
    | (intro x; refine Frame.cut (cs := [.regs, .pip, .err, .drc, .pwr]) (s0 := s) (x := x) ?_ (fun hx => ?_); unfold x; rotate_left; clear_value x)
    | with_reducible apply Frame.app (dramAsked_frame _ _)
    | (with_reducible refine Frame.updDrc (by decide) ?_ ?_; (intro _ h; exact h))
    | (with_reducible refine Frame.updDrc (by decide) ?_ ?_; (intro _ h; simp only [DrcSt.sorted] at h ⊢; simp [h]; done))
    | (with_reducible refine Frame.updDrc (by decide) ?_ ?_; (intro _ h; simp only [DrcSt.sorted] at h ⊢; and_intros <;> (try dsimp only) <;> (repeat' split) <;> first | (simp [h]; done) | exact tabFold_rising (fun _ _ g => by first | (simp [g]; done) | (split <;> simp [g]; done)) _ _ (by simp [h])))
    | (with_reducible refine Frame.updDrc (by decide) ?_ ?_; (intro _ h; simp only [DrcSt.sorted] at h ⊢; and_intros <;> first | (simp [h]; done) | exact tabFold_rising (fun _ _ g => by first | (simp [g]; done) | (split <;> simp [g]; done) | exact tabFold_rising (fun _ _ k => by simp [k]) _ _ g) _ _ (by simp [h]) | (repeat' first | exact rfl | exact h | apply tabSet_rising)))

theorem askWrite_frame (m : MemMaster) (byte : Nat) (data : List (Option Byte)) (s : State) :
    Frame [.regs, .pip, .err, .drc, .pwr] s (askWrite m byte data s) := by
  delta askWrite
  repeat' first
    | with_reducible apply Frame.refl
    | with_reducible assumption
    | apply Eq.refl
    | lift_lets -underBinder -merge -useContext
    | (intro x; refine Frame.cut (cs := [.regs, .pip, .err, .drc, .pwr]) (s0 := s) (x := x) ?_ (fun hx => ?_); unfold x; rotate_left; clear_value x)
    | (intro x; clear_value x)
    | intro x
    | with_reducible apply Frame.app (dramAsked_frame _ _)
    | (with_reducible refine Frame.updDrc (by decide) ?_ ?_; (intro _ h; exact h))
    | (with_reducible refine Frame.updDrc (by decide) ?_ ?_; (intro _ h; simp only [DrcSt.sorted] at h ⊢; simp [h]; done))
    | (with_reducible refine Frame.updDrc (by decide) ?_ ?_; (intro _ h; simp only [DrcSt.sorted] at h ⊢; and_intros <;> (try dsimp only) <;> (repeat' split) <;> first | (simp [h]; done) | exact tabFold_rising (fun _ _ g => by first | (simp [g]; done) | (split <;> simp [g]; done)) _ _ (by simp [h])))
    | (with_reducible refine Frame.updDrc (by decide) ?_ ?_; (intro _ h; simp only [DrcSt.sorted] at h ⊢; and_intros <;> first | (simp [h]; done) | exact tabFold_rising (fun _ _ g => by first | (simp [g]; done) | (split <;> simp [g]; done) | exact tabFold_rising (fun _ _ k => by simp [k]) _ _ g) _ _ (by simp [h]) | (repeat' first | exact rfl | exact h | apply tabSet_rising)))

theorem dropAsked_frame (r : Nat) (s : State) :
    Frame [.drc] s (dropAsked r s) := by
  delta dropAsked
  repeat' first
    | with_reducible apply Frame.refl
    | with_reducible assumption
    | apply Eq.refl
    | lift_lets -underBinder -merge -useContext
    | (intro x; refine Frame.cut (cs := [.drc]) (s0 := s) (x := x) ?_ (fun hx => ?_); unfold x; rotate_left; clear_value x)
    | (with_reducible refine Frame.updDrc (by decide) ?_ ?_; (intro _ h; exact h))
    | (with_reducible refine Frame.updDrc (by decide) ?_ ?_; (intro _ h; simp only [DrcSt.sorted] at h ⊢; simp [h]; done))
    | (with_reducible refine Frame.updDrc (by decide) ?_ ?_; (intro _ h; simp only [DrcSt.sorted] at h ⊢; and_intros <;> (try dsimp only) <;> (repeat' split) <;> first | (simp [h]; done) | exact tabFold_rising (fun _ _ g => by first | (simp [g]; done) | (split <;> simp [g]; done)) _ _ (by simp [h])))
    | (with_reducible refine Frame.updDrc (by decide) ?_ ?_; (intro _ h; simp only [DrcSt.sorted] at h ⊢; and_intros <;> first | (simp [h]; done) | exact tabFold_rising (fun _ _ g => by first | (simp [g]; done) | (split <;> simp [g]; done) | exact tabFold_rising (fun _ _ k => by simp [k]) _ _ g) _ _ (by simp [h]) | (repeat' first | exact rfl | exact h | apply tabSet_rising)))

theorem performReq_frame (s : State) (q : DramReq) :
    Frame [.clk, .regs, .mem, .hif, .err] s (performReq s q) := by
  delta performReq
  repeat' first
    | with_reducible apply Frame.refl
    | with_reducible assumption
    | apply Eq.refl
    | lift_lets -underBinder -merge -useContext
    | (intro x; refine Frame.cut (cs := [.clk, .regs, .mem, .hif, .err]) (s0 := s) (x := x) ?_ (fun hx => ?_); unfold x; rotate_left; clear_value x)
    | with_reducible apply Frame.app (readDram_frame _ _ _ _)
    | with_reducible apply Frame.app (writeDram_frame _ _ _ _)
    | split

theorem showPending_frame (s : State) :
    Frame [.regs] s (showPending s) := by
  delta showPending
  repeat' first
    | with_reducible apply Frame.refl
    | with_reducible assumption
    | apply Eq.refl
    | lift_lets -underBinder -merge -useContext
    | (intro x; refine Frame.cut (cs := [.regs]) (s0 := s) (x := x) ?_ (fun hx => ?_); unfold x; rotate_left; clear_value x)
    | with_reducible apply Frame.app (fieldPut_frame _ _ _ _ _)

theorem wrArbPrio_frame (src : Party) (v : Word) (s : State) :
    Frame [.regs, .prt, .err, .drc] s (wrArbPrio src v s) := by
  delta wrArbPrio
  repeat' first
    | with_reducible apply Frame.refl
    | with_reducible assumption
    | apply Eq.refl
    | lift_lets -underBinder -merge -useContext
    | (intro x; refine Frame.cut (cs := [.regs, .prt, .err, .drc]) (s0 := s) (x := x) ?_ (fun hx => ?_); unfold x; rotate_left; clear_value x)
    | (intro x; clear_value x)
    | intro x
    | with_reducible apply Frame.app (plainWrite_frame _ _ _)
    | with_reducible apply Frame.app (refuseReg_frame _ _ _ _ _)
    | with_reducible apply Frame.app (showPending_frame _)
    | (with_reducible refine Frame.updDrc (by decide) ?_ ?_; (intro _ h; exact h))
    | (with_reducible refine Frame.updDrc (by decide) ?_ ?_; (intro _ h; simp only [DrcSt.sorted] at h ⊢; simp [h]; done))
    | (with_reducible refine Frame.updDrc (by decide) ?_ ?_; (intro _ h; simp only [DrcSt.sorted] at h ⊢; and_intros <;> (try dsimp only) <;> (repeat' split) <;> first | (simp [h]; done) | exact tabFold_rising (fun _ _ g => by first | (simp [g]; done) | (split <;> simp [g]; done)) _ _ (by simp [h])))
    | (with_reducible refine Frame.updDrc (by decide) ?_ ?_; (intro _ h; simp only [DrcSt.sorted] at h ⊢; and_intros <;> first | (simp [h]; done) | exact tabFold_rising (fun _ _ g => by first | (simp [g]; done) | (split <;> simp [g]; done) | exact tabFold_rising (fun _ _ k => by simp [k]) _ _ g) _ _ (by simp [h]) | (repeat' first | exact rfl | exact h | apply tabSet_rising)))
    | with_reducible apply Frame.ite
    | with_reducible apply_assumption

theorem applyChanges_frame (s : State) :
    Frame [.regs, .drc] s (applyChanges s) := by
  delta applyChanges
  repeat' first
    | with_reducible apply Frame.refl
    | with_reducible assumption
    | apply Eq.refl
    | lift_lets -underBinder -merge -useContext
    | (intro x; refine Frame.cut (cs := [.regs, .drc]) (s0 := s) (x := x) ?_ (fun hx => ?_); unfold x; rotate_left; clear_value x)
    | (intro x; clear_value x)
    | intro x
    | with_reducible apply Frame.app (showPending_frame _)
    | (with_reducible refine Frame.updDrc (by decide) ?_ ?_; (intro _ h; exact h))
    | (with_reducible refine Frame.updDrc (by decide) ?_ ?_; (intro _ h; simp only [DrcSt.sorted] at h ⊢; simp [h]; done))
    | (with_reducible refine Frame.updDrc (by decide) ?_ ?_; (intro _ h; simp only [DrcSt.sorted] at h ⊢; and_intros <;> (try dsimp only) <;> (repeat' split) <;> first | (simp [h]; done) | exact tabFold_rising (fun _ _ g => by first | (simp [g]; done) | (split <;> simp [g]; done)) _ _ (by simp [h])))
    | (with_reducible refine Frame.updDrc (by decide) ?_ ?_; (intro _ h; simp only [DrcSt.sorted] at h ⊢; and_intros <;> first | (simp [h]; done) | exact tabFold_rising (fun _ _ g => by first | (simp [g]; done) | (split <;> simp [g]; done) | exact tabFold_rising (fun _ _ k => by simp [k]) _ _ g) _ _ (by simp [h]) | (repeat' first | exact rfl | exact h | apply tabSet_rising)))
    | with_reducible refine Frame.foldl ?_ (fun _ _ _ => ?_)
    | with_reducible apply_assumption

theorem countWaits_frame (rs : List Nat) (s : State) :
    Frame [.regs, .err, .drc] s (countWaits rs s) := by
  delta countWaits
  repeat' first
    | with_reducible apply Frame.refl
    | with_reducible assumption
    | apply Eq.refl
    | lift_lets -underBinder -merge -useContext
    | (intro x; refine Frame.cut (cs := [.regs, .err, .drc]) (s0 := s) (x := x) ?_ (fun hx => ?_); unfold x; rotate_left; clear_value x)
    | (intro x; clear_value x)
    | intro x
    | with_reducible apply Frame.app (cntWrap_frame _ _ _)
    | with_reducible apply Frame.app (raiseInt_frame _ _ _)
    | (with_reducible refine Frame.updDrc (by decide) ?_ ?_; (intro _ h; exact h))
    | (with_reducible refine Frame.updDrc (by decide) ?_ ?_; (intro _ h; simp only [DrcSt.sorted] at h ⊢; simp [h]; done))
    | (with_reducible refine Frame.updDrc (by decide) ?_ ?_; (intro _ h; simp only [DrcSt.sorted] at h ⊢; and_intros <;> (try dsimp only) <;> (repeat' split) <;> first | (simp [h]; done) | exact tabFold_rising (fun _ _ g => by first | (simp [g]; done) | (split <;> simp [g]; done)) _ _ (by simp [h])))
    | (with_reducible refine Frame.updDrc (by decide) ?_ ?_; (intro _ h; simp only [DrcSt.sorted] at h ⊢; and_intros <;> first | (simp [h]; done) | exact tabFold_rising (fun _ _ g => by first | (simp [g]; done) | (split <;> simp [g]; done) | exact tabFold_rising (fun _ _ k => by simp [k]) _ _ g) _ _ (by simp [h]) | (repeat' first | exact rfl | exact h | apply tabSet_rising)))
    | with_reducible refine Frame.foldl ?_ (fun _ _ _ => ?_)
    | with_reducible apply Frame.ite
    | with_reducible apply_assumption

theorem queueReqs_frame (rs : List (Nat × Nat)) (done : Nat) (s : State) :
    Frame [.drc] s (queueReqs rs done s) := by
  delta queueReqs
  repeat' first
    | with_reducible apply Frame.refl
    | with_reducible assumption
    | apply Eq.refl
    | lift_lets -underBinder -merge -useContext
    | (intro x; refine Frame.cut (cs := [.drc]) (s0 := s) (x := x) ?_ (fun hx => ?_); unfold x; rotate_left; clear_value x)
    | (intro x; clear_value x)
    | intro x
    | (with_reducible refine Frame.updDrc (by decide) ?_ ?_; (intro _ h; exact h))
    | (with_reducible refine Frame.updDrc (by decide) ?_ ?_; (intro _ h; simp only [DrcSt.sorted] at h ⊢; simp [h]; done))
    | (with_reducible refine Frame.updDrc (by decide) ?_ ?_; (intro _ h; simp only [DrcSt.sorted] at h ⊢; and_intros <;> (try dsimp only) <;> (repeat' split) <;> first | (simp [h]; done) | exact tabFold_rising (fun _ _ g => by first | (simp [g]; done) | (split <;> simp [g]; done)) _ _ (by simp [h])))
    | (with_reducible refine Frame.updDrc (by decide) ?_ ?_; (intro _ h; simp only [DrcSt.sorted] at h ⊢; and_intros <;> first | (simp [h]; done) | exact tabFold_rising (fun _ _ g => by first | (simp [g]; done) | (split <;> simp [g]; done) | exact tabFold_rising (fun _ _ k => by simp [k]) _ _ g) _ _ (by simp [h]) | (repeat' first | exact rfl | exact h | apply tabSet_rising)))

theorem endGrant_frame (taken : List DramBurst) (done : Nat) (s : State) :
    Frame [.clk, .regs, .mem, .hif, .err, .drc] s (endGrant taken done s) := by
  delta endGrant
  repeat' first
    | with_reducible apply Frame.refl
    | with_reducible assumption
    | apply Eq.refl
    | lift_lets -underBinder -merge -useContext
    | (intro x; refine Frame.cut (cs := [.clk, .regs, .mem, .hif, .err, .drc]) (s0 := s) (x := x) ?_ (fun hx => ?_); unfold x; rotate_left; clear_value x)
    | (intro x; clear_value x)
    | intro x
    | with_reducible apply Frame.app (performReq_frame _ _)
    | with_reducible apply Frame.app (queueReqs_frame _ _ _)
    | (with_reducible refine Frame.updDrc (by decide) ?_ ?_; (intro _ h; exact h))
    | (with_reducible refine Frame.updDrc (by decide) ?_ ?_; (intro _ h; simp only [DrcSt.sorted] at h ⊢; simp [h]; done))
    | (with_reducible refine Frame.updDrc (by decide) ?_ ?_; (intro _ h; simp only [DrcSt.sorted] at h ⊢; and_intros <;> (try dsimp only) <;> (repeat' split) <;> first | (simp [h]; done) | exact tabFold_rising (fun _ _ g => by first | (simp [g]; done) | (split <;> simp [g]; done)) _ _ (by simp [h])))
    | (with_reducible refine Frame.updDrc (by decide) ?_ ?_; (intro _ h; simp only [DrcSt.sorted] at h ⊢; and_intros <;> first | (simp [h]; done) | exact tabFold_rising (fun _ _ g => by first | (simp [g]; done) | (split <;> simp [g]; done) | exact tabFold_rising (fun _ _ k => by simp [k]) _ _ g) _ _ (by simp [h]) | (repeat' first | exact rfl | exact h | apply tabSet_rising)))
    | with_reducible refine Frame.foldl ?_ (fun _ _ _ => ?_)
    | with_reducible apply Frame.ite
    | with_reducible apply_assumption
    | split

theorem linesRise_frame (rs : List Nat) (s : State) :
    Frame [.regs, .pip, .err, .pwr] s (linesRise rs s) := by
  delta linesRise
  repeat' first
    | with_reducible apply Frame.refl
    | with_reducible assumption
    | apply Eq.refl
    | lift_lets -underBinder -merge -useContext
    | (intro x; refine Frame.cut (cs := [.regs, .pip, .err, .pwr]) (s0 := s) (x := x) ?_ (fun hx => ?_); unfold x; rotate_left; clear_value x)
    | with_reducible apply Frame.app (dramAsked_frame _ _)
    | split

theorem arbDecide_frame (req : List (Fin 8)) (taken : List DramBurst) (done : Nat) (acts : List RowAct) (s : State) :
    Frame [.clk, .regs, .mem, .pip, .hif, .err, .drc, .pwr] s (arbDecide req taken done acts s) := by
  delta arbDecide
  repeat' first
    | with_reducible apply Frame.refl
    | with_reducible assumption
    | apply Eq.refl
    | lift_lets -underBinder -merge -useContext
    | (intro x; refine Frame.cut (cs := [.clk, .regs, .mem, .pip, .hif, .err, .drc, .pwr]) (s0 := s) (x := x) ?_ (fun hx => ?_); unfold x; rotate_left; clear_value x)
    | (intro x; clear_value x)
    | intro x
    | with_reducible apply Frame.app (fieldPut_frame _ _ _ _ _)
    | with_reducible apply Frame.app (cntWrap_frame _ _ _)
    | with_reducible apply Frame.app (cntMax_frame _ _ _)
    | with_reducible apply Frame.app (activateRow_frame _ _)
    | with_reducible apply Frame.app (applyChanges_frame _)
    | with_reducible apply Frame.app (countWaits_frame _ _)
    | with_reducible apply Frame.app (endGrant_frame _ _ _)
    | with_reducible apply Frame.app (linesRise_frame _ _)
    | (with_reducible refine Frame.updDrc (by decide) ?_ ?_; (intro _ h; exact h))
    | (with_reducible refine Frame.updDrc (by decide) ?_ ?_; (intro _ h; simp only [DrcSt.sorted] at h ⊢; simp [h]; done))
    | (with_reducible refine Frame.updDrc (by decide) ?_ ?_; (intro _ h; simp only [DrcSt.sorted] at h ⊢; and_intros <;> (try dsimp only) <;> (repeat' split) <;> first | (simp [h]; done) | exact tabFold_rising (fun _ _ g => by first | (simp [g]; done) | (split <;> simp [g]; done)) _ _ (by simp [h])))
    | (with_reducible refine Frame.updDrc (by decide) ?_ ?_; (intro _ h; simp only [DrcSt.sorted] at h ⊢; and_intros <;> first | (simp [h]; done) | exact tabFold_rising (fun _ _ g => by first | (simp [g]; done) | (split <;> simp [g]; done) | exact tabFold_rising (fun _ _ k => by simp [k]) _ _ g) _ _ (by simp [h]) | (repeat' first | exact rfl | exact h | apply tabSet_rising)))
    | with_reducible refine Frame.foldl ?_ (fun _ _ _ => ?_)
    | with_reducible apply Frame.ite
    | with_reducible apply_assumption
    | split

theorem execArbDecision_frame (req : List (Fin 8)) (taken : List DramBurst) (done : Nat) (acts : List RowAct) (s : State) :
    ∀ out, execArbDecision req taken done acts s = .next out → Frame [.clk, .regs, .mem, .pip, .hif, .err, .drc, .pwr] s out := by
  delta execArbDecision
  intro out h
  injection h with h
  subst h
  repeat' first
    | with_reducible apply Frame.refl
    | with_reducible assumption
    | apply Eq.refl
    | lift_lets -underBinder -merge -useContext
    | (intro x; refine Frame.cut (cs := [.clk, .regs, .mem, .pip, .hif, .err, .drc, .pwr]) (s0 := s) (x := x) ?_ (fun hx => ?_); unfold x; rotate_left; clear_value x)
    | with_reducible apply Frame.app (arbDecide_frame _ _ _ _ _)

theorem execStatsFlush_frame (s : State) :
    ∀ out, execStatsFlush s = .next out → Frame [.clk, .mem] s out := by
  delta execStatsFlush
  intro out h
  injection h with h
  subst h
  repeat' first
    | with_reducible apply Frame.refl
    | with_reducible assumption
    | apply Eq.refl
    | lift_lets -underBinder -merge -useContext
    | (intro x; refine Frame.cut (cs := [.clk, .mem]) (s0 := s) (x := x) ?_ (fun hx => ?_); unfold x; rotate_left; clear_value x)
    | with_reducible apply Frame.app (nextFree_frame _)
    | with_reducible apply Frame.app (areaWritten_frame _ _)
    | with_reducible apply Frame.ite

end Sys2Proof.Machine
end

