-- ==== Sys2Proof/Laws/FrameFirmware.lean ====
section
/-! SUPPORT. What each operation of Machine/Firmware.lean changes at most, and that it keeps the invariant. -/

namespace Sys2Proof.Machine

set_option linter.all false

open Sys2Proof

theorem putDir_frame (f : FlashDir → FlashDir) (s : State) :
    Frame [.fwu] s (putDir f s) := by
  delta putDir
  repeat' first
    | with_reducible apply Frame.refl
    | with_reducible assumption
    | apply Eq.refl
    | lift_lets -underBinder -merge -useContext
    | (intro x; refine Frame.cut (cs := [.fwu]) (s0 := s) (x := x) ?_ (fun hx => ?_); unfold x; rotate_left; clear_value x)
    | (intro x; clear_value x)
    | intro x
    | (with_reducible refine Frame.updFwu (by decide) ?_ ?_; (intro _ h; exact h))
    | (with_reducible refine Frame.updFwu (by decide) ?_ ?_; (intro _ h; simp only [FwuSt.sorted] at h ⊢; simp [h]; done))
    | (with_reducible refine Frame.updFwu (by decide) ?_ ?_; (intro _ h; simp only [FwuSt.sorted] at h ⊢; and_intros <;> (try dsimp only) <;> (repeat' split) <;> first | (simp [h]; done) | exact tabFold_rising (fun _ _ g => by first | (simp [g]; done) | (split <;> simp [g]; done)) _ _ (by simp [h])))
    | (with_reducible refine Frame.updFwu (by decide) ?_ ?_; (intro _ h; simp only [FwuSt.sorted] at h ⊢; and_intros <;> first | (simp [h]; done) | exact tabFold_rising (fun _ _ g => by first | (simp [g]; done) | (split <;> simp [g]; done) | exact tabFold_rising (fun _ _ k => by simp [k]) _ _ g) _ _ (by simp [h]) | (repeat' first | exact rfl | exact h | apply tabSet_rising)))
    | split

theorem setSlotState_frame (n st : Nat) (s : State) :
    Frame [.fwu] s (setSlotState n st s) := by
  delta setSlotState
  repeat' first
    | with_reducible apply Frame.refl
    | with_reducible assumption
    | apply Eq.refl
    | lift_lets -underBinder -merge -useContext
    | (intro x; refine Frame.cut (cs := [.fwu]) (s0 := s) (x := x) ?_ (fun hx => ?_); unfold x; rotate_left; clear_value x)
    | with_reducible apply Frame.app (putDir_frame _ _)

theorem fwuEvent_frame (b : Nat) (s : State) :
    Frame [.regs, .err] s (fwuEvent b s) := by
  delta fwuEvent
  repeat' first
    | with_reducible apply Frame.refl
    | with_reducible assumption
    | apply Eq.refl
    | lift_lets -underBinder -merge -useContext
    | (intro x; refine Frame.cut (cs := [.regs, .err]) (s0 := s) (x := x) ?_ (fun hx => ?_); unfold x; rotate_left; clear_value x)
    | with_reducible apply Frame.app (raiseInt_frame _ _ _)

theorem windowDone_frame (st d : Nat) (s : State) :
    Frame [.regs] s (windowDone st d s) := by
  delta windowDone
  repeat' first
    | with_reducible apply Frame.refl
    | with_reducible assumption
    | apply Eq.refl
    | lift_lets -underBinder -merge -useContext
    | (intro x; refine Frame.cut (cs := [.regs]) (s0 := s) (x := x) ?_ (fun hx => ?_); unfold x; rotate_left; clear_value x)
    | (intro x; clear_value x)
    | intro x
    | with_reducible apply Frame.app (fieldPut_frame _ _ _ _ _)
    | with_reducible apply Frame.app (flagPut_frame _ _ _ _)

theorem lastBlockDone_frame (x : Session) (st d : Nat) (s : State) :
    Frame [.regs, .tbl, .upd, .cas, .hif] s (lastBlockDone x st d s) := by
  delta lastBlockDone
  repeat' first
    | with_reducible apply Frame.refl
    | with_reducible assumption
    | apply Eq.refl
    | lift_lets -underBinder -merge -useContext
    | (intro x; refine Frame.cut (cs := [.regs, .tbl, .upd, .cas, .hif]) (s0 := s) (x := x) ?_ (fun hx => ?_); unfold x; rotate_left; clear_value x)
    | with_reducible apply Frame.app (complete_frame _ _ _ _ _ _)
    | with_reducible apply Frame.app (windowDone_frame _ _ _)
    | with_reducible apply Frame.ite
    | split

theorem waiterDone_frame (s : State) :
    Frame [.regs, .tbl, .upd, .cas, .hif] s (waiterDone s) := by
  delta waiterDone
  repeat' first
    | with_reducible apply Frame.refl
    | with_reducible assumption
    | apply Eq.refl
    | lift_lets -underBinder -merge -useContext
    | (intro x; refine Frame.cut (cs := [.regs, .tbl, .upd, .cas, .hif]) (s0 := s) (x := x) ?_ (fun hx => ?_); unfold x; rotate_left; clear_value x)
    | with_reducible apply Frame.app (lastBlockDone_frame _ _ _ _)
    | with_reducible apply Frame.ite
    | split

theorem openSession_frame (src ring size : Nat) (s : State) :
    Frame [.regs, .tbl, .upd, .cas, .hif, .fwu, .vbt] s (openSession src ring size s) := by
  delta openSession
  repeat' first
    | with_reducible apply Frame.refl
    | with_reducible assumption
    | apply Eq.refl
    | lift_lets -underBinder -merge -useContext
    | (intro x; refine Frame.cut (cs := [.regs, .tbl, .upd, .cas, .hif, .fwu, .vbt]) (s0 := s) (x := x) ?_ (fun hx => ?_); unfold x; rotate_left; clear_value x)
    | (intro x; clear_value x)
    | intro x
    | with_reducible apply Frame.app (fieldPut_frame _ _ _ _ _)
    | with_reducible apply Frame.app (vbtField_frame _ _ _ _ _)
    | with_reducible apply Frame.app (setSlotState_frame _ _ _)
    | with_reducible apply Frame.app (waiterDone_frame _)
    | (with_reducible refine Frame.updFwu (by decide) ?_ ?_; (intro _ h; exact h))
    | (with_reducible refine Frame.updFwu (by decide) ?_ ?_; (intro _ h; simp only [FwuSt.sorted] at h ⊢; simp [h]; done))
    | (with_reducible refine Frame.updFwu (by decide) ?_ ?_; (intro _ h; simp only [FwuSt.sorted] at h ⊢; and_intros <;> (try dsimp only) <;> (repeat' split) <;> first | (simp [h]; done) | exact tabFold_rising (fun _ _ g => by first | (simp [g]; done) | (split <;> simp [g]; done)) _ _ (by simp [h])))
    | (with_reducible refine Frame.updFwu (by decide) ?_ ?_; (intro _ h; simp only [FwuSt.sorted] at h ⊢; and_intros <;> first | (simp [h]; done) | exact tabFold_rising (fun _ _ g => by first | (simp [g]; done) | (split <;> simp [g]; done) | exact tabFold_rising (fun _ _ k => by simp [k]) _ _ g) _ _ (by simp [h]) | (repeat' first | exact rfl | exact h | apply tabSet_rising)))
    | with_reducible apply Frame.ite

theorem takeBlock_frame (x : Session) (ofs : Nat) (data : List Byte) (cmd : Option Nat) (s : State) :
    Frame [.regs, .fwu] s (takeBlock x ofs data cmd s).2 := by
  delta takeBlock
  repeat' first
    | with_reducible apply Frame.refl
    | with_reducible assumption
    | apply Eq.refl
    | lift_lets -underBinder -merge -useContext
    | (intro x; refine Frame.cut (cs := [.regs, .fwu]) (s0 := s) (x := x) ?_ (fun hx => ?_); unfold x; rotate_left; clear_value x)
    | (intro x; clear_value x)
    | intro x
    | with_reducible apply Frame.app (regPut_frame _ _ _)
    | with_reducible apply Frame.app (fieldPut_frame _ _ _ _ _)
    | (with_reducible refine Frame.updFwu (by decide) ?_ ?_; (intro _ h; exact h))
    | (with_reducible refine Frame.updFwu (by decide) ?_ ?_; (intro _ h; simp only [FwuSt.sorted] at h ⊢; simp [h]; done))
    | (with_reducible refine Frame.updFwu (by decide) ?_ ?_; (intro _ h; simp only [FwuSt.sorted] at h ⊢; and_intros <;> (try dsimp only) <;> (repeat' split) <;> first | (simp [h]; done) | exact tabFold_rising (fun _ _ g => by first | (simp [g]; done) | (split <;> simp [g]; done)) _ _ (by simp [h])))
    | (with_reducible refine Frame.updFwu (by decide) ?_ ?_; (intro _ h; simp only [FwuSt.sorted] at h ⊢; and_intros <;> first | (simp [h]; done) | exact tabFold_rising (fun _ _ g => by first | (simp [g]; done) | (split <;> simp [g]; done) | exact tabFold_rising (fun _ _ k => by simp [k]) _ _ g) _ _ (by simp [h]) | (repeat' first | exact rfl | exact h | apply tabSet_rising)))
    | with_reducible apply Frame.ite
    | with_reducible apply Frame.ite2

theorem deliver_frame (src ring ofs len : Nat) (last : Bool) (data : List Byte) (cmd : Option Nat) (s : State) :
    Frame [.regs, .tbl, .upd, .cas, .hif, .fwu, .vbt] s (deliver src ring ofs len last data cmd s).2 := by
  delta deliver
  repeat' first
    | with_reducible apply Frame.refl
    | with_reducible assumption
    | apply Eq.refl
    | lift_lets -underBinder -merge -useContext
    | (intro x; refine Frame.cut (cs := [.regs, .tbl, .upd, .cas, .hif, .fwu, .vbt]) (s0 := s) (x := x) ?_ (fun hx => ?_); unfold x; rotate_left; clear_value x)
    | (intro x; refine Frame.cut (cs := [.regs, .tbl, .upd, .cas, .hif, .fwu, .vbt]) (s0 := s) (x := x.2) ?_ (fun hx => ?_); unfold x; rotate_left; clear_value x)
    | (intro x; clear_value x)
    | intro x
    | with_reducible apply Frame.app (fieldPut_frame _ _ _ _ _)
    | with_reducible apply Frame.app (openSession_frame _ _ _ _)
    | with_reducible apply Frame.app (takeBlock_frame _ _ _ _ _)
    | with_reducible apply Frame.ite
    | with_reducible apply Frame.ite2
    | split
    | with_reducible refine Frame.app (Frame.ofPair (takeBlock_frame _ _ _ _ _) (by assumption)) ?_ ?_

theorem askBlock_frame (c : Cmd) (s : State) :
    Frame [.upd, .hif] s (askBlock c s) := by
  delta askBlock
  repeat' first
    | with_reducible apply Frame.refl
    | with_reducible assumption
    | apply Eq.refl
    | lift_lets -underBinder -merge -useContext
    | (intro x; refine Frame.cut (cs := [.upd, .hif]) (s0 := s) (x := x) ?_ (fun hx => ?_); unfold x; rotate_left; clear_value x)
    | (intro x; clear_value x)
    | intro x
    | with_reducible apply Frame.app (hostRead_frame _ _ _ _ _)
    | with_reducible apply Frame.app (updCmd_frame _ _ _)
    | with_reducible apply Frame.ite

theorem fwBlock_frame (n : Nat) (data : Option (List Byte)) (s : State) :
    Frame [.regs, .tbl, .upd, .cas, .hif, .fwu, .vbt] s (fwBlock n data s) := by
  delta fwBlock
  repeat' first
    | with_reducible apply Frame.refl
    | with_reducible assumption
    | apply Eq.refl
    | lift_lets -underBinder -merge -useContext
    | (intro x; refine Frame.cut (cs := [.regs, .tbl, .upd, .cas, .hif, .fwu, .vbt]) (s0 := s) (x := x) ?_ (fun hx => ?_); unfold x; rotate_left; clear_value x)
    | (intro x; refine Frame.cut (cs := [.regs, .tbl, .upd, .cas, .hif, .fwu, .vbt]) (s0 := s) (x := x.2) ?_ (fun hx => ?_); unfold x; rotate_left; clear_value x)
    | (intro x; clear_value x)
    | intro x
    | with_reducible apply Frame.app (updCmd_frame _ _ _)
    | with_reducible apply Frame.app (complete_frame _ _ _ _ _ _)
    | with_reducible apply Frame.app (readFailed_frame _ _)
    | with_reducible apply Frame.app (deliver_frame _ _ _ _ _ _ _ _)
    | with_reducible apply Frame.app (askBlock_frame _ _)
    | with_reducible apply Frame.ite
    | split
    | with_reducible refine Frame.app (Frame.ofPair (deliver_frame _ _ _ _ _ _ _ _) (by assumption)) ?_ ?_

theorem execFwBlock_frame (n : Nat) (data : Option (List Byte)) (s : State) :
    ∀ out, execFwBlock n data s = .next out → Frame [.regs, .tbl, .upd, .cas, .hif, .fwu, .vbt] s out := by
  delta execFwBlock
  intro out h
  injection h with h
  subst h
  repeat' first
    | with_reducible apply Frame.refl
    | with_reducible assumption
    | apply Eq.refl
    | lift_lets -underBinder -merge -useContext
    | (intro x; refine Frame.cut (cs := [.regs, .tbl, .upd, .cas, .hif, .fwu, .vbt]) (s0 := s) (x := x) ?_ (fun hx => ?_); unfold x; rotate_left; clear_value x)
    | with_reducible apply Frame.app (fwBlock_frame _ _ _)

theorem ringsFirst_frame (s : State) :
    Frame [.regs, .tbl, .upd, .cas, .hif, .fwu, .vbt] s (ringsFirst s) := by
  delta ringsFirst
  repeat' first
    | with_reducible apply Frame.refl
    | with_reducible assumption
    | apply Eq.refl
    | lift_lets -underBinder -merge -useContext
    | (intro x; refine Frame.cut (cs := [.regs, .tbl, .upd, .cas, .hif, .fwu, .vbt]) (s0 := s) (x := x) ?_ (fun hx => ?_); unfold x; rotate_left; clear_value x)
    | with_reducible apply Frame.app (fwBlock_frame _ _ _)
    | with_reducible refine Frame.foldl ?_ (fun _ _ _ => ?_)
    | with_reducible apply_assumption

theorem execImageVerifyDone_frame (s : State) :
    ∀ out, execImageVerifyDone s = .next out → Frame [.regs, .tbl, .upd, .cas, .hif, .err, .fwu] s out := by
  delta execImageVerifyDone
  intro out h
  injection h with h
  subst h
  repeat' first
    | with_reducible apply Frame.refl
    | with_reducible assumption
    | apply Eq.refl
    | lift_lets -underBinder -merge -useContext
    | (intro x; refine Frame.cut (cs := [.regs, .tbl, .upd, .cas, .hif, .err, .fwu]) (s0 := s) (x := x) ?_ (fun hx => ?_); unfold x; rotate_left; clear_value x)
    | with_reducible apply Frame.app (fieldPut_frame _ _ _ _ _)
    | with_reducible apply Frame.app (endSession_frame _)
    | with_reducible apply Frame.app (lastBlockDone_frame _ _ _ _)
    | (with_reducible refine Frame.updFwu (by decide) ?_ ?_; (intro _ h; exact h))
    | (with_reducible refine Frame.updFwu (by decide) ?_ ?_; (intro _ h; simp only [FwuSt.sorted] at h ⊢; simp [h]; done))
    | (with_reducible refine Frame.updFwu (by decide) ?_ ?_; (intro _ h; simp only [FwuSt.sorted] at h ⊢; and_intros <;> (try dsimp only) <;> (repeat' split) <;> first | (simp [h]; done) | exact tabFold_rising (fun _ _ g => by first | (simp [g]; done) | (split <;> simp [g]; done)) _ _ (by simp [h])))
    | (with_reducible refine Frame.updFwu (by decide) ?_ ?_; (intro _ h; simp only [FwuSt.sorted] at h ⊢; and_intros <;> first | (simp [h]; done) | exact tabFold_rising (fun _ _ g => by first | (simp [g]; done) | (split <;> simp [g]; done) | exact tabFold_rising (fun _ _ k => by simp [k]) _ _ g) _ _ (by simp [h]) | (repeat' first | exact rfl | exact h | apply tabSet_rising)))
    | with_reducible apply Frame.ite
    | split

theorem execProgrammingDone_frame (ok : Bool) (s : State) :
    ∀ out, execProgrammingDone ok s = .next out → Frame [.regs, .err, .fwu, .vbt] s out := by
  delta execProgrammingDone
  intro out h
  injection h with h
  subst h
  repeat' first
    | with_reducible apply Frame.refl
    | with_reducible assumption
    | apply Eq.refl
    | lift_lets -underBinder -merge -useContext
    | (intro x; refine Frame.cut (cs := [.regs, .err, .fwu, .vbt]) (s0 := s) (x := x) ?_ (fun hx => ?_); unfold x; rotate_left; clear_value x)
    | (intro x; clear_value x)
    | intro x
    | with_reducible apply Frame.app (regPut_frame _ _ _)
    | with_reducible apply Frame.app (fieldPut_frame _ _ _ _ _)
    | with_reducible apply Frame.app (vbtField_frame _ _ _ _ _)
    | with_reducible apply Frame.app (endSession_frame _)
    | with_reducible apply Frame.app (putDir_frame _ _)
    | with_reducible apply Frame.app (fwuEvent_frame _ _)
    | (with_reducible refine Frame.updFwu (by decide) ?_ ?_; (intro _ h; exact h))
    | (with_reducible refine Frame.updFwu (by decide) ?_ ?_; (intro _ h; simp only [FwuSt.sorted] at h ⊢; simp [h]; done))
    | (with_reducible refine Frame.updFwu (by decide) ?_ ?_; (intro _ h; simp only [FwuSt.sorted] at h ⊢; and_intros <;> (try dsimp only) <;> (repeat' split) <;> first | (simp [h]; done) | exact tabFold_rising (fun _ _ g => by first | (simp [g]; done) | (split <;> simp [g]; done)) _ _ (by simp [h])))
    | (with_reducible refine Frame.updFwu (by decide) ?_ ?_; (intro _ h; simp only [FwuSt.sorted] at h ⊢; and_intros <;> first | (simp [h]; done) | exact tabFold_rising (fun _ _ g => by first | (simp [g]; done) | (split <;> simp [g]; done) | exact tabFold_rising (fun _ _ k => by simp [k]) _ _ g) _ _ (by simp [h]) | (repeat' first | exact rfl | exact h | apply tabSet_rising)))
    | with_reducible apply Frame.ite
    | split

theorem execSessionIdleTimeout_frame (s : State) :
    ∀ out, execSessionIdleTimeout s = .next out → Frame [.regs, .err, .fwu] s out := by
  delta execSessionIdleTimeout
  intro out h
  injection h with h
  subst h
  repeat' first
    | with_reducible apply Frame.refl
    | with_reducible assumption
    | apply Eq.refl
    | lift_lets -underBinder -merge -useContext
    | (intro x; refine Frame.cut (cs := [.regs, .err, .fwu]) (s0 := s) (x := x) ?_ (fun hx => ?_); unfold x; rotate_left; clear_value x)
    | with_reducible apply Frame.app (endSession_frame _)
    | with_reducible apply Frame.ite
    | split

theorem wrWinOfs_frame (src : Party) (v : Word) (s : State) :
    Frame [.regs, .prt, .err, .fwu] s (wrWinOfs src v s) := by
  delta wrWinOfs
  repeat' first
    | with_reducible apply Frame.refl
    | with_reducible assumption
    | apply Eq.refl
    | lift_lets -underBinder -merge -useContext
    | (intro x; refine Frame.cut (cs := [.regs, .prt, .err, .fwu]) (s0 := s) (x := x) ?_ (fun hx => ?_); unfold x; rotate_left; clear_value x)
    | (intro x; clear_value x)
    | intro x
    | with_reducible apply Frame.app (regPut_frame _ _ _)
    | with_reducible apply Frame.app (fieldPut_frame _ _ _ _ _)
    | with_reducible apply Frame.app (refuseReg_frame _ _ _ _ _)
    | (with_reducible refine Frame.updFwu (by decide) ?_ ?_; (intro _ h; exact h))
    | (with_reducible refine Frame.updFwu (by decide) ?_ ?_; (intro _ h; simp only [FwuSt.sorted] at h ⊢; simp [h]; done))
    | (with_reducible refine Frame.updFwu (by decide) ?_ ?_; (intro _ h; simp only [FwuSt.sorted] at h ⊢; and_intros <;> (try dsimp only) <;> (repeat' split) <;> first | (simp [h]; done) | exact tabFold_rising (fun _ _ g => by first | (simp [g]; done) | (split <;> simp [g]; done)) _ _ (by simp [h])))
    | (with_reducible refine Frame.updFwu (by decide) ?_ ?_; (intro _ h; simp only [FwuSt.sorted] at h ⊢; and_intros <;> first | (simp [h]; done) | exact tabFold_rising (fun _ _ g => by first | (simp [g]; done) | (split <;> simp [g]; done) | exact tabFold_rising (fun _ _ k => by simp [k]) _ _ g) _ _ (by simp [h]) | (repeat' first | exact rfl | exact h | apply tabSet_rising)))
    | with_reducible apply Frame.ite

theorem wrWinLen_frame (src : Party) (v : Word) (s : State) :
    Frame [.regs, .prt, .err] s (wrWinLen src v s) := by
  delta wrWinLen
  repeat' first
    | with_reducible apply Frame.refl
    | with_reducible assumption
    | apply Eq.refl
    | lift_lets -underBinder -merge -useContext
    | (intro x; refine Frame.cut (cs := [.regs, .prt, .err]) (s0 := s) (x := x) ?_ (fun hx => ?_); unfold x; rotate_left; clear_value x)
    | with_reducible apply Frame.app (plainWrite_frame _ _ _)
    | with_reducible apply Frame.app (refuseReg_frame _ _ _ _ _)
    | with_reducible apply Frame.ite

theorem wrWinData_frame (src : Party) (v : Word) (s : State) :
    Frame [.regs, .prt, .err, .fwu] s (wrWinData src v s) := by
  delta wrWinData
  repeat' first
    | with_reducible apply Frame.refl
    | with_reducible assumption
    | apply Eq.refl
    | lift_lets -underBinder -merge -useContext
    | (intro x; refine Frame.cut (cs := [.regs, .prt, .err, .fwu]) (s0 := s) (x := x) ?_ (fun hx => ?_); unfold x; rotate_left; clear_value x)
    | with_reducible apply Frame.app (refuseReg_frame _ _ _ _ _)
    | (with_reducible refine Frame.updFwu (by decide) ?_ ?_; (intro _ h; exact h))
    | (with_reducible refine Frame.updFwu (by decide) ?_ ?_; (intro _ h; simp only [FwuSt.sorted] at h ⊢; simp [h]; done))
    | (with_reducible refine Frame.updFwu (by decide) ?_ ?_; (intro _ h; simp only [FwuSt.sorted] at h ⊢; and_intros <;> (try dsimp only) <;> (repeat' split) <;> first | (simp [h]; done) | exact tabFold_rising (fun _ _ g => by first | (simp [g]; done) | (split <;> simp [g]; done)) _ _ (by simp [h])))
    | (with_reducible refine Frame.updFwu (by decide) ?_ ?_; (intro _ h; simp only [FwuSt.sorted] at h ⊢; and_intros <;> first | (simp [h]; done) | exact tabFold_rising (fun _ _ g => by first | (simp [g]; done) | (split <;> simp [g]; done) | exact tabFold_rising (fun _ _ k => by simp [k]) _ _ g) _ _ (by simp [h]) | (repeat' first | exact rfl | exact h | apply tabSet_rising)))
    | with_reducible apply Frame.ite

theorem pushWindow_frame (src : Party) (s : State) :
    Frame [.regs, .tbl, .upd, .cas, .hif, .fwu, .vbt] s (pushWindow src s) := by
  delta pushWindow
  repeat' first
    | with_reducible apply Frame.refl
    | with_reducible assumption
    | apply Eq.refl
    | lift_lets -underBinder -merge -useContext
    | (intro x; refine Frame.cut (cs := [.regs, .tbl, .upd, .cas, .hif, .fwu, .vbt]) (s0 := s) (x := x) ?_ (fun hx => ?_); unfold x; rotate_left; clear_value x)
    | (intro x; refine Frame.cut (cs := [.regs, .tbl, .upd, .cas, .hif, .fwu, .vbt]) (s0 := s) (x := x.2) ?_ (fun hx => ?_); unfold x; rotate_left; clear_value x)
    | (intro x; clear_value x)
    | intro x
    | with_reducible apply Frame.app (flagPut_frame _ _ _ _)
    | with_reducible apply Frame.app (windowDone_frame _ _ _)
    | with_reducible apply Frame.app (deliver_frame _ _ _ _ _ _ _ _)
    | with_reducible apply Frame.app (ringsFirst_frame _)
    | with_reducible apply Frame.ite
    | split
    | with_reducible refine Frame.app (Frame.ofPair (deliver_frame _ _ _ _ _ _ _ _) (by assumption)) ?_ ?_

theorem abortSession_frame (s : State) :
    Frame [.regs, .tbl, .upd, .cas, .hif, .err, .fwu] s (abortSession s) := by
  delta abortSession
  repeat' first
    | with_reducible apply Frame.refl
    | with_reducible assumption
    | apply Eq.refl
    | lift_lets -underBinder -merge -useContext
    | (intro x; refine Frame.cut (cs := [.regs, .tbl, .upd, .cas, .hif, .err, .fwu]) (s0 := s) (x := x) ?_ (fun hx => ?_); unfold x; rotate_left; clear_value x)
    | with_reducible apply Frame.app (endSession_frame _)
    | with_reducible apply Frame.app (waiterDone_frame _)
    | with_reducible apply Frame.ite

theorem confirmImage_frame (mgr : Bool) (s : State) :
    Frame [.regs, .cas, .err, .fwu, .vbt] s (confirmImage mgr s).2 := by
  delta confirmImage
  repeat' first
    | with_reducible apply Frame.refl
    | with_reducible assumption
    | apply Eq.refl
    | lift_lets -underBinder -merge -useContext
    | (intro x; refine Frame.cut (cs := [.regs, .cas, .err, .fwu, .vbt]) (s0 := s) (x := x) ?_ (fun hx => ?_); unfold x; rotate_left; clear_value x)
    | (intro x; clear_value x)
    | intro x
    | with_reducible apply Frame.app (flagPut_frame _ _ _ _)
    | with_reducible apply Frame.app (ctrlWrite_frame _ _ _ _)
    | with_reducible apply Frame.app (vbtPut_frame _ _ _)
    | with_reducible apply Frame.app (vbtField_frame _ _ _ _ _)
    | with_reducible apply Frame.app (putDir_frame _ _)
    | with_reducible apply Frame.app (fwuEvent_frame _ _)
    | with_reducible apply Frame.ite
    | with_reducible apply Frame.ite2

theorem execFwConfirm_frame (n : Nat) (s : State) :
    ∀ out, execFwConfirm n s = .next out → Frame [.regs, .tbl, .upd, .cas, .hif, .err, .fwu, .vbt] s out := by
  delta execFwConfirm
  intro out h
  injection h with h
  subst h
  repeat' first
    | with_reducible apply Frame.refl
    | with_reducible assumption
    | apply Eq.refl
    | lift_lets -underBinder -merge -useContext
    | (intro x; refine Frame.cut (cs := [.regs, .tbl, .upd, .cas, .hif, .err, .fwu, .vbt]) (s0 := s) (x := x) ?_ (fun hx => ?_); unfold x; rotate_left; clear_value x)
    | (intro x; refine Frame.cut (cs := [.regs, .tbl, .upd, .cas, .hif, .err, .fwu, .vbt]) (s0 := s) (x := x.2) ?_ (fun hx => ?_); unfold x; rotate_left; clear_value x)
    | (intro x; clear_value x)
    | intro x
    | with_reducible apply Frame.app (complete_frame _ _ _ _ _ _)
    | with_reducible apply Frame.app (confirmImage_frame _ _)
    | split
    | with_reducible refine Frame.app (Frame.ofPair (confirmImage_frame _ _) (by assumption)) ?_ ?_

theorem rejectSlot_frame (n c : Nat) (s : State) :
    Frame [.fwu, .vbt] s (rejectSlot n c s) := by
  delta rejectSlot
  repeat' first
    | with_reducible apply Frame.refl
    | with_reducible assumption
    | apply Eq.refl
    | lift_lets -underBinder -merge -useContext
    | (intro x; refine Frame.cut (cs := [.fwu, .vbt]) (s0 := s) (x := x) ?_ (fun hx => ?_); unfold x; rotate_left; clear_value x)
    | with_reducible apply Frame.app (vbtField_frame _ _ _ _ _)
    | with_reducible apply Frame.app (setSlotState_frame _ _ _)

theorem chooseSlot_frame (im : Nat → List Byte) (s : State) :
    Frame [.regs, .err, .fwu, .vbt] s (chooseSlot im s).2 := by
  delta chooseSlot
  repeat' first
    | with_reducible apply Frame.refl
    | with_reducible assumption
    | apply Eq.refl
    | lift_lets -underBinder -merge -useContext
    | (intro x; refine Frame.cut (cs := [.regs, .err, .fwu, .vbt]) (s0 := s) (x := x) ?_ (fun hx => ?_); unfold x; rotate_left; clear_value x)
    | (intro x; clear_value x)
    | intro x
    | with_reducible apply Frame.app (vbtField_frame _ _ _ _ _)
    | with_reducible apply Frame.app (fwuEvent_frame _ _)
    | with_reducible apply Frame.app (rejectSlot_frame _ _ _)
    | with_reducible apply Frame.ite
    | with_reducible apply Frame.ite2

theorem runImage_frame (im : List Byte) (slot : Nat) (trial host : Bool) (s : State) :
    Frame [.regs, .fwu] s (runImage im slot trial host s) := by
  delta runImage
  repeat' first
    | with_reducible apply Frame.refl
    | with_reducible assumption
    | apply Eq.refl
    | lift_lets -underBinder -merge -useContext
    | (intro x; refine Frame.cut (cs := [.regs, .fwu]) (s0 := s) (x := x) ?_ (fun hx => ?_); unfold x; rotate_left; clear_value x)
    | with_reducible apply Frame.app (regPut_frame _ _ _)
    | (with_reducible refine Frame.updFwu (by decide) ?_ ?_; (intro _ h; exact h))
    | (with_reducible refine Frame.updFwu (by decide) ?_ ?_; (intro _ h; simp only [FwuSt.sorted] at h ⊢; simp [h]; done))
    | (with_reducible refine Frame.updFwu (by decide) ?_ ?_; (intro _ h; simp only [FwuSt.sorted] at h ⊢; and_intros <;> (try dsimp only) <;> (repeat' split) <;> first | (simp [h]; done) | exact tabFold_rising (fun _ _ g => by first | (simp [g]; done) | (split <;> simp [g]; done)) _ _ (by simp [h])))
    | (with_reducible refine Frame.updFwu (by decide) ?_ ?_; (intro _ h; simp only [FwuSt.sorted] at h ⊢; and_intros <;> first | (simp [h]; done) | exact tabFold_rising (fun _ _ g => by first | (simp [g]; done) | (split <;> simp [g]; done) | exact tabFold_rising (fun _ _ k => by simp [k]) _ _ g) _ _ (by simp [h]) | (repeat' first | exact rfl | exact h | apply tabSet_rising)))

theorem runSlotImage_frame (im : Nat → List Byte) (slot : Nat) (trial : Bool) (s : State) :
    Frame [.regs, .fwu] s (runSlotImage im slot trial s) := by
  delta runSlotImage
  repeat' first
    | with_reducible apply Frame.refl
    | with_reducible assumption
    | apply Eq.refl
    | lift_lets -underBinder -merge -useContext
    | (intro x; refine Frame.cut (cs := [.regs, .fwu]) (s0 := s) (x := x) ?_ (fun hx => ?_); unfold x; rotate_left; clear_value x)
    | with_reducible apply Frame.app (runImage_frame _ _ _ _ _)
    | (with_reducible refine Frame.updFwu (by decide) ?_ ?_; (intro _ h; exact h))
    | (with_reducible refine Frame.updFwu (by decide) ?_ ?_; (intro _ h; simp only [FwuSt.sorted] at h ⊢; simp [h]; done))
    | (with_reducible refine Frame.updFwu (by decide) ?_ ?_; (intro _ h; simp only [FwuSt.sorted] at h ⊢; and_intros <;> (try dsimp only) <;> (repeat' split) <;> first | (simp [h]; done) | exact tabFold_rising (fun _ _ g => by first | (simp [g]; done) | (split <;> simp [g]; done)) _ _ (by simp [h])))
    | (with_reducible refine Frame.updFwu (by decide) ?_ ?_; (intro _ h; simp only [FwuSt.sorted] at h ⊢; and_intros <;> first | (simp [h]; done) | exact tabFold_rising (fun _ _ g => by first | (simp [g]; done) | (split <;> simp [g]; done) | exact tabFold_rising (fun _ _ k => by simp [k]) _ _ g) _ _ (by simp [h]) | (repeat' first | exact rfl | exact h | apply tabSet_rising)))

theorem advanceArb_frame (s : State) :
    Frame [.vbt] s (advanceArb s) := by
  delta advanceArb
  repeat' first
    | with_reducible apply Frame.refl
    | with_reducible assumption
    | apply Eq.refl
    | lift_lets -underBinder -merge -useContext
    | (intro x; refine Frame.cut (cs := [.vbt]) (s0 := s) (x := x) ?_ (fun hx => ?_); unfold x; rotate_left; clear_value x)
    | with_reducible apply Frame.app (vbtPut_frame _ _ _)
    | with_reducible apply Frame.ite

theorem refuseImage_frame (h : W64) (s : State) :
    Frame [.cas] s (refuseImage h s) := by
  delta refuseImage
  repeat' first
    | with_reducible apply Frame.refl
    | with_reducible assumption
    | apply Eq.refl
    | lift_lets -underBinder -merge -useContext
    | (intro x; refine Frame.cut (cs := [.cas]) (s0 := s) (x := x) ?_ (fun hx => ?_); unfold x; rotate_left; clear_value x)
    | with_reducible apply Frame.app (sendAck_frame _ _ _ _)
    | (with_reducible refine Frame.updCas (by decide) ?_ ?_; (intro _ h; exact h))
    | (with_reducible refine Frame.updCas (by decide) ?_ ?_; (intro _ h; simp only [CasSt.sorted] at h ⊢; simp [h]; done))
    | (with_reducible refine Frame.updCas (by decide) ?_ ?_; (intro _ h; simp only [CasSt.sorted] at h ⊢; and_intros <;> (try dsimp only) <;> (repeat' split) <;> first | (simp [h]; done) | exact tabFold_rising (fun _ _ g => by first | (simp [g]; done) | (split <;> simp [g]; done)) _ _ (by simp [h])))
    | (with_reducible refine Frame.updCas (by decide) ?_ ?_; (intro _ h; simp only [CasSt.sorted] at h ⊢; and_intros <;> first | (simp [h]; done) | exact tabFold_rising (fun _ _ g => by first | (simp [g]; done) | (split <;> simp [g]; done) | exact tabFold_rising (fun _ _ k => by simp [k]) _ _ g) _ _ (by simp [h]) | (repeat' first | exact rfl | exact h | apply tabSet_rising)))

theorem takePortion_frame (h : W64) (body : List W64) (s : State) :
    Frame [.regs, .cas, .fwu] s (takePortion h body s) := by
  delta takePortion
  repeat' first
    | with_reducible apply Frame.refl
    | with_reducible assumption
    | apply Eq.refl
    | lift_lets -underBinder -merge -useContext
    | (intro x; refine Frame.cut (cs := [.regs, .cas, .fwu]) (s0 := s) (x := x) ?_ (fun hx => ?_); unfold x; rotate_left; clear_value x)
    | (intro x; clear_value x)
    | intro x
    | with_reducible apply Frame.app (sendAck_frame _ _ _ _)
    | with_reducible apply Frame.app (runImage_frame _ _ _ _ _)
    | with_reducible apply Frame.app (refuseImage_frame _ _)
    | (with_reducible refine Frame.updCas (by decide) ?_ ?_; (intro _ h; exact h))
    | (with_reducible refine Frame.updCas (by decide) ?_ ?_; (intro _ h; simp only [CasSt.sorted] at h ⊢; simp [h]; done))
    | (with_reducible refine Frame.updCas (by decide) ?_ ?_; (intro _ h; simp only [CasSt.sorted] at h ⊢; and_intros <;> (try dsimp only) <;> (repeat' split) <;> first | (simp [h]; done) | exact tabFold_rising (fun _ _ g => by first | (simp [g]; done) | (split <;> simp [g]; done)) _ _ (by simp [h])))
    | (with_reducible refine Frame.updCas (by decide) ?_ ?_; (intro _ h; simp only [CasSt.sorted] at h ⊢; and_intros <;> first | (simp [h]; done) | exact tabFold_rising (fun _ _ g => by first | (simp [g]; done) | (split <;> simp [g]; done) | exact tabFold_rising (fun _ _ k => by simp [k]) _ _ g) _ _ (by simp [h]) | (repeat' first | exact rfl | exact h | apply tabSet_rising)))
    | with_reducible apply Frame.ite

theorem execImgFrame_frame (words : List W64) (s : State) :
    ∀ out, execImgFrame words s = .next out → Frame [.regs, .cas, .err, .fwu] s out := by
  delta execImgFrame
  intro out h
  injection h with h
  subst h
  repeat' first
    | with_reducible apply Frame.refl
    | with_reducible assumption
    | apply Eq.refl
    | lift_lets -underBinder -merge -useContext
    | (intro x; refine Frame.cut (cs := [.regs, .cas, .err, .fwu]) (s0 := s) (x := x) ?_ (fun hx => ?_); unfold x; rotate_left; clear_value x)
    | with_reducible refine ctlReceive_frame (by decide) (fun _ _ => ?_) ?_
    | with_reducible apply Frame.app (takePortion_frame _ _ _)
    | with_reducible apply Frame.ite

end Sys2Proof.Machine
end

