-- ==== Sys2Proof/Laws/FrameMaint.lean ====
section
/-! SUPPORT. What each operation of Machine/Maint.lean changes at most, and that it keeps the invariant. -/

namespace Sys2Proof.Machine

set_option linter.all false

open Sys2Proof

theorem wrRemapCtl_frame (v : Word) (s : State) :
    Frame [.regs, .arr] s (wrRemapCtl v s) := by
  delta wrRemapCtl
  repeat' first
    | with_reducible apply Frame.refl
    | with_reducible assumption
    | apply Eq.refl
    | lift_lets -underBinder -merge -useContext
    | (intro x; refine Frame.cut (cs := [.regs, .arr]) (s0 := s) (x := x) ?_ (fun hx => ?_); unfold x; rotate_left; clear_value x)
    | (intro x; clear_value x)
    | intro x
    | with_reducible apply Frame.app (fieldPut_frame _ _ _ _ _)
    | with_reducible apply Frame.app (requestRemap_frame _ _ _)
    | with_reducible apply Frame.ite

theorem setPhase_frame (h ph : Nat) (s : State) :
    Frame [.regs, .err] s (setPhase h ph s) := by
  delta setPhase
  repeat' first
    | with_reducible apply Frame.refl
    | with_reducible assumption
    | apply Eq.refl
    | lift_lets -underBinder -merge -useContext
    | (intro x; refine Frame.cut (cs := [.regs, .err]) (s0 := s) (x := x) ?_ (fun hx => ?_); unfold x; rotate_left; clear_value x)
    | with_reducible apply Frame.app (fieldPut_frame _ _ _ _ _)
    | with_reducible apply Frame.app (intEvent_frame _ _)

theorem remapRecord_frame (code outcome : Nat) (r : Remap) (s : State) :
    Frame [.regs, .hif, .err] s (remapRecord code outcome r s) := by
  delta remapRecord
  repeat' first
    | with_reducible apply Frame.refl
    | with_reducible assumption
    | apply Eq.refl
    | lift_lets -underBinder -merge -useContext
    | (intro x; refine Frame.cut (cs := [.regs, .hif, .err]) (s0 := s) (x := x) ?_ (fun hx => ?_); unfold x; rotate_left; clear_value x)
    | with_reducible apply Frame.app (errRecord_frame _ _ _ _ _ _)

theorem retirePan_frame (h k : Nat) (s : State) :
    Frame [.regs, .err, .fwu] s (retirePan h k s) := by
  delta retirePan
  repeat' first
    | with_reducible apply Frame.refl
    | with_reducible assumption
    | apply Eq.refl
    | lift_lets -underBinder -merge -useContext
    | (intro x; refine Frame.cut (cs := [.regs, .err, .fwu]) (s0 := s) (x := x) ?_ (fun hx => ?_); unfold x; rotate_left; clear_value x)
    | (intro x; clear_value x)
    | intro x
    | with_reducible apply Frame.app (fieldPut_frame _ _ _ _ _)
    | with_reducible apply Frame.app (intEvent_frame _ _)
    | with_reducible apply Frame.app (markDirty_frame _)

theorem execRemapStart_frame (pan : Fin 256) (s : State) :
    ∀ out, execRemapStart pan s = .next out → Frame [.regs, .arr, .hif, .err, .fwu, .vbt] s out := by
  delta execRemapStart
  intro out h
  injection h with h
  subst h
  repeat' first
    | with_reducible apply Frame.refl
    | with_reducible assumption
    | apply Eq.refl
    | lift_lets -underBinder -merge -useContext
    | (intro x; refine Frame.cut (cs := [.regs, .arr, .hif, .err, .fwu, .vbt]) (s0 := s) (x := x) ?_ (fun hx => ?_); unfold x; rotate_left; clear_value x)
    | (intro x; clear_value x)
    | intro x
    | with_reducible apply Frame.app (writeSettings_frame _)
    | with_reducible apply Frame.app (setPhase_frame _ _ _)
    | with_reducible apply Frame.app (remapRecord_frame _ _ _ _)
    | (with_reducible refine Frame.updArr (by decide) ?_ ?_; (intro _ h; exact h))
    | (with_reducible refine Frame.updArr (by decide) ?_ ?_; (intro _ h; simp only [ArrSt.sorted] at h ⊢; simp [h]; done))
    | (with_reducible refine Frame.updArr (by decide) ?_ ?_; (intro _ h; simp only [ArrSt.sorted] at h ⊢; and_intros <;> (try dsimp only) <;> (repeat' split) <;> first | (simp [h]; done) | exact tabFold_rising (fun _ _ g => by first | (simp [g]; done) | (split <;> simp [g]; done)) _ _ (by simp [h])))
    | (with_reducible refine Frame.updArr (by decide) ?_ ?_; (intro _ h; simp only [ArrSt.sorted] at h ⊢; and_intros <;> first | (simp [h]; done) | exact tabFold_rising (fun _ _ g => by first | (simp [g]; done) | (split <;> simp [g]; done) | exact tabFold_rising (fun _ _ k => by simp [k]) _ _ g) _ _ (by simp [h]) | (repeat' first | exact rfl | exact h | apply tabSet_rising)))
    | with_reducible apply Frame.ite
    | split

theorem execRemapCopyDone_frame (h : Fin 16) (s : State) :
    ∀ out, execRemapCopyDone h s = .next out → Frame [.regs, .arr, .err] s out := by
  delta execRemapCopyDone
  intro out h
  injection h with h
  subst h
  repeat' first
    | with_reducible apply Frame.refl
    | with_reducible assumption
    | apply Eq.refl
    | lift_lets -underBinder -merge -useContext
    | (intro x; refine Frame.cut (cs := [.regs, .arr, .err]) (s0 := s) (x := x) ?_ (fun hx => ?_); unfold x; rotate_left; clear_value x)
    | with_reducible apply Frame.app (updRemap_frame _ _ _)
    | with_reducible apply Frame.app (setPhase_frame _ _ _)
    | with_reducible apply Frame.ite
    | split

theorem execRemapVerifyDone_frame (h : Fin 16) (s : State) :
    ∀ out, execRemapVerifyDone h s = .next out → Frame [.regs, .arr, .hif, .err, .fwu] s out := by
  delta execRemapVerifyDone
  intro out h
  injection h with h
  subst h
  repeat' first
    | with_reducible apply Frame.refl
    | with_reducible assumption
    | apply Eq.refl
    | lift_lets -underBinder -merge -useContext
    | (intro x; refine Frame.cut (cs := [.regs, .arr, .hif, .err, .fwu]) (s0 := s) (x := x) ?_ (fun hx => ?_); unfold x; rotate_left; clear_value x)
    | (intro x; clear_value x)
    | intro x
    | with_reducible apply Frame.app (requestRemap_frame _ _ _)
    | with_reducible apply Frame.app (updRemap_frame _ _ _)
    | with_reducible apply Frame.app (setPhase_frame _ _ _)
    | with_reducible apply Frame.app (remapRecord_frame _ _ _ _)
    | with_reducible apply Frame.app (retirePan_frame _ _ _)
    | with_reducible apply Frame.ite
    | split

theorem execRemapRecordWritten_frame (h : Fin 16) (s : State) :
    ∀ out, execRemapRecordWritten h s = .next out → Frame [.arr, .fwu, .vbt] s out := by
  delta execRemapRecordWritten
  intro out h
  injection h with h
  subst h
  repeat' first
    | with_reducible apply Frame.refl
    | with_reducible assumption
    | apply Eq.refl
    | lift_lets -underBinder -merge -useContext
    | (intro x; refine Frame.cut (cs := [.arr, .fwu, .vbt]) (s0 := s) (x := x) ?_ (fun hx => ?_); unfold x; rotate_left; clear_value x)
    | with_reducible apply Frame.app (writeSettings_frame _)
    | with_reducible apply Frame.app (updRemap_frame _ _ _)
    | with_reducible apply Frame.ite
    | split

theorem execRemapSwitch_frame (h : Fin 16) (s : State) :
    ∀ out, execRemapSwitch h s = .next out → Frame [.regs, .arr, .hif, .err] s out := by
  delta execRemapSwitch
  intro out h
  injection h with h
  subst h
  repeat' first
    | with_reducible apply Frame.refl
    | with_reducible assumption
    | apply Eq.refl
    | lift_lets -underBinder -merge -useContext
    | (intro x; refine Frame.cut (cs := [.regs, .arr, .hif, .err]) (s0 := s) (x := x) ?_ (fun hx => ?_); unfold x; rotate_left; clear_value x)
    | (intro x; clear_value x)
    | intro x
    | with_reducible apply Frame.app (fieldPut_frame _ _ _ _ _)
    | with_reducible apply Frame.app (updRemap_frame _ _ _)
    | with_reducible apply Frame.app (setPhase_frame _ _ _)
    | with_reducible apply Frame.app (remapRecord_frame _ _ _ _)
    | with_reducible apply Frame.ite
    | split

theorem execRemapRetire_frame (h : Fin 16) (s : State) :
    ∀ out, execRemapRetire h s = .next out → Frame [.regs, .arr, .hif, .err, .fwu] s out := by
  delta execRemapRetire
  intro out h
  injection h with h
  subst h
  repeat' first
    | with_reducible apply Frame.refl
    | with_reducible assumption
    | apply Eq.refl
    | lift_lets -underBinder -merge -useContext
    | (intro x; refine Frame.cut (cs := [.regs, .arr, .hif, .err, .fwu]) (s0 := s) (x := x) ?_ (fun hx => ?_); unfold x; rotate_left; clear_value x)
    | with_reducible apply Frame.app (updRemap_frame _ _ _)
    | with_reducible apply Frame.app (setPhase_frame _ _ _)
    | with_reducible apply Frame.app (remapRecord_frame _ _ _ _)
    | with_reducible apply Frame.app (retirePan_frame _ _ _)
    | with_reducible apply Frame.ite
    | split

theorem capRecord_frame (code outcome p idx n : Nat) (s : State) :
    Frame [.regs, .hif, .err] s (capRecord code outcome p idx n s) := by
  delta capRecord
  repeat' first
    | with_reducible apply Frame.refl
    | with_reducible assumption
    | apply Eq.refl
    | lift_lets -underBinder -merge -useContext
    | (intro x; refine Frame.cut (cs := [.regs, .hif, .err]) (s0 := s) (x := x) ?_ (fun hx => ?_); unfold x; rotate_left; clear_value x)
    | with_reducible apply Frame.app (errRecord_frame _ _ _ _ _ _)

theorem execMigrationStart_frame (pan : Fin 256) (s : State) :
    ∀ out, execMigrationStart pan s = .next out → Frame [.regs, .arr, .hif, .err] s out := by
  delta execMigrationStart
  intro out h
  injection h with h
  subst h
  repeat' first
    | with_reducible apply Frame.refl
    | with_reducible assumption
    | apply Eq.refl
    | lift_lets -underBinder -merge -useContext
    | (intro x; refine Frame.cut (cs := [.regs, .arr, .hif, .err]) (s0 := s) (x := x) ?_ (fun hx => ?_); unfold x; rotate_left; clear_value x)
    | (intro x; clear_value x)
    | intro x
    | with_reducible apply Frame.app (regPut_frame _ _ _)
    | with_reducible apply Frame.app (capRecord_frame _ _ _ _ _ _)
    | (with_reducible refine Frame.updArr (by decide) ?_ ?_; (intro _ h; exact h))
    | (with_reducible refine Frame.updArr (by decide) ?_ ?_; (intro _ h; simp only [ArrSt.sorted] at h ⊢; simp [h]; done))
    | (with_reducible refine Frame.updArr (by decide) ?_ ?_; (intro _ h; simp only [ArrSt.sorted] at h ⊢; and_intros <;> (try dsimp only) <;> (repeat' split) <;> first | (simp [h]; done) | exact tabFold_rising (fun _ _ g => by first | (simp [g]; done) | (split <;> simp [g]; done)) _ _ (by simp [h])))
    | (with_reducible refine Frame.updArr (by decide) ?_ ?_; (intro _ h; simp only [ArrSt.sorted] at h ⊢; and_intros <;> first | (simp [h]; done) | exact tabFold_rising (fun _ _ g => by first | (simp [g]; done) | (split <;> simp [g]; done) | exact tabFold_rising (fun _ _ k => by simp [k]) _ _ g) _ _ (by simp [h]) | (repeat' first | exact rfl | exact h | apply tabSet_rising)))
    | with_reducible apply Frame.ite

theorem freshPlan_frame (s : State) :
    Frame [.upd] s (freshPlan s).2 := by
  delta freshPlan
  repeat' first
    | with_reducible apply Frame.refl
    | with_reducible assumption
    | apply Eq.refl
    | lift_lets -underBinder -merge -useContext
    | (intro x; refine Frame.cut (cs := [.upd]) (s0 := s) (x := x) ?_ (fun hx => ?_); unfold x; rotate_left; clear_value x)
    | (with_reducible refine Frame.updUpd (by decide) ?_ ?_; (intro _ h; exact h))
    | (with_reducible refine Frame.updUpd (by decide) ?_ ?_; (intro _ h; simp only [UpdSt.sorted] at h ⊢; simp [h]; done))
    | (with_reducible refine Frame.updUpd (by decide) ?_ ?_; (intro _ h; simp only [UpdSt.sorted] at h ⊢; and_intros <;> (try dsimp only) <;> (repeat' split) <;> first | (simp [h]; done) | exact tabFold_rising (fun _ _ g => by first | (simp [g]; done) | (split <;> simp [g]; done)) _ _ (by simp [h])))
    | (with_reducible refine Frame.updUpd (by decide) ?_ ?_; (intro _ h; simp only [UpdSt.sorted] at h ⊢; and_intros <;> first | (simp [h]; done) | exact tabFold_rising (fun _ _ g => by first | (simp [g]; done) | (split <;> simp [g]; done) | exact tabFold_rising (fun _ _ k => by simp [k]) _ _ g) _ _ (by simp [h]) | (repeat' first | exact rfl | exact h | apply tabSet_rising)))

theorem moveAway_frame (t : Nat) (d : TableDesc) (i : Nat) (e : Entry) (s : State) :
    ∀ b u, moveAway t d i e s = some (b, u) → Frame [.regs, .arr, .tbl, .mem, .upd, .cas, .hif, .err] s u := by
  intro b u h
  unfold moveAway at h
  dsimp only at h
  split at h
  · cases h
  · split at h
    · injection h with h; injection h with _ h; subst h; exact Frame.refl _ s
    · split at h
      · cases h
      · split at h
        · injection h with h; injection h with _ h; subst h; exact Frame.refl _ s
        · injection h with h
          injection h with _ h
          subst h
          repeat' first
            | with_reducible apply Frame.refl
            | with_reducible assumption
            | apply Eq.refl
            | lift_lets -underBinder -merge -useContext
            | (intro x; refine Frame.cut (cs := [.regs, .arr, .tbl, .mem, .upd, .cas, .hif, .err]) (s0 := s) (x := x) ?_ (fun hx => ?_); unfold x; rotate_left; clear_value x)
            | (intro x; refine Frame.cut (cs := [.regs, .arr, .tbl, .mem, .upd, .cas, .hif, .err]) (s0 := s) (x := x.2) ?_ (fun hx => ?_); unfold x; rotate_left; clear_value x)
            | (intro x; clear_value x)
            | intro x
            | with_reducible apply Frame.app (startPlan_frame _ _)
            | with_reducible apply Frame.app (freshPlan_frame _)
            | with_reducible apply Frame.ite
            | split
            | with_reducible refine Frame.app (Frame.ofPair (freshPlan_frame _) (by assumption)) ?_ ?_

theorem losePan_frame (p : Nat) (s : State) :
    Frame [.regs, .arr, .hif, .err, .fwu] s (losePan p s) := by
  delta losePan
  repeat' first
    | with_reducible apply Frame.refl
    | with_reducible assumption
    | apply Eq.refl
    | lift_lets -underBinder -merge -useContext
    | (intro x; refine Frame.cut (cs := [.regs, .arr, .hif, .err, .fwu]) (s0 := s) (x := x) ?_ (fun hx => ?_); unfold x; rotate_left; clear_value x)
    | (intro x; clear_value x)
    | intro x
    | with_reducible apply Frame.app (regPut_frame _ _ _)
    | with_reducible apply Frame.app (fieldPut_frame _ _ _ _ _)
    | with_reducible apply Frame.app (flagPut_frame _ _ _ _)
    | with_reducible apply Frame.app (intEvent_frame _ _)
    | with_reducible apply Frame.app (markDirty_frame _)
    | with_reducible apply Frame.app (capRecord_frame _ _ _ _ _ _)
    | (with_reducible refine Frame.updArr (by decide) ?_ ?_; (intro _ h; exact h))
    | (with_reducible refine Frame.updArr (by decide) ?_ ?_; (intro _ h; simp only [ArrSt.sorted] at h ⊢; simp [h]; done))
    | (with_reducible refine Frame.updArr (by decide) ?_ ?_; (intro _ h; simp only [ArrSt.sorted] at h ⊢; and_intros <;> (try dsimp only) <;> (repeat' split) <;> first | (simp [h]; done) | exact tabFold_rising (fun _ _ g => by first | (simp [g]; done) | (split <;> simp [g]; done)) _ _ (by simp [h])))
    | (with_reducible refine Frame.updArr (by decide) ?_ ?_; (intro _ h; simp only [ArrSt.sorted] at h ⊢; and_intros <;> first | (simp [h]; done) | exact tabFold_rising (fun _ _ g => by first | (simp [g]; done) | (split <;> simp [g]; done) | exact tabFold_rising (fun _ _ k => by simp [k]) _ _ g) _ _ (by simp [h]) | (repeat' first | exact rfl | exact h | apply tabSet_rising)))

theorem execMigrateEntry_frame (pan : Fin 256) (s : State) :
    ∀ out, execMigrateEntry pan s = .next out → Frame [.regs, .arr, .tbl, .mem, .upd, .cas, .hif, .err, .fwu] s out := by
  delta execMigrateEntry
  intro out h
  injection h with h
  subst h
  repeat' first
    | with_reducible apply Frame.refl
    | with_reducible assumption
    | apply Eq.refl
    | lift_lets -underBinder -merge -useContext
    | (intro x; refine Frame.cut (cs := [.regs, .arr, .tbl, .mem, .upd, .cas, .hif, .err, .fwu]) (s0 := s) (x := x) ?_ (fun hx => ?_); unfold x; rotate_left; clear_value x)
    | (intro x; clear_value x)
    | intro x
    | with_reducible apply Frame.app (intEvent_frame _ _)
    | with_reducible apply Frame.app (showStranded_frame _)
    | with_reducible apply Frame.app (capRecord_frame _ _ _ _ _ _)
    | with_reducible apply Frame.app (losePan_frame _ _)
    | (with_reducible refine Frame.updArr (by decide) ?_ ?_; (intro _ h; exact h))
    | (with_reducible refine Frame.updArr (by decide) ?_ ?_; (intro _ h; simp only [ArrSt.sorted] at h ⊢; simp [h]; done))
    | (with_reducible refine Frame.updArr (by decide) ?_ ?_; (intro _ h; simp only [ArrSt.sorted] at h ⊢; and_intros <;> (try dsimp only) <;> (repeat' split) <;> first | (simp [h]; done) | exact tabFold_rising (fun _ _ g => by first | (simp [g]; done) | (split <;> simp [g]; done)) _ _ (by simp [h])))
    | (with_reducible refine Frame.updArr (by decide) ?_ ?_; (intro _ h; simp only [ArrSt.sorted] at h ⊢; and_intros <;> first | (simp [h]; done) | exact tabFold_rising (fun _ _ g => by first | (simp [g]; done) | (split <;> simp [g]; done) | exact tabFold_rising (fun _ _ k => by simp [k]) _ _ g) _ _ (by simp [h]) | (repeat' first | exact rfl | exact h | apply tabSet_rising)))
    | with_reducible apply Frame.ite
    | split
    | with_reducible refine Frame.app (moveAway_frame _ _ _ _ _ _ _ (by assumption)) ?_ ?_

theorem execStrandedRetry_frame (pan : Fin 256) (s : State) :
    ∀ out, execStrandedRetry pan s = .next out → Frame [.regs, .arr, .tbl, .mem, .upd, .cas, .hif, .err] s out := by
  delta execStrandedRetry
  intro out h
  injection h with h
  subst h
  repeat' first
    | with_reducible apply Frame.refl
    | with_reducible assumption
    | apply Eq.refl
    | with_reducible refine Frame.findSome (fun _ => ?_) ?_
    | with_reducible apply FrameO.none
    | with_reducible apply FrameO.some
    | lift_lets -underBinder -merge -useContext
    | (intro x; refine Frame.cut (cs := [.regs, .arr, .tbl, .mem, .upd, .cas, .hif, .err]) (s0 := s) (x := x) ?_ (fun hx => ?_); unfold x; rotate_left; clear_value x)
    | (intro x; clear_value x)
    | intro x
    | with_reducible apply Frame.app (showStranded_frame _)
    | (with_reducible refine Frame.updArr (by decide) ?_ ?_; (intro _ h; exact h))
    | (with_reducible refine Frame.updArr (by decide) ?_ ?_; (intro _ h; simp only [ArrSt.sorted] at h ⊢; simp [h]; done))
    | (with_reducible refine Frame.updArr (by decide) ?_ ?_; (intro _ h; simp only [ArrSt.sorted] at h ⊢; and_intros <;> (try dsimp only) <;> (repeat' split) <;> first | (simp [h]; done) | exact tabFold_rising (fun _ _ g => by first | (simp [g]; done) | (split <;> simp [g]; done)) _ _ (by simp [h])))
    | (with_reducible refine Frame.updArr (by decide) ?_ ?_; (intro _ h; simp only [ArrSt.sorted] at h ⊢; and_intros <;> first | (simp [h]; done) | exact tabFold_rising (fun _ _ g => by first | (simp [g]; done) | (split <;> simp [g]; done) | exact tabFold_rising (fun _ _ k => by simp [k]) _ _ g) _ _ (by simp [h]) | (repeat' first | exact rfl | exact h | apply tabSet_rising)))
    | with_reducible apply Frame.ite
    | with_reducible apply_assumption
    | split
    | with_reducible refine Frame.app (moveAway_frame _ _ _ _ _ _ _ (by assumption)) ?_ ?_

theorem execRebalance_frame (pan : Fin 256) (s : State) :
    ∀ out, execRebalance pan s = .next out → Frame [.clk, .regs, .arr, .tbl, .mem, .upd, .cas, .hif, .err] s out := by
  delta execRebalance
  intro out h
  injection h with h
  subst h
  repeat' first
    | with_reducible apply Frame.refl
    | with_reducible assumption
    | apply Eq.refl
    | lift_lets -underBinder -merge -useContext
    | (intro x; refine Frame.cut (cs := [.clk, .regs, .arr, .tbl, .mem, .upd, .cas, .hif, .err]) (s0 := s) (x := x) ?_ (fun hx => ?_); unfold x; rotate_left; clear_value x)
    | (intro x; refine Frame.cut (cs := [.clk, .regs, .arr, .tbl, .mem, .upd, .cas, .hif, .err]) (s0 := s) (x := x.2) ?_ (fun hx => ?_); unfold x; rotate_left; clear_value x)
    | (intro x; clear_value x)
    | intro x
    | with_reducible apply Frame.app (nextFree_frame _)
    | with_reducible apply Frame.app (startPlan_frame _ _)
    | with_reducible apply Frame.app (freshPlan_frame _)
    | with_reducible apply Frame.ite
    | with_reducible apply_assumption
    | split
    | with_reducible refine Frame.app (Frame.ofPair (freshPlan_frame _) (by assumption)) ?_ ?_

theorem agingRecord_frame (code outcome h k m : Nat) (s : State) :
    Frame [.regs, .hif, .err] s (agingRecord code outcome h k m s) := by
  delta agingRecord
  repeat' first
    | with_reducible apply Frame.refl
    | with_reducible assumption
    | apply Eq.refl
    | lift_lets -underBinder -merge -useContext
    | (intro x; refine Frame.cut (cs := [.regs, .hif, .err]) (s0 := s) (x := x) ?_ (fun hx => ?_); unfold x; rotate_left; clear_value x)
    | with_reducible apply Frame.app (errRecord_frame _ _ _ _ _ _)

theorem agedPan_frame (h k m : Nat) (s : State) :
    Frame [.regs, .arr, .hif, .err, .fwu] s (agedPan h k m s) := by
  delta agedPan
  repeat' first
    | with_reducible apply Frame.refl
    | with_reducible assumption
    | apply Eq.refl
    | lift_lets -underBinder -merge -useContext
    | (intro x; refine Frame.cut (cs := [.regs, .arr, .hif, .err, .fwu]) (s0 := s) (x := x) ?_ (fun hx => ?_); unfold x; rotate_left; clear_value x)
    | (intro x; clear_value x)
    | intro x
    | with_reducible apply Frame.app (errRecord_frame _ _ _ _ _ _)
    | with_reducible apply Frame.app (requestRemap_frame _ _ _)
    | with_reducible apply Frame.app (retirePan_frame _ _ _)
    | with_reducible apply Frame.app (agingRecord_frame _ _ _ _ _ _)
    | with_reducible apply Frame.ite
    | split

theorem agingOne_frame (s : State) (x : Nat × Byte) :
    Frame [.regs, .arr, .hif, .err, .fwu, .vbt] s (agingOne s x) := by
  delta agingOne
  repeat' first
    | with_reducible apply Frame.refl
    | with_reducible assumption
    | apply Eq.refl
    | lift_lets -underBinder -merge -useContext
    | (intro x; refine Frame.cut (cs := [.regs, .arr, .hif, .err, .fwu, .vbt]) (s0 := s) (x := x) ?_ (fun hx => ?_); unfold x; rotate_left; clear_value x)
    | (intro x; clear_value x)
    | intro x
    | with_reducible apply Frame.app (fieldPut_frame _ _ _ _ _)
    | with_reducible apply Frame.app (intEvent_frame _ _)
    | with_reducible apply Frame.app (vbtField_frame _ _ _ _ _)
    | with_reducible apply Frame.app (agingRecord_frame _ _ _ _ _ _)
    | with_reducible apply Frame.app (agedPan_frame _ _ _ _)
    | (with_reducible refine Frame.updArr (by decide) ?_ ?_; (intro _ h; exact h))
    | (with_reducible refine Frame.updArr (by decide) ?_ ?_; (intro _ h; simp only [ArrSt.sorted] at h ⊢; simp [h]; done))
    | (with_reducible refine Frame.updArr (by decide) ?_ ?_; (intro _ h; simp only [ArrSt.sorted] at h ⊢; and_intros <;> (try dsimp only) <;> (repeat' split) <;> first | (simp [h]; done) | exact tabFold_rising (fun _ _ g => by first | (simp [g]; done) | (split <;> simp [g]; done)) _ _ (by simp [h])))
    | (with_reducible refine Frame.updArr (by decide) ?_ ?_; (intro _ h; simp only [ArrSt.sorted] at h ⊢; and_intros <;> first | (simp [h]; done) | exact tabFold_rising (fun _ _ g => by first | (simp [g]; done) | (split <;> simp [g]; done) | exact tabFold_rising (fun _ _ k => by simp [k]) _ _ g) _ _ (by simp [h]) | (repeat' first | exact rfl | exact h | apply tabSet_rising)))
    | with_reducible apply Frame.ite

theorem execAgingSample_frame (margins : List Byte) (s : State) :
    ∀ out, execAgingSample margins s = .next out → Frame [.regs, .arr, .hif, .err, .pwr, .fwu, .vbt] s out := by
  delta execAgingSample
  intro out h
  injection h with h
  subst h
  repeat' first
    | with_reducible apply Frame.refl
    | with_reducible assumption
    | apply Eq.refl
    | lift_lets -underBinder -merge -useContext
    | (intro x; refine Frame.cut (cs := [.regs, .arr, .hif, .err, .pwr, .fwu, .vbt]) (s0 := s) (x := x) ?_ (fun hx => ?_); unfold x; rotate_left; clear_value x)
    | with_reducible apply Frame.app (agingOne_frame _ _)
    | (with_reducible refine Frame.updPwr (by decide) ?_ ?_; (intro _ h; exact h))
    | (with_reducible refine Frame.updPwr (by decide) ?_ ?_; (intro _ h; simp only [PwrSt.sorted] at h ⊢; simp [h]; done))
    | (with_reducible refine Frame.updPwr (by decide) ?_ ?_; (intro _ h; simp only [PwrSt.sorted] at h ⊢; and_intros <;> (try dsimp only) <;> (repeat' split) <;> first | (simp [h]; done) | exact tabFold_rising (fun _ _ g => by first | (simp [g]; done) | (split <;> simp [g]; done)) _ _ (by simp [h])))
    | (with_reducible refine Frame.updPwr (by decide) ?_ ?_; (intro _ h; simp only [PwrSt.sorted] at h ⊢; and_intros <;> first | (simp [h]; done) | exact tabFold_rising (fun _ _ g => by first | (simp [g]; done) | (split <;> simp [g]; done) | exact tabFold_rising (fun _ _ k => by simp [k]) _ _ g) _ _ (by simp [h]) | (repeat' first | exact rfl | exact h | apply tabSet_rising)))
    | with_reducible refine Frame.foldl ?_ (fun _ _ _ => ?_)
    | with_reducible apply Frame.ite
    | with_reducible apply_assumption

theorem putLife_frame (n : Nat) (s : State) :
    Frame [.regs] s (putLife n s) := by
  delta putLife
  repeat' first
    | with_reducible apply Frame.refl
    | with_reducible assumption
    | apply Eq.refl
    | lift_lets -underBinder -merge -useContext
    | (intro x; refine Frame.cut (cs := [.regs]) (s0 := s) (x := x) ?_ (fun hx => ?_); unfold x; rotate_left; clear_value x)
    | with_reducible apply Frame.app (regPut_frame _ _ _)

theorem tempSample_frame (hot : Nat) (s : State) :
    Frame [.regs] s (tempSample hot s) := by
  delta tempSample
  repeat' first
    | with_reducible apply Frame.refl
    | with_reducible assumption
    | apply Eq.refl
    | lift_lets -underBinder -merge -useContext
    | (intro x; refine Frame.cut (cs := [.regs]) (s0 := s) (x := x) ?_ (fun hx => ?_); unfold x; rotate_left; clear_value x)
    | (intro x; clear_value x)
    | intro x
    | with_reducible apply Frame.app (fieldPut_frame _ _ _ _ _)
    | with_reducible apply Frame.ite

theorem execLifeMinute_frame (temp : Int) (hot : BitVec 10) (s : State) :
    ∀ out, execLifeMinute temp hot s = .next out → Frame [.clk, .regs, .vbt] s out := by
  delta execLifeMinute
  intro out h
  injection h with h
  subst h
  repeat' first
    | with_reducible apply Frame.refl
    | with_reducible assumption
    | apply Eq.refl
    | lift_lets -underBinder -merge -useContext
    | (intro x; refine Frame.cut (cs := [.clk, .regs, .vbt]) (s0 := s) (x := x) ?_ (fun hx => ?_); unfold x; rotate_left; clear_value x)
    | (intro x; clear_value x)
    | intro x
    | with_reducible apply Frame.app (nextFree_frame _)
    | with_reducible apply Frame.app (putLife_frame _ _)
    | with_reducible apply Frame.app (tempSample_frame _ _)
    | (with_reducible refine Frame.updVbt (by decide) ?_ ?_; (intro _ h; exact h))
    | (with_reducible refine Frame.updVbt (by decide) ?_ ?_; (intro _ h; simp only [VbtSt.sorted] at h ⊢; simp [h]; done))
    | (with_reducible refine Frame.updVbt (by decide) ?_ ?_; (intro _ h; simp only [VbtSt.sorted] at h ⊢; and_intros <;> (try dsimp only) <;> (repeat' split) <;> first | (simp [h]; done) | exact tabFold_rising (fun _ _ g => by first | (simp [g]; done) | (split <;> simp [g]; done)) _ _ (by simp [h])))
    | (with_reducible refine Frame.updVbt (by decide) ?_ ?_; (intro _ h; simp only [VbtSt.sorted] at h ⊢; and_intros <;> first | (simp [h]; done) | exact tabFold_rising (fun _ _ g => by first | (simp [g]; done) | (split <;> simp [g]; done) | exact tabFold_rising (fun _ _ k => by simp [k]) _ _ g) _ _ (by simp [h]) | (repeat' first | exact rfl | exact h | apply tabSet_rising)))
    | with_reducible apply Frame.ite

theorem saveLife_frame (s : State) :
    Frame [.vbt] s (saveLife s) := by
  delta saveLife
  repeat' first
    | with_reducible apply Frame.refl
    | with_reducible assumption
    | apply Eq.refl
    | lift_lets -underBinder -merge -useContext
    | (intro x; refine Frame.cut (cs := [.vbt]) (s0 := s) (x := x) ?_ (fun hx => ?_); unfold x; rotate_left; clear_value x)
    | with_reducible apply Frame.app (vbtPut64_frame _ _ _)

theorem execLifeSave_frame (s : State) :
    ∀ out, execLifeSave s = .next out → Frame [.fwu, .vbt] s out := by
  delta execLifeSave
  intro out h
  injection h with h
  subst h
  repeat' first
    | with_reducible apply Frame.refl
    | with_reducible assumption
    | apply Eq.refl
    | lift_lets -underBinder -merge -useContext
    | (intro x; refine Frame.cut (cs := [.fwu, .vbt]) (s0 := s) (x := x) ?_ (fun hx => ?_); unfold x; rotate_left; clear_value x)
    | with_reducible apply Frame.app (markDirty_frame _)
    | with_reducible apply Frame.app (saveLife_frame _)
    | (with_reducible refine Frame.updVbt (by decide) ?_ ?_; (intro _ h; exact h))
    | (with_reducible refine Frame.updVbt (by decide) ?_ ?_; (intro _ h; simp only [VbtSt.sorted] at h ⊢; simp [h]; done))
    | (with_reducible refine Frame.updVbt (by decide) ?_ ?_; (intro _ h; simp only [VbtSt.sorted] at h ⊢; and_intros <;> (try dsimp only) <;> (repeat' split) <;> first | (simp [h]; done) | exact tabFold_rising (fun _ _ g => by first | (simp [g]; done) | (split <;> simp [g]; done)) _ _ (by simp [h])))
    | (with_reducible refine Frame.updVbt (by decide) ?_ ?_; (intro _ h; simp only [VbtSt.sorted] at h ⊢; and_intros <;> first | (simp [h]; done) | exact tabFold_rising (fun _ _ g => by first | (simp [g]; done) | (split <;> simp [g]; done) | exact tabFold_rising (fun _ _ k => by simp [k]) _ _ g) _ _ (by simp [h]) | (repeat' first | exact rfl | exact h | apply tabSet_rising)))
    | with_reducible apply Frame.ite

theorem loseEntry_frame (t : Nat) (d : TableDesc) (prim : Nat) (s : State) :
    Frame [.regs, .arr, .upd, .hif, .err] s (loseEntry t d prim s) := by
  delta loseEntry
  repeat' first
    | with_reducible apply Frame.refl
    | with_reducible assumption
    | apply Eq.refl
    | lift_lets -underBinder -merge -useContext
    | (intro x; refine Frame.cut (cs := [.regs, .arr, .upd, .hif, .err]) (s0 := s) (x := x) ?_ (fun hx => ?_); unfold x; rotate_left; clear_value x)
    | (intro x; refine Frame.cut (cs := [.regs, .arr, .upd, .hif, .err]) (s0 := s) (x := x.2) ?_ (fun hx => ?_); unfold x; rotate_left; clear_value x)
    | (intro x; clear_value x)
    | intro x
    | with_reducible apply Frame.app (queueRows_frame _ _ _ _ _ _ _ _ _ _ _)
    | with_reducible apply Frame.app (capRecord_frame _ _ _ _ _ _)
    | with_reducible apply Frame.app (freshPlan_frame _)
    | split
    | with_reducible refine Frame.app (Frame.ofPair (freshPlan_frame _) (by assumption)) ?_ ?_

theorem regainGold_frame (item : ScrubItem) (s : State) :
    Frame [.arr] s (regainGold item s) := by
  delta regainGold
  repeat' first
    | with_reducible apply Frame.refl
    | with_reducible assumption
    | apply Eq.refl
    | lift_lets -underBinder -merge -useContext
    | (intro x; refine Frame.cut (cs := [.arr]) (s0 := s) (x := x) ?_ (fun hx => ?_); unfold x; rotate_left; clear_value x)
    | (with_reducible refine Frame.updArr (by decide) ?_ ?_; (intro _ h; exact h))
    | (with_reducible refine Frame.updArr (by decide) ?_ ?_; (intro _ h; simp only [ArrSt.sorted] at h ⊢; simp [h]; done))
    | (with_reducible refine Frame.updArr (by decide) ?_ ?_; (intro _ h; simp only [ArrSt.sorted] at h ⊢; and_intros <;> (try dsimp only) <;> (repeat' split) <;> first | (simp [h]; done) | exact tabFold_rising (fun _ _ g => by first | (simp [g]; done) | (split <;> simp [g]; done)) _ _ (by simp [h])))
    | (with_reducible refine Frame.updArr (by decide) ?_ ?_; (intro _ h; simp only [ArrSt.sorted] at h ⊢; and_intros <;> first | (simp [h]; done) | exact tabFold_rising (fun _ _ g => by first | (simp [g]; done) | (split <;> simp [g]; done) | exact tabFold_rising (fun _ _ k => by simp [k]) _ _ g) _ _ (by simp [h]) | (repeat' first | exact rfl | exact h | apply tabSet_rising)))
    | with_reducible refine Frame.foldl ?_ (fun _ _ _ => ?_)
    | with_reducible apply_assumption
    | split

theorem regainDir_frame (s : State) :
    Frame [.arr] s (regainDir s) := by
  delta regainDir
  repeat' first
    | with_reducible apply Frame.refl
    | with_reducible assumption
    | apply Eq.refl
    | lift_lets -underBinder -merge -useContext
    | (intro x; refine Frame.cut (cs := [.arr]) (s0 := s) (x := x) ?_ (fun hx => ?_); unfold x; rotate_left; clear_value x)
    | (intro x; clear_value x)
    | intro x
    | (with_reducible refine Frame.updArr (by decide) ?_ ?_; (intro _ h; exact h))
    | (with_reducible refine Frame.updArr (by decide) ?_ ?_; (intro _ h; simp only [ArrSt.sorted] at h ⊢; simp [h]; done))
    | (with_reducible refine Frame.updArr (by decide) ?_ ?_; (intro _ h; simp only [ArrSt.sorted] at h ⊢; and_intros <;> (try dsimp only) <;> (repeat' split) <;> first | (simp [h]; done) | exact tabFold_rising (fun _ _ g => by first | (simp [g]; done) | (split <;> simp [g]; done)) _ _ (by simp [h])))
    | (with_reducible refine Frame.updArr (by decide) ?_ ?_; (intro _ h; simp only [ArrSt.sorted] at h ⊢; and_intros <;> first | (simp [h]; done) | exact tabFold_rising (fun _ _ g => by first | (simp [g]; done) | (split <;> simp [g]; done) | exact tabFold_rising (fun _ _ k => by simp [k]) _ _ g) _ _ (by simp [h]) | (repeat' first | exact rfl | exact h | apply tabSet_rising)))
    | with_reducible refine Frame.foldl ?_ (fun _ _ _ => ?_)
    | with_reducible apply_assumption
    | split

theorem execDramUncorrectable_frame (line : Nat) (item : Option ScrubItem) (s : State) :
    ∀ out, execDramUncorrectable line item s = .next out → Frame [.regs, .arr, .mem, .upd, .hif, .err] s out := by
  delta execDramUncorrectable
  intro out h
  injection h with h
  subst h
  repeat' first
    | with_reducible apply Frame.refl
    | with_reducible assumption
    | apply Eq.refl
    | lift_lets -underBinder -merge -useContext
    | (intro x; refine Frame.cut (cs := [.regs, .arr, .mem, .upd, .hif, .err]) (s0 := s) (x := x) ?_ (fun hx => ?_); unfold x; rotate_left; clear_value x)
    | (intro x; refine Frame.cutF (cs := [.regs, .arr, .mem, .upd, .hif, .err]) (s0 := s) (x := x) (fun _ _ => ?_) (fun hx => ?_); unfold x; rotate_left; clear_value x)
    | (intro x; refine Frame.cutS (cs := [.regs, .arr, .mem, .upd, .hif, .err]) (s0 := s) (x := x) (fun _ _ _ => ?_) (fun hx => ?_); unfold x; rotate_left; clear_value x)
    | (intro x; refine Frame.cutH (cs := [.regs, .arr, .mem, .upd, .hif, .err]) (s0 := s) (x := x) (fun _ _ _ _ => ?_) (fun hx => ?_); unfold x; rotate_left; clear_value x)
    | (intro x; refine Frame.cutG (cs := [.regs, .arr, .mem, .upd, .hif, .err]) (s0 := s) (x := x) (fun _ _ _ => ?_) (fun hx => ?_); unfold x; rotate_left; clear_value x)
    | (intro x; refine Frame.cutK (cs := [.regs, .arr, .mem, .upd, .hif, .err]) (s0 := s) (x := x) (fun _ => ?_) (fun hx => ?_); unfold x; rotate_left; clear_value x)
    | (intro x; refine Frame.cutK2 (cs := [.regs, .arr, .mem, .upd, .hif, .err]) (s0 := s) (x := x) (fun _ _ => ?_) (fun hx => ?_); unfold x; rotate_left; clear_value x)
    | (intro x; clear_value x)
    | intro x
    | with_reducible apply Frame.app (cntAdd_frame _ _ _)
    | with_reducible apply Frame.app (errRecord_frame _ _ _ _ _ _)
    | with_reducible apply Frame.app (raiseInt_frame _ _ _)
    | with_reducible apply Frame.app (intCount_frame _ _)
    | with_reducible apply Frame.app (intEvent_frame _ _)
    | with_reducible apply Frame.app (loseEntry_frame _ _ _ _)
    | with_reducible apply Frame.app (regainGold_frame _ _)
    | with_reducible apply Frame.app (regainDir_frame _)
    | (with_reducible refine Frame.updMem (by decide) (fun _ h => h) (fun _ h => h) (fun _ h => h) ?_ ?_; (intro _ h; exact h))
    | (with_reducible refine Frame.updMem (by decide) (fun _ h => h) (fun _ h => h) (fun _ h => h) ?_ ?_; (intro _ h; simp only [MemSt.sorted] at h ⊢; simp [h]; done))
    | (with_reducible refine Frame.updMem (by decide) (fun _ h => h) (fun _ h => h) (fun _ h => h) ?_ ?_; (intro _ h; simp only [MemSt.sorted] at h ⊢; and_intros <;> (try dsimp only) <;> (repeat' split) <;> first | (simp [h]; done) | exact tabFold_rising (fun _ _ g => by first | (simp [g]; done) | (split <;> simp [g]; done)) _ _ (by simp [h])))
    | (with_reducible refine Frame.updMem (by decide) (fun _ h => h) (fun _ h => h) (fun _ h => h) ?_ ?_; (intro _ h; simp only [MemSt.sorted] at h ⊢; and_intros <;> first | (simp [h]; done) | exact tabFold_rising (fun _ _ g => by first | (simp [g]; done) | (split <;> simp [g]; done) | exact tabFold_rising (fun _ _ k => by simp [k]) _ _ g) _ _ (by simp [h]) | (repeat' first | exact rfl | exact h | apply tabSet_rising)))
    | (with_reducible refine Frame.updMem (by decide) (fun _ h => by first | exact h | exact memNil_wf | exact memSetWord_wf _ _ _ h | exact memFilter_wf _ _ h) (fun _ h => by first | exact h | exact memNil_wf | exact memSetWord_wf _ _ _ h | exact memFilter_wf _ _ h) (fun _ h => by first | exact h | exact memNil_wf | exact memSetByte_wf _ _ _ h | exact memFilter_wf _ _ h) ?_ ?_; (intro _ h; exact h))
    | (with_reducible refine Frame.updMem (by decide) (fun _ h => by first | exact h | exact memNil_wf | exact memSetWord_wf _ _ _ h | exact memFilter_wf _ _ h) (fun _ h => by first | exact h | exact memNil_wf | exact memSetWord_wf _ _ _ h | exact memFilter_wf _ _ h) (fun _ h => by first | exact h | exact memNil_wf | exact memSetByte_wf _ _ _ h | exact memFilter_wf _ _ h) ?_ ?_; (intro _ h; simp only [MemSt.sorted] at h ⊢; simp [h]; done))
    | (with_reducible refine Frame.updMem (by decide) (fun _ h => by first | exact h | exact memNil_wf | exact memSetWord_wf _ _ _ h | exact memFilter_wf _ _ h) (fun _ h => by first | exact h | exact memNil_wf | exact memSetWord_wf _ _ _ h | exact memFilter_wf _ _ h) (fun _ h => by first | exact h | exact memNil_wf | exact memSetByte_wf _ _ _ h | exact memFilter_wf _ _ h) ?_ ?_; (intro _ h; simp only [MemSt.sorted] at h ⊢; and_intros <;> (try dsimp only) <;> (repeat' split) <;> first | (simp [h]; done) | exact tabFold_rising (fun _ _ g => by first | (simp [g]; done) | (split <;> simp [g]; done)) _ _ (by simp [h])))
    | (with_reducible refine Frame.updMem (by decide) (fun _ h => by first | exact h | exact memNil_wf | exact memSetWord_wf _ _ _ h | exact memFilter_wf _ _ h) (fun _ h => by first | exact h | exact memNil_wf | exact memSetWord_wf _ _ _ h | exact memFilter_wf _ _ h) (fun _ h => by first | exact h | exact memNil_wf | exact memSetByte_wf _ _ _ h | exact memFilter_wf _ _ h) ?_ ?_; (intro _ h; simp only [MemSt.sorted] at h ⊢; and_intros <;> first | (simp [h]; done) | exact tabFold_rising (fun _ _ g => by first | (simp [g]; done) | (split <;> simp [g]; done) | exact tabFold_rising (fun _ _ k => by simp [k]) _ _ g) _ _ (by simp [h]) | (repeat' first | exact rfl | exact h | apply tabSet_rising)))
    | with_reducible refine Frame.foldl ?_ (fun _ _ _ => ?_)
    | with_reducible apply Frame.ite
    | with_reducible apply_assumption
    | split

theorem wrErrHead_frame (v : Word) (s : State) :
    Frame [.regs, .hif, .err] s (wrErrHead v s) := by
  delta wrErrHead
  repeat' first
    | with_reducible apply Frame.refl
    | with_reducible assumption
    | apply Eq.refl
    | lift_lets -underBinder -merge -useContext
    | (intro x; refine Frame.cut (cs := [.regs, .hif, .err]) (s0 := s) (x := x) ?_ (fun hx => ?_); unfold x; rotate_left; clear_value x)
    | with_reducible apply Frame.app (fieldPut_frame _ _ _ _ _)
    | with_reducible apply Frame.app (errLostRecord_frame _)

theorem wrErrCfg_frame (src : Party) (v : Word) (s : State) :
    Frame [.regs, .hif, .prt, .err] s (wrErrCfg src v s) := by
  delta wrErrCfg
  repeat' first
    | with_reducible apply Frame.refl
    | with_reducible assumption
    | apply Eq.refl
    | lift_lets -underBinder -merge -useContext
    | (intro x; refine Frame.cut (cs := [.regs, .hif, .prt, .err]) (s0 := s) (x := x) ?_ (fun hx => ?_); unfold x; rotate_left; clear_value x)
    | (intro x; clear_value x)
    | intro x
    | with_reducible apply Frame.app (fieldPut_frame _ _ _ _ _)
    | with_reducible apply Frame.app (plainWrite_frame _ _ _)
    | with_reducible apply Frame.app (errFlush_frame _)
    | with_reducible apply Frame.app (refuseReg_frame _ _ _ _ _)
    | (with_reducible refine Frame.updErr (by decide) ?_ ?_; (intro _ h; exact h))
    | (with_reducible refine Frame.updErr (by decide) ?_ ?_; (intro _ h; simp only [ErrSt.sorted] at h ⊢; simp [h]; done))
    | (with_reducible refine Frame.updErr (by decide) ?_ ?_; (intro _ h; simp only [ErrSt.sorted] at h ⊢; and_intros <;> (try dsimp only) <;> (repeat' split) <;> first | (simp [h]; done) | exact tabFold_rising (fun _ _ g => by first | (simp [g]; done) | (split <;> simp [g]; done)) _ _ (by simp [h])))
    | (with_reducible refine Frame.updErr (by decide) ?_ ?_; (intro _ h; simp only [ErrSt.sorted] at h ⊢; and_intros <;> first | (simp [h]; done) | exact tabFold_rising (fun _ _ g => by first | (simp [g]; done) | (split <;> simp [g]; done) | exact tabFold_rising (fun _ _ k => by simp [k]) _ _ g) _ _ (by simp [h]) | (repeat' first | exact rfl | exact h | apply tabSet_rising)))
    | with_reducible apply Frame.ite

theorem wrErrBase_frame (src : Party) (off : Nat) (v : Word) (s : State) :
    Frame [.regs, .prt, .err] s (wrErrBase src off v s) := by
  delta wrErrBase
  repeat' first
    | with_reducible apply Frame.refl
    | with_reducible assumption
    | apply Eq.refl
    | lift_lets -underBinder -merge -useContext
    | (intro x; refine Frame.cut (cs := [.regs, .prt, .err]) (s0 := s) (x := x) ?_ (fun hx => ?_); unfold x; rotate_left; clear_value x)
    | with_reducible apply Frame.app (plainWrite_frame _ _ _)
    | with_reducible apply Frame.app (refuseReg_frame _ _ _ _ _)
    | with_reducible apply Frame.ite

theorem execIntSumMessage_frame (s : State) :
    ∀ out, execIntSumMessage s = .next out → Frame [.regs, .hif, .err] s out := by
  delta execIntSumMessage
  intro out h
  injection h with h
  subst h
  repeat' first
    | with_reducible apply Frame.refl
    | with_reducible assumption
    | apply Eq.refl
    | lift_lets -underBinder -merge -useContext
    | (intro x; refine Frame.cut (cs := [.regs, .hif, .err]) (s0 := s) (x := x) ?_ (fun hx => ?_); unfold x; rotate_left; clear_value x)
    | (intro x; clear_value x)
    | intro x
    | with_reducible apply Frame.app (raiseVec_frame _ _)
    | with_reducible apply Frame.app (errMessage_frame _)
    | with_reducible apply Frame.app (errBlocks_frame _)
    | (with_reducible refine Frame.updErr (by decide) ?_ ?_; (intro _ h; exact h))
    | (with_reducible refine Frame.updErr (by decide) ?_ ?_; (intro _ h; simp only [ErrSt.sorted] at h ⊢; simp [h]; done))
    | (with_reducible refine Frame.updErr (by decide) ?_ ?_; (intro _ h; simp only [ErrSt.sorted] at h ⊢; and_intros <;> (try dsimp only) <;> (repeat' split) <;> first | (simp [h]; done) | exact tabFold_rising (fun _ _ g => by first | (simp [g]; done) | (split <;> simp [g]; done)) _ _ (by simp [h])))
    | (with_reducible refine Frame.updErr (by decide) ?_ ?_; (intro _ h; simp only [ErrSt.sorted] at h ⊢; and_intros <;> first | (simp [h]; done) | exact tabFold_rising (fun _ _ g => by first | (simp [g]; done) | (split <;> simp [g]; done) | exact tabFold_rising (fun _ _ k => by simp [k]) _ _ g) _ _ (by simp [h]) | (repeat' first | exact rfl | exact h | apply tabSet_rising)))
    | with_reducible apply Frame.ite
    | split

end Sys2Proof.Machine
end

