-- ==== Sys2Proof/Laws/FrameRestore.lean ====
section
/-! SUPPORT. What each operation of Machine/Restore.lean changes at most, and that it keeps the invariant. -/

namespace Sys2Proof.Machine

set_option linter.all false

open Sys2Proof

theorem restoreM_frame (r : Option Settings) (trusted : Bool) (s : State) :
    Frame [.regs] s (restoreM r trusted s) := by
  delta restoreM
  repeat' first
    | with_reducible apply Frame.refl
    | with_reducible assumption
    | apply Eq.refl
    | lift_lets -underBinder -merge -useContext
    | (intro x; refine Frame.cut (cs := [.regs]) (s0 := s) (x := x) ?_ (fun hx => ?_); unfold x; rotate_left; clear_value x)
    | with_reducible apply Frame.app (regPut_frame _ _ _)
    | with_reducible refine Frame.foldl ?_ (fun _ _ _ => ?_)
    | with_reducible apply Frame.ite
    | with_reducible apply_assumption

theorem vbtFlag_frame (i : Nat) (b : Bool) (s : State) :
    Frame [.regs] s (vbtFlag i b s) := by
  delta vbtFlag
  repeat' first
    | with_reducible apply Frame.refl
    | with_reducible assumption
    | apply Eq.refl
    | lift_lets -underBinder -merge -useContext
    | (intro x; refine Frame.cut (cs := [.regs]) (s0 := s) (x := x) ?_ (fun hx => ?_); unfold x; rotate_left; clear_value x)
    | with_reducible apply Frame.app (flagPut_frame _ _ _ _)

theorem restoreSettings_frame (valid : Bool) (s : State) :
    Frame [.regs, .arr, .hif, .err, .fwu, .vbt] s (restoreSettings valid s) := by
  delta restoreSettings
  repeat' first
    | with_reducible apply Frame.refl
    | with_reducible assumption
    | apply Eq.refl
    | lift_lets -underBinder -merge -useContext
    | (intro x; refine Frame.cut (cs := [.regs, .arr, .hif, .err, .fwu, .vbt]) (s0 := s) (x := x) ?_ (fun hx => ?_); unfold x; rotate_left; clear_value x)
    | (intro x; clear_value x)
    | intro x
    | with_reducible apply Frame.app (raiseInt_frame _ _ _)
    | with_reducible apply Frame.app (vbtPut_frame _ _ _)
    | with_reducible apply Frame.app (restoreM_frame _ _ _)
    | with_reducible apply Frame.app (vbtFlag_frame _ _ _)
    | (with_reducible refine Frame.updArr (by decide) ?_ ?_; (intro _ h; exact h))
    | (with_reducible refine Frame.updArr (by decide) ?_ ?_; (intro _ h; simp only [ArrSt.sorted] at h ⊢; simp [h]; done))
    | (with_reducible refine Frame.updArr (by decide) ?_ ?_; (intro _ h; simp only [ArrSt.sorted] at h ⊢; and_intros <;> (try dsimp only) <;> (repeat' split) <;> first | (simp [h]; done) | exact tabFold_rising (fun _ _ g => by first | (simp [g]; done) | (split <;> simp [g]; done)) _ _ (by simp [h])))
    | (with_reducible refine Frame.updArr (by decide) ?_ ?_; (intro _ h; simp only [ArrSt.sorted] at h ⊢; and_intros <;> first | (simp [h]; done) | exact tabFold_rising (fun _ _ g => by first | (simp [g]; done) | (split <;> simp [g]; done) | exact tabFold_rising (fun _ _ k => by simp [k]) _ _ g) _ _ (by simp [h]) | (repeat' first | exact rfl | exact h | apply tabSet_rising)))
    | (with_reducible refine Frame.updFwu (by decide) ?_ ?_; (intro _ h; exact h))
    | (with_reducible refine Frame.updFwu (by decide) ?_ ?_; (intro _ h; simp only [FwuSt.sorted] at h ⊢; simp [h]; done))
    | (with_reducible refine Frame.updFwu (by decide) ?_ ?_; (intro _ h; simp only [FwuSt.sorted] at h ⊢; and_intros <;> (try dsimp only) <;> (repeat' split) <;> first | (simp [h]; done) | exact tabFold_rising (fun _ _ g => by first | (simp [g]; done) | (split <;> simp [g]; done)) _ _ (by simp [h])))
    | (with_reducible refine Frame.updFwu (by decide) ?_ ?_; (intro _ h; simp only [FwuSt.sorted] at h ⊢; and_intros <;> first | (simp [h]; done) | exact tabFold_rising (fun _ _ g => by first | (simp [g]; done) | (split <;> simp [g]; done) | exact tabFold_rising (fun _ _ k => by simp [k]) _ _ g) _ _ (by simp [h]) | (repeat' first | exact rfl | exact h | apply tabSet_rising)))
    | (with_reducible refine Frame.updHif (by decide) ?_ ?_; (intro _ h; exact h))
    | (with_reducible refine Frame.updHif (by decide) ?_ ?_; (intro _ h; simp only [HifSt.sorted] at h ⊢; simp [h]; done))
    | (with_reducible refine Frame.updHif (by decide) ?_ ?_; (intro _ h; simp only [HifSt.sorted] at h ⊢; and_intros <;> (try dsimp only) <;> (repeat' split) <;> first | (simp [h]; done) | exact tabFold_rising (fun _ _ g => by first | (simp [g]; done) | (split <;> simp [g]; done)) _ _ (by simp [h])))
    | (with_reducible refine Frame.updHif (by decide) ?_ ?_; (intro _ h; simp only [HifSt.sorted] at h ⊢; and_intros <;> first | (simp [h]; done) | exact tabFold_rising (fun _ _ g => by first | (simp [g]; done) | (split <;> simp [g]; done) | exact tabFold_rising (fun _ _ k => by simp [k]) _ _ g) _ _ (by simp [h]) | (repeat' first | exact rfl | exact h | apply tabSet_rising)))
    | with_reducible apply Frame.ite
    | split

theorem unreadRecord_frame (s : State) :
    Frame [.regs] s (unreadRecord s) := by
  delta unreadRecord
  repeat' first
    | with_reducible apply Frame.refl
    | with_reducible assumption
    | apply Eq.refl
    | lift_lets -underBinder -merge -useContext
    | (intro x; refine Frame.cut (cs := [.regs]) (s0 := s) (x := x) ?_ (fun hx => ?_); unfold x; rotate_left; clear_value x)
    | with_reducible apply Frame.app (restoreM_frame _ _ _)
    | with_reducible apply Frame.app (vbtFlag_frame _ _ _)
    | with_reducible apply Frame.ite

theorem defaultSchedule_rising : tabRising defaultSchedule = true := by decide

theorem restoreSchedule_frame (s : State) :
    Frame [.regs, .pip] s (restoreSchedule s) := by
  delta restoreSchedule
  extract_lets t u x
  have hu : tabRising u = true := tabFold_rising (fun _ _ g => tabSet_rising _ _ _ _ g) _ _ rfl
  have hx : Frame [.regs, .pip] s x := Frame.app (fieldPut_frame _ _ _ _ _) (by decide)
    (Frame.updPip (by decide) (fun _ h => by simp only [PipSt.sorted] at h ⊢; exact ⟨h.1, h.2.1, h.2.2.1, h.2.2.2.1,
      h.2.2.2.2.1, h.2.2.2.2.2.1, hu⟩) (Frame.refl _ s))
  clear_value u x
  split
  · exact Frame.app (setSchedule_frame _ _ (fun _ => hu)) (by decide) hx
  · exact Frame.app (setSchedule_frame _ _ (fun _ => defaultSchedule_rising)) (by decide)
      (Frame.app (regPut_frame _ _ _) (by decide) hx)

theorem initBoot_frame (s : State) :
    Frame [.vbt] s (initBoot s) := by
  delta initBoot
  repeat' first
    | with_reducible apply Frame.refl
    | with_reducible assumption
    | apply Eq.refl
    | lift_lets -underBinder -merge -useContext
    | (intro x; refine Frame.cut (cs := [.vbt]) (s0 := s) (x := x) ?_ (fun hx => ?_); unfold x; rotate_left; clear_value x)
    | (intro x; clear_value x)
    | intro x
    | with_reducible apply Frame.app (vbtPut_frame _ _ _)
    | with_reducible apply Frame.ite

theorem initVbat_frame (s : State) :
    Frame [.regs, .err, .vbt] s (initVbat s) := by
  delta initVbat
  repeat' first
    | with_reducible apply Frame.refl
    | with_reducible assumption
    | apply Eq.refl
    | lift_lets -underBinder -merge -useContext
    | (intro x; refine Frame.cut (cs := [.regs, .err, .vbt]) (s0 := s) (x := x) ?_ (fun hx => ?_); unfold x; rotate_left; clear_value x)
    | (intro x; clear_value x)
    | intro x
    | with_reducible apply Frame.app (raiseInt_frame _ _ _)
    | with_reducible apply Frame.app (vbtPut_frame _ _ _)
    | with_reducible apply Frame.app (vbtPut64_frame _ _ _)
    | with_reducible apply Frame.app (vbtFlag_frame _ _ _)
    | with_reducible refine Frame.foldl ?_ (fun _ _ _ => ?_)
    | with_reducible apply_assumption
    | split

theorem initDigest_frame (s : State) :
    Frame [.vbt] s (initDigest s) := by
  delta initDigest
  repeat' first
    | with_reducible apply Frame.refl
    | with_reducible assumption
    | apply Eq.refl
    | lift_lets -underBinder -merge -useContext
    | (intro x; refine Frame.cut (cs := [.vbt]) (s0 := s) (x := x) ?_ (fun hx => ?_); unfold x; rotate_left; clear_value x)
    | with_reducible apply Frame.app (vbtPut_frame _ _ _)
    | split

theorem restoreAge_frame (s : State) :
    Frame [.regs] s (restoreAge s) := by
  delta restoreAge
  repeat' first
    | with_reducible apply Frame.refl
    | with_reducible assumption
    | apply Eq.refl
    | lift_lets -underBinder -merge -useContext
    | (intro x; refine Frame.cut (cs := [.regs]) (s0 := s) (x := x) ?_ (fun hx => ?_); unfold x; rotate_left; clear_value x)
    | (intro x; clear_value x)
    | intro x
    | with_reducible apply Frame.app (fieldPut_frame _ _ _ _ _)
    | with_reducible refine Frame.foldl ?_ (fun _ _ _ => ?_)
    | with_reducible apply_assumption

theorem setTod_frame (v : Nat) (s : State) (hv : v < 2 ^ 48 * secUnits) : Frame [.tod] s (s.updTod fun t => { t with value := v }) :=
  Frame.updTod rfl (fun _ _ => hv) (fun _ h => h) (Frame.refl _ s)

theorem seedTod_frame (s : State) : Frame [.tod] s (seedTod s) := by
  delta seedTod
  extract_lets x
  exact setTod_frame _ s (Nat.mod_lt _ (by decide))

theorem restoreVbat_frame (s : State) :
    Frame [.regs] s (restoreVbat s) := by
  delta restoreVbat
  repeat' first
    | with_reducible apply Frame.refl
    | with_reducible assumption
    | apply Eq.refl
    | lift_lets -underBinder -merge -useContext
    | (intro x; refine Frame.cut (cs := [.regs]) (s0 := s) (x := x) ?_ (fun hx => ?_); unfold x; rotate_left; clear_value x)
    | (intro x; clear_value x)
    | intro x
    | with_reducible apply Frame.app (regPut_frame _ _ _)
    | with_reducible apply Frame.app (fieldPut_frame _ _ _ _ _)
    | with_reducible apply Frame.app (restoreAge_frame _)

theorem restoreAll_frame (s : State) : Frame [.regs, .arr, .tod, .hif, .err, .fwu, .vbt] s (restoreAll s) := by
  have hz : 0 < 2 ^ 48 * secUnits := by decide
  delta restoreAll
  repeat' first
    | with_reducible apply Frame.refl
    | with_reducible assumption
    | apply Eq.refl
    | (with_reducible refine Frame.updTod rfl (fun _ _ => hz) ?_ ?_; (intro _ h; simp only [TodSt.sorted] at h ⊢; exact h))
    | lift_lets -underBinder -merge -useContext
    | (intro x; refine Frame.cut (cs := [.regs, .arr, .tod, .hif, .err, .fwu, .vbt]) (s0 := s) (x := x) ?_ (fun hx => ?_); unfold x; rotate_left; clear_value x)
    | (intro x; clear_value x)
    | intro x
    | with_reducible apply Frame.app (advanceArb_frame _)
    | with_reducible apply Frame.app (vbtFlag_frame _ _ _)
    | with_reducible apply Frame.app (restoreSettings_frame _ _)
    | with_reducible apply Frame.app (initVbat_frame _)
    | with_reducible apply Frame.app (initDigest_frame _)
    | with_reducible apply Frame.app (seedTod_frame _)
    | with_reducible apply Frame.app (restoreVbat_frame _)
    | (with_reducible refine Frame.updTod (by decide) (fun _ h => h) ?_ ?_; (intro _ h; exact h))
    | (with_reducible refine Frame.updTod (by decide) (fun _ h => h) ?_ ?_; (intro _ h; simp only [TodSt.sorted] at h ⊢; simp [h]; done))
    | (with_reducible refine Frame.updTod (by decide) (fun _ h => h) ?_ ?_; (intro _ h; simp only [TodSt.sorted] at h ⊢; and_intros <;> (try dsimp only) <;> (repeat' split) <;> first | (simp [h]; done) | exact tabFold_rising (fun _ _ g => by first | (simp [g]; done) | (split <;> simp [g]; done)) _ _ (by simp [h])))
    | (with_reducible refine Frame.updTod (by decide) (fun _ h => h) ?_ ?_; (intro _ h; simp only [TodSt.sorted] at h ⊢; and_intros <;> first | (simp [h]; done) | exact tabFold_rising (fun _ _ g => by first | (simp [g]; done) | (split <;> simp [g]; done) | exact tabFold_rising (fun _ _ k => by simp [k]) _ _ g) _ _ (by simp [h]) | (repeat' first | exact rfl | exact h | apply tabSet_rising)))
    | with_reducible apply Frame.ite

theorem execVbatMeasure_frame (volt : Nat) (s : State) :
    ∀ out, execVbatMeasure volt s = .next out → Frame [.regs, .err] s out := by
  delta execVbatMeasure
  intro out h
  injection h with h
  subst h
  repeat' first
    | with_reducible apply Frame.refl
    | with_reducible assumption
    | apply Eq.refl
    | lift_lets -underBinder -merge -useContext
    | (intro x; refine Frame.cut (cs := [.regs, .err]) (s0 := s) (x := x) ?_ (fun hx => ?_); unfold x; rotate_left; clear_value x)
    | (intro x; clear_value x)
    | intro x
    | with_reducible apply Frame.app (fieldPut_frame _ _ _ _ _)
    | with_reducible apply Frame.app (raiseInt_frame _ _ _)
    | with_reducible apply Frame.app (vbtFlag_frame _ _ _)
    | with_reducible apply Frame.ite

theorem execTodSave_frame (s : State) :
    ∀ out, execTodSave s = .next out → Frame [.vbt] s out := by
  delta execTodSave
  intro out h
  injection h with h
  subst h
  repeat' first
    | with_reducible apply Frame.refl
    | with_reducible assumption
    | apply Eq.refl
    | lift_lets -underBinder -merge -useContext
    | (intro x; refine Frame.cut (cs := [.vbt]) (s0 := s) (x := x) ?_ (fun hx => ?_); unfold x; rotate_left; clear_value x)
    | with_reducible apply Frame.app (saveTod_frame _)
    | with_reducible apply Frame.ite

theorem wrVbtWord_frame (src : Party) (n : Nat) (v : Word) (s : State) :
    Frame [.regs, .prt, .err, .vbt] s (wrVbtWord src n v s) := by
  delta wrVbtWord
  repeat' first
    | with_reducible apply Frame.refl
    | with_reducible assumption
    | apply Eq.refl
    | lift_lets -underBinder -merge -useContext
    | (intro x; refine Frame.cut (cs := [.regs, .prt, .err, .vbt]) (s0 := s) (x := x) ?_ (fun hx => ?_); unfold x; rotate_left; clear_value x)
    | with_reducible apply Frame.app (refuseReg_frame _ _ _ _ _)
    | with_reducible apply Frame.app (vbtPut_frame _ _ _)
    | (with_reducible refine Frame.updVbt (by decide) ?_ ?_; (intro _ h; exact h))
    | (with_reducible refine Frame.updVbt (by decide) ?_ ?_; (intro _ h; simp only [VbtSt.sorted] at h ⊢; simp [h]; done))
    | (with_reducible refine Frame.updVbt (by decide) ?_ ?_; (intro _ h; simp only [VbtSt.sorted] at h ⊢; and_intros <;> (try dsimp only) <;> (repeat' split) <;> first | (simp [h]; done) | exact tabFold_rising (fun _ _ g => by first | (simp [g]; done) | (split <;> simp [g]; done)) _ _ (by simp [h])))
    | (with_reducible refine Frame.updVbt (by decide) ?_ ?_; (intro _ h; simp only [VbtSt.sorted] at h ⊢; and_intros <;> first | (simp [h]; done) | exact tabFold_rising (fun _ _ g => by first | (simp [g]; done) | (split <;> simp [g]; done) | exact tabFold_rising (fun _ _ k => by simp [k]) _ _ g) _ _ (by simp [h]) | (repeat' first | exact rfl | exact h | apply tabSet_rising)))
    | with_reducible apply Frame.ite

theorem execVbatDomainPowerUp_frame (s : State) :
    ∀ out, execVbatDomainPowerUp s = .next out → Frame [.clk, .vbt] s out := by
  delta execVbatDomainPowerUp
  intro out h
  injection h with h
  subst h
  repeat' first
    | with_reducible apply Frame.refl
    | with_reducible assumption
    | apply Eq.refl
    | lift_lets -underBinder -merge -useContext
    | (intro x; refine Frame.cut (cs := [.clk, .vbt]) (s0 := s) (x := x) ?_ (fun hx => ?_); unfold x; rotate_left; clear_value x)
    | with_reducible apply Frame.app (nextFree_frame _)
    | (with_reducible refine Frame.updVbt (by decide) ?_ ?_; (intro _ h; exact h))
    | (with_reducible refine Frame.updVbt (by decide) ?_ ?_; (intro _ h; simp only [VbtSt.sorted] at h ⊢; simp [h]; done))
    | (with_reducible refine Frame.updVbt (by decide) ?_ ?_; (intro _ h; simp only [VbtSt.sorted] at h ⊢; and_intros <;> (try dsimp only) <;> (repeat' split) <;> first | (simp [h]; done) | exact tabFold_rising (fun _ _ g => by first | (simp [g]; done) | (split <;> simp [g]; done)) _ _ (by simp [h])))
    | (with_reducible refine Frame.updVbt (by decide) ?_ ?_; (intro _ h; simp only [VbtSt.sorted] at h ⊢; and_intros <;> first | (simp [h]; done) | exact tabFold_rising (fun _ _ g => by first | (simp [g]; done) | (split <;> simp [g]; done) | exact tabFold_rising (fun _ _ k => by simp [k]) _ _ g) _ _ (by simp [h]) | (repeat' first | exact rfl | exact h | apply tabSet_rising)))

end Sys2Proof.Machine
end

