-- ==== Sys2Proof/Laws/FrameResets.lean ====
section
/-! SUPPORT. What each operation of Machine/Resets.lean changes at most, and that it keeps the invariant. -/

namespace Sys2Proof.Machine

set_option linter.all false

open Sys2Proof

/-- A meaning's outcome, as a state. -/
structure FrameN (cs : List Comp) (s : State) (o : Host.Outcome State Fault Refusal) : Prop where
  get : ∀ t, o = .next t → Frame cs s t

theorem FrameN.app {cs ds : List Comp} {s x : State} {o : Host.Outcome State Fault Refusal}
    (h : ∀ t, o = .next t → Frame ds x t) (hs : ds.all cs.contains = true) (h0 : Frame cs s x) : FrameN cs s o :=
  ⟨fun t e => Frame.app (h t e) hs h0⟩

theorem after_frame {cs : List Comp} {s0 : State} (o : Host.Outcome State Fault Refusal) (s : State)
    (h : FrameN cs s0 o) (hs : Frame cs s0 s) : Frame cs s0 (after o s) := by
  unfold after
  split
  · exact h.get _ rfl
  · exact hs

theorem drainStep_frame (s : State) :
    FrameO [.regs, .arr, .tbl, .mem, .upd, .epc, .cas, .hif, .err] s (drainStep s) := by
  delta drainStep
  repeat' first
    | with_reducible apply Frame.refl
    | with_reducible assumption
    | apply Eq.refl
    | with_reducible apply FrameO.none
    | with_reducible apply FrameO.some
    | with_reducible refine FrameO.map (fun _ => ?_)
    | lift_lets -underBinder -merge -useContext
    | (intro x; refine Frame.cut (cs := [.regs, .arr, .tbl, .mem, .upd, .epc, .cas, .hif, .err]) (s0 := s) (x := x) ?_ (fun hx => ?_); unfold x; rotate_left; clear_value x)
    | with_reducible apply Frame.app (performRow_frame _ _ _)
    | with_reducible apply Frame.app (advance_frame _ _)
    | with_reducible apply Frame.app (advanceAll_frame _)
    | with_reducible apply Frame.app (after_frame _ _)
    | with_reducible apply after_frame
    | with_reducible apply FrameN.app (execSpatulaMove_frame _ _)
    | with_reducible apply FrameN.app (execReuseHoldEnd_frame _)
    | with_reducible apply FrameN.app (execGoldenWriteDone_frame _)
    | (with_reducible refine Frame.updArr (by decide) ?_ ?_; (intro _ h; exact h))
    | (with_reducible refine Frame.updArr (by decide) ?_ ?_; (intro _ h; simp only [ArrSt.sorted] at h ⊢; simp [h]; done))
    | (with_reducible refine Frame.updArr (by decide) ?_ ?_; (intro _ h; simp only [ArrSt.sorted] at h ⊢; and_intros <;> (try dsimp only) <;> (repeat' split) <;> first | (simp [h]; done) | exact tabFold_rising (fun _ _ g => by first | (simp [g]; done) | (split <;> simp [g]; done)) _ _ (by simp [h])))
    | (with_reducible refine Frame.updArr (by decide) ?_ ?_; (intro _ h; simp only [ArrSt.sorted] at h ⊢; and_intros <;> first | (simp [h]; done) | exact tabFold_rising (fun _ _ g => by first | (simp [g]; done) | (split <;> simp [g]; done) | exact tabFold_rising (fun _ _ k => by simp [k]) _ _ g) _ _ (by simp [h]) | (repeat' first | exact rfl | exact h | apply tabSet_rising)))
    | split
    | with_reducible apply FrameO.ite

theorem drainN_frame : ∀ (k : Nat) (s : State), Frame [.regs, .arr, .tbl, .mem, .upd, .epc, .cas, .hif, .err] s (drainN k s)
  | 0, s => Frame.refl _ s
  | k + 1, s => by
    unfold drainN
    split
    · rename_i t h
      exact Frame.app (drainN_frame k t) rfl ((drainStep_frame s).get t h)
    · exact Frame.refl _ s

theorem drainAll_frame (s : State) :
    Frame [.regs, .arr, .tbl, .mem, .upd, .epc, .cas, .hif, .err] s (drainAll s) := by
  delta drainAll
  repeat' first
    | with_reducible apply Frame.refl
    | with_reducible assumption
    | apply Eq.refl
    | lift_lets -underBinder -merge -useContext
    | (intro x; refine Frame.cut (cs := [.regs, .arr, .tbl, .mem, .upd, .epc, .cas, .hif, .err]) (s0 := s) (x := x) ?_ (fun hx => ?_); unfold x; rotate_left; clear_value x)
    | with_reducible apply Frame.app (drainN_frame _ _)

theorem settleTables_frame (s : State) :
    Frame [.regs, .arr, .tbl] s (settleTables s) := by
  delta settleTables
  repeat' first
    | with_reducible apply Frame.refl
    | with_reducible assumption
    | apply Eq.refl
    | lift_lets -underBinder -merge -useContext
    | (intro x; refine Frame.cut (cs := [.regs, .arr, .tbl]) (s0 := s) (x := x) ?_ (fun hx => ?_); unfold x; rotate_left; clear_value x)
    | (intro x; clear_value x)
    | intro x
    | with_reducible apply Frame.app (setTable_frame _ _ _)
    | with_reducible apply Frame.app (freePans_frame _ _)
    | with_reducible apply Frame.app (zeroMasks_frame _ _)
    | with_reducible apply Frame.app (assignPans_frame _ _ _)
    | (with_reducible refine Frame.updArr (by decide) ?_ ?_; (intro _ h; exact h))
    | (with_reducible refine Frame.updArr (by decide) ?_ ?_; (intro _ h; simp only [ArrSt.sorted] at h ⊢; simp [h]; done))
    | (with_reducible refine Frame.updArr (by decide) ?_ ?_; (intro _ h; simp only [ArrSt.sorted] at h ⊢; and_intros <;> (try dsimp only) <;> (repeat' split) <;> first | (simp [h]; done) | exact tabFold_rising (fun _ _ g => by first | (simp [g]; done) | (split <;> simp [g]; done)) _ _ (by simp [h])))
    | (with_reducible refine Frame.updArr (by decide) ?_ ?_; (intro _ h; simp only [ArrSt.sorted] at h ⊢; and_intros <;> first | (simp [h]; done) | exact tabFold_rising (fun _ _ g => by first | (simp [g]; done) | (split <;> simp [g]; done) | exact tabFold_rising (fun _ _ k => by simp [k]) _ _ g) _ _ (by simp [h]) | (repeat' first | exact rfl | exact h | apply tabSet_rising)))
    | (with_reducible refine Frame.updTbl (by decide) ?_ ?_; (intro _ h; exact h))
    | (with_reducible refine Frame.updTbl (by decide) ?_ ?_; (intro _ h; simp only [TblSt.sorted] at h ⊢; simp [h]; done))
    | (with_reducible refine Frame.updTbl (by decide) ?_ ?_; (intro _ h; simp only [TblSt.sorted] at h ⊢; and_intros <;> (try dsimp only) <;> (repeat' split) <;> first | (simp [h]; done) | exact tabFold_rising (fun _ _ g => by first | (simp [g]; done) | (split <;> simp [g]; done)) _ _ (by simp [h])))
    | (with_reducible refine Frame.updTbl (by decide) ?_ ?_; (intro _ h; simp only [TblSt.sorted] at h ⊢; and_intros <;> first | (simp [h]; done) | exact tabFold_rising (fun _ _ g => by first | (simp [g]; done) | (split <;> simp [g]; done) | exact tabFold_rising (fun _ _ k => by simp [k]) _ _ g) _ _ (by simp [h]) | (repeat' first | exact rfl | exact h | apply tabSet_rising)))
    | with_reducible refine Frame.foldl ?_ (fun _ _ _ => ?_)
    | with_reducible apply_assumption
    | split

theorem discardBatches_frame (s : State) :
    Frame [.regs, .arr, .tbl, .mem, .upd, .epc, .cas, .hif, .err] s (discardBatches s) := by
  delta discardBatches
  repeat' first
    | with_reducible apply Frame.refl
    | with_reducible assumption
    | apply Eq.refl
    | lift_lets -underBinder -merge -useContext
    | (intro x; refine Frame.cut (cs := [.regs, .arr, .tbl, .mem, .upd, .epc, .cas, .hif, .err]) (s0 := s) (x := x) ?_ (fun hx => ?_); unfold x; rotate_left; clear_value x)
    | (intro x; clear_value x)
    | intro x
    | with_reducible apply Frame.app (startDiscard_frame _ _)
    | with_reducible apply Frame.app (after_frame _ _)
    | with_reducible apply Frame.app (drainAll_frame _)
    | with_reducible apply after_frame
    | with_reducible apply FrameN.app (execDiscardDone_frame _ _)
    | with_reducible refine Frame.foldl ?_ (fun _ _ _ => ?_)
    | with_reducible apply Frame.ite
    | with_reducible apply_assumption

theorem undisturbed_frame {cs : List Comp} {s0 s : State} {f : State → State} (hc : [Comp.regs, .pip].all cs.contains = true)
    (hf : ∀ t, Frame cs s0 t → Frame cs s0 (f t)) (h : Frame cs s0 s) : Frame cs s0 (undisturbed f s) := by
  have hr : [Comp.regs].all cs.contains = true := by
    simp only [List.all_cons, List.all_nil, Bool.and_true, Bool.and_eq_true] at hc ⊢
    exact hc.1
  have hp : cs.contains Comp.pip = true := by
    simp only [List.all_cons, List.all_nil, Bool.and_true, Bool.and_eq_true] at hc
    exact hc.2
  have hs (i : Inv s0) := (h.inv i).pipTabs
  unfold undisturbed
  extract_lets p m t
  have ht : Frame cs s0 t := by
    refine hf _ (Frame.app (fieldPut_frame _ _ _ _ _) hr (Frame.updPip hp (fun _ g => ?_) h))
    simp only [PipSt.sorted] at g ⊢
    exact g
  clear_value t
  refine Frame.app (fieldPut_frame _ _ _ _ _) hr ⟨fun c hn => Comp.same_trans (ht.only c hn) ?_, fun i => ?_⟩
  · cases c <;> first | exact rfl | exact absurd (by simpa using hp) hn
  · exact (Frame.updPip hp (fun _ _ => hs i) ht).inv i

theorem quietRings_frame (s : State) :
    Frame [.upd] s (quietRings s) := by
  delta quietRings
  repeat' first
    | with_reducible apply Frame.refl
    | with_reducible assumption
    | apply Eq.refl
    | lift_lets -underBinder -merge -useContext
    | (intro x; refine Frame.cut (cs := [.upd]) (s0 := s) (x := x) ?_ (fun hx => ?_); unfold x; rotate_left; clear_value x)
    | (with_reducible refine Frame.updUpd (by decide) ?_ ?_; (intro _ h; exact h))
    | (with_reducible refine Frame.updUpd (by decide) ?_ ?_; (intro _ h; simp only [UpdSt.sorted] at h ⊢; simp [h]; done))
    | (with_reducible refine Frame.updUpd (by decide) ?_ ?_; (intro _ h; simp only [UpdSt.sorted] at h ⊢; and_intros <;> (try dsimp only) <;> (repeat' split) <;> first | (simp [h]; done) | exact tabFold_rising (fun _ _ g => by first | (simp [g]; done) | (split <;> simp [g]; done)) _ _ (by simp [h])))
    | (with_reducible refine Frame.updUpd (by decide) ?_ ?_; (intro _ h; simp only [UpdSt.sorted] at h ⊢; and_intros <;> first | (simp [h]; done) | exact tabFold_rising (fun _ _ g => by first | (simp [g]; done) | (split <;> simp [g]; done) | exact tabFold_rising (fun _ _ k => by simp [k]) _ _ g) _ _ (by simp [h]) | (repeat' first | exact rfl | exact h | apply tabSet_rising)))

theorem stopCommands_frame (s : State) :
    Frame [.regs, .arr, .tbl, .mem, .pip, .upd, .epc, .cas, .hif, .err] s (stopCommands s) := by
  delta stopCommands
  repeat' first
    | with_reducible apply Frame.refl
    | with_reducible assumption
    | apply Eq.refl
    | lift_lets -underBinder -merge -useContext
    | (intro x; refine Frame.cut (cs := [.regs, .arr, .tbl, .mem, .pip, .upd, .epc, .cas, .hif, .err]) (s0 := s) (x := x) ?_ (fun hx => ?_); unfold x; rotate_left; clear_value x)
    | (intro x; clear_value x)
    | intro x
    | with_reducible apply Frame.app (flushDue_frame _)
    | with_reducible apply Frame.app (abortReady_frame _ _)
    | with_reducible apply Frame.app (drainAll_frame _)
    | with_reducible apply Frame.app (settleTables_frame _)
    | with_reducible apply Frame.app (discardBatches_frame _)
    | with_reducible refine undisturbed_frame (by decide) (fun _ _ => ?_) ?_
    | with_reducible apply Frame.app (quietRings_frame _)
    | (with_reducible refine Frame.updArr (by decide) ?_ ?_; (intro _ h; exact h))
    | (with_reducible refine Frame.updArr (by decide) ?_ ?_; (intro _ h; simp only [ArrSt.sorted] at h ⊢; simp [h]; done))
    | (with_reducible refine Frame.updArr (by decide) ?_ ?_; (intro _ h; simp only [ArrSt.sorted] at h ⊢; and_intros <;> (try dsimp only) <;> (repeat' split) <;> first | (simp [h]; done) | exact tabFold_rising (fun _ _ g => by first | (simp [g]; done) | (split <;> simp [g]; done)) _ _ (by simp [h])))
    | (with_reducible refine Frame.updArr (by decide) ?_ ?_; (intro _ h; simp only [ArrSt.sorted] at h ⊢; and_intros <;> first | (simp [h]; done) | exact tabFold_rising (fun _ _ g => by first | (simp [g]; done) | (split <;> simp [g]; done) | exact tabFold_rising (fun _ _ k => by simp [k]) _ _ g) _ _ (by simp [h]) | (repeat' first | exact rfl | exact h | apply tabSet_rising)))
    | (with_reducible refine Frame.updUpd (by decide) ?_ ?_; (intro _ h; exact h))
    | (with_reducible refine Frame.updUpd (by decide) ?_ ?_; (intro _ h; simp only [UpdSt.sorted] at h ⊢; simp [h]; done))
    | (with_reducible refine Frame.updUpd (by decide) ?_ ?_; (intro _ h; simp only [UpdSt.sorted] at h ⊢; and_intros <;> (try dsimp only) <;> (repeat' split) <;> first | (simp [h]; done) | exact tabFold_rising (fun _ _ g => by first | (simp [g]; done) | (split <;> simp [g]; done)) _ _ (by simp [h])))
    | (with_reducible refine Frame.updUpd (by decide) ?_ ?_; (intro _ h; simp only [UpdSt.sorted] at h ⊢; and_intros <;> first | (simp [h]; done) | exact tabFold_rising (fun _ _ g => by first | (simp [g]; done) | (split <;> simp [g]; done) | exact tabFold_rising (fun _ _ k => by simp [k]) _ _ g) _ _ (by simp [h]) | (repeat' first | exact rfl | exact h | apply tabSet_rising)))
    | with_reducible refine Frame.foldl ?_ (fun _ _ _ => ?_)
    | with_reducible apply_assumption

theorem reportsOff_frame (s : State) :
    Frame [.regs, .err] s (reportsOff s) := by
  delta reportsOff
  repeat' first
    | with_reducible apply Frame.refl
    | with_reducible assumption
    | apply Eq.refl
    | lift_lets -underBinder -merge -useContext
    | (intro x; refine Frame.cut (cs := [.regs, .err]) (s0 := s) (x := x) ?_ (fun hx => ?_); unfold x; rotate_left; clear_value x)
    | (intro x; clear_value x)
    | intro x
    | with_reducible apply Frame.app (flagPut_frame _ _ _ _)
    | (with_reducible refine Frame.updErr (by decide) ?_ ?_; (intro _ h; exact h))
    | (with_reducible refine Frame.updErr (by decide) ?_ ?_; (intro _ h; simp only [ErrSt.sorted] at h ⊢; simp [h]; done))
    | (with_reducible refine Frame.updErr (by decide) ?_ ?_; (intro _ h; simp only [ErrSt.sorted] at h ⊢; and_intros <;> (try dsimp only) <;> (repeat' split) <;> first | (simp [h]; done) | exact tabFold_rising (fun _ _ g => by first | (simp [g]; done) | (split <;> simp [g]; done)) _ _ (by simp [h])))
    | (with_reducible refine Frame.updErr (by decide) ?_ ?_; (intro _ h; simp only [ErrSt.sorted] at h ⊢; and_intros <;> first | (simp [h]; done) | exact tabFold_rising (fun _ _ g => by first | (simp [g]; done) | (split <;> simp [g]; done) | exact tabFold_rising (fun _ _ k => by simp [k]) _ _ g) _ _ (by simp [h]) | (repeat' first | exact rfl | exact h | apply tabSet_rising)))

theorem dropProposal_frame (result : Nat) (s : State) :
    Frame [.regs, .prt] s (dropProposal result s) := by
  delta dropProposal
  repeat' first
    | with_reducible apply Frame.refl
    | with_reducible assumption
    | apply Eq.refl
    | lift_lets -underBinder -merge -useContext
    | (intro x; refine Frame.cut (cs := [.regs, .prt]) (s0 := s) (x := x) ?_ (fun hx => ?_); unfold x; rotate_left; clear_value x)
    | (intro x; clear_value x)
    | intro x
    | with_reducible apply Frame.app (regPut_frame _ _ _)
    | with_reducible apply Frame.updPrt

theorem settleRemap_frame (s : State) (h : Fin 16) :
    Frame [.regs, .arr, .hif, .err, .fwu] s (settleRemap s h) := by
  delta settleRemap
  repeat' first
    | with_reducible apply Frame.refl
    | with_reducible assumption
    | apply Eq.refl
    | lift_lets -underBinder -merge -useContext
    | (intro x; refine Frame.cut (cs := [.regs, .arr, .hif, .err, .fwu]) (s0 := s) (x := x) ?_ (fun hx => ?_); unfold x; rotate_left; clear_value x)
    | (intro x; refine Frame.cutF (cs := [.regs, .arr, .hif, .err, .fwu]) (s0 := s) (x := x) (fun _ _ => ?_) (fun hx => ?_); unfold x; rotate_left; clear_value x)
    | (intro x; refine Frame.cutS (cs := [.regs, .arr, .hif, .err, .fwu]) (s0 := s) (x := x) (fun _ _ _ => ?_) (fun hx => ?_); unfold x; rotate_left; clear_value x)
    | (intro x; refine Frame.cutH (cs := [.regs, .arr, .hif, .err, .fwu]) (s0 := s) (x := x) (fun _ _ _ _ => ?_) (fun hx => ?_); unfold x; rotate_left; clear_value x)
    | (intro x; refine Frame.cutG (cs := [.regs, .arr, .hif, .err, .fwu]) (s0 := s) (x := x) (fun _ _ _ => ?_) (fun hx => ?_); unfold x; rotate_left; clear_value x)
    | (intro x; refine Frame.cutK (cs := [.regs, .arr, .hif, .err, .fwu]) (s0 := s) (x := x) (fun _ => ?_) (fun hx => ?_); unfold x; rotate_left; clear_value x)
    | (intro x; refine Frame.cutK2 (cs := [.regs, .arr, .hif, .err, .fwu]) (s0 := s) (x := x) (fun _ _ => ?_) (fun hx => ?_); unfold x; rotate_left; clear_value x)
    | (intro x; clear_value x)
    | intro x
    | with_reducible apply Frame.app (updRemap_frame _ _ _)
    | with_reducible apply Frame.app (setPhase_frame _ _ _)
    | with_reducible apply Frame.app (after_frame _ _)
    | with_reducible apply after_frame
    | with_reducible apply FrameN.app (execRemapSwitch_frame _ _)
    | with_reducible apply FrameN.app (execRemapRetire_frame _ _)
    | with_reducible apply Frame.ite
    | with_reducible apply_assumption
    | split

theorem settleRemaps_frame (s : State) :
    Frame [.regs, .arr, .hif, .err, .fwu] s (settleRemaps s) := by
  delta settleRemaps
  repeat' first
    | with_reducible apply Frame.refl
    | with_reducible assumption
    | apply Eq.refl
    | lift_lets -underBinder -merge -useContext
    | (intro x; refine Frame.cut (cs := [.regs, .arr, .hif, .err, .fwu]) (s0 := s) (x := x) ?_ (fun hx => ?_); unfold x; rotate_left; clear_value x)
    | with_reducible apply Frame.app (settleRemap_frame _ _)
    | with_reducible refine Frame.foldl ?_ (fun _ _ _ => ?_)
    | with_reducible apply_assumption

theorem dropCommit_frame (s : State) :
    Frame [.cas] s (dropCommit s) := by
  delta dropCommit
  repeat' first
    | with_reducible apply Frame.refl
    | with_reducible assumption
    | apply Eq.refl
    | lift_lets -underBinder -merge -useContext
    | (intro x; refine Frame.cut (cs := [.cas]) (s0 := s) (x := x) ?_ (fun hx => ?_); unfold x; rotate_left; clear_value x)
    | with_reducible apply Frame.app (ctlSend_frame _ _ _ _ _)
    | (with_reducible refine Frame.updCas (by decide) ?_ ?_; (intro _ h; exact h))
    | (with_reducible refine Frame.updCas (by decide) ?_ ?_; (intro _ h; simp only [CasSt.sorted] at h ⊢; simp [h]; done))
    | (with_reducible refine Frame.updCas (by decide) ?_ ?_; (intro _ h; simp only [CasSt.sorted] at h ⊢; and_intros <;> (try dsimp only) <;> (repeat' split) <;> first | (simp [h]; done) | exact tabFold_rising (fun _ _ g => by first | (simp [g]; done) | (split <;> simp [g]; done)) _ _ (by simp [h])))
    | (with_reducible refine Frame.updCas (by decide) ?_ ?_; (intro _ h; simp only [CasSt.sorted] at h ⊢; and_intros <;> first | (simp [h]; done) | exact tabFold_rising (fun _ _ g => by first | (simp [g]; done) | (split <;> simp [g]; done) | exact tabFold_rising (fun _ _ k => by simp [k]) _ _ g) _ _ (by simp [h]) | (repeat' first | exact rfl | exact h | apply tabSet_rising)))
    | split

theorem blockRegs_m (b : Nat) : ∀ d ∈ blockRegs b, (d.reset &&& ~~~d.m) &&& ~~~d.live = 0 := by
  unfold blockRegs
  split <;> decide

theorem warmValue_live (w : Bool) (off : Nat) (v : Word) (h : v &&& ~~~(regLive off) = 0) :
    warmValue w off v &&& ~~~(regLive off) = 0 := by
  unfold warmValue
  split
  · exact h
  · split
    · rename_i d hd
      have hr := blockRegs_m _ d (List.mem_of_find?_eq_some hd)
      simp only [regLive, hd] at h ⊢
      rw [BitVec.and_or_distrib_right, hr, BitVec.and_assoc, BitVec.and_comm d.m, ← BitVec.and_assoc, h]
      simp
    · exact h

theorem regsOk_warm (w : Bool) (t : Tab Word) (h : ∀ x ∈ t, x.2 &&& ~~~(regLive x.1) = 0) :
    ∀ u, regsOk u = true →
      regsOk (t.foldl (fun u x => tabSet (regReset x.1) u x.1 (warmValue w x.1 x.2)) u) = true := by
  induction t with
  | nil => exact fun u hu => hu
  | cons x t ih =>
    exact fun u hu => ih (fun y hy => h y (List.mem_cons_of_mem _ hy)) _
      (regsOk_set _ u x.1 _ (warmValue_live w x.1 x.2 (h x (by simp))) hu)

theorem warmRegs_frame (s : State) : Frame [.regs] s (warmRegs s) := by
  delta warmRegs
  refine Frame.updRegs rfl (fun t h => ?_) (Frame.refl _ s)
  simp only [regsOk, Bool.and_eq_true, List.all_eq_true, beq_iff_eq] at h
  exact regsOk_warm _ t h.2 [] rfl

theorem warmDram_frame (s : State) :
    Frame [.regs, .drc] s (warmDram s) := by
  delta warmDram
  repeat' first
    | with_reducible apply Frame.refl
    | with_reducible assumption
    | apply Eq.refl
    | lift_lets -underBinder -merge -useContext
    | (intro x; refine Frame.cut (cs := [.regs, .drc]) (s0 := s) (x := x) ?_ (fun hx => ?_); unfold x; rotate_left; clear_value x)
    | with_reducible apply Frame.app (fieldPut_frame _ _ _ _ _)
    | with_reducible apply Frame.app (exitSelfRefresh_frame _)
    | (with_reducible refine Frame.updDrc (by decide) ?_ ?_; (intro _ h; exact h))
    | (with_reducible refine Frame.updDrc (by decide) ?_ ?_; (intro _ h; simp only [DrcSt.sorted] at h ⊢; simp [h]; done))
    | (with_reducible refine Frame.updDrc (by decide) ?_ ?_; (intro _ h; simp only [DrcSt.sorted] at h ⊢; and_intros <;> (try dsimp only) <;> (repeat' split) <;> first | (simp [h]; done) | exact tabFold_rising (fun _ _ g => by first | (simp [g]; done) | (split <;> simp [g]; done)) _ _ (by simp [h])))
    | (with_reducible refine Frame.updDrc (by decide) ?_ ?_; (intro _ h; simp only [DrcSt.sorted] at h ⊢; and_intros <;> first | (simp [h]; done) | exact tabFold_rising (fun _ _ g => by first | (simp [g]; done) | (split <;> simp [g]; done) | exact tabFold_rising (fun _ _ k => by simp [k]) _ _ g) _ _ (by simp [h]) | (repeat' first | exact rfl | exact h | apply tabSet_rising)))

theorem warmLinks_frame (s : State) :
    Frame [.lnk] s (warmLinks s) := by
  delta warmLinks
  repeat' first
    | with_reducible apply Frame.refl
    | with_reducible assumption
    | apply Eq.refl
    | lift_lets -underBinder -merge -useContext
    | (intro x; refine Frame.cut (cs := [.lnk]) (s0 := s) (x := x) ?_ (fun hx => ?_); unfold x; rotate_left; clear_value x)
    | (intro x; clear_value x)
    | intro x
    | (with_reducible refine Frame.updLnk (by decide) ?_ ?_; (intro _ h; exact h))
    | (with_reducible refine Frame.updLnk (by decide) ?_ ?_; (intro _ h; simp only [LnkSt.sorted] at h ⊢; simp [h]; done))
    | (with_reducible refine Frame.updLnk (by decide) ?_ ?_; (intro _ h; simp only [LnkSt.sorted] at h ⊢; and_intros <;> (try dsimp only) <;> (repeat' split) <;> first | (simp [h]; done) | exact tabFold_rising (fun _ _ g => by first | (simp [g]; done) | (split <;> simp [g]; done)) _ _ (by simp [h])))
    | (with_reducible refine Frame.updLnk (by decide) ?_ ?_; (intro _ h; simp only [LnkSt.sorted] at h ⊢; and_intros <;> first | (simp [h]; done) | exact tabFold_rising (fun _ _ g => by first | (simp [g]; done) | (split <;> simp [g]; done) | exact tabFold_rising (fun _ _ k => by simp [k]) _ _ g) _ _ (by simp [h]) | (repeat' first | exact rfl | exact h | apply tabSet_rising)))
    | with_reducible apply_assumption

theorem retireDomains_frame (s : State) :
    Frame [.regs, .arr, .tbl, .mem, .pip, .upd, .epc, .cas, .hif, .err] s (retireDomains s) := by
  delta retireDomains
  repeat' first
    | with_reducible apply Frame.refl
    | with_reducible assumption
    | apply Eq.refl
    | lift_lets -underBinder -merge -useContext
    | (intro x; refine Frame.cut (cs := [.regs, .arr, .tbl, .mem, .pip, .upd, .epc, .cas, .hif, .err]) (s0 := s) (x := x) ?_ (fun hx => ?_); unfold x; rotate_left; clear_value x)
    | (intro x; clear_value x)
    | intro x
    | with_reducible apply Frame.app (after_frame _ _)
    | with_reducible apply Frame.app (drainAll_frame _)
    | with_reducible refine undisturbed_frame (by decide) (fun _ _ => ?_) ?_
    | with_reducible apply after_frame
    | with_reducible apply FrameN.app (execReconciliationDone_frame _ _)
    | with_reducible apply FrameN.app (execEpochRetire_frame _ _)
    | with_reducible refine Frame.foldl ?_ (fun _ _ _ => ?_)
    | with_reducible apply_assumption

theorem warmCascade_frame (s : State) :
    Frame [.regs, .cas] s (warmCascade s) := by
  delta warmCascade
  repeat' first
    | with_reducible apply Frame.refl
    | with_reducible assumption
    | apply Eq.refl
    | lift_lets -underBinder -merge -useContext
    | (intro x; refine Frame.cut (cs := [.regs, .cas]) (s0 := s) (x := x) ?_ (fun hx => ?_); unfold x; rotate_left; clear_value x)
    | (intro x; clear_value x)
    | intro x
    | with_reducible apply Frame.app (fieldPut_frame _ _ _ _ _)
    | (with_reducible refine Frame.updCas (by decide) ?_ ?_; (intro _ h; exact h))
    | (with_reducible refine Frame.updCas (by decide) ?_ ?_; (intro _ h; simp only [CasSt.sorted] at h ⊢; simp [h]; done))
    | (with_reducible refine Frame.updCas (by decide) ?_ ?_; (intro _ h; simp only [CasSt.sorted] at h ⊢; and_intros <;> (try dsimp only) <;> (repeat' split) <;> first | (simp [h]; done) | exact tabFold_rising (fun _ _ g => by first | (simp [g]; done) | (split <;> simp [g]; done)) _ _ (by simp [h])))
    | (with_reducible refine Frame.updCas (by decide) ?_ ?_; (intro _ h; simp only [CasSt.sorted] at h ⊢; and_intros <;> first | (simp [h]; done) | exact tabFold_rising (fun _ _ g => by first | (simp [g]; done) | (split <;> simp [g]; done) | exact tabFold_rising (fun _ _ k => by simp [k]) _ _ g) _ _ (by simp [h]) | (repeat' first | exact rfl | exact h | apply tabSet_rising)))

theorem warmImage_frame (s : State) :
    Frame [.clk, .regs, .mem, .err, .fwu, .vbt] s (warmImage s) := by
  delta warmImage
  repeat' first
    | with_reducible apply Frame.refl
    | with_reducible assumption
    | apply Eq.refl
    | lift_lets -underBinder -merge -useContext
    | (intro x; refine Frame.cut (cs := [.clk, .regs, .mem, .err, .fwu, .vbt]) (s0 := s) (x := x) ?_ (fun hx => ?_); unfold x; rotate_left; clear_value x)
    | (intro x; refine Frame.cut (cs := [.clk, .regs, .mem, .err, .fwu, .vbt]) (s0 := s) (x := x.2) ?_ (fun hx => ?_); unfold x; rotate_left; clear_value x)
    | (intro x; clear_value x)
    | intro x
    | with_reducible apply Frame.app (fieldPut_frame _ _ _ _ _)
    | with_reducible apply Frame.app (fillScratch_frame _ _)
    | with_reducible apply Frame.app (chooseSlot_frame _ _)
    | with_reducible apply Frame.app (runSlotImage_frame _ _ _ _)
    | with_reducible apply Frame.app (advanceArb_frame _)
    | with_reducible apply Frame.app (unreadRecord_frame _)
    | with_reducible refine Frame.foldl ?_ (fun _ _ _ => ?_)
    | with_reducible apply Frame.ite
    | with_reducible apply_assumption
    | split
    | with_reducible refine Frame.app (Frame.ofPair (chooseSlot_frame _ _) (by assumption)) ?_ ?_

theorem warmPower_frame (s : State) :
    Frame [.regs, .pwr] s (warmPower s) := by
  delta warmPower
  repeat' first
    | with_reducible apply Frame.refl
    | with_reducible assumption
    | apply Eq.refl
    | lift_lets -underBinder -merge -useContext
    | (intro x; refine Frame.cut (cs := [.regs, .pwr]) (s0 := s) (x := x) ?_ (fun hx => ?_); unfold x; rotate_left; clear_value x)
    | (intro x; clear_value x)
    | intro x
    | with_reducible apply Frame.app (regPut_frame _ _ _)
    | with_reducible apply Frame.app (setRails_frame _ _)
    | (with_reducible refine Frame.updPwr (by decide) ?_ ?_; (intro _ h; exact h))
    | (with_reducible refine Frame.updPwr (by decide) ?_ ?_; (intro _ h; simp only [PwrSt.sorted] at h ⊢; simp [h]; done))
    | (with_reducible refine Frame.updPwr (by decide) ?_ ?_; (intro _ h; simp only [PwrSt.sorted] at h ⊢; and_intros <;> (try dsimp only) <;> (repeat' split) <;> first | (simp [h]; done) | exact tabFold_rising (fun _ _ g => by first | (simp [g]; done) | (split <;> simp [g]; done)) _ _ (by simp [h])))
    | (with_reducible refine Frame.updPwr (by decide) ?_ ?_; (intro _ h; simp only [PwrSt.sorted] at h ⊢; and_intros <;> first | (simp [h]; done) | exact tabFold_rising (fun _ _ g => by first | (simp [g]; done) | (split <;> simp [g]; done) | exact tabFold_rising (fun _ _ k => by simp [k]) _ _ g) _ _ (by simp [h]) | (repeat' first | exact rfl | exact h | apply tabSet_rising)))
    | with_reducible apply Frame.ite

theorem warmReset_frame (cause : Nat) (s : State) :
    Frame [.clk, .regs, .mwin, .arr, .tbl, .mem, .lnk, .pip, .upd, .epc, .tod, .cas, .hif, .prt, .err, .drc, .pwr, .fwu, .vbt] s (warmReset cause s) := by
  delta warmReset
  repeat' first
    | with_reducible apply Frame.refl
    | with_reducible assumption
    | apply Eq.refl
    | lift_lets -underBinder -merge -useContext
    | (intro x; refine Frame.cut (cs := [.clk, .regs, .mwin, .arr, .tbl, .mem, .lnk, .pip, .upd, .epc, .tod, .cas, .hif, .prt, .err, .drc, .pwr, .fwu, .vbt]) (s0 := s) (x := x) ?_ (fun hx => ?_); unfold x; rotate_left; clear_value x)
    | (intro x; clear_value x)
    | intro x
    | with_reducible apply Frame.app (regPut_frame _ _ _)
    | with_reducible apply Frame.app (flagPut_frame _ _ _ _)
    | with_reducible apply Frame.app (endSession_frame _)
    | with_reducible apply Frame.app (ownAll_frame _ _)
    | with_reducible apply Frame.app (dropAsked_frame _ _)
    | with_reducible apply Frame.app (wakeEnds_frame _ _ _)
    | with_reducible apply Frame.app (stopCommands_frame _)
    | with_reducible apply Frame.app (dropProposal_frame _ _)
    | with_reducible apply Frame.app (settleRemaps_frame _)
    | with_reducible apply Frame.app (dropCommit_frame _)
    | with_reducible apply Frame.app (warmRegs_frame _)
    | with_reducible apply Frame.app (warmDram_frame _)
    | with_reducible apply Frame.app (warmLinks_frame _)
    | with_reducible apply Frame.app (retireDomains_frame _)
    | with_reducible apply Frame.app (warmCascade_frame _)
    | with_reducible apply Frame.app (warmImage_frame _)
    | with_reducible apply Frame.app (warmPower_frame _)
    | (with_reducible refine Frame.updArr (by decide) ?_ ?_; (intro _ h; exact h))
    | (with_reducible refine Frame.updArr (by decide) ?_ ?_; (intro _ h; simp only [ArrSt.sorted] at h ⊢; simp [h]; done))
    | (with_reducible refine Frame.updArr (by decide) ?_ ?_; (intro _ h; simp only [ArrSt.sorted] at h ⊢; and_intros <;> (try dsimp only) <;> (repeat' split) <;> first | (simp [h]; done) | exact tabFold_rising (fun _ _ g => by first | (simp [g]; done) | (split <;> simp [g]; done)) _ _ (by simp [h])))
    | (with_reducible refine Frame.updArr (by decide) ?_ ?_; (intro _ h; simp only [ArrSt.sorted] at h ⊢; and_intros <;> first | (simp [h]; done) | exact tabFold_rising (fun _ _ g => by first | (simp [g]; done) | (split <;> simp [g]; done) | exact tabFold_rising (fun _ _ k => by simp [k]) _ _ g) _ _ (by simp [h]) | (repeat' first | exact rfl | exact h | apply tabSet_rising)))
    | (with_reducible refine Frame.updErr (by decide) ?_ ?_; (intro _ h; exact h))
    | (with_reducible refine Frame.updErr (by decide) ?_ ?_; (intro _ h; simp only [ErrSt.sorted] at h ⊢; simp [h]; done))
    | (with_reducible refine Frame.updErr (by decide) ?_ ?_; (intro _ h; simp only [ErrSt.sorted] at h ⊢; and_intros <;> (try dsimp only) <;> (repeat' split) <;> first | (simp [h]; done) | exact tabFold_rising (fun _ _ g => by first | (simp [g]; done) | (split <;> simp [g]; done)) _ _ (by simp [h])))
    | (with_reducible refine Frame.updErr (by decide) ?_ ?_; (intro _ h; simp only [ErrSt.sorted] at h ⊢; and_intros <;> first | (simp [h]; done) | exact tabFold_rising (fun _ _ g => by first | (simp [g]; done) | (split <;> simp [g]; done) | exact tabFold_rising (fun _ _ k => by simp [k]) _ _ g) _ _ (by simp [h]) | (repeat' first | exact rfl | exact h | apply tabSet_rising)))
    | (with_reducible refine Frame.updFwu (by decide) ?_ ?_; (intro _ h; exact h))
    | (with_reducible refine Frame.updFwu (by decide) ?_ ?_; (intro _ h; simp only [FwuSt.sorted] at h ⊢; simp [h]; done))
    | (with_reducible refine Frame.updFwu (by decide) ?_ ?_; (intro _ h; simp only [FwuSt.sorted] at h ⊢; and_intros <;> (try dsimp only) <;> (repeat' split) <;> first | (simp [h]; done) | exact tabFold_rising (fun _ _ g => by first | (simp [g]; done) | (split <;> simp [g]; done)) _ _ (by simp [h])))
    | (with_reducible refine Frame.updFwu (by decide) ?_ ?_; (intro _ h; simp only [FwuSt.sorted] at h ⊢; and_intros <;> first | (simp [h]; done) | exact tabFold_rising (fun _ _ g => by first | (simp [g]; done) | (split <;> simp [g]; done) | exact tabFold_rising (fun _ _ k => by simp [k]) _ _ g) _ _ (by simp [h]) | (repeat' first | exact rfl | exact h | apply tabSet_rising)))
    | with_reducible refine Frame.updMwin (by decide) (fun _ h => by first | exact h | exact regsNil_ok) ?_
    | (with_reducible refine Frame.updPip (by decide) ?_ ?_; (intro _ h; exact h))
    | (with_reducible refine Frame.updPip (by decide) ?_ ?_; (intro _ h; simp only [PipSt.sorted] at h ⊢; simp [h]; done))
    | (with_reducible refine Frame.updPip (by decide) ?_ ?_; (intro _ h; simp only [PipSt.sorted] at h ⊢; and_intros <;> (try dsimp only) <;> (repeat' split) <;> first | (simp [h]; done) | exact tabFold_rising (fun _ _ g => by first | (simp [g]; done) | (split <;> simp [g]; done)) _ _ (by simp [h])))
    | (with_reducible refine Frame.updPip (by decide) ?_ ?_; (intro _ h; simp only [PipSt.sorted] at h ⊢; and_intros <;> first | (simp [h]; done) | exact tabFold_rising (fun _ _ g => by first | (simp [g]; done) | (split <;> simp [g]; done) | exact tabFold_rising (fun _ _ k => by simp [k]) _ _ g) _ _ (by simp [h]) | (repeat' first | exact rfl | exact h | apply tabSet_rising)))
    | (with_reducible refine Frame.updTbl (by decide) ?_ ?_; (intro _ h; exact h))
    | (with_reducible refine Frame.updTbl (by decide) ?_ ?_; (intro _ h; simp only [TblSt.sorted] at h ⊢; simp [h]; done))
    | (with_reducible refine Frame.updTbl (by decide) ?_ ?_; (intro _ h; simp only [TblSt.sorted] at h ⊢; and_intros <;> (try dsimp only) <;> (repeat' split) <;> first | (simp [h]; done) | exact tabFold_rising (fun _ _ g => by first | (simp [g]; done) | (split <;> simp [g]; done)) _ _ (by simp [h])))
    | (with_reducible refine Frame.updTbl (by decide) ?_ ?_; (intro _ h; simp only [TblSt.sorted] at h ⊢; and_intros <;> first | (simp [h]; done) | exact tabFold_rising (fun _ _ g => by first | (simp [g]; done) | (split <;> simp [g]; done) | exact tabFold_rising (fun _ _ k => by simp [k]) _ _ g) _ _ (by simp [h]) | (repeat' first | exact rfl | exact h | apply tabSet_rising)))
    | (with_reducible refine Frame.updTod (by decide) (fun _ h => h) ?_ ?_; (intro _ h; exact h))
    | (with_reducible refine Frame.updTod (by decide) (fun _ h => h) ?_ ?_; (intro _ h; simp only [TodSt.sorted] at h ⊢; simp [h]; done))
    | (with_reducible refine Frame.updTod (by decide) (fun _ h => h) ?_ ?_; (intro _ h; simp only [TodSt.sorted] at h ⊢; and_intros <;> (try dsimp only) <;> (repeat' split) <;> first | (simp [h]; done) | exact tabFold_rising (fun _ _ g => by first | (simp [g]; done) | (split <;> simp [g]; done)) _ _ (by simp [h])))
    | (with_reducible refine Frame.updTod (by decide) (fun _ h => h) ?_ ?_; (intro _ h; simp only [TodSt.sorted] at h ⊢; and_intros <;> first | (simp [h]; done) | exact tabFold_rising (fun _ _ g => by first | (simp [g]; done) | (split <;> simp [g]; done) | exact tabFold_rising (fun _ _ k => by simp [k]) _ _ g) _ _ (by simp [h]) | (repeat' first | exact rfl | exact h | apply tabSet_rising)))
    | with_reducible refine Frame.foldl ?_ (fun _ _ _ => ?_)
    | with_reducible apply_assumption

theorem warmIf_frame (cause : Nat) (s : State) :
    Frame [.clk, .regs, .mwin, .arr, .tbl, .mem, .lnk, .pip, .upd, .epc, .tod, .cas, .hif, .prt, .err, .drc, .pwr, .fwu, .vbt] s (warmIf cause s) := by
  delta warmIf
  repeat' first
    | with_reducible apply Frame.refl
    | with_reducible assumption
    | apply Eq.refl
    | lift_lets -underBinder -merge -useContext
    | (intro x; refine Frame.cut (cs := [.clk, .regs, .mwin, .arr, .tbl, .mem, .lnk, .pip, .upd, .epc, .tod, .cas, .hif, .prt, .err, .drc, .pwr, .fwu, .vbt]) (s0 := s) (x := x) ?_ (fun hx => ?_); unfold x; rotate_left; clear_value x)
    | with_reducible apply Frame.app (warmReset_frame _ _)
    | with_reducible apply Frame.ite

theorem execWarmReset_frame (cause : Nat) (s : State) :
    ∀ out, execWarmReset cause s = .next out → Frame [.clk, .regs, .mwin, .arr, .tbl, .mem, .lnk, .pip, .upd, .epc, .tod, .cas, .hif, .prt, .err, .drc, .pwr, .fwu, .vbt] s out := by
  delta execWarmReset
  intro out h
  injection h with h
  subst h
  repeat' first
    | with_reducible apply Frame.refl
    | with_reducible assumption
    | apply Eq.refl
    | lift_lets -underBinder -merge -useContext
    | (intro x; refine Frame.cut (cs := [.clk, .regs, .mwin, .arr, .tbl, .mem, .lnk, .pip, .upd, .epc, .tod, .cas, .hif, .prt, .err, .drc, .pwr, .fwu, .vbt]) (s0 := s) (x := x) ?_ (fun hx => ?_); unfold x; rotate_left; clear_value x)
    | with_reducible apply Frame.app (warmIf_frame _ _)
    | with_reducible apply Frame.ite

theorem resetBase_frame (s : State) : Frame [.clk, .regs, .mwin, .arr, .tbl, .mem, .lnk, .pip, .upd, .epc, .tod, .cas, .hif, .prt, .err, .drc, .rst, .pwr, .fwu, .vbt] s
    (resetBase s) :=
  ⟨fun c hc => by cases c <;> first | exact absurd (by decide) hc | exact rfl, fun _ => ⟨rfl, rfl, rfl, rfl, rfl, (by decide : State.reset.clk.slot < 64),
    (by decide : State.reset.tod.value < 2 ^ 48 * secUnits), by repeat' constructor, by repeat' constructor, by repeat' constructor, by repeat' constructor,
    by repeat' constructor, by repeat' constructor, by repeat' constructor, by repeat' constructor, by repeat' constructor, by repeat' constructor,
    by repeat' constructor, by repeat' constructor, by repeat' constructor, by repeat' constructor, by repeat' constructor⟩⟩

theorem coldReset_frame (cause : Nat) (s : State) :
    Frame [.clk, .regs, .mwin, .arr, .tbl, .mem, .lnk, .pip, .upd, .epc, .tod, .cas, .hif, .prt, .err, .drc, .rst, .pwr, .fwu, .vbt] s (coldReset cause s) := by
  have hc : tabRising (if startPhase s = 8 then (List.range 8).foldl (fun t d => tabSet 0 t d (domAt d s).cnt) [] else s.arr.goldCnt) = true ∨
      ¬ Inv s := by
    by_cases h : tabRising s.arr.goldCnt = true
    · left
      split
      · exact tabFold_rising (fun _ _ g => tabSet_rising _ _ _ _ g) _ _ rfl
      · exact h
    · right
      intro i
      have := i.arrTabs
      simp only [ArrSt.sorted] at this
      exact h this.2.2.2.2.2.1
  delta coldReset
  extract_lets z0 z1 cnts z2 z3 z4 z5 z6 z7 z8 z9 z10 z11 z12 z13
  refine Frame.app (regPut_frame _ _ _) (by decide) (Frame.app (flagPut_frame _ _ _ _) (by decide)
    (Frame.app (regPut_frame _ _ _) (by decide) ⟨fun c hc => by cases c <;> first | exact absurd (by decide) hc | exact rfl, fun i => ?_⟩))
  have hc : tabRising cnts = true := hc.resolve_right fun h => h i
  clear_value cnts
  have ha := i.arrTabs
  have hm := i.memTabs
  have hf := i.fwuTabs
  have hv := i.vbtTabs
  simp only [ArrSt.sorted, MemSt.sorted, FwuSt.sorted, VbtSt.sorted] at ha hm hf hv
  exact ⟨rfl, rfl, i.dram, rfl, rfl, (by decide : State.reset.clk.slot < 64), (by decide : State.reset.tod.value < 2 ^ 48 * secUnits),
    ⟨rfl, rfl, rfl⟩, ⟨rfl, rfl⟩, ⟨rfl, rfl, rfl, rfl, ha.2.2.2.2.1, hc, rfl, rfl, rfl, ha.2.2.2.2.2.2.2.2.2⟩, ⟨rfl, rfl, rfl, rfl⟩,
    ⟨rfl, rfl, hm.2.2.1, hm.2.2.2.1, hm.2.2.2.2.1, rfl⟩, ⟨rfl, rfl⟩, ⟨rfl, rfl, rfl, rfl, rfl, rfl, rfl⟩, ⟨rfl, rfl⟩, rfl, ⟨rfl, rfl⟩,
    ⟨rfl, rfl, rfl⟩, ⟨rfl, rfl, rfl, rfl, rfl⟩, rfl, hf, hv⟩

theorem execColdReset_frame (cause : Nat) (s : State) :
    ∀ out, execColdReset cause s = .next out → Frame [.clk, .regs, .mwin, .arr, .tbl, .mem, .lnk, .pip, .upd, .epc, .tod, .cas, .hif, .prt, .err, .drc, .rst, .pwr, .fwu, .vbt] s out := by
  delta execColdReset
  intro out h
  injection h with h
  subst h
  repeat' first
    | with_reducible apply Frame.refl
    | with_reducible assumption
    | apply Eq.refl
    | lift_lets -underBinder -merge -useContext
    | (intro x; refine Frame.cut (cs := [.clk, .regs, .mwin, .arr, .tbl, .mem, .lnk, .pip, .upd, .epc, .tod, .cas, .hif, .prt, .err, .drc, .rst, .pwr, .fwu, .vbt]) (s0 := s) (x := x) ?_ (fun hx => ?_); unfold x; rotate_left; clear_value x)
    | with_reducible apply Frame.app (coldReset_frame _ _)
    | with_reducible apply Frame.ite

theorem execVddAuxRise_frame (s : State) :
    ∀ out, execVddAuxRise s = .next out → Frame [.clk, .regs, .mwin, .arr, .tbl, .mem, .lnk, .pip, .upd, .epc, .tod, .cas, .hif, .prt, .err, .drc, .rst, .pwr, .fwu, .vbt] s out := by
  delta execVddAuxRise
  intro out h
  injection h with h
  subst h
  repeat' first
    | with_reducible apply Frame.refl
    | with_reducible assumption
    | apply Eq.refl
    | lift_lets -underBinder -merge -useContext
    | (intro x; refine Frame.cut (cs := [.clk, .regs, .mwin, .arr, .tbl, .mem, .lnk, .pip, .upd, .epc, .tod, .cas, .hif, .prt, .err, .drc, .rst, .pwr, .fwu, .vbt]) (s0 := s) (x := x) ?_ (fun hx => ?_); unfold x; rotate_left; clear_value x)
    | with_reducible apply Frame.app (coldReset_frame _ _)
    | with_reducible apply Frame.updRst

theorem execSupplyFall_frame (vddq : Bool) (s : State) :
    ∀ out, execSupplyFall vddq s = .next out → Frame [.clk, .regs, .mwin, .arr, .tbl, .mem, .lnk, .pip, .upd, .epc, .tod, .cas, .hif, .prt, .err, .drc, .rst, .pwr, .fwu, .vbt] s out := by
  delta execSupplyFall
  intro out h
  injection h with h
  subst h
  repeat' first
    | with_reducible apply Frame.refl
    | with_reducible assumption
    | apply Eq.refl
    | lift_lets -underBinder -merge -useContext
    | (intro x; refine Frame.cut (cs := [.clk, .regs, .mwin, .arr, .tbl, .mem, .lnk, .pip, .upd, .epc, .tod, .cas, .hif, .prt, .err, .drc, .rst, .pwr, .fwu, .vbt]) (s0 := s) (x := x) ?_ (fun hx => ?_); unfold x; rotate_left; clear_value x)
    | (intro x; clear_value x)
    | intro x
    | with_reducible apply Frame.app (flagPut_frame _ _ _ _)
    | with_reducible apply Frame.app (coldReset_frame _ _)
    | with_reducible apply Frame.updRst
    | with_reducible apply Frame.ite

theorem execThermalTrip_frame (s : State) :
    ∀ out, execThermalTrip s = .next out → Frame [.clk, .regs, .mwin, .arr, .tbl, .mem, .lnk, .pip, .upd, .epc, .tod, .cas, .hif, .prt, .err, .drc, .rst, .pwr, .fwu, .vbt] s out := by
  delta execThermalTrip
  intro out h
  injection h with h
  subst h
  repeat' first
    | with_reducible apply Frame.refl
    | with_reducible assumption
    | apply Eq.refl
    | lift_lets -underBinder -merge -useContext
    | (intro x; refine Frame.cut (cs := [.clk, .regs, .mwin, .arr, .tbl, .mem, .lnk, .pip, .upd, .epc, .tod, .cas, .hif, .prt, .err, .drc, .rst, .pwr, .fwu, .vbt]) (s0 := s) (x := x) ?_ (fun hx => ?_); unfold x; rotate_left; clear_value x)
    | with_reducible apply Frame.app (allRails_frame _ _ _)
    | with_reducible apply Frame.app (coldReset_frame _ _)
    | with_reducible apply Frame.updRst

theorem pcieReset_frame (s : State) :
    Frame [.regs, .arr, .tbl, .mem, .pip, .upd, .epc, .cas, .hif, .prt, .err, .drc, .fwu] s (pcieReset s) := by
  delta pcieReset
  repeat' first
    | with_reducible apply Frame.refl
    | with_reducible assumption
    | apply Eq.refl
    | lift_lets -underBinder -merge -useContext
    | (intro x; refine Frame.cut (cs := [.regs, .arr, .tbl, .mem, .pip, .upd, .epc, .cas, .hif, .prt, .err, .drc, .fwu]) (s0 := s) (x := x) ?_ (fun hx => ?_); unfold x; rotate_left; clear_value x)
    | (intro x; clear_value x)
    | intro x
    | with_reducible apply Frame.app (endSession_frame _)
    | with_reducible apply Frame.app (dropAsked_frame _ _)
    | with_reducible apply Frame.app (stopCommands_frame _)
    | with_reducible apply Frame.app (reportsOff_frame _)
    | with_reducible apply Frame.app (dropProposal_frame _ _)
    | with_reducible apply Frame.app (settleRemaps_frame _)
    | with_reducible apply Frame.app (dropCommit_frame _)
    | (with_reducible refine Frame.updHif (by decide) ?_ ?_; (intro _ h; exact h))
    | (with_reducible refine Frame.updHif (by decide) ?_ ?_; (intro _ h; simp only [HifSt.sorted] at h ⊢; simp [h]; done))
    | (with_reducible refine Frame.updHif (by decide) ?_ ?_; (intro _ h; simp only [HifSt.sorted] at h ⊢; and_intros <;> (try dsimp only) <;> (repeat' split) <;> first | (simp [h]; done) | exact tabFold_rising (fun _ _ g => by first | (simp [g]; done) | (split <;> simp [g]; done)) _ _ (by simp [h])))
    | (with_reducible refine Frame.updHif (by decide) ?_ ?_; (intro _ h; simp only [HifSt.sorted] at h ⊢; and_intros <;> first | (simp [h]; done) | exact tabFold_rising (fun _ _ g => by first | (simp [g]; done) | (split <;> simp [g]; done) | exact tabFold_rising (fun _ _ k => by simp [k]) _ _ g) _ _ (by simp [h]) | (repeat' first | exact rfl | exact h | apply tabSet_rising)))
    | with_reducible apply Frame.ite
    | split

theorem execPcieReset_frame (s : State) :
    ∀ out, execPcieReset s = .next out → Frame [.regs, .arr, .tbl, .mem, .pip, .upd, .epc, .cas, .hif, .prt, .err, .drc, .fwu] s out := by
  delta execPcieReset
  intro out h
  injection h with h
  subst h
  repeat' first
    | with_reducible apply Frame.refl
    | with_reducible assumption
    | apply Eq.refl
    | lift_lets -underBinder -merge -useContext
    | (intro x; refine Frame.cut (cs := [.regs, .arr, .tbl, .mem, .pip, .upd, .epc, .cas, .hif, .prt, .err, .drc, .fwu]) (s0 := s) (x := x) ?_ (fun hx => ?_); unfold x; rotate_left; clear_value x)
    | with_reducible apply Frame.app (pcieReset_frame _)
    | with_reducible apply Frame.ite

theorem setDead_frame (x : Nat) (b : Bool) (s : State) :
    Frame [.regs] s (setDead x b s) := by
  delta setDead
  repeat' first
    | with_reducible apply Frame.refl
    | with_reducible assumption
    | apply Eq.refl
    | lift_lets -underBinder -merge -useContext
    | (intro x; refine Frame.cut (cs := [.regs]) (s0 := s) (x := x) ?_ (fun hx => ?_); unfold x; rotate_left; clear_value x)
    | with_reducible apply Frame.app (flagPut_frame _ _ _ _)

theorem execCrossingReset_frame (x : Fin 59) (s : State) :
    ∀ out, execCrossingReset x s = .next out → Frame [.regs, .tod, .err] s out := by
  delta execCrossingReset
  intro out h
  injection h with h
  subst h
  repeat' first
    | with_reducible apply Frame.refl
    | with_reducible assumption
    | apply Eq.refl
    | lift_lets -underBinder -merge -useContext
    | (intro x; refine Frame.cut (cs := [.regs, .tod, .err]) (s0 := s) (x := x) ?_ (fun hx => ?_); unfold x; rotate_left; clear_value x)
    | (intro x; clear_value x)
    | intro x
    | with_reducible apply Frame.app (updPulse_frame _ _ _)
    | with_reducible apply Frame.app (capturePulse_frame _ _)
    | with_reducible apply Frame.app (dropPulse_frame _ _)
    | with_reducible apply Frame.app (setDead_frame _ _ _)
    | with_reducible apply Frame.ite

theorem resetGroup_frame (g : Fin 4) (s : State) :
    Frame [.regs, .lnk, .err] s (resetGroup g s) := by
  delta resetGroup
  repeat' first
    | with_reducible apply Frame.refl
    | with_reducible assumption
    | apply Eq.refl
    | lift_lets -underBinder -merge -useContext
    | (intro x; refine Frame.cut (cs := [.regs, .lnk, .err]) (s0 := s) (x := x) ?_ (fun hx => ?_); unfold x; rotate_left; clear_value x)
    | with_reducible apply Frame.app (enterDown_frame _ _ _)
    | with_reducible apply Frame.app (after_frame _ _)
    | with_reducible apply after_frame
    | with_reducible apply FrameN.app (execFifoPtrReset_frame _ _)

theorem rebuildTime_frame (s : State) :
    Frame [.clk, .regs, .tod] s (rebuildTime s) := by
  delta rebuildTime
  repeat' first
    | with_reducible apply Frame.refl
    | with_reducible assumption
    | apply Eq.refl
    | lift_lets -underBinder -merge -useContext
    | (intro x; refine Frame.cut (cs := [.clk, .regs, .tod]) (s0 := s) (x := x) ?_ (fun hx => ?_); unfold x; rotate_left; clear_value x)
    | (intro x; clear_value x)
    | intro x
    | with_reducible apply Frame.app (flagPut_frame _ _ _ _)
    | with_reducible apply Frame.app (nextFree_frame _)
    | with_reducible apply Frame.app (putTod_frame _ _)

theorem resetIsland_frame (isl : Nat) (s : State) :
    Frame [.clk, .regs, .mwin, .arr, .tbl, .mem, .lnk, .pip, .upd, .epc, .tod, .cas, .hif, .prt, .err, .drc, .rst, .pwr, .fwu, .vbt] s (resetIsland isl s) := by
  delta resetIsland
  repeat' first
    | with_reducible apply Frame.refl
    | with_reducible assumption
    | apply Eq.refl
    | lift_lets -underBinder -merge -useContext
    | (intro x; refine Frame.cut (cs := [.clk, .regs, .mwin, .arr, .tbl, .mem, .lnk, .pip, .upd, .epc, .tod, .cas, .hif, .prt, .err, .drc, .rst, .pwr, .fwu, .vbt]) (s0 := s) (x := x) ?_ (fun hx => ?_); unfold x; rotate_left; clear_value x)
    | (intro x; clear_value x)
    | intro x
    | with_reducible apply Frame.app (regPut_frame _ _ _)
    | with_reducible apply Frame.app (enterDown_frame _ _ _)
    | with_reducible apply Frame.app (fillScratch_frame _ _)
    | with_reducible apply Frame.app (dropAsked_frame _ _)
    | with_reducible apply Frame.app (warmIf_frame _ _)
    | with_reducible apply Frame.app (setDead_frame _ _ _)
    | with_reducible apply Frame.app (resetGroup_frame _ _)
    | with_reducible apply Frame.app (rebuildTime_frame _)
    | (with_reducible refine Frame.updArr (by decide) ?_ ?_; (intro _ h; exact h))
    | (with_reducible refine Frame.updArr (by decide) ?_ ?_; (intro _ h; simp only [ArrSt.sorted] at h ⊢; simp [h]; done))
    | (with_reducible refine Frame.updArr (by decide) ?_ ?_; (intro _ h; simp only [ArrSt.sorted] at h ⊢; and_intros <;> (try dsimp only) <;> (repeat' split) <;> first | (simp [h]; done) | exact tabFold_rising (fun _ _ g => by first | (simp [g]; done) | (split <;> simp [g]; done)) _ _ (by simp [h])))
    | (with_reducible refine Frame.updArr (by decide) ?_ ?_; (intro _ h; simp only [ArrSt.sorted] at h ⊢; and_intros <;> first | (simp [h]; done) | exact tabFold_rising (fun _ _ g => by first | (simp [g]; done) | (split <;> simp [g]; done) | exact tabFold_rising (fun _ _ k => by simp [k]) _ _ g) _ _ (by simp [h]) | (repeat' first | exact rfl | exact h | apply tabSet_rising)))
    | with_reducible apply Frame.updRst
    | with_reducible refine Frame.foldl ?_ (fun _ _ _ => ?_)
    | with_reducible apply Frame.ite
    | with_reducible apply_assumption

theorem islandReset_frame (isl : Nat) (s : State) :
    Frame [.clk, .regs, .mwin, .arr, .tbl, .mem, .lnk, .pip, .upd, .epc, .tod, .cas, .hif, .prt, .err, .drc, .rst, .pwr, .fwu, .vbt] s (islandReset isl s) := by
  delta islandReset
  repeat' first
    | with_reducible apply Frame.refl
    | with_reducible assumption
    | apply Eq.refl
    | lift_lets -underBinder -merge -useContext
    | (intro x; refine Frame.cut (cs := [.clk, .regs, .mwin, .arr, .tbl, .mem, .lnk, .pip, .upd, .epc, .tod, .cas, .hif, .prt, .err, .drc, .rst, .pwr, .fwu, .vbt]) (s0 := s) (x := x) ?_ (fun hx => ?_); unfold x; rotate_left; clear_value x)
    | with_reducible apply Frame.app (resetIsland_frame _ _)
    | with_reducible apply Frame.ite

theorem wrRstCtl_frame (src : Party) (v : Word) (s : State) :
    Frame [.clk, .regs, .mwin, .arr, .tbl, .mem, .lnk, .pip, .upd, .epc, .tod, .cas, .hif, .prt, .err, .drc, .rst, .pwr, .fwu, .vbt] s (wrRstCtl src v s) := by
  delta wrRstCtl
  repeat' first
    | with_reducible apply Frame.refl
    | with_reducible assumption
    | apply Eq.refl
    | lift_lets -underBinder -merge -useContext
    | (intro x; refine Frame.cut (cs := [.clk, .regs, .mwin, .arr, .tbl, .mem, .lnk, .pip, .upd, .epc, .tod, .cas, .hif, .prt, .err, .drc, .rst, .pwr, .fwu, .vbt]) (s0 := s) (x := x) ?_ (fun hx => ?_); unfold x; rotate_left; clear_value x)
    | (intro x; clear_value x)
    | intro x
    | with_reducible apply Frame.app (fieldPut_frame _ _ _ _ _)
    | with_reducible apply Frame.app (refuseReg_frame _ _ _ _ _)
    | with_reducible apply Frame.app (warmIf_frame _ _)
    | with_reducible apply Frame.app (islandReset_frame _ _)
    | with_reducible apply Frame.ite

theorem execMpWatchdog_frame (s : State) :
    ∀ out, execMpWatchdog s = .next out → Frame [.clk, .regs, .mwin, .arr, .tbl, .mem, .lnk, .pip, .upd, .epc, .tod, .cas, .hif, .prt, .err, .drc, .rst, .pwr, .fwu, .vbt] s out := by
  delta execMpWatchdog
  intro out h
  injection h with h
  subst h
  repeat' first
    | with_reducible apply Frame.refl
    | with_reducible assumption
    | apply Eq.refl
    | lift_lets -underBinder -merge -useContext
    | (intro x; refine Frame.cut (cs := [.clk, .regs, .mwin, .arr, .tbl, .mem, .lnk, .pip, .upd, .epc, .tod, .cas, .hif, .prt, .err, .drc, .rst, .pwr, .fwu, .vbt]) (s0 := s) (x := x) ?_ (fun hx => ?_); unfold x; rotate_left; clear_value x)
    | with_reducible apply Frame.app (islandReset_frame _ _)
    | with_reducible apply Frame.ite

theorem execCdcTimeout_frame (x : Fin 59) (s : State) :
    ∀ out, execCdcTimeout x s = .next out → Frame [.clk, .regs, .mwin, .arr, .tbl, .mem, .lnk, .pip, .upd, .epc, .tod, .cas, .hif, .prt, .err, .drc, .rst, .pwr, .fwu, .vbt] s out := by
  delta execCdcTimeout
  intro out h
  injection h with h
  subst h
  repeat' first
    | with_reducible apply Frame.refl
    | with_reducible assumption
    | apply Eq.refl
    | lift_lets -underBinder -merge -useContext
    | (intro x; refine Frame.cut (cs := [.clk, .regs, .mwin, .arr, .tbl, .mem, .lnk, .pip, .upd, .epc, .tod, .cas, .hif, .prt, .err, .drc, .rst, .pwr, .fwu, .vbt]) (s0 := s) (x := x) ?_ (fun hx => ?_); unfold x; rotate_left; clear_value x)
    | (intro x; clear_value x)
    | intro x
    | with_reducible apply Frame.app (errRecord_frame _ _ _ _ _ _)
    | with_reducible apply Frame.app (raiseInt_frame _ _ _)
    | with_reducible apply Frame.app (intCount_frame _ _)
    | with_reducible apply Frame.app (dropPulse_frame _ _)
    | with_reducible apply Frame.app (warmIf_frame _ _)
    | with_reducible apply Frame.app (setDead_frame _ _ _)
    | with_reducible apply Frame.app (islandReset_frame _ _)
    | with_reducible refine Frame.foldl ?_ (fun _ _ _ => ?_)
    | with_reducible apply Frame.ite
    | with_reducible apply_assumption

theorem arrayLost_frame (s : State) :
    Frame [.clk, .regs, .mwin, .arr, .tbl, .mem, .lnk, .pip, .upd, .epc, .tod, .cas, .hif, .prt, .err, .drc, .rst, .pwr, .fwu, .vbt] s (arrayLost s) := by
  delta arrayLost
  repeat' first
    | with_reducible apply Frame.refl
    | with_reducible assumption
    | apply Eq.refl
    | lift_lets -underBinder -merge -useContext
    | (intro x; refine Frame.cut (cs := [.clk, .regs, .mwin, .arr, .tbl, .mem, .lnk, .pip, .upd, .epc, .tod, .cas, .hif, .prt, .err, .drc, .rst, .pwr, .fwu, .vbt]) (s0 := s) (x := x) ?_ (fun hx => ?_); unfold x; rotate_left; clear_value x)
    | (intro x; clear_value x)
    | intro x
    | with_reducible apply Frame.app (enterDown_frame _ _ _)
    | with_reducible apply Frame.app (islandReset_frame _ _)
    | (with_reducible refine Frame.updPip (by decide) ?_ ?_; (intro _ h; exact h))
    | (with_reducible refine Frame.updPip (by decide) ?_ ?_; (intro _ h; simp only [PipSt.sorted] at h ⊢; simp [h]; done))
    | (with_reducible refine Frame.updPip (by decide) ?_ ?_; (intro _ h; simp only [PipSt.sorted] at h ⊢; and_intros <;> (try dsimp only) <;> (repeat' split) <;> first | (simp [h]; done) | exact tabFold_rising (fun _ _ g => by first | (simp [g]; done) | (split <;> simp [g]; done)) _ _ (by simp [h])))
    | (with_reducible refine Frame.updPip (by decide) ?_ ?_; (intro _ h; simp only [PipSt.sorted] at h ⊢; and_intros <;> first | (simp [h]; done) | exact tabFold_rising (fun _ _ g => by first | (simp [g]; done) | (split <;> simp [g]; done) | exact tabFold_rising (fun _ _ k => by simp [k]) _ _ g) _ _ (by simp [h]) | (repeat' first | exact rfl | exact h | apply tabSet_rising)))
    | with_reducible refine Frame.foldl ?_ (fun _ _ _ => ?_)
    | with_reducible apply Frame.ite
    | with_reducible apply_assumption

theorem execPllUnlock_frame (pll : Pll) (s : State) :
    ∀ out, execPllUnlock pll s = .next out → Frame [.clk, .regs, .mwin, .arr, .tbl, .mem, .lnk, .pip, .upd, .epc, .tod, .cas, .hif, .prt, .err, .drc, .rst, .pwr, .fwu, .vbt] s out := by
  delta execPllUnlock
  intro out h
  injection h with h
  subst h
  repeat' first
    | with_reducible apply Frame.refl
    | with_reducible assumption
    | apply Eq.refl
    | lift_lets -underBinder -merge -useContext
    | (intro x; refine Frame.cut (cs := [.clk, .regs, .mwin, .arr, .tbl, .mem, .lnk, .pip, .upd, .epc, .tod, .cas, .hif, .prt, .err, .drc, .rst, .pwr, .fwu, .vbt]) (s0 := s) (x := x) ?_ (fun hx => ?_); unfold x; rotate_left; clear_value x)
    | (intro x; clear_value x)
    | intro x
    | with_reducible apply Frame.app (flagPut_frame _ _ _ _)
    | with_reducible apply Frame.app (raiseInt_frame _ _ _)
    | with_reducible apply Frame.app (enterDown_frame _ _ _)
    | with_reducible apply Frame.app (warmIf_frame _ _)
    | with_reducible apply Frame.app (coldReset_frame _ _)
    | with_reducible apply Frame.app (pcieReset_frame _)
    | with_reducible apply Frame.app (arrayLost_frame _)
    | with_reducible apply Frame.ite
    | split

theorem execPllRelock_frame (pll : Pll) (s : State) :
    ∀ out, execPllRelock pll s = .next out → Frame [.regs] s out := by
  delta execPllRelock
  intro out h
  injection h with h
  subst h
  repeat' first
    | with_reducible apply Frame.refl
    | with_reducible assumption
    | apply Eq.refl
    | lift_lets -underBinder -merge -useContext
    | (intro x; refine Frame.cut (cs := [.regs]) (s0 := s) (x := x) ?_ (fun hx => ?_); unfold x; rotate_left; clear_value x)
    | (intro x; clear_value x)
    | intro x
    | with_reducible apply Frame.app (flagPut_frame _ _ _ _)
    | with_reducible apply Frame.ite
    | split

theorem execResetNRelease_frame (role : BitVec 2) (devId : BitVec 4) (bootSel : BitVec 2) (s : State) :
    ∀ out, execResetNRelease role devId bootSel s = .next out → Frame [.regs, .rst] s out := by
  delta execResetNRelease
  intro out h
  injection h with h
  subst h
  repeat' first
    | with_reducible apply Frame.refl
    | with_reducible assumption
    | apply Eq.refl
    | lift_lets -underBinder -merge -useContext
    | (intro x; refine Frame.cut (cs := [.regs, .rst]) (s0 := s) (x := x) ?_ (fun hx => ?_); unfold x; rotate_left; clear_value x)
    | (intro x; clear_value x)
    | intro x
    | with_reducible apply Frame.app (regPut_frame _ _ _)
    | with_reducible apply Frame.updRst
    | with_reducible apply Frame.ite

theorem setStartPhase_frame (p : Nat) (s : State) :
    Frame [.regs] s (setStartPhase p s) := by
  delta setStartPhase
  repeat' first
    | with_reducible apply Frame.refl
    | with_reducible assumption
    | apply Eq.refl
    | lift_lets -underBinder -merge -useContext
    | (intro x; refine Frame.cut (cs := [.regs]) (s0 := s) (x := x) ?_ (fun hx => ?_); unfold x; rotate_left; clear_value x)
    | with_reducible apply Frame.app (fieldPut_frame _ _ _ _ _)

theorem startFail_frame (code : Nat) (s : State) :
    Frame [.regs] s (startFail code s) := by
  delta startFail
  repeat' first
    | with_reducible apply Frame.refl
    | with_reducible assumption
    | apply Eq.refl
    | lift_lets -underBinder -merge -useContext
    | (intro x; refine Frame.cut (cs := [.regs]) (s0 := s) (x := x) ?_ (fun hx => ?_); unfold x; rotate_left; clear_value x)
    | with_reducible apply Frame.app (fieldPut_frame _ _ _ _ _)

theorem phaseFuses_frame (s : State) :
    Frame [.regs, .drc] s (phaseFuses s) := by
  delta phaseFuses
  repeat' first
    | with_reducible apply Frame.refl
    | with_reducible assumption
    | apply Eq.refl
    | lift_lets -underBinder -merge -useContext
    | (intro x; refine Frame.cut (cs := [.regs, .drc]) (s0 := s) (x := x) ?_ (fun hx => ?_); unfold x; rotate_left; clear_value x)
    | (intro x; clear_value x)
    | intro x
    | with_reducible apply Frame.app (fieldPut_frame _ _ _ _ _)
    | with_reducible apply Frame.app (ownAll_frame _ _)
    | with_reducible apply Frame.app (setStartPhase_frame _ _)
    | with_reducible refine Frame.foldl ?_ (fun _ _ _ => ?_)
    | with_reducible apply Frame.ite
    | with_reducible apply_assumption

theorem phasePlls_frame (e : StartEnv) (s : State) :
    Frame [.regs] s (phasePlls e s) := by
  delta phasePlls
  repeat' first
    | with_reducible apply Frame.refl
    | with_reducible assumption
    | apply Eq.refl
    | lift_lets -underBinder -merge -useContext
    | (intro x; refine Frame.cut (cs := [.regs]) (s0 := s) (x := x) ?_ (fun hx => ?_); unfold x; rotate_left; clear_value x)
    | (intro x; clear_value x)
    | intro x
    | with_reducible apply Frame.app (flagPut_frame _ _ _ _)
    | with_reducible apply Frame.app (setStartPhase_frame _ _)
    | with_reducible apply Frame.app (startFail_frame _ _)
    | with_reducible refine Frame.foldl ?_ (fun _ _ _ => ?_)
    | with_reducible apply Frame.ite
    | with_reducible apply_assumption

theorem phaseBist_frame (e : StartEnv) (s : State) :
    Frame [.regs, .mem] s (phaseBist e s) := by
  delta phaseBist
  repeat' first
    | with_reducible apply Frame.refl
    | with_reducible assumption
    | apply Eq.refl
    | lift_lets -underBinder -merge -useContext
    | (intro x; refine Frame.cut (cs := [.regs, .mem]) (s0 := s) (x := x) ?_ (fun hx => ?_); unfold x; rotate_left; clear_value x)
    | (intro x; clear_value x)
    | intro x
    | with_reducible apply Frame.app (flagPut_frame _ _ _ _)
    | with_reducible apply Frame.app (setStartPhase_frame _ _)
    | with_reducible apply Frame.app (startFail_frame _ _)
    | (with_reducible refine Frame.updMem (by decide) (fun _ h => h) (fun _ h => h) (fun _ h => h) ?_ ?_; (intro _ h; exact h))
    | (with_reducible refine Frame.updMem (by decide) (fun _ h => h) (fun _ h => h) (fun _ h => h) ?_ ?_; (intro _ h; simp only [MemSt.sorted] at h ⊢; simp [h]; done))
    | (with_reducible refine Frame.updMem (by decide) (fun _ h => h) (fun _ h => h) (fun _ h => h) ?_ ?_; (intro _ h; simp only [MemSt.sorted] at h ⊢; and_intros <;> (try dsimp only) <;> (repeat' split) <;> first | (simp [h]; done) | exact tabFold_rising (fun _ _ g => by first | (simp [g]; done) | (split <;> simp [g]; done)) _ _ (by simp [h])))
    | (with_reducible refine Frame.updMem (by decide) (fun _ h => h) (fun _ h => h) (fun _ h => h) ?_ ?_; (intro _ h; simp only [MemSt.sorted] at h ⊢; and_intros <;> first | (simp [h]; done) | exact tabFold_rising (fun _ _ g => by first | (simp [g]; done) | (split <;> simp [g]; done) | exact tabFold_rising (fun _ _ k => by simp [k]) _ _ g) _ _ (by simp [h]) | (repeat' first | exact rfl | exact h | apply tabSet_rising)))
    | (with_reducible refine Frame.updMem (by decide) (fun _ h => by first | exact h | exact memNil_wf | exact memSetWord_wf _ _ _ h | exact memFilter_wf _ _ h) (fun _ h => by first | exact h | exact memNil_wf | exact memSetWord_wf _ _ _ h | exact memFilter_wf _ _ h) (fun _ h => by first | exact h | exact memNil_wf | exact memSetByte_wf _ _ _ h | exact memFilter_wf _ _ h) ?_ ?_; (intro _ h; exact h))
    | (with_reducible refine Frame.updMem (by decide) (fun _ h => by first | exact h | exact memNil_wf | exact memSetWord_wf _ _ _ h | exact memFilter_wf _ _ h) (fun _ h => by first | exact h | exact memNil_wf | exact memSetWord_wf _ _ _ h | exact memFilter_wf _ _ h) (fun _ h => by first | exact h | exact memNil_wf | exact memSetByte_wf _ _ _ h | exact memFilter_wf _ _ h) ?_ ?_; (intro _ h; simp only [MemSt.sorted] at h ⊢; simp [h]; done))
    | (with_reducible refine Frame.updMem (by decide) (fun _ h => by first | exact h | exact memNil_wf | exact memSetWord_wf _ _ _ h | exact memFilter_wf _ _ h) (fun _ h => by first | exact h | exact memNil_wf | exact memSetWord_wf _ _ _ h | exact memFilter_wf _ _ h) (fun _ h => by first | exact h | exact memNil_wf | exact memSetByte_wf _ _ _ h | exact memFilter_wf _ _ h) ?_ ?_; (intro _ h; simp only [MemSt.sorted] at h ⊢; and_intros <;> (try dsimp only) <;> (repeat' split) <;> first | (simp [h]; done) | exact tabFold_rising (fun _ _ g => by first | (simp [g]; done) | (split <;> simp [g]; done)) _ _ (by simp [h])))
    | (with_reducible refine Frame.updMem (by decide) (fun _ h => by first | exact h | exact memNil_wf | exact memSetWord_wf _ _ _ h | exact memFilter_wf _ _ h) (fun _ h => by first | exact h | exact memNil_wf | exact memSetWord_wf _ _ _ h | exact memFilter_wf _ _ h) (fun _ h => by first | exact h | exact memNil_wf | exact memSetByte_wf _ _ _ h | exact memFilter_wf _ _ h) ?_ ?_; (intro _ h; simp only [MemSt.sorted] at h ⊢; and_intros <;> first | (simp [h]; done) | exact tabFold_rising (fun _ _ g => by first | (simp [g]; done) | (split <;> simp [g]; done) | exact tabFold_rising (fun _ _ k => by simp [k]) _ _ g) _ _ (by simp [h]) | (repeat' first | exact rfl | exact h | apply tabSet_rising)))
    | with_reducible refine Frame.foldl ?_ (fun _ _ _ => ?_)
    | with_reducible apply Frame.ite
    | with_reducible apply_assumption

theorem emptyDram_frame (s : State) :
    Frame [.arr, .tbl, .mem, .fwu] s (emptyDram s) := by
  delta emptyDram
  repeat' first
    | with_reducible apply Frame.refl
    | with_reducible assumption
    | apply Eq.refl
    | lift_lets -underBinder -merge -useContext
    | (intro x; refine Frame.cut (cs := [.arr, .tbl, .mem, .fwu]) (s0 := s) (x := x) ?_ (fun hx => ?_); unfold x; rotate_left; clear_value x)
    | (intro x; clear_value x)
    | intro x
    | (with_reducible refine Frame.updArr (by decide) ?_ ?_; (intro _ h; exact h))
    | (with_reducible refine Frame.updArr (by decide) ?_ ?_; (intro _ h; simp only [ArrSt.sorted] at h ⊢; simp [h]; done))
    | (with_reducible refine Frame.updArr (by decide) ?_ ?_; (intro _ h; simp only [ArrSt.sorted] at h ⊢; and_intros <;> (try dsimp only) <;> (repeat' split) <;> first | (simp [h]; done) | exact tabFold_rising (fun _ _ g => by first | (simp [g]; done) | (split <;> simp [g]; done)) _ _ (by simp [h])))
    | (with_reducible refine Frame.updArr (by decide) ?_ ?_; (intro _ h; simp only [ArrSt.sorted] at h ⊢; and_intros <;> first | (simp [h]; done) | exact tabFold_rising (fun _ _ g => by first | (simp [g]; done) | (split <;> simp [g]; done) | exact tabFold_rising (fun _ _ k => by simp [k]) _ _ g) _ _ (by simp [h]) | (repeat' first | exact rfl | exact h | apply tabSet_rising)))
    | (with_reducible refine Frame.updFwu (by decide) ?_ ?_; (intro _ h; exact h))
    | (with_reducible refine Frame.updFwu (by decide) ?_ ?_; (intro _ h; simp only [FwuSt.sorted] at h ⊢; simp [h]; done))
    | (with_reducible refine Frame.updFwu (by decide) ?_ ?_; (intro _ h; simp only [FwuSt.sorted] at h ⊢; and_intros <;> (try dsimp only) <;> (repeat' split) <;> first | (simp [h]; done) | exact tabFold_rising (fun _ _ g => by first | (simp [g]; done) | (split <;> simp [g]; done)) _ _ (by simp [h])))
    | (with_reducible refine Frame.updFwu (by decide) ?_ ?_; (intro _ h; simp only [FwuSt.sorted] at h ⊢; and_intros <;> first | (simp [h]; done) | exact tabFold_rising (fun _ _ g => by first | (simp [g]; done) | (split <;> simp [g]; done) | exact tabFold_rising (fun _ _ k => by simp [k]) _ _ g) _ _ (by simp [h]) | (repeat' first | exact rfl | exact h | apply tabSet_rising)))
    | (with_reducible refine Frame.updMem (by decide) (fun _ h => h) (fun _ h => h) (fun _ h => h) ?_ ?_; (intro _ h; exact h))
    | (with_reducible refine Frame.updMem (by decide) (fun _ h => h) (fun _ h => h) (fun _ h => h) ?_ ?_; (intro _ h; simp only [MemSt.sorted] at h ⊢; simp [h]; done))
    | (with_reducible refine Frame.updMem (by decide) (fun _ h => h) (fun _ h => h) (fun _ h => h) ?_ ?_; (intro _ h; simp only [MemSt.sorted] at h ⊢; and_intros <;> (try dsimp only) <;> (repeat' split) <;> first | (simp [h]; done) | exact tabFold_rising (fun _ _ g => by first | (simp [g]; done) | (split <;> simp [g]; done)) _ _ (by simp [h])))
    | (with_reducible refine Frame.updMem (by decide) (fun _ h => h) (fun _ h => h) (fun _ h => h) ?_ ?_; (intro _ h; simp only [MemSt.sorted] at h ⊢; and_intros <;> first | (simp [h]; done) | exact tabFold_rising (fun _ _ g => by first | (simp [g]; done) | (split <;> simp [g]; done) | exact tabFold_rising (fun _ _ k => by simp [k]) _ _ g) _ _ (by simp [h]) | (repeat' first | exact rfl | exact h | apply tabSet_rising)))
    | (with_reducible refine Frame.updMem (by decide) (fun _ h => by first | exact h | exact memNil_wf | exact memSetWord_wf _ _ _ h | exact memFilter_wf _ _ h) (fun _ h => by first | exact h | exact memNil_wf | exact memSetWord_wf _ _ _ h | exact memFilter_wf _ _ h) (fun _ h => by first | exact h | exact memNil_wf | exact memSetByte_wf _ _ _ h | exact memFilter_wf _ _ h) ?_ ?_; (intro _ h; exact h))
    | (with_reducible refine Frame.updMem (by decide) (fun _ h => by first | exact h | exact memNil_wf | exact memSetWord_wf _ _ _ h | exact memFilter_wf _ _ h) (fun _ h => by first | exact h | exact memNil_wf | exact memSetWord_wf _ _ _ h | exact memFilter_wf _ _ h) (fun _ h => by first | exact h | exact memNil_wf | exact memSetByte_wf _ _ _ h | exact memFilter_wf _ _ h) ?_ ?_; (intro _ h; simp only [MemSt.sorted] at h ⊢; simp [h]; done))
    | (with_reducible refine Frame.updMem (by decide) (fun _ h => by first | exact h | exact memNil_wf | exact memSetWord_wf _ _ _ h | exact memFilter_wf _ _ h) (fun _ h => by first | exact h | exact memNil_wf | exact memSetWord_wf _ _ _ h | exact memFilter_wf _ _ h) (fun _ h => by first | exact h | exact memNil_wf | exact memSetByte_wf _ _ _ h | exact memFilter_wf _ _ h) ?_ ?_; (intro _ h; simp only [MemSt.sorted] at h ⊢; and_intros <;> (try dsimp only) <;> (repeat' split) <;> first | (simp [h]; done) | exact tabFold_rising (fun _ _ g => by first | (simp [g]; done) | (split <;> simp [g]; done)) _ _ (by simp [h])))
    | (with_reducible refine Frame.updMem (by decide) (fun _ h => by first | exact h | exact memNil_wf | exact memSetWord_wf _ _ _ h | exact memFilter_wf _ _ h) (fun _ h => by first | exact h | exact memNil_wf | exact memSetWord_wf _ _ _ h | exact memFilter_wf _ _ h) (fun _ h => by first | exact h | exact memNil_wf | exact memSetByte_wf _ _ _ h | exact memFilter_wf _ _ h) ?_ ?_; (intro _ h; simp only [MemSt.sorted] at h ⊢; and_intros <;> first | (simp [h]; done) | exact tabFold_rising (fun _ _ g => by first | (simp [g]; done) | (split <;> simp [g]; done) | exact tabFold_rising (fun _ _ k => by simp [k]) _ _ g) _ _ (by simp [h]) | (repeat' first | exact rfl | exact h | apply tabSet_rising)))
    | (with_reducible refine Frame.updTbl (by decide) ?_ ?_; (intro _ h; exact h))
    | (with_reducible refine Frame.updTbl (by decide) ?_ ?_; (intro _ h; simp only [TblSt.sorted] at h ⊢; simp [h]; done))
    | (with_reducible refine Frame.updTbl (by decide) ?_ ?_; (intro _ h; simp only [TblSt.sorted] at h ⊢; and_intros <;> (try dsimp only) <;> (repeat' split) <;> first | (simp [h]; done) | exact tabFold_rising (fun _ _ g => by first | (simp [g]; done) | (split <;> simp [g]; done)) _ _ (by simp [h])))
    | (with_reducible refine Frame.updTbl (by decide) ?_ ?_; (intro _ h; simp only [TblSt.sorted] at h ⊢; and_intros <;> first | (simp [h]; done) | exact tabFold_rising (fun _ _ g => by first | (simp [g]; done) | (split <;> simp [g]; done) | exact tabFold_rising (fun _ _ k => by simp [k]) _ _ g) _ _ (by simp [h]) | (repeat' first | exact rfl | exact h | apply tabSet_rising)))

theorem phaseDram_frame (e : StartEnv) (s : State) :
    Frame [.regs, .arr, .tbl, .mem, .drc, .fwu] s (phaseDram e s) := by
  delta phaseDram
  repeat' first
    | with_reducible apply Frame.refl
    | with_reducible assumption
    | apply Eq.refl
    | lift_lets -underBinder -merge -useContext
    | (intro x; refine Frame.cut (cs := [.regs, .arr, .tbl, .mem, .drc, .fwu]) (s0 := s) (x := x) ?_ (fun hx => ?_); unfold x; rotate_left; clear_value x)
    | (intro x; clear_value x)
    | intro x
    | with_reducible apply Frame.app (regPut_frame _ _ _)
    | with_reducible apply Frame.app (flagPut_frame _ _ _ _)
    | with_reducible apply Frame.app (lendMailbox_frame _)
    | with_reducible apply Frame.app (exitSelfRefresh_frame _)
    | with_reducible apply Frame.app (setStartPhase_frame _ _)
    | with_reducible apply Frame.app (startFail_frame _ _)
    | with_reducible apply Frame.app (emptyDram_frame _)
    | with_reducible apply Frame.ite
    | split

theorem phaseImage_frame (e : StartEnv) (s : State) :
    Frame [.regs, .err, .fwu, .vbt] s (phaseImage e s) := by
  delta phaseImage
  repeat' first
    | with_reducible apply Frame.refl
    | with_reducible assumption
    | apply Eq.refl
    | lift_lets -underBinder -merge -useContext
    | (intro x; refine Frame.cut (cs := [.regs, .err, .fwu, .vbt]) (s0 := s) (x := x) ?_ (fun hx => ?_); unfold x; rotate_left; clear_value x)
    | (intro x; refine Frame.cut (cs := [.regs, .err, .fwu, .vbt]) (s0 := s) (x := x.2) ?_ (fun hx => ?_); unfold x; rotate_left; clear_value x)
    | (intro x; clear_value x)
    | intro x
    | with_reducible apply Frame.app (chooseSlot_frame _ _)
    | with_reducible apply Frame.app (runImage_frame _ _ _ _ _)
    | with_reducible apply Frame.app (runSlotImage_frame _ _ _ _)
    | with_reducible apply Frame.app (initBoot_frame _)
    | with_reducible apply Frame.app (setStartPhase_frame _ _)
    | with_reducible apply Frame.app (startFail_frame _ _)
    | (with_reducible refine Frame.updFwu (by decide) ?_ ?_; (intro _ h; exact h))
    | (with_reducible refine Frame.updFwu (by decide) ?_ ?_; (intro _ h; simp only [FwuSt.sorted] at h ⊢; simp [h]; done))
    | (with_reducible refine Frame.updFwu (by decide) ?_ ?_; (intro _ h; simp only [FwuSt.sorted] at h ⊢; and_intros <;> (try dsimp only) <;> (repeat' split) <;> first | (simp [h]; done) | exact tabFold_rising (fun _ _ g => by first | (simp [g]; done) | (split <;> simp [g]; done)) _ _ (by simp [h])))
    | (with_reducible refine Frame.updFwu (by decide) ?_ ?_; (intro _ h; simp only [FwuSt.sorted] at h ⊢; and_intros <;> first | (simp [h]; done) | exact tabFold_rising (fun _ _ g => by first | (simp [g]; done) | (split <;> simp [g]; done) | exact tabFold_rising (fun _ _ k => by simp [k]) _ _ g) _ _ (by simp [h]) | (repeat' first | exact rfl | exact h | apply tabSet_rising)))
    | with_reducible apply Frame.ite
    | with_reducible apply_assumption
    | split
    | with_reducible refine Frame.app (Frame.ofPair (chooseSlot_frame _ _) (by assumption)) ?_ ?_

theorem phaseFirmware_frame (s : State) :
    Frame [.clk, .regs, .arr, .mem, .tod, .hif, .err, .fwu, .vbt] s (phaseFirmware s) := by
  delta phaseFirmware
  repeat' first
    | with_reducible apply Frame.refl
    | with_reducible assumption
    | apply Eq.refl
    | lift_lets -underBinder -merge -useContext
    | (intro x; refine Frame.cut (cs := [.clk, .regs, .arr, .mem, .tod, .hif, .err, .fwu, .vbt]) (s0 := s) (x := x) ?_ (fun hx => ?_); unfold x; rotate_left; clear_value x)
    | with_reducible apply Frame.app (fillScratch_frame _ _)
    | with_reducible apply Frame.app (restoreAll_frame _)
    | with_reducible apply Frame.app (setStartPhase_frame _ _)
    | with_reducible refine Frame.foldl ?_ (fun _ _ _ => ?_)
    | with_reducible apply_assumption

theorem phaseMicrocode_frame (e : StartEnv) (s : State) :
    Frame [.regs, .pip] s (phaseMicrocode e s) := by
  delta phaseMicrocode
  repeat' first
    | with_reducible apply Frame.refl
    | with_reducible assumption
    | apply Eq.refl
    | lift_lets -underBinder -merge -useContext
    | (intro x; refine Frame.cut (cs := [.regs, .pip]) (s0 := s) (x := x) ?_ (fun hx => ?_); unfold x; rotate_left; clear_value x)
    | with_reducible apply Frame.app (flagPut_frame _ _ _ _)
    | with_reducible apply Frame.app (restoreSchedule_frame _)
    | with_reducible apply Frame.app (setStartPhase_frame _ _)
    | with_reducible apply Frame.app (startFail_frame _ _)
    | with_reducible apply Frame.ite

theorem phaseService_frame (s : State) :
    Frame [.regs, .arr, .lnk] s (phaseService s) := by
  delta phaseService
  repeat' first
    | with_reducible apply Frame.refl
    | with_reducible assumption
    | apply Eq.refl
    | lift_lets -underBinder -merge -useContext
    | (intro x; refine Frame.cut (cs := [.regs, .arr, .lnk]) (s0 := s) (x := x) ?_ (fun hx => ?_); unfold x; rotate_left; clear_value x)
    | (intro x; clear_value x)
    | intro x
    | with_reducible apply Frame.app (flagPut_frame _ _ _ _)
    | with_reducible apply Frame.app (enterService_frame _)
    | with_reducible apply Frame.app (setStartPhase_frame _ _)
    | (with_reducible refine Frame.updArr (by decide) ?_ ?_; (intro _ h; exact h))
    | (with_reducible refine Frame.updArr (by decide) ?_ ?_; (intro _ h; simp only [ArrSt.sorted] at h ⊢; simp [h]; done))
    | (with_reducible refine Frame.updArr (by decide) ?_ ?_; (intro _ h; simp only [ArrSt.sorted] at h ⊢; and_intros <;> (try dsimp only) <;> (repeat' split) <;> first | (simp [h]; done) | exact tabFold_rising (fun _ _ g => by first | (simp [g]; done) | (split <;> simp [g]; done)) _ _ (by simp [h])))
    | (with_reducible refine Frame.updArr (by decide) ?_ ?_; (intro _ h; simp only [ArrSt.sorted] at h ⊢; and_intros <;> first | (simp [h]; done) | exact tabFold_rising (fun _ _ g => by first | (simp [g]; done) | (split <;> simp [g]; done) | exact tabFold_rising (fun _ _ k => by simp [k]) _ _ g) _ _ (by simp [h]) | (repeat' first | exact rfl | exact h | apply tabSet_rising)))
    | with_reducible refine Frame.foldl ?_ (fun _ _ _ => ?_)
    | with_reducible apply_assumption

theorem execStartUpPhase_frame (env : StartEnv) (s : State) :
    ∀ out, execStartUpPhase env s = .next out → Frame [.clk, .regs, .arr, .tbl, .mem, .lnk, .pip, .tod, .hif, .err, .drc, .fwu, .vbt] s out := by
  delta execStartUpPhase
  intro out h
  injection h with h
  subst h
  repeat' first
    | with_reducible apply Frame.refl
    | with_reducible assumption
    | apply Eq.refl
    | lift_lets -underBinder -merge -useContext
    | (intro x; refine Frame.cut (cs := [.clk, .regs, .arr, .tbl, .mem, .lnk, .pip, .tod, .hif, .err, .drc, .fwu, .vbt]) (s0 := s) (x := x) ?_ (fun hx => ?_); unfold x; rotate_left; clear_value x)
    | (intro x; clear_value x)
    | intro x
    | with_reducible apply Frame.app (flagPut_frame _ _ _ _)
    | with_reducible apply Frame.app (enterAdapt_frame _ _)
    | with_reducible apply Frame.app (phaseFuses_frame _)
    | with_reducible apply Frame.app (phasePlls_frame _ _)
    | with_reducible apply Frame.app (phaseBist_frame _ _)
    | with_reducible apply Frame.app (phaseDram_frame _ _)
    | with_reducible apply Frame.app (phaseImage_frame _ _)
    | with_reducible apply Frame.app (phaseFirmware_frame _)
    | with_reducible apply Frame.app (phaseMicrocode_frame _ _)
    | with_reducible apply Frame.app (phaseService_frame _)
    | with_reducible apply Frame.ite
    | split

theorem execSchemaFallback_frame (s : State) :
    ∀ out, execSchemaFallback s = .next out → Frame [.clk, .regs, .mwin, .arr, .tbl, .mem, .lnk, .pip, .upd, .epc, .tod, .cas, .hif, .prt, .err, .drc, .pwr, .fwu, .vbt] s out := by
  delta execSchemaFallback
  intro out h
  injection h with h
  subst h
  repeat' first
    | with_reducible apply Frame.refl
    | with_reducible assumption
    | apply Eq.refl
    | lift_lets -underBinder -merge -useContext
    | (intro x; refine Frame.cut (cs := [.clk, .regs, .mwin, .arr, .tbl, .mem, .lnk, .pip, .upd, .epc, .tod, .cas, .hif, .prt, .err, .drc, .pwr, .fwu, .vbt]) (s0 := s) (x := x) ?_ (fun hx => ?_); unfold x; rotate_left; clear_value x)
    | with_reducible apply Frame.app (vbtField_frame _ _ _ _ _)
    | with_reducible apply Frame.app (fwuEvent_frame _ _)
    | with_reducible apply Frame.app (rejectSlot_frame _ _ _)
    | with_reducible apply Frame.app (warmReset_frame _ _)
    | with_reducible apply Frame.ite
    | split

theorem activate_frame (src : Party) (s : State) :
    Frame [.clk, .regs, .mwin, .arr, .tbl, .mem, .lnk, .pip, .upd, .epc, .tod, .cas, .hif, .prt, .err, .drc, .pwr, .fwu, .vbt] s (activate src s) := by
  delta activate
  repeat' first
    | with_reducible apply Frame.refl
    | with_reducible assumption
    | apply Eq.refl
    | lift_lets -underBinder -merge -useContext
    | (intro x; refine Frame.cut (cs := [.clk, .regs, .mwin, .arr, .tbl, .mem, .lnk, .pip, .upd, .epc, .tod, .cas, .hif, .prt, .err, .drc, .pwr, .fwu, .vbt]) (s0 := s) (x := x) ?_ (fun hx => ?_); unfold x; rotate_left; clear_value x)
    | (intro x; refine Frame.cutK (cs := [.clk, .regs, .mwin, .arr, .tbl, .mem, .lnk, .pip, .upd, .epc, .tod, .cas, .hif, .prt, .err, .drc, .pwr, .fwu, .vbt]) (s0 := s) (x := x) (fun _ => ?_) (fun hx => ?_); unfold x; rotate_left; clear_value x)
    | (intro x; refine Frame.cutK2 (cs := [.clk, .regs, .mwin, .arr, .tbl, .mem, .lnk, .pip, .upd, .epc, .tod, .cas, .hif, .prt, .err, .drc, .pwr, .fwu, .vbt]) (s0 := s) (x := x) (fun _ _ => ?_) (fun hx => ?_); unfold x; rotate_left; clear_value x)
    | (intro x; clear_value x)
    | intro x
    | with_reducible apply Frame.app (fieldPut_frame _ _ _ _ _)
    | with_reducible apply Frame.app (ctrlWrite_frame _ _ _ _)
    | with_reducible apply Frame.app (warmIf_frame _ _)
    | with_reducible apply Frame.ite
    | with_reducible apply_assumption

theorem wrFwuCtl_frame (src : Party) (v : Word) (s : State) :
    Frame [.clk, .regs, .mwin, .arr, .tbl, .mem, .lnk, .pip, .upd, .epc, .tod, .cas, .hif, .prt, .err, .drc, .pwr, .fwu, .vbt] s (wrFwuCtl src v s) := by
  delta wrFwuCtl
  repeat' first
    | with_reducible apply Frame.refl
    | with_reducible assumption
    | apply Eq.refl
    | lift_lets -underBinder -merge -useContext
    | (intro x; refine Frame.cut (cs := [.clk, .regs, .mwin, .arr, .tbl, .mem, .lnk, .pip, .upd, .epc, .tod, .cas, .hif, .prt, .err, .drc, .pwr, .fwu, .vbt]) (s0 := s) (x := x) ?_ (fun hx => ?_); unfold x; rotate_left; clear_value x)
    | (intro x; refine Frame.cut (cs := [.clk, .regs, .mwin, .arr, .tbl, .mem, .lnk, .pip, .upd, .epc, .tod, .cas, .hif, .prt, .err, .drc, .pwr, .fwu, .vbt]) (s0 := s) (x := x.2) ?_ (fun hx => ?_); unfold x; rotate_left; clear_value x)
    | (intro x; refine Frame.cutK (cs := [.clk, .regs, .mwin, .arr, .tbl, .mem, .lnk, .pip, .upd, .epc, .tod, .cas, .hif, .prt, .err, .drc, .pwr, .fwu, .vbt]) (s0 := s) (x := x) (fun _ => ?_) (fun hx => ?_); unfold x; rotate_left; clear_value x)
    | (intro x; refine Frame.cutK2 (cs := [.clk, .regs, .mwin, .arr, .tbl, .mem, .lnk, .pip, .upd, .epc, .tod, .cas, .hif, .prt, .err, .drc, .pwr, .fwu, .vbt]) (s0 := s) (x := x) (fun _ _ => ?_) (fun hx => ?_); unfold x; rotate_left; clear_value x)
    | (intro x; clear_value x)
    | intro x
    | with_reducible apply Frame.app (fieldPut_frame _ _ _ _ _)
    | with_reducible apply Frame.app (refuseReg_frame _ _ _ _ _)
    | with_reducible apply Frame.app (pushWindow_frame _ _)
    | with_reducible apply Frame.app (abortSession_frame _)
    | with_reducible apply Frame.app (confirmImage_frame _ _)
    | with_reducible apply Frame.app (activate_frame _ _)
    | with_reducible apply Frame.ite
    | with_reducible apply_assumption

end Sys2Proof.Machine
end

