-- ==== Sys2Proof/Laws/FramePower.lean ====
section
/-! SUPPORT. What each operation of Machine/Power.lean changes at most, and that it keeps the invariant. -/

namespace Sys2Proof.Machine

set_option linter.all false

open Sys2Proof

theorem timerTick_frame (s : State) :
    Frame [.pwr] s (timerTick s) := by
  delta timerTick
  repeat' first
    | with_reducible apply Frame.refl
    | with_reducible assumption
    | apply Eq.refl
    | lift_lets -underBinder -merge -useContext
    | (intro x; refine Frame.cut (cs := [.pwr]) (s0 := s) (x := x) ?_ (fun hx => ?_); unfold x; rotate_left; clear_value x)
    | with_reducible apply Frame.app (restartTimers_frame _)
    | (with_reducible refine Frame.updPwr (by decide) ?_ ?_; (intro _ h; exact h))
    | (with_reducible refine Frame.updPwr (by decide) ?_ ?_; (intro _ h; simp only [PwrSt.sorted] at h ⊢; simp [h]; done))
    | (with_reducible refine Frame.updPwr (by decide) ?_ ?_; (intro _ h; simp only [PwrSt.sorted] at h ⊢; and_intros <;> (try dsimp only) <;> (repeat' split) <;> first | (simp [h]; done) | exact tabFold_rising (fun _ _ g => by first | (simp [g]; done) | (split <;> simp [g]; done)) _ _ (by simp [h])))
    | (with_reducible refine Frame.updPwr (by decide) ?_ ?_; (intro _ h; simp only [PwrSt.sorted] at h ⊢; and_intros <;> first | (simp [h]; done) | exact tabFold_rising (fun _ _ g => by first | (simp [g]; done) | (split <;> simp [g]; done) | exact tabFold_rising (fun _ _ k => by simp [k]) _ _ g) _ _ (by simp [h]) | (repeat' first | exact rfl | exact h | apply tabSet_rising)))
    | with_reducible refine Frame.foldl ?_ (fun _ _ _ => ?_)
    | with_reducible apply Frame.ite
    | with_reducible apply_assumption

theorem orderWorkers_frame (s : State) :
    Frame [.clk, .cas] s (orderWorkers s) := by
  delta orderWorkers
  repeat' first
    | with_reducible apply Frame.refl
    | with_reducible assumption
    | apply Eq.refl
    | lift_lets -underBinder -merge -useContext
    | (intro x; refine Frame.cut (cs := [.clk, .cas]) (s0 := s) (x := x) ?_ (fun hx => ?_); unfold x; rotate_left; clear_value x)
    | (intro x; clear_value x)
    | intro x
    | with_reducible apply Frame.app (nextFree_frame _)
    | with_reducible apply Frame.app (ctlSend_frame _ _ _ _ _)
    | with_reducible apply Frame.ite

theorem startEntry_frame (st : Nat) (s : State) :
    Frame [.clk, .regs, .pip, .cas, .err, .pwr] s (startEntry st s) := by
  delta startEntry
  repeat' first
    | with_reducible apply Frame.refl
    | with_reducible assumption
    | apply Eq.refl
    | lift_lets -underBinder -merge -useContext
    | (intro x; refine Frame.cut (cs := [.clk, .regs, .pip, .cas, .err, .pwr]) (s0 := s) (x := x) ?_ (fun hx => ?_); unfold x; rotate_left; clear_value x)
    | (intro x; clear_value x)
    | intro x
    | with_reducible apply Frame.app (flagPut_frame _ _ _ _)
    | with_reducible apply Frame.app (refuseEntry_frame _ _)
    | with_reducible apply Frame.app (orderWorkers_frame _)
    | (with_reducible refine Frame.updPwr (by decide) ?_ ?_; (intro _ h; exact h))
    | (with_reducible refine Frame.updPwr (by decide) ?_ ?_; (intro _ h; simp only [PwrSt.sorted] at h ⊢; simp [h]; done))
    | (with_reducible refine Frame.updPwr (by decide) ?_ ?_; (intro _ h; simp only [PwrSt.sorted] at h ⊢; and_intros <;> (try dsimp only) <;> (repeat' split) <;> first | (simp [h]; done) | exact tabFold_rising (fun _ _ g => by first | (simp [g]; done) | (split <;> simp [g]; done)) _ _ (by simp [h])))
    | (with_reducible refine Frame.updPwr (by decide) ?_ ?_; (intro _ h; simp only [PwrSt.sorted] at h ⊢; and_intros <;> first | (simp [h]; done) | exact tabFold_rising (fun _ _ g => by first | (simp [g]; done) | (split <;> simp [g]; done) | exact tabFold_rising (fun _ _ k => by simp [k]) _ _ g) _ _ (by simp [h]) | (repeat' first | exact rfl | exact h | apply tabSet_rising)))
    | with_reducible apply Frame.ite
    | split

theorem execPowerTimerExpire_frame (st : Nat) (lanesIdle : Bool) (s : State) :
    ∀ out, execPowerTimerExpire st lanesIdle s = .next out → Frame [.clk, .regs, .pip, .cas, .err, .pwr] s out := by
  delta execPowerTimerExpire
  intro out h
  injection h with h
  subst h
  repeat' first
    | with_reducible apply Frame.refl
    | with_reducible assumption
    | apply Eq.refl
    | lift_lets -underBinder -merge -useContext
    | (intro x; refine Frame.cut (cs := [.clk, .regs, .pip, .cas, .err, .pwr]) (s0 := s) (x := x) ?_ (fun hx => ?_); unfold x; rotate_left; clear_value x)
    | with_reducible apply Frame.app (startEntry_frame _ _)
    | with_reducible apply Frame.ite
    | split

theorem execUnitRefuse_frame (unit : Nat) (s : State) :
    ∀ out, execUnitRefuse unit s = .next out → Frame [.regs, .pip, .err, .pwr] s out := by
  delta execUnitRefuse
  intro out h
  injection h with h
  subst h
  repeat' first
    | with_reducible apply Frame.refl
    | with_reducible assumption
    | apply Eq.refl
    | lift_lets -underBinder -merge -useContext
    | (intro x; refine Frame.cut (cs := [.regs, .pip, .err, .pwr]) (s0 := s) (x := x) ?_ (fun hx => ?_); unfold x; rotate_left; clear_value x)
    | with_reducible apply Frame.app (withdraw_frame _ _)

theorem entryTick_frame (s : State) :
    Frame [.regs, .pip, .err, .pwr] s (entryTick s) := by
  delta entryTick
  repeat' first
    | with_reducible apply Frame.refl
    | with_reducible assumption
    | apply Eq.refl
    | lift_lets -underBinder -merge -useContext
    | (intro x; refine Frame.cut (cs := [.regs, .pip, .err, .pwr]) (s0 := s) (x := x) ?_ (fun hx => ?_); unfold x; rotate_left; clear_value x)
    | with_reducible apply Frame.app (refuseEntry_frame _ _)
    | split

theorem parkLinks_frame (s : State) :
    Frame [.lnk] s (parkLinks s) := by
  delta parkLinks
  repeat' first
    | with_reducible apply Frame.refl
    | with_reducible assumption
    | apply Eq.refl
    | lift_lets -underBinder -merge -useContext
    | (intro x; refine Frame.cut (cs := [.lnk]) (s0 := s) (x := x) ?_ (fun hx => ?_); unfold x; rotate_left; clear_value x)
    | with_reducible apply Frame.app (updGrp_frame _ _ _)
    | with_reducible refine Frame.foldl ?_ (fun _ _ _ => ?_)
    | with_reducible apply Frame.ite
    | with_reducible apply_assumption

theorem commitDeep_frame (st : Nat) (s : State) :
    Frame [.clk, .regs, .mem, .lnk, .drc, .pwr, .vbt] s (commitDeep st s) := by
  delta commitDeep
  repeat' first
    | with_reducible apply Frame.refl
    | with_reducible assumption
    | apply Eq.refl
    | lift_lets -underBinder -merge -useContext
    | (intro x; refine Frame.cut (cs := [.clk, .regs, .mem, .lnk, .drc, .pwr, .vbt]) (s0 := s) (x := x) ?_ (fun hx => ?_); unfold x; rotate_left; clear_value x)
    | (intro x; clear_value x)
    | intro x
    | with_reducible apply Frame.app (fieldPut_frame _ _ _ _ _)
    | with_reducible apply Frame.app (flagPut_frame _ _ _ _)
    | with_reducible apply Frame.app (nextFree_frame _)
    | with_reducible apply Frame.app (setRails_frame _ _)
    | with_reducible apply Frame.app (allRails_frame _ _ _)
    | with_reducible apply Frame.app (saveTod_frame _)
    | with_reducible apply Frame.app (saveLife_frame _)
    | with_reducible apply Frame.app (enterSelfRefresh_frame _)
    | with_reducible apply Frame.app (areaWritten_frame _ _)
    | with_reducible apply Frame.app (parkLinks_frame _)
    | (with_reducible refine Frame.updPwr (by decide) ?_ ?_; (intro _ h; exact h))
    | (with_reducible refine Frame.updPwr (by decide) ?_ ?_; (intro _ h; simp only [PwrSt.sorted] at h ⊢; simp [h]; done))
    | (with_reducible refine Frame.updPwr (by decide) ?_ ?_; (intro _ h; simp only [PwrSt.sorted] at h ⊢; and_intros <;> (try dsimp only) <;> (repeat' split) <;> first | (simp [h]; done) | exact tabFold_rising (fun _ _ g => by first | (simp [g]; done) | (split <;> simp [g]; done)) _ _ (by simp [h])))
    | (with_reducible refine Frame.updPwr (by decide) ?_ ?_; (intro _ h; simp only [PwrSt.sorted] at h ⊢; and_intros <;> first | (simp [h]; done) | exact tabFold_rising (fun _ _ g => by first | (simp [g]; done) | (split <;> simp [g]; done) | exact tabFold_rising (fun _ _ k => by simp [k]) _ _ g) _ _ (by simp [h]) | (repeat' first | exact rfl | exact h | apply tabSet_rising)))
    | with_reducible apply Frame.ite

theorem noteAsleep_frame (workers : List (Fin 16)) (s : State) :
    Frame [.cas] s (noteAsleep workers s) := by
  delta noteAsleep
  repeat' first
    | with_reducible apply Frame.refl
    | with_reducible assumption
    | apply Eq.refl
    | lift_lets -underBinder -merge -useContext
    | (intro x; refine Frame.cut (cs := [.cas]) (s0 := s) (x := x) ?_ (fun hx => ?_); unfold x; rotate_left; clear_value x)
    | with_reducible apply Frame.app (updWk_frame _ _ _)
    | with_reducible refine Frame.foldl ?_ (fun _ _ _ => ?_)
    | with_reducible apply Frame.ite
    | with_reducible apply_assumption

theorem execEntryCommit_frame (workers : List (Fin 16)) (s : State) :
    ∀ out, execEntryCommit workers s = .next out → Frame [.clk, .regs, .mem, .lnk, .pip, .cas, .err, .drc, .pwr, .vbt] s out := by
  delta execEntryCommit
  intro out h
  injection h with h
  subst h
  repeat' first
    | with_reducible apply Frame.refl
    | with_reducible assumption
    | apply Eq.refl
    | lift_lets -underBinder -merge -useContext
    | (intro x; refine Frame.cut (cs := [.clk, .regs, .mem, .lnk, .pip, .cas, .err, .drc, .pwr, .vbt]) (s0 := s) (x := x) ?_ (fun hx => ?_); unfold x; rotate_left; clear_value x)
    | (intro x; clear_value x)
    | intro x
    | with_reducible apply Frame.app (fieldPut_frame _ _ _ _ _)
    | with_reducible apply Frame.app (flagPut_frame _ _ _ _)
    | with_reducible apply Frame.app (cntAdd_frame _ _ _)
    | with_reducible apply Frame.app (cntWrap_frame _ _ _)
    | with_reducible apply Frame.app (refuseEntry_frame _ _)
    | with_reducible apply Frame.app (wakeEvent_frame _ _)
    | with_reducible apply Frame.app (commitDeep_frame _ _)
    | with_reducible apply Frame.app (noteAsleep_frame _ _)
    | (with_reducible refine Frame.updPip (by decide) ?_ ?_; (intro _ h; exact h))
    | (with_reducible refine Frame.updPip (by decide) ?_ ?_; (intro _ h; simp only [PipSt.sorted] at h ⊢; simp [h]; done))
    | (with_reducible refine Frame.updPip (by decide) ?_ ?_; (intro _ h; simp only [PipSt.sorted] at h ⊢; and_intros <;> (try dsimp only) <;> (repeat' split) <;> first | (simp [h]; done) | exact tabFold_rising (fun _ _ g => by first | (simp [g]; done) | (split <;> simp [g]; done)) _ _ (by simp [h])))
    | (with_reducible refine Frame.updPip (by decide) ?_ ?_; (intro _ h; simp only [PipSt.sorted] at h ⊢; and_intros <;> first | (simp [h]; done) | exact tabFold_rising (fun _ _ g => by first | (simp [g]; done) | (split <;> simp [g]; done) | exact tabFold_rising (fun _ _ k => by simp [k]) _ _ g) _ _ (by simp [h]) | (repeat' first | exact rfl | exact h | apply tabSet_rising)))
    | (with_reducible refine Frame.updPwr (by decide) ?_ ?_; (intro _ h; exact h))
    | (with_reducible refine Frame.updPwr (by decide) ?_ ?_; (intro _ h; simp only [PwrSt.sorted] at h ⊢; simp [h]; done))
    | (with_reducible refine Frame.updPwr (by decide) ?_ ?_; (intro _ h; simp only [PwrSt.sorted] at h ⊢; and_intros <;> (try dsimp only) <;> (repeat' split) <;> first | (simp [h]; done) | exact tabFold_rising (fun _ _ g => by first | (simp [g]; done) | (split <;> simp [g]; done)) _ _ (by simp [h])))
    | (with_reducible refine Frame.updPwr (by decide) ?_ ?_; (intro _ h; simp only [PwrSt.sorted] at h ⊢; and_intros <;> first | (simp [h]; done) | exact tabFold_rising (fun _ _ g => by first | (simp [g]; done) | (split <;> simp [g]; done) | exact tabFold_rising (fun _ _ k => by simp [k]) _ _ g) _ _ (by simp [h]) | (repeat' first | exact rfl | exact h | apply tabSet_rising)))
    | with_reducible apply Frame.ite
    | split

theorem execWakeN_frame (s : State) :
    ∀ out, execWakeN s = .next out → Frame [.clk, .regs, .mwin, .arr, .tbl, .mem, .lnk, .pip, .upd, .epc, .tod, .cas, .hif, .prt, .err, .drc, .rst, .pwr, .fwu, .vbt] s out := by
  delta execWakeN
  intro out h
  injection h with h
  subst h
  repeat' first
    | with_reducible apply Frame.refl
    | with_reducible assumption
    | apply Eq.refl
    | lift_lets -underBinder -merge -useContext
    | (intro x; refine Frame.cut (cs := [.clk, .regs, .mwin, .arr, .tbl, .mem, .lnk, .pip, .upd, .epc, .tod, .cas, .hif, .prt, .err, .drc, .rst, .pwr, .fwu, .vbt]) (s0 := s) (x := x) ?_ (fun hx => ?_); unfold x; rotate_left; clear_value x)
    | with_reducible apply Frame.app (fieldPut_frame _ _ _ _ _)
    | with_reducible apply Frame.app (allRails_frame _ _ _)
    | with_reducible apply Frame.app (wakeEvent_frame _ _)
    | with_reducible apply Frame.app (coldReset_frame _ _)
    | with_reducible apply Frame.ite

theorem withhold_frame (s : State) :
    Frame [.lnk] s (withhold s) := by
  delta withhold
  repeat' first
    | with_reducible apply Frame.refl
    | with_reducible assumption
    | apply Eq.refl
    | lift_lets -underBinder -merge -useContext
    | (intro x; refine Frame.cut (cs := [.lnk]) (s0 := s) (x := x) ?_ (fun hx => ?_); unfold x; rotate_left; clear_value x)
    | (with_reducible refine Frame.updLnk (by decide) ?_ ?_; (intro _ h; exact h))
    | (with_reducible refine Frame.updLnk (by decide) ?_ ?_; (intro _ h; simp only [LnkSt.sorted] at h ⊢; simp [h]; done))
    | (with_reducible refine Frame.updLnk (by decide) ?_ ?_; (intro _ h; simp only [LnkSt.sorted] at h ⊢; and_intros <;> (try dsimp only) <;> (repeat' split) <;> first | (simp [h]; done) | exact tabFold_rising (fun _ _ g => by first | (simp [g]; done) | (split <;> simp [g]; done)) _ _ (by simp [h])))
    | (with_reducible refine Frame.updLnk (by decide) ?_ ?_; (intro _ h; simp only [LnkSt.sorted] at h ⊢; and_intros <;> first | (simp [h]; done) | exact tabFold_rising (fun _ _ g => by first | (simp [g]; done) | (split <;> simp [g]; done) | exact tabFold_rising (fun _ _ k => by simp [k]) _ _ g) _ _ (by simp [h]) | (repeat' first | exact rfl | exact h | apply tabSet_rising)))
    | split

theorem releaseCredits_frame (s : State) :
    Frame [.lnk] s (releaseCredits s) := by
  delta releaseCredits
  repeat' first
    | with_reducible apply Frame.refl
    | with_reducible assumption
    | apply Eq.refl
    | lift_lets -underBinder -merge -useContext
    | (intro x; refine Frame.cut (cs := [.lnk]) (s0 := s) (x := x) ?_ (fun hx => ?_); unfold x; rotate_left; clear_value x)
    | (with_reducible refine Frame.updLnk (by decide) ?_ ?_; (intro _ h; exact h))
    | (with_reducible refine Frame.updLnk (by decide) ?_ ?_; (intro _ h; simp only [LnkSt.sorted] at h ⊢; simp [h]; done))
    | (with_reducible refine Frame.updLnk (by decide) ?_ ?_; (intro _ h; simp only [LnkSt.sorted] at h ⊢; and_intros <;> (try dsimp only) <;> (repeat' split) <;> first | (simp [h]; done) | exact tabFold_rising (fun _ _ g => by first | (simp [g]; done) | (split <;> simp [g]; done)) _ _ (by simp [h])))
    | (with_reducible refine Frame.updLnk (by decide) ?_ ?_; (intro _ h; simp only [LnkSt.sorted] at h ⊢; and_intros <;> first | (simp [h]; done) | exact tabFold_rising (fun _ _ g => by first | (simp [g]; done) | (split <;> simp [g]; done) | exact tabFold_rising (fun _ _ k => by simp [k]) _ _ g) _ _ (by simp [h]) | (repeat' first | exact rfl | exact h | apply tabSet_rising)))
    | with_reducible apply Frame.ite

theorem wrPwrCtl_frame (src : Party) (v : Word) (s : State) :
    Frame [.regs, .lnk, .pip, .prt, .err, .pwr] s (wrPwrCtl src v s) := by
  delta wrPwrCtl
  repeat' first
    | with_reducible apply Frame.refl
    | with_reducible assumption
    | apply Eq.refl
    | lift_lets -underBinder -merge -useContext
    | (intro x; refine Frame.cut (cs := [.regs, .lnk, .pip, .prt, .err, .pwr]) (s0 := s) (x := x) ?_ (fun hx => ?_); unfold x; rotate_left; clear_value x)
    | (intro x; clear_value x)
    | intro x
    | with_reducible apply Frame.app (flagPut_frame _ _ _ _)
    | with_reducible apply Frame.app (refuseReg_frame _ _ _ _ _)
    | with_reducible apply Frame.app (restartTimers_frame _)
    | with_reducible apply Frame.app (wakeEvent_frame _ _)
    | with_reducible apply Frame.app (withhold_frame _)
    | with_reducible apply Frame.app (releaseCredits_frame _)
    | (with_reducible refine Frame.updPip (by decide) ?_ ?_; (intro _ h; exact h))
    | (with_reducible refine Frame.updPip (by decide) ?_ ?_; (intro _ h; simp only [PipSt.sorted] at h ⊢; simp [h]; done))
    | (with_reducible refine Frame.updPip (by decide) ?_ ?_; (intro _ h; simp only [PipSt.sorted] at h ⊢; and_intros <;> (try dsimp only) <;> (repeat' split) <;> first | (simp [h]; done) | exact tabFold_rising (fun _ _ g => by first | (simp [g]; done) | (split <;> simp [g]; done)) _ _ (by simp [h])))
    | (with_reducible refine Frame.updPip (by decide) ?_ ?_; (intro _ h; simp only [PipSt.sorted] at h ⊢; and_intros <;> first | (simp [h]; done) | exact tabFold_rising (fun _ _ g => by first | (simp [g]; done) | (split <;> simp [g]; done) | exact tabFold_rising (fun _ _ k => by simp [k]) _ _ g) _ _ (by simp [h]) | (repeat' first | exact rfl | exact h | apply tabSet_rising)))
    | with_reducible apply Frame.ite

theorem execLaneActivity_frame (l : LinkId) (s : State) :
    ∀ out, execLaneActivity l s = .next out → Frame [.regs, .pip, .err, .pwr] s out := by
  delta execLaneActivity
  intro out h
  injection h with h
  subst h
  repeat' first
    | with_reducible apply Frame.refl
    | with_reducible assumption
    | apply Eq.refl
    | lift_lets -underBinder -merge -useContext
    | (intro x; refine Frame.cut (cs := [.regs, .pip, .err, .pwr]) (s0 := s) (x := x) ?_ (fun hx => ?_); unfold x; rotate_left; clear_value x)
    | with_reducible apply Frame.app (wakeEvent_frame _ _)
    | with_reducible apply Frame.ite
    | split

theorem execKnownEventWake_frame (s : State) :
    ∀ out, execKnownEventWake s = .next out → Frame [.pwr] s out := by
  delta execKnownEventWake
  intro out h
  injection h with h
  subst h
  repeat' first
    | with_reducible apply Frame.refl
    | with_reducible assumption
    | apply Eq.refl
    | lift_lets -underBinder -merge -useContext
    | (intro x; refine Frame.cut (cs := [.pwr]) (s0 := s) (x := x) ?_ (fun hx => ?_); unfold x; rotate_left; clear_value x)
    | with_reducible apply Frame.app (restartTimers_frame _)
    | with_reducible apply Frame.app (startWake_frame _ _)
    | (with_reducible refine Frame.updPwr (by decide) ?_ ?_; (intro _ h; exact h))
    | (with_reducible refine Frame.updPwr (by decide) ?_ ?_; (intro _ h; simp only [PwrSt.sorted] at h ⊢; simp [h]; done))
    | (with_reducible refine Frame.updPwr (by decide) ?_ ?_; (intro _ h; simp only [PwrSt.sorted] at h ⊢; and_intros <;> (try dsimp only) <;> (repeat' split) <;> first | (simp [h]; done) | exact tabFold_rising (fun _ _ g => by first | (simp [g]; done) | (split <;> simp [g]; done)) _ _ (by simp [h])))
    | (with_reducible refine Frame.updPwr (by decide) ?_ ?_; (intro _ h; simp only [PwrSt.sorted] at h ⊢; and_intros <;> first | (simp [h]; done) | exact tabFold_rising (fun _ _ g => by first | (simp [g]; done) | (split <;> simp [g]; done) | exact tabFold_rising (fun _ _ k => by simp [k]) _ _ g) _ _ (by simp [h]) | (repeat' first | exact rfl | exact h | apply tabSet_rising)))
    | with_reducible apply Frame.ite
    | split

theorem execLaneResume_frame (l : LinkId) (path : Nat) (skews : List Nat) (s : State) :
    ∀ out, execLaneResume l path skews s = .next out → Frame [.regs, .lnk, .tod] s out := by
  delta execLaneResume
  intro out h
  injection h with h
  subst h
  repeat' first
    | with_reducible apply Frame.refl
    | with_reducible assumption
    | apply Eq.refl
    | lift_lets -underBinder -merge -useContext
    | (intro x; refine Frame.cut (cs := [.regs, .lnk, .tod]) (s0 := s) (x := x) ?_ (fun hx => ?_); unfold x; rotate_left; clear_value x)
    | (intro x; clear_value x)
    | intro x
    | with_reducible apply Frame.app (fieldPut_frame _ _ _ _ _)
    | with_reducible apply Frame.app (updGrp_frame _ _ _)
    | with_reducible apply Frame.app (updLane_frame _ _ _)
    | with_reducible apply Frame.app (alignCopy_frame _ _)
    | with_reducible refine Frame.foldl ?_ (fun _ _ _ => ?_)
    | with_reducible apply Frame.ite
    | with_reducible apply_assumption
    | split

theorem execResumeTimeout_frame (l : LinkId) (s : State) :
    ∀ out, execResumeTimeout l s = .next out → Frame [.regs, .lnk, .err] s out := by
  delta execResumeTimeout
  intro out h
  injection h with h
  subst h
  repeat' first
    | with_reducible apply Frame.refl
    | with_reducible assumption
    | apply Eq.refl
    | lift_lets -underBinder -merge -useContext
    | (intro x; refine Frame.cut (cs := [.regs, .lnk, .err]) (s0 := s) (x := x) ?_ (fun hx => ?_); unfold x; rotate_left; clear_value x)
    | with_reducible apply Frame.app (enterDown_frame _ _ _)
    | with_reducible apply Frame.ite
    | split

theorem oppDone_frame (result : Nat) (s : State) :
    Frame [.regs, .err, .pwr] s (oppDone result s) := by
  delta oppDone
  repeat' first
    | with_reducible apply Frame.refl
    | with_reducible assumption
    | apply Eq.refl
    | lift_lets -underBinder -merge -useContext
    | (intro x; refine Frame.cut (cs := [.regs, .err, .pwr]) (s0 := s) (x := x) ?_ (fun hx => ?_); unfold x; rotate_left; clear_value x)
    | (intro x; clear_value x)
    | intro x
    | with_reducible apply Frame.app (fieldPut_frame _ _ _ _ _)
    | with_reducible apply Frame.app (flagPut_frame _ _ _ _)
    | with_reducible apply Frame.app (cntAdd_frame _ _ _)
    | with_reducible apply Frame.app (raiseInt_frame _ _ _)
    | (with_reducible refine Frame.updPwr (by decide) ?_ ?_; (intro _ h; exact h))
    | (with_reducible refine Frame.updPwr (by decide) ?_ ?_; (intro _ h; simp only [PwrSt.sorted] at h ⊢; simp [h]; done))
    | (with_reducible refine Frame.updPwr (by decide) ?_ ?_; (intro _ h; simp only [PwrSt.sorted] at h ⊢; and_intros <;> (try dsimp only) <;> (repeat' split) <;> first | (simp [h]; done) | exact tabFold_rising (fun _ _ g => by first | (simp [g]; done) | (split <;> simp [g]; done)) _ _ (by simp [h])))
    | (with_reducible refine Frame.updPwr (by decide) ?_ ?_; (intro _ h; simp only [PwrSt.sorted] at h ⊢; and_intros <;> first | (simp [h]; done) | exact tabFold_rising (fun _ _ g => by first | (simp [g]; done) | (split <;> simp [g]; done) | exact tabFold_rising (fun _ _ k => by simp [k]) _ _ g) _ _ (by simp [h]) | (repeat' first | exact rfl | exact h | apply tabSet_rising)))

theorem startOpp_frame (o : Nat) (s : State) :
    Frame [.regs, .err, .pwr] s (startOpp o s) := by
  delta startOpp
  repeat' first
    | with_reducible apply Frame.refl
    | with_reducible assumption
    | apply Eq.refl
    | lift_lets -underBinder -merge -useContext
    | (intro x; refine Frame.cut (cs := [.regs, .err, .pwr]) (s0 := s) (x := x) ?_ (fun hx => ?_); unfold x; rotate_left; clear_value x)
    | (intro x; clear_value x)
    | intro x
    | with_reducible apply Frame.app (flagPut_frame _ _ _ _)
    | with_reducible apply Frame.app (setRails_frame _ _)
    | with_reducible apply Frame.app (oppDone_frame _ _)
    | (with_reducible refine Frame.updPwr (by decide) ?_ ?_; (intro _ h; exact h))
    | (with_reducible refine Frame.updPwr (by decide) ?_ ?_; (intro _ h; simp only [PwrSt.sorted] at h ⊢; simp [h]; done))
    | (with_reducible refine Frame.updPwr (by decide) ?_ ?_; (intro _ h; simp only [PwrSt.sorted] at h ⊢; and_intros <;> (try dsimp only) <;> (repeat' split) <;> first | (simp [h]; done) | exact tabFold_rising (fun _ _ g => by first | (simp [g]; done) | (split <;> simp [g]; done)) _ _ (by simp [h])))
    | (with_reducible refine Frame.updPwr (by decide) ?_ ?_; (intro _ h; simp only [PwrSt.sorted] at h ⊢; and_intros <;> first | (simp [h]; done) | exact tabFold_rising (fun _ _ g => by first | (simp [g]; done) | (split <;> simp [g]; done) | exact tabFold_rising (fun _ _ k => by simp [k]) _ _ g) _ _ (by simp [h]) | (repeat' first | exact rfl | exact h | apply tabSet_rising)))
    | with_reducible apply Frame.ite

theorem wrOppCtl_frame (src : Party) (v : Word) (s : State) :
    Frame [.regs, .pip, .cas, .prt, .err, .pwr, .fwu] s (wrOppCtl src v s) := by
  delta wrOppCtl
  repeat' first
    | with_reducible apply Frame.refl
    | with_reducible assumption
    | apply Eq.refl
    | lift_lets -underBinder -merge -useContext
    | (intro x; refine Frame.cut (cs := [.regs, .pip, .cas, .prt, .err, .pwr, .fwu]) (s0 := s) (x := x) ?_ (fun hx => ?_); unfold x; rotate_left; clear_value x)
    | (intro x; clear_value x)
    | intro x
    | with_reducible apply Frame.app (fieldPut_frame _ _ _ _ _)
    | with_reducible apply Frame.app (flagPut_frame _ _ _ _)
    | with_reducible apply Frame.app (refuseReg_frame _ _ _ _ _)
    | with_reducible apply Frame.app (refuseEntry_frame _ _)
    | with_reducible apply Frame.app (ctrlWrite_frame _ _ _ _)
    | with_reducible apply Frame.app (markDirty_frame _)
    | with_reducible apply Frame.app (startOpp_frame _ _)
    | (with_reducible refine Frame.updPwr (by decide) ?_ ?_; (intro _ h; exact h))
    | (with_reducible refine Frame.updPwr (by decide) ?_ ?_; (intro _ h; simp only [PwrSt.sorted] at h ⊢; simp [h]; done))
    | (with_reducible refine Frame.updPwr (by decide) ?_ ?_; (intro _ h; simp only [PwrSt.sorted] at h ⊢; and_intros <;> (try dsimp only) <;> (repeat' split) <;> first | (simp [h]; done) | exact tabFold_rising (fun _ _ g => by first | (simp [g]; done) | (split <;> simp [g]; done)) _ _ (by simp [h])))
    | (with_reducible refine Frame.updPwr (by decide) ?_ ?_; (intro _ h; simp only [PwrSt.sorted] at h ⊢; and_intros <;> first | (simp [h]; done) | exact tabFold_rising (fun _ _ g => by first | (simp [g]; done) | (split <;> simp [g]; done) | exact tabFold_rising (fun _ _ k => by simp [k]) _ _ g) _ _ (by simp [h]) | (repeat' first | exact rfl | exact h | apply tabSet_rising)))
    | with_reducible apply Frame.ite

theorem railFails_frame (s : State) :
    Frame [.regs, .err] s (railFails s) := by
  delta railFails
  repeat' first
    | with_reducible apply Frame.refl
    | with_reducible assumption
    | apply Eq.refl
    | lift_lets -underBinder -merge -useContext
    | (intro x; refine Frame.cut (cs := [.regs, .err]) (s0 := s) (x := x) ?_ (fun hx => ?_); unfold x; rotate_left; clear_value x)
    | with_reducible apply Frame.app (cntAdd_frame _ _ _)
    | with_reducible apply Frame.app (raiseInt_frame _ _ _)

theorem confirmRails_frame (ok : Bool) (s : State) :
    Frame [.regs, .err, .pwr] s (confirmRails ok s) := by
  delta confirmRails
  repeat' first
    | with_reducible apply Frame.refl
    | with_reducible assumption
    | apply Eq.refl
    | lift_lets -underBinder -merge -useContext
    | (intro x; refine Frame.cut (cs := [.regs, .err, .pwr]) (s0 := s) (x := x) ?_ (fun hx => ?_); unfold x; rotate_left; clear_value x)
    | with_reducible apply Frame.app (oppDone_frame _ _)
    | with_reducible apply Frame.app (railFails_frame _)
    | (with_reducible refine Frame.updPwr (by decide) ?_ ?_; (intro _ h; exact h))
    | (with_reducible refine Frame.updPwr (by decide) ?_ ?_; (intro _ h; simp only [PwrSt.sorted] at h ⊢; simp [h]; done))
    | (with_reducible refine Frame.updPwr (by decide) ?_ ?_; (intro _ h; simp only [PwrSt.sorted] at h ⊢; and_intros <;> (try dsimp only) <;> (repeat' split) <;> first | (simp [h]; done) | exact tabFold_rising (fun _ _ g => by first | (simp [g]; done) | (split <;> simp [g]; done)) _ _ (by simp [h])))
    | (with_reducible refine Frame.updPwr (by decide) ?_ ?_; (intro _ h; simp only [PwrSt.sorted] at h ⊢; and_intros <;> first | (simp [h]; done) | exact tabFold_rising (fun _ _ g => by first | (simp [g]; done) | (split <;> simp [g]; done) | exact tabFold_rising (fun _ _ k => by simp [k]) _ _ g) _ _ (by simp [h]) | (repeat' first | exact rfl | exact h | apply tabSet_rising)))
    | with_reducible apply Frame.ite

theorem execOppVoltageConfirm_frame (volts : Option (Nat × Nat)) (s : State) :
    ∀ out, execOppVoltageConfirm volts s = .next out → Frame [.regs, .err, .pwr] s out := by
  delta execOppVoltageConfirm
  intro out h
  injection h with h
  subst h
  repeat' first
    | with_reducible apply Frame.refl
    | with_reducible assumption
    | apply Eq.refl
    | lift_lets -underBinder -merge -useContext
    | (intro x; refine Frame.cut (cs := [.regs, .err, .pwr]) (s0 := s) (x := x) ?_ (fun hx => ?_); unfold x; rotate_left; clear_value x)
    | with_reducible apply Frame.app (readRails_frame _)
    | with_reducible apply Frame.app (confirmRails_frame _ _)
    | with_reducible apply Frame.ite

theorem execOppPllLock_frame (s : State) :
    ∀ out, execOppPllLock s = .next out → Frame [.lnk, .pip, .pwr] s out := by
  delta execOppPllLock
  intro out h
  injection h with h
  subst h
  repeat' first
    | with_reducible apply Frame.refl
    | with_reducible assumption
    | apply Eq.refl
    | lift_lets -underBinder -merge -useContext
    | (intro x; refine Frame.cut (cs := [.lnk, .pip, .pwr]) (s0 := s) (x := x) ?_ (fun hx => ?_); unfold x; rotate_left; clear_value x)
    | with_reducible apply Frame.app (withhold_frame _)
    | (with_reducible refine Frame.updPip (by decide) ?_ ?_; (intro _ h; exact h))
    | (with_reducible refine Frame.updPip (by decide) ?_ ?_; (intro _ h; simp only [PipSt.sorted] at h ⊢; simp [h]; done))
    | (with_reducible refine Frame.updPip (by decide) ?_ ?_; (intro _ h; simp only [PipSt.sorted] at h ⊢; and_intros <;> (try dsimp only) <;> (repeat' split) <;> first | (simp [h]; done) | exact tabFold_rising (fun _ _ g => by first | (simp [g]; done) | (split <;> simp [g]; done)) _ _ (by simp [h])))
    | (with_reducible refine Frame.updPip (by decide) ?_ ?_; (intro _ h; simp only [PipSt.sorted] at h ⊢; and_intros <;> first | (simp [h]; done) | exact tabFold_rising (fun _ _ g => by first | (simp [g]; done) | (split <;> simp [g]; done) | exact tabFold_rising (fun _ _ k => by simp [k]) _ _ g) _ _ (by simp [h]) | (repeat' first | exact rfl | exact h | apply tabSet_rising)))
    | (with_reducible refine Frame.updPwr (by decide) ?_ ?_; (intro _ h; exact h))
    | (with_reducible refine Frame.updPwr (by decide) ?_ ?_; (intro _ h; simp only [PwrSt.sorted] at h ⊢; simp [h]; done))
    | (with_reducible refine Frame.updPwr (by decide) ?_ ?_; (intro _ h; simp only [PwrSt.sorted] at h ⊢; and_intros <;> (try dsimp only) <;> (repeat' split) <;> first | (simp [h]; done) | exact tabFold_rising (fun _ _ g => by first | (simp [g]; done) | (split <;> simp [g]; done)) _ _ (by simp [h])))
    | (with_reducible refine Frame.updPwr (by decide) ?_ ?_; (intro _ h; simp only [PwrSt.sorted] at h ⊢; and_intros <;> first | (simp [h]; done) | exact tabFold_rising (fun _ _ g => by first | (simp [g]; done) | (split <;> simp [g]; done) | exact tabFold_rising (fun _ _ k => by simp [k]) _ _ g) _ _ (by simp [h]) | (repeat' first | exact rfl | exact h | apply tabSet_rising)))
    | with_reducible apply Frame.ite

theorem execOppSwitch_frame (s : State) :
    ∀ out, execOppSwitch s = .next out → Frame [.regs, .lnk, .pip, .err, .pwr, .fwu] s out := by
  delta execOppSwitch
  intro out h
  injection h with h
  subst h
  repeat' first
    | with_reducible apply Frame.refl
    | with_reducible assumption
    | apply Eq.refl
    | lift_lets -underBinder -merge -useContext
    | (intro x; refine Frame.cut (cs := [.regs, .lnk, .pip, .err, .pwr, .fwu]) (s0 := s) (x := x) ?_ (fun hx => ?_); unfold x; rotate_left; clear_value x)
    | (intro x; clear_value x)
    | intro x
    | with_reducible apply Frame.app (fieldPut_frame _ _ _ _ _)
    | with_reducible apply Frame.app (setRails_frame _ _)
    | with_reducible apply Frame.app (markDirty_frame _)
    | with_reducible apply Frame.app (showLat_frame _)
    | with_reducible apply Frame.app (releaseCredits_frame _)
    | with_reducible apply Frame.app (oppDone_frame _ _)
    | (with_reducible refine Frame.updPip (by decide) ?_ ?_; (intro _ h; exact h))
    | (with_reducible refine Frame.updPip (by decide) ?_ ?_; (intro _ h; simp only [PipSt.sorted] at h ⊢; simp [h]; done))
    | (with_reducible refine Frame.updPip (by decide) ?_ ?_; (intro _ h; simp only [PipSt.sorted] at h ⊢; and_intros <;> (try dsimp only) <;> (repeat' split) <;> first | (simp [h]; done) | exact tabFold_rising (fun _ _ g => by first | (simp [g]; done) | (split <;> simp [g]; done)) _ _ (by simp [h])))
    | (with_reducible refine Frame.updPip (by decide) ?_ ?_; (intro _ h; simp only [PipSt.sorted] at h ⊢; and_intros <;> first | (simp [h]; done) | exact tabFold_rising (fun _ _ g => by first | (simp [g]; done) | (split <;> simp [g]; done) | exact tabFold_rising (fun _ _ k => by simp [k]) _ _ g) _ _ (by simp [h]) | (repeat' first | exact rfl | exact h | apply tabSet_rising)))
    | (with_reducible refine Frame.updPwr (by decide) ?_ ?_; (intro _ h; exact h))
    | (with_reducible refine Frame.updPwr (by decide) ?_ ?_; (intro _ h; simp only [PwrSt.sorted] at h ⊢; simp [h]; done))
    | (with_reducible refine Frame.updPwr (by decide) ?_ ?_; (intro _ h; simp only [PwrSt.sorted] at h ⊢; and_intros <;> (try dsimp only) <;> (repeat' split) <;> first | (simp [h]; done) | exact tabFold_rising (fun _ _ g => by first | (simp [g]; done) | (split <;> simp [g]; done)) _ _ (by simp [h])))
    | (with_reducible refine Frame.updPwr (by decide) ?_ ?_; (intro _ h; simp only [PwrSt.sorted] at h ⊢; and_intros <;> first | (simp [h]; done) | exact tabFold_rising (fun _ _ g => by first | (simp [g]; done) | (split <;> simp [g]; done) | exact tabFold_rising (fun _ _ k => by simp [k]) _ _ g) _ _ (by simp [h]) | (repeat' first | exact rfl | exact h | apply tabSet_rising)))
    | with_reducible apply Frame.ite

theorem execPmbAlert_frame (fault : Bool) (s : State) :
    ∀ out, execPmbAlert fault s = .next out → Frame [.regs, .err, .pwr] s out := by
  delta execPmbAlert
  intro out h
  injection h with h
  subst h
  repeat' first
    | with_reducible apply Frame.refl
    | with_reducible assumption
    | apply Eq.refl
    | lift_lets -underBinder -merge -useContext
    | (intro x; refine Frame.cut (cs := [.regs, .err, .pwr]) (s0 := s) (x := x) ?_ (fun hx => ?_); unfold x; rotate_left; clear_value x)
    | (intro x; clear_value x)
    | intro x
    | with_reducible apply Frame.app (allRails_frame _ _ _)
    | with_reducible apply Frame.app (railFails_frame _)
    | with_reducible apply Frame.app (confirmRails_frame _ _)
    | with_reducible apply Frame.ite

end Sys2Proof.Machine
end

