-- ==== Sys2Proof/Laws/FrameProtect.lean ====
section
/-! SUPPORT. What each operation of Machine/Protect.lean changes at most, and that it keeps the invariant. -/

namespace Sys2Proof.Machine

set_option linter.all false

open Sys2Proof

theorem flrRing_frame (s : State) (x : Nat × Ring) :
    Frame [.regs, .arr, .tbl, .upd, .epc, .cas, .hif, .err, .fwu] s (flrRing s x) := by
  delta flrRing
  repeat' first
    | with_reducible apply Frame.refl
    | with_reducible assumption
    | apply Eq.refl
    | lift_lets -underBinder -merge -useContext
    | (intro x; refine Frame.cut (cs := [.regs, .arr, .tbl, .upd, .epc, .cas, .hif, .err, .fwu]) (s0 := s) (x := x) ?_ (fun hx => ?_); unfold x; rotate_left; clear_value x)
    | (intro x; clear_value x)
    | intro x
    | with_reducible apply Frame.app (updRing_frame _ _ _)
    | with_reducible apply Frame.app (settle_frame _)
    | with_reducible apply Frame.app (stopRing_frame _ _)
    | with_reducible apply Frame.app (ringOff_frame _ _)
    | (with_reducible refine Frame.updUpd (by decide) ?_ ?_; (intro _ h; exact h))
    | (with_reducible refine Frame.updUpd (by decide) ?_ ?_; (intro _ h; simp only [UpdSt.sorted] at h ⊢; simp [h]; done))
    | (with_reducible refine Frame.updUpd (by decide) ?_ ?_; (intro _ h; simp only [UpdSt.sorted] at h ⊢; and_intros <;> (try dsimp only) <;> (repeat' split) <;> first | (simp [h]; done) | exact tabFold_rising (fun _ _ g => by first | (simp [g]; done) | (split <;> simp [g]; done)) _ _ (by simp [h])))
    | (with_reducible refine Frame.updUpd (by decide) ?_ ?_; (intro _ h; simp only [UpdSt.sorted] at h ⊢; and_intros <;> first | (simp [h]; done) | exact tabFold_rising (fun _ _ g => by first | (simp [g]; done) | (split <;> simp [g]; done) | exact tabFold_rising (fun _ _ k => by simp [k]) _ _ g) _ _ (by simp [h]) | (repeat' first | exact rfl | exact h | apply tabSet_rising)))
    | with_reducible apply Frame.ite

theorem maskVectors_frame (f : Nat) (s : State) :
    Frame [.hif] s (maskVectors f s) := by
  delta maskVectors
  repeat' first
    | with_reducible apply Frame.refl
    | with_reducible assumption
    | apply Eq.refl
    | lift_lets -underBinder -merge -useContext
    | (intro x; refine Frame.cut (cs := [.hif]) (s0 := s) (x := x) ?_ (fun hx => ?_); unfold x; rotate_left; clear_value x)
    | (intro x; clear_value x)
    | intro x
    | (with_reducible refine Frame.updHif (by decide) ?_ ?_; (intro _ h; exact h))
    | (with_reducible refine Frame.updHif (by decide) ?_ ?_; (intro _ h; simp only [HifSt.sorted] at h ⊢; simp [h]; done))
    | (with_reducible refine Frame.updHif (by decide) ?_ ?_; (intro _ h; simp only [HifSt.sorted] at h ⊢; and_intros <;> (try dsimp only) <;> (repeat' split) <;> first | (simp [h]; done) | exact tabFold_rising (fun _ _ g => by first | (simp [g]; done) | (split <;> simp [g]; done)) _ _ (by simp [h])))
    | (with_reducible refine Frame.updHif (by decide) ?_ ?_; (intro _ h; simp only [HifSt.sorted] at h ⊢; and_intros <;> first | (simp [h]; done) | exact tabFold_rising (fun _ _ g => by first | (simp [g]; done) | (split <;> simp [g]; done) | exact tabFold_rising (fun _ _ k => by simp [k]) _ _ g) _ _ (by simp [h]) | (repeat' first | exact rfl | exact h | apply tabSet_rising)))
    | with_reducible refine Frame.foldl ?_ (fun _ _ _ => ?_)
    | with_reducible apply Frame.ite
    | with_reducible apply_assumption

theorem flr_frame (f : Nat) (s : State) :
    Frame [.regs, .arr, .tbl, .upd, .epc, .cas, .hif, .err, .fwu] s (flr f s) := by
  delta flr
  repeat' first
    | with_reducible apply Frame.refl
    | with_reducible assumption
    | apply Eq.refl
    | lift_lets -underBinder -merge -useContext
    | (intro x; refine Frame.cut (cs := [.regs, .arr, .tbl, .upd, .epc, .cas, .hif, .err, .fwu]) (s0 := s) (x := x) ?_ (fun hx => ?_); unfold x; rotate_left; clear_value x)
    | (intro x; clear_value x)
    | intro x
    | with_reducible apply Frame.app (updFn_frame _ _ _)
    | with_reducible apply Frame.app (flrRing_frame _ _)
    | with_reducible apply Frame.app (maskVectors_frame _ _)
    | with_reducible refine Frame.foldl ?_ (fun _ _ _ => ?_)
    | with_reducible apply_assumption

theorem execVfFlr_frame (f : Fin 64) (s : State) :
    ∀ out, execVfFlr f s = .next out → Frame [.regs, .arr, .tbl, .upd, .epc, .cas, .hif, .err, .fwu] s out := by
  delta execVfFlr
  intro out h
  injection h with h
  subst h
  repeat' first
    | with_reducible apply Frame.refl
    | with_reducible assumption
    | apply Eq.refl
    | lift_lets -underBinder -merge -useContext
    | (intro x; refine Frame.cut (cs := [.regs, .arr, .tbl, .upd, .epc, .cas, .hif, .err, .fwu]) (s0 := s) (x := x) ?_ (fun hx => ?_); unfold x; rotate_left; clear_value x)
    | with_reducible apply Frame.app (flr_frame _ _)
    | with_reducible apply Frame.ite

theorem execPfFlr_frame (s : State) :
    ∀ out, execPfFlr s = .next out → Frame [.regs, .arr, .tbl, .upd, .epc, .cas, .hif, .prt, .err, .fwu] s out := by
  delta execPfFlr
  intro out h
  injection h with h
  subst h
  repeat' first
    | with_reducible apply Frame.refl
    | with_reducible assumption
    | apply Eq.refl
    | lift_lets -underBinder -merge -useContext
    | (intro x; refine Frame.cut (cs := [.regs, .arr, .tbl, .upd, .epc, .cas, .hif, .prt, .err, .fwu]) (s0 := s) (x := x) ?_ (fun hx => ?_); unfold x; rotate_left; clear_value x)
    | (intro x; clear_value x)
    | intro x
    | with_reducible apply Frame.app (reportsOff_frame _)
    | with_reducible apply Frame.app (dropProposal_frame _ _)
    | with_reducible apply Frame.app (flr_frame _ _)
    | (with_reducible refine Frame.updHif (by decide) ?_ ?_; (intro _ h; exact h))
    | (with_reducible refine Frame.updHif (by decide) ?_ ?_; (intro _ h; simp only [HifSt.sorted] at h ⊢; simp [h]; done))
    | (with_reducible refine Frame.updHif (by decide) ?_ ?_; (intro _ h; simp only [HifSt.sorted] at h ⊢; and_intros <;> (try dsimp only) <;> (repeat' split) <;> first | (simp [h]; done) | exact tabFold_rising (fun _ _ g => by first | (simp [g]; done) | (split <;> simp [g]; done)) _ _ (by simp [h])))
    | (with_reducible refine Frame.updHif (by decide) ?_ ?_; (intro _ h; simp only [HifSt.sorted] at h ⊢; and_intros <;> first | (simp [h]; done) | exact tabFold_rising (fun _ _ g => by first | (simp [g]; done) | (split <;> simp [g]; done) | exact tabFold_rising (fun _ _ k => by simp [k]) _ _ g) _ _ (by simp [h]) | (repeat' first | exact rfl | exact h | apply tabSet_rising)))
    | with_reducible refine Frame.foldl ?_ (fun _ _ _ => ?_)
    | with_reducible apply_assumption

theorem execVfDisable_frame (vfEnable : Bool) (numVFs : Nat) (s : State) :
    ∀ out, execVfDisable vfEnable numVFs s = .next out → Frame [.regs, .arr, .tbl, .upd, .epc, .cas, .hif, .err, .fwu] s out := by
  delta execVfDisable
  intro out h
  injection h with h
  subst h
  repeat' first
    | with_reducible apply Frame.refl
    | with_reducible assumption
    | apply Eq.refl
    | lift_lets -underBinder -merge -useContext
    | (intro x; refine Frame.cut (cs := [.regs, .arr, .tbl, .upd, .epc, .cas, .hif, .err, .fwu]) (s0 := s) (x := x) ?_ (fun hx => ?_); unfold x; rotate_left; clear_value x)
    | (intro x; clear_value x)
    | intro x
    | with_reducible apply Frame.app (flr_frame _ _)
    | (with_reducible refine Frame.updHif (by decide) ?_ ?_; (intro _ h; exact h))
    | (with_reducible refine Frame.updHif (by decide) ?_ ?_; (intro _ h; simp only [HifSt.sorted] at h ⊢; simp [h]; done))
    | (with_reducible refine Frame.updHif (by decide) ?_ ?_; (intro _ h; simp only [HifSt.sorted] at h ⊢; and_intros <;> (try dsimp only) <;> (repeat' split) <;> first | (simp [h]; done) | exact tabFold_rising (fun _ _ g => by first | (simp [g]; done) | (split <;> simp [g]; done)) _ _ (by simp [h])))
    | (with_reducible refine Frame.updHif (by decide) ?_ ?_; (intro _ h; simp only [HifSt.sorted] at h ⊢; and_intros <;> first | (simp [h]; done) | exact tabFold_rising (fun _ _ g => by first | (simp [g]; done) | (split <;> simp [g]; done) | exact tabFold_rising (fun _ _ k => by simp [k]) _ _ g) _ _ (by simp [h]) | (repeat' first | exact rfl | exact h | apply tabSet_rising)))
    | with_reducible refine Frame.foldl ?_ (fun _ _ _ => ?_)
    | with_reducible apply Frame.ite
    | with_reducible apply_assumption

theorem writeFn_frame (f : Nat) (c : FnControl) (s : State) :
    Frame [.regs, .tbl, .upd, .cas, .hif, .err] s (writeFn f c s) := by
  delta writeFn
  repeat' first
    | with_reducible apply Frame.refl
    | with_reducible assumption
    | apply Eq.refl
    | lift_lets -underBinder -merge -useContext
    | (intro x; refine Frame.cut (cs := [.regs, .tbl, .upd, .cas, .hif, .err]) (s0 := s) (x := x) ?_ (fun hx => ?_); unfold x; rotate_left; clear_value x)
    | (intro x; clear_value x)
    | intro x
    | with_reducible apply Frame.app (updFn_frame _ _ _)
    | with_reducible apply Frame.app (errFlush_frame _)
    | with_reducible apply Frame.app (fnOpens_frame _ _)
    | with_reducible apply Frame.app (settle_frame _)
    | with_reducible apply Frame.ite

theorem execBusMasterEnable_frame (f : Fin 64) (c : FnControl) (s : State) :
    ∀ out, execBusMasterEnable f c s = .next out → Frame [.regs, .tbl, .upd, .cas, .hif, .err] s out := by
  delta execBusMasterEnable
  intro out h
  injection h with h
  subst h
  repeat' first
    | with_reducible apply Frame.refl
    | with_reducible assumption
    | apply Eq.refl
    | lift_lets -underBinder -merge -useContext
    | (intro x; refine Frame.cut (cs := [.regs, .tbl, .upd, .cas, .hif, .err]) (s0 := s) (x := x) ?_ (fun hx => ?_); unfold x; rotate_left; clear_value x)
    | with_reducible apply Frame.app (writeFn_frame _ _ _)
    | with_reducible apply Frame.ite

theorem execMsixPendingSend_frame (vec : Fin 2048) (s : State) :
    ∀ out, execMsixPendingSend vec s = .next out → Frame [.hif] s out := by
  delta execMsixPendingSend
  intro out h
  injection h with h
  subst h
  repeat' first
    | with_reducible apply Frame.refl
    | with_reducible assumption
    | apply Eq.refl
    | lift_lets -underBinder -merge -useContext
    | (intro x; refine Frame.cut (cs := [.hif]) (s0 := s) (x := x) ?_ (fun hx => ?_); unfold x; rotate_left; clear_value x)
    | with_reducible apply Frame.app (vecSend_frame _ _)
    | (with_reducible refine Frame.updHif (by decide) ?_ ?_; (intro _ h; exact h))
    | (with_reducible refine Frame.updHif (by decide) ?_ ?_; (intro _ h; simp only [HifSt.sorted] at h ⊢; simp [h]; done))
    | (with_reducible refine Frame.updHif (by decide) ?_ ?_; (intro _ h; simp only [HifSt.sorted] at h ⊢; and_intros <;> (try dsimp only) <;> (repeat' split) <;> first | (simp [h]; done) | exact tabFold_rising (fun _ _ g => by first | (simp [g]; done) | (split <;> simp [g]; done)) _ _ (by simp [h])))
    | (with_reducible refine Frame.updHif (by decide) ?_ ?_; (intro _ h; simp only [HifSt.sorted] at h ⊢; and_intros <;> first | (simp [h]; done) | exact tabFold_rising (fun _ _ g => by first | (simp [g]; done) | (split <;> simp [g]; done) | exact tabFold_rising (fun _ _ k => by simp [k]) _ _ g) _ _ (by simp [h]) | (repeat' first | exact rfl | exact h | apply tabSet_rising)))
    | with_reducible apply Frame.ite

theorem execCompletionTimeout_frame (n : Nat) (s : State) :
    ∀ out, execCompletionTimeout n s = .next out → Frame [.regs, .tbl, .upd, .cas, .hif] s out := by
  delta execCompletionTimeout
  intro out h
  injection h with h
  subst h
  repeat' first
    | with_reducible apply Frame.refl
    | with_reducible assumption
    | apply Eq.refl
    | lift_lets -underBinder -merge -useContext
    | (intro x; refine Frame.cut (cs := [.regs, .tbl, .upd, .cas, .hif]) (s0 := s) (x := x) ?_ (fun hx => ?_); unfold x; rotate_left; clear_value x)
    | with_reducible apply Frame.app (updFn_frame _ _ _)
    | with_reducible apply Frame.app (readFailed_frame _ _)
    | with_reducible apply Frame.ite
    | split

theorem setProp_frame (st n : Nat) (s : State) :
    Frame [.regs] s (setProp st n s) := by
  delta setProp
  repeat' first
    | with_reducible apply Frame.refl
    | with_reducible assumption
    | apply Eq.refl
    | lift_lets -underBinder -merge -useContext
    | (intro x; refine Frame.cut (cs := [.regs]) (s0 := s) (x := x) ?_ (fun hx => ?_); unfold x; rotate_left; clear_value x)
    | with_reducible apply Frame.app (fieldPut_frame _ _ _ _ _)

theorem propIdle_frame (result errEntry : Nat) (s : State) :
    Frame [.regs, .prt] s (propIdle result errEntry s) := by
  delta propIdle
  repeat' first
    | with_reducible apply Frame.refl
    | with_reducible assumption
    | apply Eq.refl
    | lift_lets -underBinder -merge -useContext
    | (intro x; refine Frame.cut (cs := [.regs, .prt]) (s0 := s) (x := x) ?_ (fun hx => ?_); unfold x; rotate_left; clear_value x)
    | (intro x; clear_value x)
    | intro x
    | with_reducible apply Frame.app (fieldPut_frame _ _ _ _ _)
    | with_reducible apply Frame.app (setProp_frame _ _ _)
    | with_reducible apply Frame.updPrt

theorem propEnds_frame (result : Nat) (s : State) :
    Frame [.regs, .prt, .err] s (propEnds result s) := by
  delta propEnds
  repeat' first
    | with_reducible apply Frame.refl
    | with_reducible assumption
    | apply Eq.refl
    | lift_lets -underBinder -merge -useContext
    | (intro x; refine Frame.cut (cs := [.regs, .prt, .err]) (s0 := s) (x := x) ?_ (fun hx => ?_); unfold x; rotate_left; clear_value x)
    | with_reducible apply Frame.app (raiseInt_frame _ _ _)
    | with_reducible apply Frame.app (propIdle_frame _ _ _)

theorem propNow_frame (s : State) :
    Frame [.regs, .prt, .err] s (propNow s) := by
  delta propNow
  repeat' first
    | with_reducible apply Frame.refl
    | with_reducible assumption
    | apply Eq.refl
    | lift_lets -underBinder -merge -useContext
    | (intro x; refine Frame.cut (cs := [.regs, .prt, .err]) (s0 := s) (x := x) ?_ (fun hx => ?_); unfold x; rotate_left; clear_value x)
    | with_reducible apply Frame.app (propEnds_frame _ _)
    | with_reducible apply Frame.ite

theorem wrProtect_frame (src : Party) (off : Nat) (v : Word) (s : State) :
    Frame [.regs, .prt, .err] s (wrProtect src off v s) := by
  delta wrProtect
  repeat' first
    | with_reducible apply Frame.refl
    | with_reducible assumption
    | apply Eq.refl
    | lift_lets -underBinder -merge -useContext
    | (intro x; refine Frame.cut (cs := [.regs, .prt, .err]) (s0 := s) (x := x) ?_ (fun hx => ?_); unfold x; rotate_left; clear_value x)
    | (intro x; clear_value x)
    | intro x
    | with_reducible apply Frame.app (refuseReg_frame _ _ _ _ _)
    | with_reducible apply Frame.app (setProp_frame _ _ _)
    | with_reducible apply Frame.app (propNow_frame _)
    | with_reducible apply Frame.updPrt
    | with_reducible apply Frame.ite
    | split

theorem submit_frame (s : State) :
    Frame [.regs, .prt, .err, .fwu, .vbt] s (submit s) := by
  delta submit
  repeat' first
    | with_reducible apply Frame.refl
    | with_reducible assumption
    | apply Eq.refl
    | lift_lets -underBinder -merge -useContext
    | (intro x; refine Frame.cut (cs := [.regs, .prt, .err, .fwu, .vbt]) (s0 := s) (x := x) ?_ (fun hx => ?_); unfold x; rotate_left; clear_value x)
    | (intro x; clear_value x)
    | intro x
    | with_reducible apply Frame.app (regPut_frame _ _ _)
    | with_reducible apply Frame.app (fieldPut_frame _ _ _ _ _)
    | with_reducible apply Frame.app (raiseInt_frame _ _ _)
    | with_reducible apply Frame.app (vbtPut_frame _ _ _)
    | with_reducible apply Frame.app (markDirty_frame _)
    | with_reducible apply Frame.app (setProp_frame _ _ _)
    | with_reducible apply Frame.app (propIdle_frame _ _ _)
    | (with_reducible refine Frame.updFwu (by decide) ?_ ?_; (intro _ h; exact h))
    | (with_reducible refine Frame.updFwu (by decide) ?_ ?_; (intro _ h; simp only [FwuSt.sorted] at h ⊢; simp [h]; done))
    | (with_reducible refine Frame.updFwu (by decide) ?_ ?_; (intro _ h; simp only [FwuSt.sorted] at h ⊢; and_intros <;> (try dsimp only) <;> (repeat' split) <;> first | (simp [h]; done) | exact tabFold_rising (fun _ _ g => by first | (simp [g]; done) | (split <;> simp [g]; done)) _ _ (by simp [h])))
    | (with_reducible refine Frame.updFwu (by decide) ?_ ?_; (intro _ h; simp only [FwuSt.sorted] at h ⊢; and_intros <;> first | (simp [h]; done) | exact tabFold_rising (fun _ _ g => by first | (simp [g]; done) | (split <;> simp [g]; done) | exact tabFold_rising (fun _ _ k => by simp [k]) _ _ g) _ _ (by simp [h]) | (repeat' first | exact rfl | exact h | apply tabSet_rising)))
    | with_reducible apply Frame.updPrt
    | with_reducible apply Frame.ite
    | split

theorem cancel_frame (s : State) :
    Frame [.regs, .prt, .err] s (cancel s) := by
  delta cancel
  repeat' first
    | with_reducible apply Frame.refl
    | with_reducible assumption
    | apply Eq.refl
    | lift_lets -underBinder -merge -useContext
    | (intro x; refine Frame.cut (cs := [.regs, .prt, .err]) (s0 := s) (x := x) ?_ (fun hx => ?_); unfold x; rotate_left; clear_value x)
    | with_reducible apply Frame.app (propIdle_frame _ _ _)
    | with_reducible apply Frame.app (propEnds_frame _ _)
    | with_reducible apply Frame.ite

theorem wrPropCtl_frame (src : Party) (v : Word) (s : State) :
    Frame [.regs, .prt, .err, .fwu, .vbt] s (wrPropCtl src v s) := by
  delta wrPropCtl
  repeat' first
    | with_reducible apply Frame.refl
    | with_reducible assumption
    | apply Eq.refl
    | lift_lets -underBinder -merge -useContext
    | (intro x; refine Frame.cut (cs := [.regs, .prt, .err, .fwu, .vbt]) (s0 := s) (x := x) ?_ (fun hx => ?_); unfold x; rotate_left; clear_value x)
    | (intro x; clear_value x)
    | intro x
    | with_reducible apply Frame.app (refuseReg_frame _ _ _ _ _)
    | with_reducible apply Frame.app (propNow_frame _)
    | with_reducible apply Frame.app (submit_frame _)
    | with_reducible apply Frame.app (cancel_frame _)
    | with_reducible apply Frame.ite

theorem applyProposal_frame (s : State) :
    Frame [.regs, .fwu, .vbt] s (applyProposal s) := by
  delta applyProposal
  repeat' first
    | with_reducible apply Frame.refl
    | with_reducible assumption
    | apply Eq.refl
    | lift_lets -underBinder -merge -useContext
    | (intro x; refine Frame.cut (cs := [.regs, .fwu, .vbt]) (s0 := s) (x := x) ?_ (fun hx => ?_); unfold x; rotate_left; clear_value x)
    | (intro x; clear_value x)
    | intro x
    | with_reducible apply Frame.app (regPut_frame _ _ _)
    | with_reducible apply Frame.app (vbtPut_frame _ _ _)
    | (with_reducible refine Frame.updFwu (by decide) ?_ ?_; (intro _ h; exact h))
    | (with_reducible refine Frame.updFwu (by decide) ?_ ?_; (intro _ h; simp only [FwuSt.sorted] at h ⊢; simp [h]; done))
    | (with_reducible refine Frame.updFwu (by decide) ?_ ?_; (intro _ h; simp only [FwuSt.sorted] at h ⊢; and_intros <;> (try dsimp only) <;> (repeat' split) <;> first | (simp [h]; done) | exact tabFold_rising (fun _ _ g => by first | (simp [g]; done) | (split <;> simp [g]; done)) _ _ (by simp [h])))
    | (with_reducible refine Frame.updFwu (by decide) ?_ ?_; (intro _ h; simp only [FwuSt.sorted] at h ⊢; and_intros <;> first | (simp [h]; done) | exact tabFold_rising (fun _ _ g => by first | (simp [g]; done) | (split <;> simp [g]; done) | exact tabFold_rising (fun _ _ k => by simp [k]) _ _ g) _ _ (by simp [h]) | (repeat' first | exact rfl | exact h | apply tabSet_rising)))
    | with_reducible refine Frame.foldl ?_ (fun _ _ _ => ?_)
    | with_reducible apply Frame.ite
    | with_reducible apply_assumption
    | split

theorem execPropExpire_frame (s : State) :
    ∀ out, execPropExpire s = .next out → Frame [.regs, .prt, .err] s out := by
  delta execPropExpire
  intro out h
  injection h with h
  subst h
  repeat' first
    | with_reducible apply Frame.refl
    | with_reducible assumption
    | apply Eq.refl
    | lift_lets -underBinder -merge -useContext
    | (intro x; refine Frame.cut (cs := [.regs, .prt, .err]) (s0 := s) (x := x) ?_ (fun hx => ?_); unfold x; rotate_left; clear_value x)
    | with_reducible apply Frame.app (propNow_frame _)

theorem smbRefuse_frame (code : Nat) (write : Bool) (data : Nat) (s : State) :
    Frame [.regs, .prt, .err] s (smbRefuse code write data s) := by
  delta smbRefuse
  repeat' first
    | with_reducible apply Frame.refl
    | with_reducible assumption
    | apply Eq.refl
    | lift_lets -underBinder -merge -useContext
    | (intro x; refine Frame.cut (cs := [.regs, .prt, .err]) (s0 := s) (x := x) ?_ (fun hx => ?_); unfold x; rotate_left; clear_value x)
    | with_reducible apply Frame.app (refuse_frame _ _ _ _ _ _ _)
    | with_reducible apply Frame.app (smbAnswer_frame _ _)

theorem readProposal_frame (s : State) :
    Frame [.regs, .prt, .err] s (readProposal s) := by
  delta readProposal
  repeat' first
    | with_reducible apply Frame.refl
    | with_reducible assumption
    | apply Eq.refl
    | lift_lets -underBinder -merge -useContext
    | (intro x; refine Frame.cut (cs := [.regs, .prt, .err]) (s0 := s) (x := x) ?_ (fun hx => ?_); unfold x; rotate_left; clear_value x)
    | (intro x; clear_value x)
    | intro x
    | with_reducible apply Frame.app (smbAnswer_frame _ _)
    | with_reducible apply Frame.app (propNow_frame _)
    | with_reducible apply Frame.ite

theorem execPropRead_frame (s : State) :
    ∀ out, execPropRead s = .next out → Frame [.regs, .prt, .err] s out := by
  delta execPropRead
  intro out h
  injection h with h
  subst h
  repeat' first
    | with_reducible apply Frame.refl
    | with_reducible assumption
    | apply Eq.refl
    | lift_lets -underBinder -merge -useContext
    | (intro x; refine Frame.cut (cs := [.regs, .prt, .err]) (s0 := s) (x := x) ?_ (fun hx => ?_); unfold x; rotate_left; clear_value x)
    | with_reducible apply Frame.app (readProposal_frame _)
    | with_reducible apply Frame.ite

theorem confirmProposal_frame (seq : Nat) (digest : Word) (s : State) :
    Frame [.regs, .prt, .err, .fwu, .vbt] s (confirmProposal seq digest s) := by
  delta confirmProposal
  repeat' first
    | with_reducible apply Frame.refl
    | with_reducible assumption
    | apply Eq.refl
    | lift_lets -underBinder -merge -useContext
    | (intro x; refine Frame.cut (cs := [.regs, .prt, .err, .fwu, .vbt]) (s0 := s) (x := x) ?_ (fun hx => ?_); unfold x; rotate_left; clear_value x)
    | (intro x; clear_value x)
    | intro x
    | with_reducible apply Frame.app (smbAnswer_frame _ _)
    | with_reducible apply Frame.app (propEnds_frame _ _)
    | with_reducible apply Frame.app (propNow_frame _)
    | with_reducible apply Frame.app (applyProposal_frame _)
    | with_reducible apply Frame.app (smbRefuse_frame _ _ _ _)
    | with_reducible apply Frame.ite

theorem execConfirm_frame (seq : BitVec 16) (digest : Word) (s : State) :
    ∀ out, execConfirm seq digest s = .next out → Frame [.regs, .prt, .err, .fwu, .vbt] s out := by
  delta execConfirm
  intro out h
  injection h with h
  subst h
  repeat' first
    | with_reducible apply Frame.refl
    | with_reducible assumption
    | apply Eq.refl
    | lift_lets -underBinder -merge -useContext
    | (intro x; refine Frame.cut (cs := [.regs, .prt, .err, .fwu, .vbt]) (s0 := s) (x := x) ?_ (fun hx => ?_); unfold x; rotate_left; clear_value x)
    | with_reducible apply Frame.app (confirmProposal_frame _ _ _)
    | with_reducible apply Frame.ite

theorem rejectProposal_frame (seq : Nat) (s : State) :
    Frame [.regs, .prt, .err] s (rejectProposal seq s) := by
  delta rejectProposal
  repeat' first
    | with_reducible apply Frame.refl
    | with_reducible assumption
    | apply Eq.refl
    | lift_lets -underBinder -merge -useContext
    | (intro x; refine Frame.cut (cs := [.regs, .prt, .err]) (s0 := s) (x := x) ?_ (fun hx => ?_); unfold x; rotate_left; clear_value x)
    | (intro x; clear_value x)
    | intro x
    | with_reducible apply Frame.app (smbAnswer_frame _ _)
    | with_reducible apply Frame.app (propEnds_frame _ _)
    | with_reducible apply Frame.app (propNow_frame _)
    | with_reducible apply Frame.app (smbRefuse_frame _ _ _ _)
    | with_reducible apply Frame.ite

theorem execReject_frame (seq : BitVec 16) (s : State) :
    ∀ out, execReject seq s = .next out → Frame [.regs, .prt, .err] s out := by
  delta execReject
  intro out h
  injection h with h
  subst h
  repeat' first
    | with_reducible apply Frame.refl
    | with_reducible assumption
    | apply Eq.refl
    | lift_lets -underBinder -merge -useContext
    | (intro x; refine Frame.cut (cs := [.regs, .prt, .err]) (s0 := s) (x := x) ?_ (fun hx => ?_); unfold x; rotate_left; clear_value x)
    | with_reducible apply Frame.app (rejectProposal_frame _ _)
    | with_reducible apply Frame.ite

theorem execStatus_frame (s : State) :
    ∀ out, execStatus s = .next out → Frame [.regs, .prt, .err] s out := by
  delta execStatus
  intro out h
  injection h with h
  subst h
  repeat' first
    | with_reducible apply Frame.refl
    | with_reducible assumption
    | apply Eq.refl
    | lift_lets -underBinder -merge -useContext
    | (intro x; refine Frame.cut (cs := [.regs, .prt, .err]) (s0 := s) (x := x) ?_ (fun hx => ?_); unfold x; rotate_left; clear_value x)
    | with_reducible apply Frame.app (smbAnswer_frame _ _)
    | with_reducible apply Frame.app (propNow_frame _)
    | with_reducible apply Frame.ite

theorem execRefRead_frame (s : State) :
    ∀ out, execRefRead s = .next out → Frame [.prt] s out := by
  delta execRefRead
  intro out h
  injection h with h
  subst h
  repeat' first
    | with_reducible apply Frame.refl
    | with_reducible assumption
    | apply Eq.refl
    | lift_lets -underBinder -merge -useContext
    | (intro x; refine Frame.cut (cs := [.prt]) (s0 := s) (x := x) ?_ (fun hx => ?_); unfold x; rotate_left; clear_value x)
    | with_reducible apply Frame.app (smbAnswer_frame _ _)
    | with_reducible apply Frame.ite

theorem execAlertResponse_frame (s : State) :
    ∀ out, execAlertResponse s = .next out → Frame [.prt] s out := by
  delta execAlertResponse
  intro out h
  injection h with h
  subst h
  repeat' first
    | with_reducible apply Frame.refl
    | with_reducible assumption
    | apply Eq.refl
    | lift_lets -underBinder -merge -useContext
    | (intro x; refine Frame.cut (cs := [.prt]) (s0 := s) (x := x) ?_ (fun hx => ?_); unfold x; rotate_left; clear_value x)
    | with_reducible apply Frame.app (smbAnswer_frame _ _)
    | with_reducible apply Frame.updPrt
    | with_reducible apply Frame.ite

theorem execSmbPecError_frame (code : Byte) (s : State) :
    ∀ out, execSmbPecError code s = .next out → Frame [.regs, .prt, .err] s out := by
  delta execSmbPecError
  intro out h
  injection h with h
  subst h
  repeat' first
    | with_reducible apply Frame.refl
    | with_reducible assumption
    | apply Eq.refl
    | lift_lets -underBinder -merge -useContext
    | (intro x; refine Frame.cut (cs := [.regs, .prt, .err]) (s0 := s) (x := x) ?_ (fun hx => ?_); unfold x; rotate_left; clear_value x)
    | with_reducible apply Frame.app (raiseInt_frame _ _ _)
    | with_reducible apply Frame.app (smbAnswer_frame _ _)
    | with_reducible apply Frame.app (smbRefuse_frame _ _ _ _)
    | with_reducible apply Frame.ite

theorem execSmbSclTimeout_frame (s : State) :
    ∀ out, execSmbSclTimeout s = .next out → Frame [] s out := by
  delta execSmbSclTimeout
  intro out h
  injection h with h
  subst h
  repeat' first
    | with_reducible apply Frame.refl
    | with_reducible assumption
    | apply Eq.refl
    | lift_lets -underBinder -merge -useContext
    | (intro x; refine Frame.cut (cs := []) (s0 := s) (x := x) ?_ (fun hx => ?_); unfold x; rotate_left; clear_value x)

theorem wrRefSel_frame (src : Party) (v : Word) (s : State) :
    Frame [.regs, .mwin] s (wrRefSel src v s) := by
  delta wrRefSel
  repeat' first
    | with_reducible apply Frame.refl
    | with_reducible assumption
    | apply Eq.refl
    | lift_lets -underBinder -merge -useContext
    | (intro x; refine Frame.cut (cs := [.regs, .mwin]) (s0 := s) (x := x) ?_ (fun hx => ?_); unfold x; rotate_left; clear_value x)
    | (intro x; clear_value x)
    | intro x
    | with_reducible apply Frame.app (winPut_frame _ _ _ _)
    | with_reducible refine Frame.foldl ?_ (fun _ _ _ => ?_)
    | with_reducible apply Frame.ite
    | with_reducible apply_assumption
    | split

end Sys2Proof.Machine
end

