-- ==== Sys2Proof/Laws/FrameBar4.lean ====
section
/-! SUPPORT. What each operation of Machine/Bar4.lean changes at most, and that it keeps the invariant. -/

namespace Sys2Proof.Machine

set_option linter.all false

open Sys2Proof

theorem pantryManaged_frame (w : Nat) (r : SecRead) (s : State) :
    Frame [.regs, .arr, .hif, .err] s (pantryManaged w r s) := by
  delta pantryManaged
  repeat' first
    | with_reducible apply Frame.refl
    | with_reducible assumption
    | apply Eq.refl
    | lift_lets -underBinder -merge -useContext
    | (intro x; refine Frame.cut (cs := [.regs, .arr, .hif, .err]) (s0 := s) (x := x) ?_ (fun hx => ?_); unfold x; rotate_left; clear_value x)
    | (intro x; clear_value x)
    | intro x
    | with_reducible apply Frame.app (errRecord_frame _ _ _ _ _ _)
    | with_reducible apply Frame.app (intCount_frame _ _)
    | with_reducible apply Frame.app (queueEntryRepair_frame _ _ _ _)
    | with_reducible apply Frame.ite
    | split

theorem scratchWrite_frame (w : Nat) (v : W64) (s : State) :
    Frame [.mem] s (scratchWrite w v s) := by
  delta scratchWrite
  repeat' first
    | with_reducible apply Frame.refl
    | with_reducible assumption
    | apply Eq.refl
    | lift_lets -underBinder -merge -useContext
    | (intro x; refine Frame.cut (cs := [.mem]) (s0 := s) (x := x) ?_ (fun hx => ?_); unfold x; rotate_left; clear_value x)
    | (with_reducible refine Frame.updMem (by decide) (fun _ h => h) (fun _ h => h) (fun _ h => h) ?_ ?_; (intro _ h; exact h))
    | (with_reducible refine Frame.updMem (by decide) (fun _ h => h) (fun _ h => h) (fun _ h => h) ?_ ?_; (intro _ h; simp only [MemSt.sorted] at h ⊢; simp [h]; done))
    | (with_reducible refine Frame.updMem (by decide) (fun _ h => h) (fun _ h => h) (fun _ h => h) ?_ ?_; (intro _ h; simp only [MemSt.sorted] at h ⊢; and_intros <;> (try dsimp only) <;> (repeat' split) <;> first | (simp [h]; done) | exact tabFold_rising (fun _ _ g => by first | (simp [g]; done) | (split <;> simp [g]; done)) _ _ (by simp [h])))
    | (with_reducible refine Frame.updMem (by decide) (fun _ h => h) (fun _ h => h) (fun _ h => h) ?_ ?_; (intro _ h; simp only [MemSt.sorted] at h ⊢; and_intros <;> first | (simp [h]; done) | exact tabFold_rising (fun _ _ g => by first | (simp [g]; done) | (split <;> simp [g]; done) | exact tabFold_rising (fun _ _ k => by simp [k]) _ _ g) _ _ (by simp [h]) | (repeat' first | exact rfl | exact h | apply tabSet_rising)))
    | (with_reducible refine Frame.updMem (by decide) (fun _ h => by first | exact h | exact memNil_wf | exact memSetWord_wf _ _ _ h | exact memFilter_wf _ _ h) (fun _ h => by first | exact h | exact memNil_wf | exact memSetWord_wf _ _ _ h | exact memFilter_wf _ _ h) (fun _ h => by first | exact h | exact memNil_wf | exact memSetByte_wf _ _ _ h | exact memFilter_wf _ _ h) ?_ ?_; (intro _ h; exact h))
    | (with_reducible refine Frame.updMem (by decide) (fun _ h => by first | exact h | exact memNil_wf | exact memSetWord_wf _ _ _ h | exact memFilter_wf _ _ h) (fun _ h => by first | exact h | exact memNil_wf | exact memSetWord_wf _ _ _ h | exact memFilter_wf _ _ h) (fun _ h => by first | exact h | exact memNil_wf | exact memSetByte_wf _ _ _ h | exact memFilter_wf _ _ h) ?_ ?_; (intro _ h; simp only [MemSt.sorted] at h ⊢; simp [h]; done))
    | (with_reducible refine Frame.updMem (by decide) (fun _ h => by first | exact h | exact memNil_wf | exact memSetWord_wf _ _ _ h | exact memFilter_wf _ _ h) (fun _ h => by first | exact h | exact memNil_wf | exact memSetWord_wf _ _ _ h | exact memFilter_wf _ _ h) (fun _ h => by first | exact h | exact memNil_wf | exact memSetByte_wf _ _ _ h | exact memFilter_wf _ _ h) ?_ ?_; (intro _ h; simp only [MemSt.sorted] at h ⊢; and_intros <;> (try dsimp only) <;> (repeat' split) <;> first | (simp [h]; done) | exact tabFold_rising (fun _ _ g => by first | (simp [g]; done) | (split <;> simp [g]; done)) _ _ (by simp [h])))
    | (with_reducible refine Frame.updMem (by decide) (fun _ h => by first | exact h | exact memNil_wf | exact memSetWord_wf _ _ _ h | exact memFilter_wf _ _ h) (fun _ h => by first | exact h | exact memNil_wf | exact memSetWord_wf _ _ _ h | exact memFilter_wf _ _ h) (fun _ h => by first | exact h | exact memNil_wf | exact memSetByte_wf _ _ _ h | exact memFilter_wf _ _ h) ?_ ?_; (intro _ h; simp only [MemSt.sorted] at h ⊢; and_intros <;> first | (simp [h]; done) | exact tabFold_rising (fun _ _ g => by first | (simp [g]; done) | (split <;> simp [g]; done) | exact tabFold_rising (fun _ _ k => by simp [k]) _ _ g) _ _ (by simp [h]) | (repeat' first | exact rfl | exact h | apply tabSet_rising)))

theorem scratchManaged_frame (w : Nat) (r : SecRead) (s : State) :
    Frame [.clk, .regs, .mwin, .arr, .tbl, .mem, .lnk, .pip, .upd, .epc, .tod, .cas, .hif, .prt, .err, .drc, .rst, .pwr, .fwu, .vbt] s (scratchManaged w r s) := by
  delta scratchManaged
  repeat' first
    | with_reducible apply Frame.refl
    | with_reducible assumption
    | apply Eq.refl
    | lift_lets -underBinder -merge -useContext
    | (intro x; refine Frame.cut (cs := [.clk, .regs, .mwin, .arr, .tbl, .mem, .lnk, .pip, .upd, .epc, .tod, .cas, .hif, .prt, .err, .drc, .rst, .pwr, .fwu, .vbt]) (s0 := s) (x := x) ?_ (fun hx => ?_); unfold x; rotate_left; clear_value x)
    | with_reducible apply Frame.app (errRecord_frame _ _ _ _ _ _)
    | with_reducible apply Frame.app (intCount_frame _ _)
    | with_reducible apply Frame.app (islandReset_frame _ _)
    | with_reducible apply Frame.ite

theorem managedRead_frame (space w : Nat) (s : State) :
    Frame [.clk, .regs, .mwin, .arr, .tbl, .mem, .lnk, .pip, .upd, .epc, .tod, .cas, .hif, .prt, .err, .drc, .rst, .pwr, .fwu, .vbt] s (managedRead space w s).2 := by
  delta managedRead
  repeat' first
    | with_reducible apply Frame.refl
    | with_reducible assumption
    | apply Eq.refl
    | lift_lets -underBinder -merge -useContext
    | (intro x; refine Frame.cut (cs := [.clk, .regs, .mwin, .arr, .tbl, .mem, .lnk, .pip, .upd, .epc, .tod, .cas, .hif, .prt, .err, .drc, .rst, .pwr, .fwu, .vbt]) (s0 := s) (x := x) ?_ (fun hx => ?_); unfold x; rotate_left; clear_value x)
    | with_reducible apply Frame.app (pantryManaged_frame _ _ _)
    | with_reducible apply Frame.app (scratchManaged_frame _ _ _)
    | with_reducible apply Frame.ite
    | with_reducible apply Frame.ite2

theorem managedWrite_frame (space w : Nat) (v : W64) (s : State) :
    Frame [.mem] s (managedWrite space w v s) := by
  delta managedWrite
  repeat' first
    | with_reducible apply Frame.refl
    | with_reducible assumption
    | apply Eq.refl
    | lift_lets -underBinder -merge -useContext
    | (intro x; refine Frame.cut (cs := [.mem]) (s0 := s) (x := x) ?_ (fun hx => ?_); unfold x; rotate_left; clear_value x)
    | with_reducible apply Frame.app (pantryWrite_frame _ _ _)
    | with_reducible apply Frame.app (scratchWrite_frame _ _ _)
    | with_reducible apply Frame.ite

theorem managedModify_frame (m : MemMaster) (space w : Nat) (f : W64 → W64) (s : State) :
    Frame [.clk, .regs, .mwin, .arr, .tbl, .mem, .lnk, .pip, .upd, .epc, .tod, .cas, .hif, .prt, .err, .drc, .rst, .pwr, .fwu, .vbt] s (managedModify m space w f s) := by
  delta managedModify
  repeat' first
    | with_reducible apply Frame.refl
    | with_reducible assumption
    | apply Eq.refl
    | lift_lets -underBinder -merge -useContext
    | (intro x; refine Frame.cut (cs := [.clk, .regs, .mwin, .arr, .tbl, .mem, .lnk, .pip, .upd, .epc, .tod, .cas, .hif, .prt, .err, .drc, .rst, .pwr, .fwu, .vbt]) (s0 := s) (x := x) ?_ (fun hx => ?_); unfold x; rotate_left; clear_value x)
    | (intro x; refine Frame.cut (cs := [.clk, .regs, .mwin, .arr, .tbl, .mem, .lnk, .pip, .upd, .epc, .tod, .cas, .hif, .prt, .err, .drc, .rst, .pwr, .fwu, .vbt]) (s0 := s) (x := x.2) ?_ (fun hx => ?_); unfold x; rotate_left; clear_value x)
    | (intro x; clear_value x)
    | intro x
    | with_reducible apply Frame.app (busError_frame _ _ _ _)
    | with_reducible apply Frame.app (managedRead_frame _ _ _)
    | with_reducible apply Frame.app (managedWrite_frame _ _ _ _)
    | with_reducible apply Frame.ite

theorem grantBlocks_frame (x : MemAcc) (blks : List Nat) (cycles : Nat) (rivals : List (List (Fin 5))) (s : State) :
    Frame [.regs, .mem] s (grantBlocks x blks cycles rivals s) := by
  delta grantBlocks
  repeat' first
    | with_reducible apply Frame.refl
    | with_reducible assumption
    | apply Eq.refl
    | lift_lets -underBinder -merge -useContext
    | (intro x; refine Frame.cut (cs := [.regs, .mem]) (s0 := s) (x := x) ?_ (fun hx => ?_); unfold x; rotate_left; clear_value x)
    | with_reducible apply Frame.app (contend_frame _ _ _ _ _)
    | with_reducible refine Frame.foldl ?_ (fun _ _ _ => ?_)
    | with_reducible apply_assumption

theorem readWords_frame (x : MemAcc) (be : List Bool) (rivals : List (List (Fin 5))) (s : State) :
    Frame [.clk, .regs, .mwin, .arr, .tbl, .mem, .lnk, .pip, .upd, .epc, .tod, .cas, .hif, .prt, .err, .drc, .rst, .pwr, .fwu, .vbt] s (readWords x be rivals s) := by
  delta readWords
  repeat' first
    | with_reducible apply Frame.refl
    | with_reducible assumption
    | apply Eq.refl
    | lift_lets -underBinder -merge -useContext
    | (intro x; refine Frame.cut (cs := [.clk, .regs, .mwin, .arr, .tbl, .mem, .lnk, .pip, .upd, .epc, .tod, .cas, .hif, .prt, .err, .drc, .rst, .pwr, .fwu, .vbt]) (s0 := s) (x := x) ?_ (fun hx => ?_); unfold x; rotate_left; clear_value x)
    | (intro x; refine Frame.cut (cs := [.clk, .regs, .mwin, .arr, .tbl, .mem, .lnk, .pip, .upd, .epc, .tod, .cas, .hif, .prt, .err, .drc, .rst, .pwr, .fwu, .vbt]) (s0 := s) (x := x.2) ?_ (fun hx => ?_); unfold x; rotate_left; clear_value x)
    | (intro x; clear_value x)
    | intro x
    | with_reducible apply Frame.app (answer_frame _ _)
    | with_reducible apply Frame.app (readZero_frame _ _)
    | with_reducible apply Frame.app (busError_frame _ _ _ _)
    | with_reducible apply Frame.app (managedRead_frame _ _ _)
    | with_reducible apply Frame.app (grantBlocks_frame _ _ _ _ _)
    | with_reducible refine Frame.foldl ?_ (fun _ _ _ => ?_)
    | with_reducible apply Frame.ite
    | with_reducible apply_assumption
    | split
    | with_reducible refine Frame.app (Frame.ofPair (managedRead_frame _ _ _) (by assumption)) ?_ ?_

theorem readActivity_frame (byte : Nat) (be : List Bool) (s : State) :
    Frame [.regs, .arr, .hif] s (readActivity byte be s) := by
  delta readActivity
  repeat' first
    | with_reducible apply Frame.refl
    | with_reducible assumption
    | apply Eq.refl
    | lift_lets -underBinder -merge -useContext
    | (intro x; refine Frame.cut (cs := [.regs, .arr, .hif]) (s0 := s) (x := x) ?_ (fun hx => ?_); unfold x; rotate_left; clear_value x)
    | (intro x; clear_value x)
    | intro x
    | with_reducible apply Frame.app (answer_frame _ _)
    | with_reducible apply Frame.app (fixActivity_frame _ _)
    | with_reducible refine Frame.foldl ?_ (fun _ _ _ => ?_)
    | with_reducible apply_assumption

theorem memRead_frame (x : MemAcc) (be : List Bool) (rivals : List (List (Fin 5))) (s : State) :
    Frame [.clk, .regs, .mwin, .arr, .tbl, .mem, .lnk, .pip, .upd, .epc, .tod, .cas, .hif, .prt, .err, .drc, .rst, .pwr, .fwu, .vbt] s (memRead x be rivals s) := by
  delta memRead
  repeat' first
    | with_reducible apply Frame.refl
    | with_reducible assumption
    | apply Eq.refl
    | lift_lets -underBinder -merge -useContext
    | (intro x; refine Frame.cut (cs := [.clk, .regs, .mwin, .arr, .tbl, .mem, .lnk, .pip, .upd, .epc, .tod, .cas, .hif, .prt, .err, .drc, .rst, .pwr, .fwu, .vbt]) (s0 := s) (x := x) ?_ (fun hx => ?_); unfold x; rotate_left; clear_value x)
    | with_reducible apply Frame.app (askRead_frame _ _ _ _)
    | with_reducible apply Frame.app (readWords_frame _ _ _ _)
    | with_reducible apply Frame.app (readActivity_frame _ _ _)
    | with_reducible apply Frame.ite

theorem bar4Read_frame (fn : Fin 64) (off : Nat) (be : List Bool) (rivals : List (List (Fin 5))) (s : State) :
    Frame [.clk, .regs, .mwin, .arr, .tbl, .mem, .lnk, .pip, .upd, .epc, .tod, .cas, .hif, .prt, .err, .drc, .rst, .pwr, .fwu, .vbt] s (bar4Read fn off be rivals s) := by
  delta bar4Read
  repeat' first
    | with_reducible apply Frame.refl
    | with_reducible assumption
    | apply Eq.refl
    | lift_lets -underBinder -merge -useContext
    | (intro x; refine Frame.cut (cs := [.clk, .regs, .mwin, .arr, .tbl, .mem, .lnk, .pip, .upd, .epc, .tod, .cas, .hif, .prt, .err, .drc, .rst, .pwr, .fwu, .vbt]) (s0 := s) (x := x) ?_ (fun hx => ?_); unfold x; rotate_left; clear_value x)
    | (intro x; clear_value x)
    | intro x
    | with_reducible apply Frame.app (refuse_frame _ _ _ _ _ _ _)
    | with_reducible apply Frame.app (readZero_frame _ _)
    | with_reducible apply Frame.app (memRead_frame _ _ _ _)
    | with_reducible apply Frame.ite
    | split

theorem mpRefuse_frame (c : Nat) (x : MemAcc) (write : Bool) (data : Nat) (s : State) :
    Frame [.regs, .hif, .prt, .err] s (mpRefuse c x write data s) := by
  delta mpRefuse
  repeat' first
    | with_reducible apply Frame.refl
    | with_reducible assumption
    | apply Eq.refl
    | lift_lets -underBinder -merge -useContext
    | (intro x; refine Frame.cut (cs := [.regs, .hif, .prt, .err]) (s0 := s) (x := x) ?_ (fun hx => ?_); unfold x; rotate_left; clear_value x)
    | with_reducible apply Frame.app (refuse_frame _ _ _ _ _ _ _)
    | with_reducible apply Frame.app (busError_frame _ _ _ _)

theorem mpLoad_frame (space byte : Nat) (be : List Bool) (rivals : List (List (Fin 5))) (s : State) :
    Frame [.clk, .regs, .mwin, .arr, .tbl, .mem, .lnk, .pip, .upd, .epc, .tod, .cas, .hif, .prt, .err, .drc, .rst, .pwr, .fwu, .vbt] s (mpLoad space byte be rivals s) := by
  delta mpLoad
  repeat' first
    | with_reducible apply Frame.refl
    | with_reducible assumption
    | apply Eq.refl
    | lift_lets -underBinder -merge -useContext
    | (intro x; refine Frame.cut (cs := [.clk, .regs, .mwin, .arr, .tbl, .mem, .lnk, .pip, .upd, .epc, .tod, .cas, .hif, .prt, .err, .drc, .rst, .pwr, .fwu, .vbt]) (s0 := s) (x := x) ?_ (fun hx => ?_); unfold x; rotate_left; clear_value x)
    | (intro x; clear_value x)
    | intro x
    | with_reducible apply Frame.app (nextFree_frame _)
    | with_reducible apply Frame.app (readZero_frame _ _)
    | with_reducible apply Frame.app (busError_frame _ _ _ _)
    | with_reducible apply Frame.app (memRead_frame _ _ _ _)
    | with_reducible apply Frame.app (mpRefuse_frame _ _ _ _ _)
    | with_reducible apply Frame.ite

theorem execBar4Read_frame (m : MemMaster) (off : Nat) (be : List Bool) (rivals : List (List (Fin 5))) (s : State) :
    ∀ out, execBar4Read m off be rivals s = .next out → Frame [.clk, .regs, .mwin, .arr, .tbl, .mem, .lnk, .pip, .upd, .epc, .tod, .cas, .hif, .prt, .err, .drc, .rst, .pwr, .fwu, .vbt] s out := by
  delta execBar4Read
  intro out h
  injection h with h
  subst h
  repeat' first
    | with_reducible apply Frame.refl
    | with_reducible assumption
    | apply Eq.refl
    | lift_lets -underBinder -merge -useContext
    | (intro x; refine Frame.cut (cs := [.clk, .regs, .mwin, .arr, .tbl, .mem, .lnk, .pip, .upd, .epc, .tod, .cas, .hif, .prt, .err, .drc, .rst, .pwr, .fwu, .vbt]) (s0 := s) (x := x) ?_ (fun hx => ?_); unfold x; rotate_left; clear_value x)
    | with_reducible apply Frame.app (bar4Read_frame _ _ _ _ _)
    | with_reducible apply Frame.app (mpLoad_frame _ _ _ _ _)
    | split

theorem writeWords_frame (x : MemAcc) (data : List (Option Byte)) (rivals : List (List (Fin 5))) (s : State) :
    Frame [.clk, .regs, .mwin, .arr, .tbl, .mem, .lnk, .pip, .upd, .epc, .tod, .cas, .hif, .prt, .err, .drc, .rst, .pwr, .fwu, .vbt] s (writeWords x data rivals s) := by
  delta writeWords
  repeat' first
    | with_reducible apply Frame.refl
    | with_reducible assumption
    | apply Eq.refl
    | lift_lets -underBinder -merge -useContext
    | (intro x; refine Frame.cut (cs := [.clk, .regs, .mwin, .arr, .tbl, .mem, .lnk, .pip, .upd, .epc, .tod, .cas, .hif, .prt, .err, .drc, .rst, .pwr, .fwu, .vbt]) (s0 := s) (x := x) ?_ (fun hx => ?_); unfold x; rotate_left; clear_value x)
    | (intro x; clear_value x)
    | intro x
    | with_reducible apply Frame.app (managedWrite_frame _ _ _ _)
    | with_reducible apply Frame.app (managedModify_frame _ _ _ _ _)
    | with_reducible apply Frame.app (grantBlocks_frame _ _ _ _ _)
    | with_reducible refine Frame.foldl ?_ (fun _ _ _ => ?_)
    | with_reducible apply Frame.ite
    | with_reducible apply_assumption

theorem writeAlias_frame (x : MemAcc) (data : List (Option Byte)) (rivals : List (List (Fin 5))) (s : State) :
    Frame [.clk, .regs, .mwin, .arr, .tbl, .mem, .lnk, .pip, .upd, .epc, .tod, .cas, .hif, .prt, .err, .drc, .rst, .pwr, .fwu, .vbt] s (writeAlias x data rivals s) := by
  delta writeAlias
  repeat' first
    | with_reducible apply Frame.refl
    | with_reducible assumption
    | apply Eq.refl
    | lift_lets -underBinder -merge -useContext
    | (intro x; refine Frame.cut (cs := [.clk, .regs, .mwin, .arr, .tbl, .mem, .lnk, .pip, .upd, .epc, .tod, .cas, .hif, .prt, .err, .drc, .rst, .pwr, .fwu, .vbt]) (s0 := s) (x := x) ?_ (fun hx => ?_); unfold x; rotate_left; clear_value x)
    | (intro x; clear_value x)
    | intro x
    | with_reducible apply Frame.app (managedModify_frame _ _ _ _ _)
    | with_reducible apply Frame.app (grantBlocks_frame _ _ _ _ _)
    | with_reducible apply Frame.ite

theorem clearAlias_frame (byte : Nat) (data : List (Option Byte)) (s : State) :
    Frame [.regs, .arr] s (clearAlias byte data s) := by
  delta clearAlias
  repeat' first
    | with_reducible apply Frame.refl
    | with_reducible assumption
    | apply Eq.refl
    | lift_lets -underBinder -merge -useContext
    | (intro x; refine Frame.cut (cs := [.regs, .arr]) (s0 := s) (x := x) ?_ (fun hx => ?_); unfold x; rotate_left; clear_value x)
    | (intro x; clear_value x)
    | intro x
    | with_reducible apply Frame.app (fixActivity_frame _ _)
    | with_reducible apply Frame.app (clearActivity_frame _ _)
    | with_reducible refine Frame.foldl ?_ (fun _ _ _ => ?_)
    | with_reducible apply Frame.ite
    | with_reducible apply_assumption
    | split

theorem memWrite_frame (x : MemAcc) (data : List (Option Byte)) (rivals : List (List (Fin 5))) (s : State) :
    Frame [.clk, .regs, .mwin, .arr, .tbl, .mem, .lnk, .pip, .upd, .epc, .tod, .cas, .hif, .prt, .err, .drc, .rst, .pwr, .fwu, .vbt] s (memWrite x data rivals s) := by
  delta memWrite
  repeat' first
    | with_reducible apply Frame.refl
    | with_reducible assumption
    | apply Eq.refl
    | lift_lets -underBinder -merge -useContext
    | (intro x; refine Frame.cut (cs := [.clk, .regs, .mwin, .arr, .tbl, .mem, .lnk, .pip, .upd, .epc, .tod, .cas, .hif, .prt, .err, .drc, .rst, .pwr, .fwu, .vbt]) (s0 := s) (x := x) ?_ (fun hx => ?_); unfold x; rotate_left; clear_value x)
    | with_reducible apply Frame.app (askWrite_frame _ _ _ _)
    | with_reducible apply Frame.app (writeWords_frame _ _ _ _)
    | with_reducible apply Frame.app (writeAlias_frame _ _ _ _)
    | with_reducible apply Frame.app (clearAlias_frame _ _ _)
    | with_reducible apply Frame.ite

theorem bar4Write_frame (fn : Fin 64) (off : Nat) (data : List (Option Byte)) (poisoned : Bool) (rivals : List (List (Fin 5))) (s : State) :
    Frame [.clk, .regs, .mwin, .arr, .tbl, .mem, .lnk, .pip, .upd, .epc, .tod, .cas, .hif, .prt, .err, .drc, .rst, .pwr, .fwu, .vbt] s (bar4Write fn off data poisoned rivals s) := by
  delta bar4Write
  repeat' first
    | with_reducible apply Frame.refl
    | with_reducible assumption
    | apply Eq.refl
    | lift_lets -underBinder -merge -useContext
    | (intro x; refine Frame.cut (cs := [.clk, .regs, .mwin, .arr, .tbl, .mem, .lnk, .pip, .upd, .epc, .tod, .cas, .hif, .prt, .err, .drc, .rst, .pwr, .fwu, .vbt]) (s0 := s) (x := x) ?_ (fun hx => ?_); unfold x; rotate_left; clear_value x)
    | (intro x; clear_value x)
    | intro x
    | with_reducible apply Frame.app (refuse_frame _ _ _ _ _ _ _)
    | with_reducible apply Frame.app (refusePoison_frame _ _ _ _ _)
    | with_reducible apply Frame.app (memWrite_frame _ _ _ _)
    | with_reducible apply Frame.ite
    | split

theorem mpStore_frame (space byte alias_ : Nat) (data : List (Option Byte)) (rivals : List (List (Fin 5))) (s : State) :
    Frame [.clk, .regs, .mwin, .arr, .tbl, .mem, .lnk, .pip, .upd, .epc, .tod, .cas, .hif, .prt, .err, .drc, .rst, .pwr, .fwu, .vbt] s (mpStore space byte alias_ data rivals s) := by
  delta mpStore
  repeat' first
    | with_reducible apply Frame.refl
    | with_reducible assumption
    | apply Eq.refl
    | lift_lets -underBinder -merge -useContext
    | (intro x; refine Frame.cut (cs := [.clk, .regs, .mwin, .arr, .tbl, .mem, .lnk, .pip, .upd, .epc, .tod, .cas, .hif, .prt, .err, .drc, .rst, .pwr, .fwu, .vbt]) (s0 := s) (x := x) ?_ (fun hx => ?_); unfold x; rotate_left; clear_value x)
    | (intro x; clear_value x)
    | intro x
    | with_reducible apply Frame.app (mpRefuse_frame _ _ _ _ _)
    | with_reducible apply Frame.app (memWrite_frame _ _ _ _)
    | with_reducible apply Frame.ite

theorem execBar4Write_frame (m : MemMaster) (off : Nat) (data : List (Option Byte)) (poisoned : Bool) (rivals : List (List (Fin 5))) (s : State) :
    ∀ out, execBar4Write m off data poisoned rivals s = .next out → Frame [.clk, .regs, .mwin, .arr, .tbl, .mem, .lnk, .pip, .upd, .epc, .tod, .cas, .hif, .prt, .err, .drc, .rst, .pwr, .fwu, .vbt] s out := by
  delta execBar4Write
  intro out h
  injection h with h
  subst h
  repeat' first
    | with_reducible apply Frame.refl
    | with_reducible assumption
    | apply Eq.refl
    | lift_lets -underBinder -merge -useContext
    | (intro x; refine Frame.cut (cs := [.clk, .regs, .mwin, .arr, .tbl, .mem, .lnk, .pip, .upd, .epc, .tod, .cas, .hif, .prt, .err, .drc, .rst, .pwr, .fwu, .vbt]) (s0 := s) (x := x) ?_ (fun hx => ?_); unfold x; rotate_left; clear_value x)
    | with_reducible apply Frame.app (bar4Write_frame _ _ _ _ _ _)
    | with_reducible apply Frame.app (mpStore_frame _ _ _ _ _ _)
    | with_reducible apply Frame.ite
    | split

theorem execAliasSetWrite_frame (m : MemMaster) (off : Nat) (data : List (Option Byte)) (poisoned : Bool) (rivals : List (List (Fin 5))) (s : State) :
    ∀ out, execAliasSetWrite m off data poisoned rivals s = .next out → Frame [.clk, .regs, .mwin, .arr, .tbl, .mem, .lnk, .pip, .upd, .epc, .tod, .cas, .hif, .prt, .err, .drc, .rst, .pwr, .fwu, .vbt] s out := by
  delta execAliasSetWrite
  intro out h
  injection h with h
  subst h
  repeat' first
    | with_reducible apply Frame.refl
    | with_reducible assumption
    | apply Eq.refl
    | lift_lets -underBinder -merge -useContext
    | (intro x; refine Frame.cut (cs := [.clk, .regs, .mwin, .arr, .tbl, .mem, .lnk, .pip, .upd, .epc, .tod, .cas, .hif, .prt, .err, .drc, .rst, .pwr, .fwu, .vbt]) (s0 := s) (x := x) ?_ (fun hx => ?_); unfold x; rotate_left; clear_value x)
    | with_reducible apply Frame.app (bar4Write_frame _ _ _ _ _ _)
    | with_reducible apply Frame.app (mpStore_frame _ _ _ _ _ _)
    | with_reducible apply Frame.ite
    | split

theorem execAliasClearWrite_frame (m : MemMaster) (off : Nat) (data : List (Option Byte)) (poisoned : Bool) (rivals : List (List (Fin 5))) (s : State) :
    ∀ out, execAliasClearWrite m off data poisoned rivals s = .next out → Frame [.clk, .regs, .mwin, .arr, .tbl, .mem, .lnk, .pip, .upd, .epc, .tod, .cas, .hif, .prt, .err, .drc, .rst, .pwr, .fwu, .vbt] s out := by
  delta execAliasClearWrite
  intro out h
  injection h with h
  subst h
  repeat' first
    | with_reducible apply Frame.refl
    | with_reducible assumption
    | apply Eq.refl
    | lift_lets -underBinder -merge -useContext
    | (intro x; refine Frame.cut (cs := [.clk, .regs, .mwin, .arr, .tbl, .mem, .lnk, .pip, .upd, .epc, .tod, .cas, .hif, .prt, .err, .drc, .rst, .pwr, .fwu, .vbt]) (s0 := s) (x := x) ?_ (fun hx => ?_); unfold x; rotate_left; clear_value x)
    | with_reducible apply Frame.app (bar4Write_frame _ _ _ _ _ _)
    | with_reducible apply Frame.app (mpStore_frame _ _ _ _ _ _)
    | with_reducible apply Frame.ite
    | split

theorem execActivityClear_frame (fn : Fin 64) (off : Nat) (data : List (Option Byte)) (poisoned : Bool) (s : State) :
    ∀ out, execActivityClear fn off data poisoned s = .next out → Frame [.clk, .regs, .mwin, .arr, .tbl, .mem, .lnk, .pip, .upd, .epc, .tod, .cas, .hif, .prt, .err, .drc, .rst, .pwr, .fwu, .vbt] s out := by
  delta execActivityClear
  intro out h
  injection h with h
  subst h
  repeat' first
    | with_reducible apply Frame.refl
    | with_reducible assumption
    | apply Eq.refl
    | lift_lets -underBinder -merge -useContext
    | (intro x; refine Frame.cut (cs := [.clk, .regs, .mwin, .arr, .tbl, .mem, .lnk, .pip, .upd, .epc, .tod, .cas, .hif, .prt, .err, .drc, .rst, .pwr, .fwu, .vbt]) (s0 := s) (x := x) ?_ (fun hx => ?_); unfold x; rotate_left; clear_value x)
    | with_reducible apply Frame.app (bar4Write_frame _ _ _ _ _ _)
    | with_reducible apply Frame.ite

end Sys2Proof.Machine
end

