-- ==== Sys2Proof/Laws/FrameRegisters.lean ====
section
/-! SUPPORT. What each operation of Machine/Registers.lean changes at most, and that it keeps the invariant. -/

namespace Sys2Proof.Machine

set_option linter.all false

open Sys2Proof

theorem wrStage_frame (src : Party) (off : Nat) (v : Word) (s : State) :
    Frame [.regs, .mwin] s (wrStage src off v s) := by
  delta wrStage
  repeat' first
    | with_reducible apply Frame.refl
    | with_reducible assumption
    | apply Eq.refl
    | lift_lets -underBinder -merge -useContext
    | (intro x; refine Frame.cut (cs := [.regs, .mwin]) (s0 := s) (x := x) ?_ (fun hx => ?_); unfold x; rotate_left; clear_value x)
    | with_reducible apply Frame.app (winPut_frame _ _ _ _)
    | split

theorem wrTodStage_frame (src : Party) (off : Nat) (v : Word) (s : State) :
    Frame [.regs, .prt, .err] s (wrTodStage src off v s) := by
  delta wrTodStage
  repeat' first
    | with_reducible apply Frame.refl
    | with_reducible assumption
    | apply Eq.refl
    | lift_lets -underBinder -merge -useContext
    | (intro x; refine Frame.cut (cs := [.regs, .prt, .err]) (s0 := s) (x := x) ?_ (fun hx => ?_); unfold x; rotate_left; clear_value x)
    | with_reducible apply Frame.app (plainWrite_frame _ _ _)
    | with_reducible apply Frame.app (refuseReg_frame _ _ _ _ _)
    | with_reducible apply Frame.ite

theorem wrPpsCfg_frame (v : Word) (s : State) :
    Frame [.regs, .tod] s (wrPpsCfg v s) := by
  delta wrPpsCfg
  repeat' first
    | with_reducible apply Frame.refl
    | with_reducible assumption
    | apply Eq.refl
    | lift_lets -underBinder -merge -useContext
    | (intro x; refine Frame.cut (cs := [.regs, .tod]) (s0 := s) (x := x) ?_ (fun hx => ?_); unfold x; rotate_left; clear_value x)
    | (intro x; clear_value x)
    | intro x
    | with_reducible apply Frame.app (plainWrite_frame _ _ _)
    | (with_reducible refine Frame.updTod (by decide) (fun _ h => h) ?_ ?_; (intro _ h; exact h))
    | (with_reducible refine Frame.updTod (by decide) (fun _ h => h) ?_ ?_; (intro _ h; simp only [TodSt.sorted] at h ⊢; simp [h]; done))
    | (with_reducible refine Frame.updTod (by decide) (fun _ h => h) ?_ ?_; (intro _ h; simp only [TodSt.sorted] at h ⊢; and_intros <;> (try dsimp only) <;> (repeat' split) <;> first | (simp [h]; done) | exact tabFold_rising (fun _ _ g => by first | (simp [g]; done) | (split <;> simp [g]; done)) _ _ (by simp [h])))
    | (with_reducible refine Frame.updTod (by decide) (fun _ h => h) ?_ ?_; (intro _ h; simp only [TodSt.sorted] at h ⊢; and_intros <;> first | (simp [h]; done) | exact tabFold_rising (fun _ _ g => by first | (simp [g]; done) | (split <;> simp [g]; done) | exact tabFold_rising (fun _ _ k => by simp [k]) _ _ g) _ _ (by simp [h]) | (repeat' first | exact rfl | exact h | apply tabSet_rising)))
    | with_reducible apply Frame.ite

theorem wrVfVec_frame (src : Party) (off : Nat) (v : Word) (s : State) :
    Frame [.regs, .prt, .err] s (wrVfVec src off v s) := by
  delta wrVfVec
  repeat' first
    | with_reducible apply Frame.refl
    | with_reducible assumption
    | apply Eq.refl
    | lift_lets -underBinder -merge -useContext
    | (intro x; refine Frame.cut (cs := [.regs, .prt, .err]) (s0 := s) (x := x) ?_ (fun hx => ?_); unfold x; rotate_left; clear_value x)
    | with_reducible apply Frame.app (plainWrite_frame _ _ _)
    | with_reducible apply Frame.app (refuseReg_frame _ _ _ _ _)
    | with_reducible apply Frame.ite

theorem wrXingMode_frame (src : Party) (v : Word) (s : State) :
    Frame [.regs, .prt, .err] s (wrXingMode src v s) := by
  delta wrXingMode
  repeat' first
    | with_reducible apply Frame.refl
    | with_reducible assumption
    | apply Eq.refl
    | lift_lets -underBinder -merge -useContext
    | (intro x; refine Frame.cut (cs := [.regs, .prt, .err]) (s0 := s) (x := x) ?_ (fun hx => ?_); unfold x; rotate_left; clear_value x)
    | with_reducible apply Frame.app (plainWrite_frame _ _ _)
    | with_reducible apply Frame.app (refuseReg_frame _ _ _ _ _)
    | with_reducible apply Frame.ite

theorem wrGlb_frame (src : Party) (off : Nat) (v : Word) (s : State) :
    Frame [.clk, .regs, .mwin, .arr, .tbl, .mem, .lnk, .pip, .upd, .epc, .tod, .cas, .hif, .prt, .err, .drc, .rst, .pwr, .fwu, .vbt] s (wrGlb src off v s) := by
  delta wrGlb
  repeat' first
    | with_reducible apply Frame.refl
    | with_reducible assumption
    | apply Eq.refl
    | lift_lets -underBinder -merge -useContext
    | (intro x; refine Frame.cut (cs := [.clk, .regs, .mwin, .arr, .tbl, .mem, .lnk, .pip, .upd, .epc, .tod, .cas, .hif, .prt, .err, .drc, .rst, .pwr, .fwu, .vbt]) (s0 := s) (x := x) ?_ (fun hx => ?_); unfold x; rotate_left; clear_value x)
    | with_reducible apply Frame.app (plainWrite_frame _ _ _)
    | with_reducible apply Frame.app (wrMemMode_frame _ _ _)
    | with_reducible apply Frame.app (wrBankOwn_frame _ _ _ _)
    | with_reducible apply Frame.app (wrRstCtl_frame _ _ _)
    | with_reducible apply Frame.ite

theorem wrLnk_frame (src : Party) (off : Nat) (v : Word) (s : State) :
    Frame [.regs, .lnk, .prt, .err] s (wrLnk src off v s) := by
  delta wrLnk
  repeat' first
    | with_reducible apply Frame.refl
    | with_reducible assumption
    | apply Eq.refl
    | lift_lets -underBinder -merge -useContext
    | (intro x; refine Frame.cut (cs := [.regs, .lnk, .prt, .err]) (s0 := s) (x := x) ?_ (fun hx => ?_); unfold x; rotate_left; clear_value x)
    | with_reducible apply Frame.app (plainWrite_frame _ _ _)
    | with_reducible apply Frame.app (wrGrpCtl_frame _ _ _)
    | with_reducible apply Frame.app (wrGrpMap_frame _ _ _)
    | with_reducible apply Frame.ite

theorem wrPip_frame (src : Party) (off : Nat) (v : Word) (s : State) :
    Frame [.regs, .tbl, .pip, .cas, .prt, .err] s (wrPip src off v s) := by
  delta wrPip
  repeat' first
    | with_reducible apply Frame.refl
    | with_reducible assumption
    | apply Eq.refl
    | lift_lets -underBinder -merge -useContext
    | (intro x; refine Frame.cut (cs := [.regs, .tbl, .pip, .cas, .prt, .err]) (s0 := s) (x := x) ?_ (fun hx => ?_); unfold x; rotate_left; clear_value x)
    | with_reducible apply Frame.app (plainWrite_frame _ _ _)
    | with_reducible apply Frame.app (wrSched_frame _ _ _ _)
    | with_reducible apply Frame.app (wrSchedCtl_frame _ _ _)
    | with_reducible apply Frame.ite

theorem wrPrf_frame (src : Party) (off : Nat) (v : Word) (s : State) :
    Frame [.regs, .tbl, .upd, .cas, .prt, .err] s (wrPrf src off v s) := by
  delta wrPrf
  repeat' first
    | with_reducible apply Frame.refl
    | with_reducible assumption
    | apply Eq.refl
    | lift_lets -underBinder -merge -useContext
    | (intro x; refine Frame.cut (cs := [.regs, .tbl, .upd, .cas, .prt, .err]) (s0 := s) (x := x) ?_ (fun hx => ?_); unfold x; rotate_left; clear_value x)
    | with_reducible apply Frame.app (plainWrite_frame _ _ _)
    | with_reducible apply Frame.app (wrPrfCtl_frame _ _ _)
    | with_reducible apply Frame.app (wrPrfStage_frame _ _ _ _)
    | with_reducible apply Frame.ite

theorem wrUpd_frame (src : Party) (off : Nat) (v : Word) (s : State) :
    Frame [.regs, .mwin, .arr, .tbl, .upd, .epc, .cas, .hif, .prt, .err] s (wrUpd src off v s) := by
  delta wrUpd
  repeat' first
    | with_reducible apply Frame.refl
    | with_reducible assumption
    | apply Eq.refl
    | lift_lets -underBinder -merge -useContext
    | (intro x; refine Frame.cut (cs := [.regs, .mwin, .arr, .tbl, .upd, .epc, .cas, .hif, .prt, .err]) (s0 := s) (x := x) ?_ (fun hx => ?_); unfold x; rotate_left; clear_value x)
    | with_reducible apply Frame.app (plainWrite_frame _ _ _)
    | with_reducible apply Frame.app (wrRingSel_frame _ _ _)
    | with_reducible apply Frame.app (wrRingCtl_frame _ _ _)
    | with_reducible apply Frame.app (wrRingStat_frame _ _ _)
    | with_reducible apply Frame.app (wrStage_frame _ _ _ _)
    | with_reducible apply Frame.ite

theorem wrTod_frame (src : Party) (off : Nat) (v : Word) (s : State) :
    Frame [.regs, .mwin, .tod, .prt, .err] s (wrTod src off v s) := by
  delta wrTod
  repeat' first
    | with_reducible apply Frame.refl
    | with_reducible assumption
    | apply Eq.refl
    | lift_lets -underBinder -merge -useContext
    | (intro x; refine Frame.cut (cs := [.regs, .mwin, .tod, .prt, .err]) (s0 := s) (x := x) ?_ (fun hx => ?_); unfold x; rotate_left; clear_value x)
    | with_reducible apply Frame.app (plainWrite_frame _ _ _)
    | with_reducible apply Frame.app (wrTodCtl_frame _ _ _)
    | with_reducible apply Frame.app (wrPulseStat_frame _ _)
    | with_reducible apply Frame.app (wrSnapSel_frame _ _ _)
    | with_reducible apply Frame.app (wrTodStage_frame _ _ _ _)
    | with_reducible apply Frame.app (wrPpsCfg_frame _ _)
    | with_reducible apply Frame.ite

theorem wrCas_frame (src : Party) (off : Nat) (v : Word) (s : State) :
    Frame [.regs, .cas, .prt, .err, .fwu] s (wrCas src off v s) := by
  delta wrCas
  repeat' first
    | with_reducible apply Frame.refl
    | with_reducible assumption
    | apply Eq.refl
    | lift_lets -underBinder -merge -useContext
    | (intro x; refine Frame.cut (cs := [.regs, .cas, .prt, .err, .fwu]) (s0 := s) (x := x) ?_ (fun hx => ?_); unfold x; rotate_left; clear_value x)
    | with_reducible apply Frame.app (plainWrite_frame _ _ _)
    | with_reducible apply Frame.app (wrCasCfg_frame _ _ _)
    | with_reducible apply Frame.app (wrCasCtl_frame _ _)
    | with_reducible apply Frame.app (wrRaCtl_frame _ _ _)
    | with_reducible apply Frame.app (wrRaWindow_frame _ _ _ _)
    | with_reducible apply Frame.ite

theorem wrInt_frame (src : Party) (off : Nat) (v : Word) (s : State) :
    Frame [.regs, .arr, .hif, .prt, .err] s (wrInt src off v s) := by
  delta wrInt
  repeat' first
    | with_reducible apply Frame.refl
    | with_reducible assumption
    | apply Eq.refl
    | lift_lets -underBinder -merge -useContext
    | (intro x; refine Frame.cut (cs := [.regs, .arr, .hif, .prt, .err]) (s0 := s) (x := x) ?_ (fun hx => ?_); unfold x; rotate_left; clear_value x)
    | with_reducible apply Frame.app (plainWrite_frame _ _ _)
    | with_reducible apply Frame.app (wrRemapCtl_frame _ _)
    | with_reducible apply Frame.app (wrErrHead_frame _ _)
    | with_reducible apply Frame.app (wrErrCfg_frame _ _ _)
    | with_reducible apply Frame.app (wrErrBase_frame _ _ _ _)
    | with_reducible apply Frame.ite

theorem wrFwu_frame (src : Party) (off : Nat) (v : Word) (s : State) :
    Frame [.clk, .regs, .mwin, .arr, .tbl, .mem, .lnk, .pip, .upd, .epc, .tod, .cas, .hif, .prt, .err, .drc, .pwr, .fwu, .vbt] s (wrFwu src off v s) := by
  delta wrFwu
  repeat' first
    | with_reducible apply Frame.refl
    | with_reducible assumption
    | apply Eq.refl
    | lift_lets -underBinder -merge -useContext
    | (intro x; refine Frame.cut (cs := [.clk, .regs, .mwin, .arr, .tbl, .mem, .lnk, .pip, .upd, .epc, .tod, .cas, .hif, .prt, .err, .drc, .pwr, .fwu, .vbt]) (s0 := s) (x := x) ?_ (fun hx => ?_); unfold x; rotate_left; clear_value x)
    | with_reducible apply Frame.app (plainWrite_frame _ _ _)
    | with_reducible apply Frame.app (wrWinOfs_frame _ _ _)
    | with_reducible apply Frame.app (wrWinLen_frame _ _ _)
    | with_reducible apply Frame.app (wrWinData_frame _ _ _)
    | with_reducible apply Frame.app (wrFwuCtl_frame _ _ _)
    | with_reducible apply Frame.ite

theorem wrPrt_frame (src : Party) (off : Nat) (v : Word) (s : State) :
    Frame [.regs, .mwin, .prt, .err, .fwu, .vbt] s (wrPrt src off v s) := by
  delta wrPrt
  repeat' first
    | with_reducible apply Frame.refl
    | with_reducible assumption
    | apply Eq.refl
    | lift_lets -underBinder -merge -useContext
    | (intro x; refine Frame.cut (cs := [.regs, .mwin, .prt, .err, .fwu, .vbt]) (s0 := s) (x := x) ?_ (fun hx => ?_); unfold x; rotate_left; clear_value x)
    | with_reducible apply Frame.app (plainWrite_frame _ _ _)
    | with_reducible apply Frame.app (wrProtect_frame _ _ _ _)
    | with_reducible apply Frame.app (wrPropCtl_frame _ _ _)
    | with_reducible apply Frame.app (wrRefSel_frame _ _ _)
    | with_reducible apply Frame.ite

theorem regEffect_frame (src : Party) (off : Nat) (v : Word) (s : State) :
    Frame [.clk, .regs, .mwin, .arr, .tbl, .mem, .lnk, .pip, .upd, .epc, .tod, .cas, .hif, .prt, .err, .drc, .rst, .pwr, .fwu, .vbt] s (regEffect src off v s) := by
  delta regEffect
  repeat' first
    | with_reducible apply Frame.refl
    | with_reducible assumption
    | apply Eq.refl
    | lift_lets -underBinder -merge -useContext
    | (intro x; refine Frame.cut (cs := [.clk, .regs, .mwin, .arr, .tbl, .mem, .lnk, .pip, .upd, .epc, .tod, .cas, .hif, .prt, .err, .drc, .rst, .pwr, .fwu, .vbt]) (s0 := s) (x := x) ?_ (fun hx => ?_); unfold x; rotate_left; clear_value x)
    | with_reducible apply Frame.app (plainWrite_frame _ _ _)
    | with_reducible apply Frame.app (wrEpcSel_frame _ _ _)
    | with_reducible apply Frame.app (wrSched_frame _ _ _ _)
    | with_reducible apply Frame.app (wrTblSel_frame _ _ _)
    | with_reducible apply Frame.app (wrMapSel_frame _ _ _)
    | with_reducible apply Frame.app (wrRefCfg_frame _ _)
    | with_reducible apply Frame.app (wrArbPrio_frame _ _ _)
    | with_reducible apply Frame.app (wrVbtWord_frame _ _ _ _)
    | with_reducible apply Frame.app (wrPwrCtl_frame _ _ _)
    | with_reducible apply Frame.app (wrOppCtl_frame _ _ _)
    | with_reducible apply Frame.app (wrVfVec_frame _ _ _ _)
    | with_reducible apply Frame.app (wrXingMode_frame _ _ _)
    | with_reducible apply Frame.app (wrGlb_frame _ _ _ _)
    | with_reducible apply Frame.app (wrLnk_frame _ _ _ _)
    | with_reducible apply Frame.app (wrPip_frame _ _ _ _)
    | with_reducible apply Frame.app (wrPrf_frame _ _ _ _)
    | with_reducible apply Frame.app (wrUpd_frame _ _ _ _)
    | with_reducible apply Frame.app (wrTod_frame _ _ _ _)
    | with_reducible apply Frame.app (wrCas_frame _ _ _ _)
    | with_reducible apply Frame.app (wrInt_frame _ _ _ _)
    | with_reducible apply Frame.app (wrFwu_frame _ _ _ _)
    | with_reducible apply Frame.app (wrPrt_frame _ _ _ _)
    | with_reducible apply Frame.ite
    | split

theorem noteSetting_frame (off : Nat) (before after : State) :
    Frame [.fwu] after (noteSetting off before after) := by
  delta noteSetting
  repeat' first
    | with_reducible apply Frame.refl
    | with_reducible assumption
    | apply Eq.refl
    | lift_lets -underBinder -merge -useContext
    | (intro x; refine Frame.cut (cs := [.fwu]) (s0 := after) (x := x) ?_ (fun hx => ?_); unfold x; rotate_left; clear_value x)
    | with_reducible apply Frame.app (markDirty_frame _)
    | with_reducible apply Frame.app (after_frame _ _)
    | with_reducible apply after_frame
    | with_reducible apply Frame.ite
    | split

theorem afterSmb_frame (src : Party) (off : Nat) (s : State) :
    Frame [.clk, .regs, .mwin, .arr, .tbl, .mem, .lnk, .pip, .upd, .epc, .tod, .cas, .hif, .prt, .err, .drc, .rst, .pwr, .fwu, .vbt] s (afterSmb src off s) := by
  delta afterSmb
  repeat' first
    | with_reducible apply Frame.refl
    | with_reducible assumption
    | apply Eq.refl
    | lift_lets -underBinder -merge -useContext
    | (intro x; refine Frame.cut (cs := [.clk, .regs, .mwin, .arr, .tbl, .mem, .lnk, .pip, .upd, .epc, .tod, .cas, .hif, .prt, .err, .drc, .rst, .pwr, .fwu, .vbt]) (s0 := s) (x := x) ?_ (fun hx => ?_); unfold x; rotate_left; clear_value x)
    | with_reducible apply Frame.app (regEffect_frame _ _ _ _)
    | split

theorem noteWrite_frame (src : Party) (off : Nat) (v : Word) (s : State) :
    Frame [.prt] s (noteWrite src off v s) := by
  delta noteWrite
  repeat' first
    | with_reducible apply Frame.refl
    | with_reducible assumption
    | apply Eq.refl
    | lift_lets -underBinder -merge -useContext
    | (intro x; refine Frame.cut (cs := [.prt]) (s0 := s) (x := x) ?_ (fun hx => ?_); unfold x; rotate_left; clear_value x)
    | with_reducible apply Frame.updPrt
    | with_reducible apply Frame.ite
    | split

theorem regWrite_frame (src : Party) (off : Nat) (v : Word) (s : State) :
    Frame [.clk, .regs, .mwin, .arr, .tbl, .mem, .lnk, .pip, .upd, .epc, .tod, .cas, .hif, .prt, .err, .drc, .rst, .pwr, .fwu, .vbt] s (regWrite src off v s) := by
  delta regWrite
  repeat' first
    | with_reducible apply Frame.refl
    | with_reducible assumption
    | apply Eq.refl
    | lift_lets -underBinder -merge -useContext
    | (intro x; refine Frame.cut (cs := [.clk, .regs, .mwin, .arr, .tbl, .mem, .lnk, .pip, .upd, .epc, .tod, .cas, .hif, .prt, .err, .drc, .rst, .pwr, .fwu, .vbt]) (s0 := s) (x := x) ?_ (fun hx => ?_); unfold x; rotate_left; clear_value x)
    | with_reducible apply Frame.app (fieldPut_frame _ _ _ _ _)
    | with_reducible apply Frame.app (refuseReg_frame _ _ _ _ _)
    | with_reducible apply Frame.app (regEffect_frame _ _ _ _)
    | with_reducible apply Frame.app (noteSetting_frame _ _ _)
    | with_reducible apply Frame.app (afterSmb_frame _ _ _)
    | with_reducible apply Frame.app (noteWrite_frame _ _ _ _)
    | with_reducible apply Frame.ite
    | split

theorem readClears_frame (off : Nat) (s : State) :
    Frame [.clk, .regs] s (readClears off s) := by
  delta readClears
  repeat' first
    | with_reducible apply Frame.refl
    | with_reducible assumption
    | apply Eq.refl
    | lift_lets -underBinder -merge -useContext
    | (intro x; refine Frame.cut (cs := [.clk, .regs]) (s0 := s) (x := x) ?_ (fun hx => ?_); unfold x; rotate_left; clear_value x)
    | (intro x; refine Frame.cut (cs := [.clk, .regs]) (s0 := s) (x := x.2) ?_ (fun hx => ?_); unfold x; rotate_left; clear_value x)
    | (intro x; clear_value x)
    | intro x
    | with_reducible apply Frame.app (regPut_frame _ _ _)
    | with_reducible apply Frame.app (fieldPut_frame _ _ _ _ _)
    | with_reducible apply Frame.app (readSlewAmt_frame _)
    | with_reducible apply Frame.ite
    | split
    | with_reducible refine Frame.app (Frame.ofPair (readSlewAmt_frame _) (by assumption)) ?_ ?_

theorem refuseRead_frame (cause : Nat) (src : Party) (off : Nat) (s : State) :
    Frame [.regs, .prt, .err] s (refuseRead cause src off s) := by
  delta refuseRead
  repeat' first
    | with_reducible apply Frame.refl
    | with_reducible assumption
    | apply Eq.refl
    | lift_lets -underBinder -merge -useContext
    | (intro x; refine Frame.cut (cs := [.regs, .prt, .err]) (s0 := s) (x := x) ?_ (fun hx => ?_); unfold x; rotate_left; clear_value x)
    | with_reducible apply Frame.app (refuse_frame _ _ _ _ _ _ _)
    | with_reducible apply Frame.ite
    | split

theorem regRead_frame (src : Party) (off : Nat) (s : State) :
    Frame [.clk, .regs, .prt, .err] s (regRead src off s).2 := by
  delta regRead
  repeat' first
    | with_reducible apply Frame.refl
    | with_reducible assumption
    | apply Eq.refl
    | lift_lets -underBinder -merge -useContext
    | (intro x; refine Frame.cut (cs := [.clk, .regs, .prt, .err]) (s0 := s) (x := x) ?_ (fun hx => ?_); unfold x; rotate_left; clear_value x)
    | with_reducible apply Frame.app (readClears_frame _ _)
    | with_reducible apply Frame.app (refuseRead_frame _ _ _ _)
    | with_reducible apply Frame.ite
    | with_reducible apply Frame.ite2

theorem msixPut_frame (v k : Nat) (w : Word) (s : State) :
    Frame [.hif] s (msixPut v k w s) := by
  delta msixPut
  repeat' first
    | with_reducible apply Frame.refl
    | with_reducible assumption
    | apply Eq.refl
    | lift_lets -underBinder -merge -useContext
    | (intro x; refine Frame.cut (cs := [.hif]) (s0 := s) (x := x) ?_ (fun hx => ?_); unfold x; rotate_left; clear_value x)
    | (with_reducible refine Frame.updHif (by decide) ?_ ?_; (intro _ h; exact h))
    | (with_reducible refine Frame.updHif (by decide) ?_ ?_; (intro _ h; simp only [HifSt.sorted] at h ⊢; simp [h]; done))
    | (with_reducible refine Frame.updHif (by decide) ?_ ?_; (intro _ h; simp only [HifSt.sorted] at h ⊢; and_intros <;> (try dsimp only) <;> (repeat' split) <;> first | (simp [h]; done) | exact tabFold_rising (fun _ _ g => by first | (simp [g]; done) | (split <;> simp [g]; done)) _ _ (by simp [h])))
    | (with_reducible refine Frame.updHif (by decide) ?_ ?_; (intro _ h; simp only [HifSt.sorted] at h ⊢; and_intros <;> first | (simp [h]; done) | exact tabFold_rising (fun _ _ g => by first | (simp [g]; done) | (split <;> simp [g]; done) | exact tabFold_rising (fun _ _ k => by simp [k]) _ _ g) _ _ (by simp [h]) | (repeat' first | exact rfl | exact h | apply tabSet_rising)))
    | split

theorem vfWrite_frame (f : Fin 64) (off : Nat) (v : Word) (s : State) :
    Frame [.regs, .hif, .prt, .err] s (vfWrite f off v s) := by
  delta vfWrite
  repeat' first
    | with_reducible apply Frame.refl
    | with_reducible assumption
    | apply Eq.refl
    | lift_lets -underBinder -merge -useContext
    | (intro x; refine Frame.cut (cs := [.regs, .hif, .prt, .err]) (s0 := s) (x := x) ?_ (fun hx => ?_); unfold x; rotate_left; clear_value x)
    | with_reducible apply Frame.app (refuse_frame _ _ _ _ _ _ _)
    | with_reducible apply Frame.app (msixPut_frame _ _ _ _)
    | with_reducible apply Frame.ite

theorem vfRead_frame (f : Fin 64) (off : Nat) (s : State) :
    Frame [.regs, .prt, .err] s (vfRead f off s).2 := by
  delta vfRead
  repeat' first
    | with_reducible apply Frame.refl
    | with_reducible assumption
    | apply Eq.refl
    | lift_lets -underBinder -merge -useContext
    | (intro x; refine Frame.cut (cs := [.regs, .prt, .err]) (s0 := s) (x := x) ?_ (fun hx => ?_); unfold x; rotate_left; clear_value x)
    | with_reducible apply Frame.app (refuse_frame _ _ _ _ _ _ _)
    | with_reducible apply Frame.ite
    | with_reducible apply Frame.ite2

theorem write32_frame (src : Party) (off : Nat) (v : Word) (s : State) :
    Frame [.clk, .regs, .mwin, .arr, .tbl, .mem, .lnk, .pip, .upd, .epc, .tod, .cas, .hif, .prt, .err, .drc, .rst, .pwr, .fwu, .vbt] s (write32 src off v s) := by
  delta write32
  repeat' first
    | with_reducible apply Frame.refl
    | with_reducible assumption
    | apply Eq.refl
    | lift_lets -underBinder -merge -useContext
    | (intro x; refine Frame.cut (cs := [.clk, .regs, .mwin, .arr, .tbl, .mem, .lnk, .pip, .upd, .epc, .tod, .cas, .hif, .prt, .err, .drc, .rst, .pwr, .fwu, .vbt]) (s0 := s) (x := x) ?_ (fun hx => ?_); unfold x; rotate_left; clear_value x)
    | with_reducible apply Frame.app (refuseReg_frame _ _ _ _ _)
    | with_reducible apply Frame.app (regWrite_frame _ _ _ _)
    | with_reducible apply Frame.app (msixPut_frame _ _ _ _)
    | with_reducible apply Frame.app (vfWrite_frame _ _ _ _)
    | with_reducible apply Frame.ite

theorem read32_frame (src : Party) (off : Nat) (s : State) :
    Frame [.clk, .regs, .prt, .err] s (read32 src off s).2 := by
  delta read32
  repeat' first
    | with_reducible apply Frame.refl
    | with_reducible assumption
    | apply Eq.refl
    | lift_lets -underBinder -merge -useContext
    | (intro x; refine Frame.cut (cs := [.clk, .regs, .prt, .err]) (s0 := s) (x := x) ?_ (fun hx => ?_); unfold x; rotate_left; clear_value x)
    | (intro x; refine Frame.cut (cs := [.clk, .regs, .prt, .err]) (s0 := s) (x := x.2) ?_ (fun hx => ?_); unfold x; rotate_left; clear_value x)
    | (intro x; clear_value x)
    | intro x
    | with_reducible apply Frame.app (refuseRead_frame _ _ _ _)
    | with_reducible apply Frame.app (regRead_frame _ _ _)
    | with_reducible apply Frame.app (vfRead_frame _ _ _)
    | with_reducible apply Frame.ite
    | with_reducible apply Frame.ite2

theorem halfWrite_frame (a : Access) (off : Nat) (v : Word) (s : State) :
    Frame [.clk, .regs, .mwin, .arr, .tbl, .mem, .lnk, .pip, .upd, .epc, .tod, .cas, .hif, .prt, .err, .drc, .rst, .pwr, .fwu, .vbt] s (halfWrite a off v s) := by
  delta halfWrite
  repeat' first
    | with_reducible apply Frame.refl
    | with_reducible assumption
    | apply Eq.refl
    | lift_lets -underBinder -merge -useContext
    | (intro x; refine Frame.cut (cs := [.clk, .regs, .mwin, .arr, .tbl, .mem, .lnk, .pip, .upd, .epc, .tod, .cas, .hif, .prt, .err, .drc, .rst, .pwr, .fwu, .vbt]) (s0 := s) (x := x) ?_ (fun hx => ?_); unfold x; rotate_left; clear_value x)
    | (intro x; clear_value x)
    | intro x
    | with_reducible apply Frame.app (refusePoison_frame _ _ _ _ _)
    | with_reducible apply Frame.app (write32_frame _ _ _ _)
    | with_reducible apply Frame.ite

theorem barWrite_frame (a : Access) (v : W64) (s : State) :
    Frame [.clk, .regs, .mwin, .arr, .tbl, .mem, .lnk, .pip, .upd, .epc, .tod, .cas, .hif, .prt, .err, .drc, .rst, .pwr, .fwu, .vbt] s (barWrite a v s) := by
  delta barWrite
  repeat' first
    | with_reducible apply Frame.refl
    | with_reducible assumption
    | apply Eq.refl
    | lift_lets -underBinder -merge -useContext
    | (intro x; refine Frame.cut (cs := [.clk, .regs, .mwin, .arr, .tbl, .mem, .lnk, .pip, .upd, .epc, .tod, .cas, .hif, .prt, .err, .drc, .rst, .pwr, .fwu, .vbt]) (s0 := s) (x := x) ?_ (fun hx => ?_); unfold x; rotate_left; clear_value x)
    | (intro x; clear_value x)
    | intro x
    | with_reducible apply Frame.app (refuse_frame _ _ _ _ _ _ _)
    | with_reducible apply Frame.app (halfWrite_frame _ _ _ _)
    | with_reducible apply Frame.ite
    | split

theorem barRead_frame (a : Access) (s : State) :
    Frame [.clk, .regs, .hif, .prt, .err] s (barRead a s) := by
  delta barRead
  repeat' first
    | with_reducible apply Frame.refl
    | with_reducible assumption
    | apply Eq.refl
    | lift_lets -underBinder -merge -useContext
    | (intro x; refine Frame.cut (cs := [.clk, .regs, .hif, .prt, .err]) (s0 := s) (x := x) ?_ (fun hx => ?_); unfold x; rotate_left; clear_value x)
    | (intro x; refine Frame.cut (cs := [.clk, .regs, .hif, .prt, .err]) (s0 := s) (x := x.2) ?_ (fun hx => ?_); unfold x; rotate_left; clear_value x)
    | (intro x; clear_value x)
    | intro x
    | with_reducible apply Frame.app (answer_frame _ _)
    | with_reducible apply Frame.app (refuseRead_frame _ _ _ _)
    | with_reducible apply Frame.app (read32_frame _ _ _)
    | with_reducible apply Frame.ite
    | split
    | with_reducible refine Frame.app (Frame.ofPair (read32_frame _ _ _) (by assumption)) ?_ ?_

theorem cfgRead_frame (a : Access) (s : State) :
    Frame [.clk, .hif] s (cfgRead a s) := by
  delta cfgRead
  repeat' first
    | with_reducible apply Frame.refl
    | with_reducible assumption
    | apply Eq.refl
    | lift_lets -underBinder -merge -useContext
    | (intro x; refine Frame.cut (cs := [.clk, .hif]) (s0 := s) (x := x) ?_ (fun hx => ?_); unfold x; rotate_left; clear_value x)
    | with_reducible apply Frame.app (nextFree_frame _)
    | with_reducible apply Frame.app (answer_frame _ _)
    | with_reducible apply Frame.ite
    | split

theorem accessWrite_frame (a : Access) (v : W64) (s : State) :
    Frame [.clk, .regs, .mwin, .arr, .tbl, .mem, .lnk, .pip, .upd, .epc, .tod, .cas, .hif, .prt, .err, .drc, .rst, .pwr, .fwu, .vbt] s (accessWrite a v s) := by
  delta accessWrite
  repeat' first
    | with_reducible apply Frame.refl
    | with_reducible assumption
    | apply Eq.refl
    | lift_lets -underBinder -merge -useContext
    | (intro x; refine Frame.cut (cs := [.clk, .regs, .mwin, .arr, .tbl, .mem, .lnk, .pip, .upd, .epc, .tod, .cas, .hif, .prt, .err, .drc, .rst, .pwr, .fwu, .vbt]) (s0 := s) (x := x) ?_ (fun hx => ?_); unfold x; rotate_left; clear_value x)
    | with_reducible apply Frame.app (doorbellWrite_frame _ _ _ _ _ _ _)
    | with_reducible apply Frame.app (barWrite_frame _ _ _)
    | split

theorem accessRead_frame (a : Access) (s : State) :
    Frame [.clk, .regs, .tbl, .upd, .cas, .hif, .prt, .err] s (accessRead a s) := by
  delta accessRead
  repeat' first
    | with_reducible apply Frame.refl
    | with_reducible assumption
    | apply Eq.refl
    | lift_lets -underBinder -merge -useContext
    | (intro x; refine Frame.cut (cs := [.clk, .regs, .tbl, .upd, .cas, .hif, .prt, .err]) (s0 := s) (x := x) ?_ (fun hx => ?_); unfold x; rotate_left; clear_value x)
    | with_reducible apply Frame.app (answer_frame _ _)
    | with_reducible apply Frame.app (doorbell_frame _ _ _ _ _)
    | with_reducible apply Frame.app (barRead_frame _ _)
    | with_reducible apply Frame.app (cfgRead_frame _ _)
    | with_reducible apply Frame.ite
    | split

theorem rowWrite_frame (src : Party) (off : Nat) (v : Word) (s : State) :
    Frame [.clk, .regs, .mwin, .arr, .tbl, .mem, .lnk, .pip, .upd, .epc, .tod, .cas, .hif, .prt, .err, .drc, .rst, .pwr, .fwu, .vbt] s (rowWrite src off v s) := by
  delta rowWrite
  repeat' first
    | with_reducible apply Frame.refl
    | with_reducible assumption
    | apply Eq.refl
    | lift_lets -underBinder -merge -useContext
    | (intro x; refine Frame.cut (cs := [.clk, .regs, .mwin, .arr, .tbl, .mem, .lnk, .pip, .upd, .epc, .tod, .cas, .hif, .prt, .err, .drc, .rst, .pwr, .fwu, .vbt]) (s0 := s) (x := x) ?_ (fun hx => ?_); unfold x; rotate_left; clear_value x)
    | with_reducible apply Frame.app (write32_frame _ _ _ _)
    | with_reducible apply Frame.ite

end Sys2Proof.Machine
end

