-- ==== Sys2Proof/Laws/FrameRegRows.lean ====
section
/-! SUPPORT. What each operation of Machine/RegRows.lean changes at most, and that it keeps the invariant. -/

namespace Sys2Proof.Machine

set_option linter.all false

open Sys2Proof

theorem inFam_iff (b n off : Nat) : inFam b n off = decide (b ≤ off ∧ off < b + 4 * n) := by
  simp only [inFam, Bool.decide_and]

/-- A write by its register's own command: what the register's effect changes, a refusal, what R287 notes, and a note that a
setting changed. -/
theorem rowWrite_effect {cs : List Comp} (src : Party) (off : Nat) (v : Word) (s : State)
    (hc : [Comp.regs, .hif, .prt, .err, .fwu].all cs.contains = true) (h1 : inFam pfMsix 8192 off = false)
    (he : ∀ q w t, Frame cs t (regEffect q off w t)) : Frame cs s (rowWrite src off v s) := by
  have lift : ∀ {t u x : State}, Frame [.regs, .hif, .prt, .err, .fwu] t u → Frame cs x t → Frame cs x u :=
    fun h g => Frame.app h hc g
  have hr : ∀ c t, Frame cs t (refuseReg c src off v t) := fun c t =>
    lift (Frame.mono (refuseReg_frame c src off v t) rfl) (Frame.refl _ t)
  have hv : ∀ f t, Frame cs t (vfWrite f off v t) := fun f t =>
    lift (Frame.mono (vfWrite_frame f off v t) rfl) (Frame.refl _ t)
  have hn : ∀ t u, Frame cs t u → Frame cs t (noteSetting off t u) := fun t u h => by
    unfold noteSetting
    split
    · exact Frame.ite h (lift (Frame.mono (markDirty_frame u) rfl) h)
    · exact h
  have ha : ∀ t u, Frame cs t u → Frame cs t (afterSmb src off u) := fun t u h => by
    unfold afterSmb
    split
    · exact ⟨fun c hc => Comp.same_trans (h.only c hc) ((he .smbus _ u).only c hc), fun i => (he .smbus _ u).inv (h.inv i)⟩
    · exact h
  have hw : ∀ t, Frame cs t (regWrite src off v t) := fun t => by
    unfold regWrite
    split
    · exact Frame.refl _ t
    · split
      · have h0 := lift (Frame.mono (noteWrite_frame src off v t) rfl) (Frame.refl _ t)
        generalize noteWrite src off v t = u at h0
        exact hn _ _ (ha _ _ ⟨fun c hc => Comp.same_trans (h0.only c hc) ((he src v u).only c hc), fun i => (he src v u).inv (h0.inv i)⟩)
      · refine lift (Frame.mono (refuseReg_frame _ src off v _) rfl) (Frame.ite ?_ (Frame.refl _ t))
        exact lift (Frame.mono (fieldPut_frame _ _ _ _ t) rfl) (Frame.refl _ t)
  unfold rowWrite
  split
  · unfold write32
    rw [h1]
    simp only [Bool.false_eq_true, if_false]
    exact Frame.ite (Frame.ite (Frame.refl _ s) (hv _ s)) (Frame.ite (hw s) (Frame.ite (hr _ s)
      (Frame.ite (Frame.refl _ s) (hr _ s))))
  · exact Frame.refl _ s

theorem regEffect_lnkGrpCtl (src : Party) (g : Fin 4) (v : Word) (s : State) :
    regEffect src (Reg.lnkGrpCtl g.val) v s = wrGrpCtl g v s := by
  match g with
  | 0 => rfl
  | 1 => rfl
  | 2 => rfl
  | 3 => rfl

theorem regEffect_glbBankOwn (src : Party) (n : Fin 72) (v : Word) (s : State) :
    regEffect src (Reg.glbBankOwn n.val) v s = wrBankOwn src n.val v s := by
  obtain ⟨n, hn⟩ := n
  have h0 : Reg.glbBankOwn n / 65536 = 0 := by unfold Reg.glbBankOwn; omega
  have h1 : Reg.glbBankOwn n ≠ Reg.glbRstCtl := by unfold Reg.glbBankOwn Reg.glbRstCtl; omega
  have h2 : Reg.glbBankOwn n ≠ Reg.glbMemMode := by unfold Reg.glbBankOwn Reg.glbMemMode; omega
  have h3 : inFam (Reg.glbBankOwn 0) 72 (Reg.glbBankOwn n) = true := by
    rw [inFam_iff]; exact decide_eq_true (by unfold Reg.glbBankOwn; omega)
  have h4 : (Reg.glbBankOwn n - Reg.glbBankOwn 0) / 4 = n := by unfold Reg.glbBankOwn; omega
  simp only [regEffect, h0, wrGlb, if_neg h1, if_neg h2, h3, if_true, h4]

theorem regEffect_vbtWord (src : Party) (n : Fin 64) (v : Word) (s : State) :
    regEffect src (Reg.vbtWord n.val) v s = wrVbtWord src n.val v s := by
  obtain ⟨n, hn⟩ := n
  have h0 : Reg.vbtWord n / 65536 = 19 := by unfold Reg.vbtWord; omega
  have h3 : inFam (Reg.vbtWord 0) 64 (Reg.vbtWord n) = true := by
    rw [inFam_iff]; exact decide_eq_true (by unfold Reg.vbtWord; omega)
  have h4 : (Reg.vbtWord n - Reg.vbtWord 0) / 4 = n := by unfold Reg.vbtWord; omega
  simp only [regEffect, h0, h3, if_true, h4]

theorem execIntRemapGo_frame (src : Party) (v : Word) (s : State) :
    ∀ out, execIntRemapGo src v s = .next out → Frame [.regs, .arr, .hif, .prt, .err, .fwu] s out := by
  intro out h
  injection h with h
  subst h
  refine rowWrite_effect src Reg.intRemapCtl v s rfl rfl fun src v t => ?_
  show Frame _ t (wrRemapCtl v t)
  exact Frame.mono (wrRemapCtl_frame v t) rfl

theorem execIntErrHeadWrite_frame (src : Party) (v : Word) (s : State) :
    ∀ out, execIntErrHeadWrite src v s = .next out → Frame [.regs, .hif, .prt, .err, .fwu] s out := by
  intro out h
  injection h with h
  subst h
  refine rowWrite_effect src Reg.intErrHead v s rfl rfl fun src v t => ?_
  show Frame _ t (wrErrHead v t)
  exact Frame.mono (wrErrHead_frame v t) rfl

theorem execIntErrCfgWrite_frame (src : Party) (v : Word) (s : State) :
    ∀ out, execIntErrCfgWrite src v s = .next out → Frame [.regs, .hif, .prt, .err, .fwu] s out := by
  intro out h
  injection h with h
  subst h
  refine rowWrite_effect src Reg.intErrCfg v s rfl rfl fun src v t => ?_
  show Frame _ t (wrErrCfg src v t)
  exact Frame.mono (wrErrCfg_frame src v t) rfl

theorem execGroupEnable_frame (src : Party) (g : Fin 4) (v : Word) (s : State) :
    ∀ out, execGroupEnable src g v s = .next out → Frame [.regs, .lnk, .hif, .prt, .err, .fwu] s out := by
  intro out h
  injection h with h
  subst h
  refine rowWrite_effect src (Reg.lnkGrpCtl g.val) v s rfl (by have := g.isLt; rw [inFam_iff]; exact decide_eq_false (by unfold pfMsix Reg.lnkGrpCtl; omega)) fun src v t => ?_
  rw [regEffect_lnkGrpCtl]
  exact Frame.mono (wrGrpCtl_frame g v t) rfl

theorem execRetrain_frame (src : Party) (g : Fin 4) (v : Word) (s : State) :
    ∀ out, execRetrain src g v s = .next out → Frame [.regs, .lnk, .hif, .prt, .err, .fwu] s out := by
  intro out h
  injection h with h
  subst h
  refine rowWrite_effect src (Reg.lnkGrpCtl g.val) v s rfl (by have := g.isLt; rw [inFam_iff]; exact decide_eq_false (by unfold pfMsix Reg.lnkGrpCtl; omega)) fun src v t => ?_
  rw [regEffect_lnkGrpCtl]
  exact Frame.mono (wrGrpCtl_frame g v t) rfl

theorem execGroupDisable_frame (src : Party) (g : Fin 4) (v : Word) (s : State) :
    ∀ out, execGroupDisable src g v s = .next out → Frame [.regs, .lnk, .hif, .prt, .err, .fwu] s out := by
  intro out h
  injection h with h
  subst h
  refine rowWrite_effect src (Reg.lnkGrpCtl g.val) v s rfl (by have := g.isLt; rw [inFam_iff]; exact decide_eq_false (by unfold pfMsix Reg.lnkGrpCtl; omega)) fun src v t => ?_
  rw [regEffect_lnkGrpCtl]
  exact Frame.mono (wrGrpCtl_frame g v t) rfl

theorem execLnkGrpMapWrite_frame (src : Party) (v : Word) (s : State) :
    ∀ out, execLnkGrpMapWrite src v s = .next out → Frame [.regs, .lnk, .hif, .prt, .err, .fwu] s out := by
  intro out h
  injection h with h
  subst h
  refine rowWrite_effect src Reg.lnkGrpMap v s rfl rfl fun src v t => ?_
  show Frame _ t (wrGrpMap src v t)
  exact Frame.mono (wrGrpMap_frame src v t) rfl

theorem execSchedSwitch_frame (src : Party) (v : Word) (s : State) :
    ∀ out, execSchedSwitch src v s = .next out → Frame [.regs, .tbl, .pip, .cas, .hif, .prt, .err, .fwu] s out := by
  intro out h
  injection h with h
  subst h
  refine rowWrite_effect src Reg.pipSchedCtl v s rfl rfl fun src v t => ?_
  show Frame _ t (wrSchedCtl src v t)
  exact Frame.mono (wrSchedCtl_frame src v t) rfl

theorem execPrfInstall_frame (src : Party) (v : Word) (s : State) :
    ∀ out, execPrfInstall src v s = .next out → Frame [.regs, .tbl, .upd, .cas, .hif, .prt, .err, .fwu] s out := by
  intro out h
  injection h with h
  subst h
  refine rowWrite_effect src Reg.prfCtl v s rfl rfl fun src v t => ?_
  show Frame _ t (wrPrfCtl src v t)
  exact Frame.mono (wrPrfCtl_frame src v t) rfl

theorem execPrfFetch_frame (src : Party) (v : Word) (s : State) :
    ∀ out, execPrfFetch src v s = .next out → Frame [.regs, .tbl, .upd, .cas, .hif, .prt, .err, .fwu] s out := by
  intro out h
  injection h with h
  subst h
  refine rowWrite_effect src Reg.prfCtl v s rfl rfl fun src v t => ?_
  show Frame _ t (wrPrfCtl src v t)
  exact Frame.mono (wrPrfCtl_frame src v t) rfl

theorem execPrfInvalidate_frame (src : Party) (v : Word) (s : State) :
    ∀ out, execPrfInvalidate src v s = .next out → Frame [.regs, .tbl, .upd, .cas, .hif, .prt, .err, .fwu] s out := by
  intro out h
  injection h with h
  subst h
  refine rowWrite_effect src Reg.prfCtl v s rfl rfl fun src v t => ?_
  show Frame _ t (wrPrfCtl src v t)
  exact Frame.mono (wrPrfCtl_frame src v t) rfl

theorem execTblSelWrite_frame (src : Party) (v : Word) (s : State) :
    ∀ out, execTblSelWrite src v s = .next out → Frame [.regs, .mwin, .hif, .prt, .err, .fwu] s out := by
  intro out h
  injection h with h
  subst h
  refine rowWrite_effect src Reg.tblSel v s rfl rfl fun src v t => ?_
  show Frame _ t (wrTblSel src v t)
  exact Frame.mono (wrTblSel_frame src v t) rfl

theorem execSveMapSelWrite_frame (src : Party) (v : Word) (s : State) :
    ∀ out, execSveMapSelWrite src v s = .next out → Frame [.regs, .mwin, .hif, .prt, .err, .fwu] s out := by
  intro out h
  injection h with h
  subst h
  refine rowWrite_effect src Reg.sveMapSel v s rfl rfl fun src v t => ?_
  show Frame _ t (wrMapSel src v t)
  exact Frame.mono (wrMapSel_frame src v t) rfl

theorem execUpdRingSelWrite_frame (src : Party) (v : Word) (s : State) :
    ∀ out, execUpdRingSelWrite src v s = .next out → Frame [.regs, .mwin, .hif, .prt, .err, .fwu] s out := by
  intro out h
  injection h with h
  subst h
  refine rowWrite_effect src Reg.updRingSel v s rfl rfl fun src v t => ?_
  show Frame _ t (wrRingSel src v t)
  exact Frame.mono (wrRingSel_frame src v t) rfl

theorem execRingApply_frame (src : Party) (v : Word) (s : State) :
    ∀ out, execRingApply src v s = .next out → Frame [.regs, .arr, .tbl, .upd, .epc, .cas, .hif, .prt, .err, .fwu] s out := by
  intro out h
  injection h with h
  subst h
  refine rowWrite_effect src Reg.updRingCtl v s rfl rfl fun src v t => ?_
  show Frame _ t (wrRingCtl src v t)
  exact Frame.mono (wrRingCtl_frame src v t) rfl

theorem execRingStart_frame (src : Party) (v : Word) (s : State) :
    ∀ out, execRingStart src v s = .next out → Frame [.regs, .arr, .tbl, .upd, .epc, .cas, .hif, .prt, .err, .fwu] s out := by
  intro out h
  injection h with h
  subst h
  refine rowWrite_effect src Reg.updRingCtl v s rfl rfl fun src v t => ?_
  show Frame _ t (wrRingCtl src v t)
  exact Frame.mono (wrRingCtl_frame src v t) rfl

theorem execRingStop_frame (src : Party) (v : Word) (s : State) :
    ∀ out, execRingStop src v s = .next out → Frame [.regs, .arr, .tbl, .upd, .epc, .cas, .hif, .prt, .err, .fwu] s out := by
  intro out h
  injection h with h
  subst h
  refine rowWrite_effect src Reg.updRingCtl v s rfl rfl fun src v t => ?_
  show Frame _ t (wrRingCtl src v t)
  exact Frame.mono (wrRingCtl_frame src v t) rfl

theorem execTodSet_frame (src : Party) (v : Word) (s : State) :
    ∀ out, execTodSet src v s = .next out → Frame [.regs, .tod, .hif, .prt, .err, .fwu] s out := by
  intro out h
  injection h with h
  subst h
  refine rowWrite_effect src Reg.todCtl v s rfl rfl fun src v t => ?_
  show Frame _ t (wrTodCtl src v t)
  exact Frame.mono (wrTodCtl_frame src v t) rfl

theorem execTodStep_frame (src : Party) (v : Word) (s : State) :
    ∀ out, execTodStep src v s = .next out → Frame [.regs, .tod, .hif, .prt, .err, .fwu] s out := by
  intro out h
  injection h with h
  subst h
  refine rowWrite_effect src Reg.todCtl v s rfl rfl fun src v t => ?_
  show Frame _ t (wrTodCtl src v t)
  exact Frame.mono (wrTodCtl_frame src v t) rfl

theorem execTodSlew_frame (src : Party) (v : Word) (s : State) :
    ∀ out, execTodSlew src v s = .next out → Frame [.regs, .tod, .hif, .prt, .err, .fwu] s out := by
  intro out h
  injection h with h
  subst h
  refine rowWrite_effect src Reg.todCtl v s rfl rfl fun src v t => ?_
  show Frame _ t (wrTodCtl src v t)
  exact Frame.mono (wrTodCtl_frame src v t) rfl

theorem execTodSnapSelWrite_frame (src : Party) (v : Word) (s : State) :
    ∀ out, execTodSnapSelWrite src v s = .next out → Frame [.regs, .mwin, .hif, .prt, .err, .fwu] s out := by
  intro out h
  injection h with h
  subst h
  refine rowWrite_effect src Reg.todSnapSel v s rfl rfl fun src v t => ?_
  show Frame _ t (wrSnapSel src v t)
  exact Frame.mono (wrSnapSel_frame src v t) rfl

theorem execEpcSelWrite_frame (src : Party) (v : Word) (s : State) :
    ∀ out, execEpcSelWrite src v s = .next out → Frame [.regs, .mwin, .hif, .prt, .err, .fwu] s out := by
  intro out h
  injection h with h
  subst h
  refine rowWrite_effect src Reg.epcSel v s rfl rfl fun src v t => ?_
  show Frame _ t (wrEpcSel src v t)
  exact Frame.mono (wrEpcSel_frame src v t) rfl

theorem execCasEnable_frame (src : Party) (v : Word) (s : State) :
    ∀ out, execCasEnable src v s = .next out → Frame [.regs, .cas, .hif, .prt, .err, .fwu] s out := by
  intro out h
  injection h with h
  subst h
  refine rowWrite_effect src Reg.casCfg v s rfl rfl fun src v t => ?_
  show Frame _ t (wrCasCfg src v t)
  exact Frame.mono (wrCasCfg_frame src v t) rfl

theorem execCasReform_frame (src : Party) (v : Word) (s : State) :
    ∀ out, execCasReform src v s = .next out → Frame [.regs, .cas, .hif, .prt, .err, .fwu] s out := by
  intro out h
  injection h with h
  subst h
  refine rowWrite_effect src Reg.casCtl v s rfl rfl fun src v t => ?_
  show Frame _ t (wrCasCtl v t)
  exact Frame.mono (wrCasCtl_frame v t) rfl

theorem execCasAdmit_frame (src : Party) (v : Word) (s : State) :
    ∀ out, execCasAdmit src v s = .next out → Frame [.regs, .cas, .hif, .prt, .err, .fwu] s out := by
  intro out h
  injection h with h
  subst h
  refine rowWrite_effect src Reg.casCtl v s rfl rfl fun src v t => ?_
  show Frame _ t (wrCasCtl v t)
  exact Frame.mono (wrCasCtl_frame v t) rfl

theorem execCasRaRead_frame (src : Party) (v : Word) (s : State) :
    ∀ out, execCasRaRead src v s = .next out → Frame [.regs, .cas, .hif, .prt, .err, .fwu] s out := by
  intro out h
  injection h with h
  subst h
  refine rowWrite_effect src Reg.casRaCtl v s rfl rfl fun src v t => ?_
  show Frame _ t (wrRaCtl src v t)
  exact Frame.mono (wrRaCtl_frame src v t) rfl

theorem execCasRaWrite_frame (src : Party) (v : Word) (s : State) :
    ∀ out, execCasRaWrite src v s = .next out → Frame [.regs, .cas, .hif, .prt, .err, .fwu] s out := by
  intro out h
  injection h with h
  subst h
  refine rowWrite_effect src Reg.casRaCtl v s rfl rfl fun src v t => ?_
  show Frame _ t (wrRaCtl src v t)
  exact Frame.mono (wrRaCtl_frame src v t) rfl

theorem execPropSubmit_frame (src : Party) (v : Word) (s : State) :
    ∀ out, execPropSubmit src v s = .next out → Frame [.regs, .hif, .prt, .err, .fwu, .vbt] s out := by
  intro out h
  injection h with h
  subst h
  refine rowWrite_effect src Reg.prtPropCtl v s rfl rfl fun src v t => ?_
  show Frame _ t (wrPropCtl src v t)
  exact Frame.mono (wrPropCtl_frame src v t) rfl

theorem execPropCancel_frame (src : Party) (v : Word) (s : State) :
    ∀ out, execPropCancel src v s = .next out → Frame [.regs, .hif, .prt, .err, .fwu, .vbt] s out := by
  intro out h
  injection h with h
  subst h
  refine rowWrite_effect src Reg.prtPropCtl v s rfl rfl fun src v t => ?_
  show Frame _ t (wrPropCtl src v t)
  exact Frame.mono (wrPropCtl_frame src v t) rfl

theorem execPrtRefSelWrite_frame (src : Party) (v : Word) (s : State) :
    ∀ out, execPrtRefSelWrite src v s = .next out → Frame [.regs, .mwin, .hif, .prt, .err, .fwu] s out := by
  intro out h
  injection h with h
  subst h
  refine rowWrite_effect src Reg.prtRefSel v s rfl rfl fun src v t => ?_
  show Frame _ t (wrRefSel src v t)
  exact Frame.mono (wrRefSel_frame src v t) rfl

theorem execGlbMemModeWrite_frame (src : Party) (v : Word) (s : State) :
    ∀ out, execGlbMemModeWrite src v s = .next out → Frame [.regs, .lnk, .hif, .prt, .err, .drc, .fwu] s out := by
  intro out h
  injection h with h
  subst h
  refine rowWrite_effect src Reg.glbMemMode v s rfl rfl fun src v t => ?_
  show Frame _ t (wrMemMode src v t)
  exact Frame.mono (wrMemMode_frame src v t) rfl

theorem execBankOwnWrite_frame (src : Party) (n : Fin 72) (v : Word) (s : State) :
    ∀ out, execBankOwnWrite src n v s = .next out → Frame [.regs, .hif, .prt, .err, .drc, .fwu] s out := by
  intro out h
  injection h with h
  subst h
  refine rowWrite_effect src (Reg.glbBankOwn n.val) v s rfl (by have := n.isLt; rw [inFam_iff]; exact decide_eq_false (by unfold pfMsix Reg.glbBankOwn; omega)) fun src v t => ?_
  rw [regEffect_glbBankOwn]
  exact Frame.mono (wrBankOwn_frame src n.val v t) rfl

theorem execArbPrioWrite_frame (src : Party) (v : Word) (s : State) :
    ∀ out, execArbPrioWrite src v s = .next out → Frame [.regs, .hif, .prt, .err, .drc, .fwu] s out := by
  intro out h
  injection h with h
  subst h
  refine rowWrite_effect src Reg.arbPrio v s rfl rfl fun src v t => ?_
  show Frame _ t (wrArbPrio src v t)
  exact Frame.mono (wrArbPrio_frame src v t) rfl

theorem execIslandReset_frame (src : Party) (v : Word) (s : State) :
    ∀ out, execIslandReset src v s = .next out → Frame [.clk, .regs, .mwin, .arr, .tbl, .mem, .lnk, .pip, .upd, .epc, .tod, .cas, .hif, .prt, .err, .drc, .rst, .pwr, .fwu, .vbt] s out := by
  delta execIslandReset
  intro out h
  injection h with h
  subst h
  repeat' first
    | with_reducible apply Frame.refl
    | with_reducible assumption
    | apply Eq.refl
    | lift_lets -underBinder -merge -useContext
    | (intro x; refine Frame.cut (cs := [.clk, .regs, .mwin, .arr, .tbl, .mem, .lnk, .pip, .upd, .epc, .tod, .cas, .hif, .prt, .err, .drc, .rst, .pwr, .fwu, .vbt]) (s0 := s) (x := x) ?_ (fun hx => ?_); unfold x; rotate_left; clear_value x)
    | with_reducible apply Frame.app (rowWrite_frame _ _ _ _)

theorem execPwrWake_frame (src : Party) (v : Word) (s : State) :
    ∀ out, execPwrWake src v s = .next out → Frame [.regs, .lnk, .pip, .hif, .prt, .err, .pwr, .fwu] s out := by
  intro out h
  injection h with h
  subst h
  refine rowWrite_effect src Reg.pwrCtl v s rfl rfl fun src v t => ?_
  show Frame _ t (wrPwrCtl src v t)
  exact Frame.mono (wrPwrCtl_frame src v t) rfl

theorem execOppGo_frame (src : Party) (v : Word) (s : State) :
    ∀ out, execOppGo src v s = .next out → Frame [.regs, .pip, .cas, .hif, .prt, .err, .pwr, .fwu] s out := by
  intro out h
  injection h with h
  subst h
  refine rowWrite_effect src Reg.pwrOppCtl v s rfl rfl fun src v t => ?_
  show Frame _ t (wrOppCtl src v t)
  exact Frame.mono (wrOppCtl_frame src v t) rfl

theorem execPwrQuiesce_frame (src : Party) (v : Word) (s : State) :
    ∀ out, execPwrQuiesce src v s = .next out → Frame [.regs, .lnk, .pip, .hif, .prt, .err, .pwr, .fwu] s out := by
  intro out h
  injection h with h
  subst h
  refine rowWrite_effect src Reg.pwrCtl v s rfl rfl fun src v t => ?_
  show Frame _ t (wrPwrCtl src v t)
  exact Frame.mono (wrPwrCtl_frame src v t) rfl

theorem execFwuWinOfsWrite_frame (src : Party) (v : Word) (s : State) :
    ∀ out, execFwuWinOfsWrite src v s = .next out → Frame [.regs, .hif, .prt, .err, .fwu] s out := by
  intro out h
  injection h with h
  subst h
  refine rowWrite_effect src Reg.fwuWinOfs v s rfl rfl fun src v t => ?_
  show Frame _ t (wrWinOfs src v t)
  exact Frame.mono (wrWinOfs_frame src v t) rfl

theorem execFwuWinDataWrite_frame (src : Party) (v : Word) (s : State) :
    ∀ out, execFwuWinDataWrite src v s = .next out → Frame [.regs, .hif, .prt, .err, .fwu] s out := by
  intro out h
  injection h with h
  subst h
  refine rowWrite_effect src Reg.fwuWinData v s rfl rfl fun src v t => ?_
  show Frame _ t (wrWinData src v t)
  exact Frame.mono (wrWinData_frame src v t) rfl

theorem execFwuPush_frame (src : Party) (v : Word) (s : State) :
    ∀ out, execFwuPush src v s = .next out → Frame [.clk, .regs, .mwin, .arr, .tbl, .mem, .lnk, .pip, .upd, .epc, .tod, .cas, .hif, .prt, .err, .drc, .rst, .pwr, .fwu, .vbt] s out := by
  delta execFwuPush
  intro out h
  injection h with h
  subst h
  repeat' first
    | with_reducible apply Frame.refl
    | with_reducible assumption
    | apply Eq.refl
    | lift_lets -underBinder -merge -useContext
    | (intro x; refine Frame.cut (cs := [.clk, .regs, .mwin, .arr, .tbl, .mem, .lnk, .pip, .upd, .epc, .tod, .cas, .hif, .prt, .err, .drc, .rst, .pwr, .fwu, .vbt]) (s0 := s) (x := x) ?_ (fun hx => ?_); unfold x; rotate_left; clear_value x)
    | with_reducible apply Frame.app (rowWrite_frame _ _ _ _)

theorem execFwuAbort_frame (src : Party) (v : Word) (s : State) :
    ∀ out, execFwuAbort src v s = .next out → Frame [.clk, .regs, .mwin, .arr, .tbl, .mem, .lnk, .pip, .upd, .epc, .tod, .cas, .hif, .prt, .err, .drc, .rst, .pwr, .fwu, .vbt] s out := by
  delta execFwuAbort
  intro out h
  injection h with h
  subst h
  repeat' first
    | with_reducible apply Frame.refl
    | with_reducible assumption
    | apply Eq.refl
    | lift_lets -underBinder -merge -useContext
    | (intro x; refine Frame.cut (cs := [.clk, .regs, .mwin, .arr, .tbl, .mem, .lnk, .pip, .upd, .epc, .tod, .cas, .hif, .prt, .err, .drc, .rst, .pwr, .fwu, .vbt]) (s0 := s) (x := x) ?_ (fun hx => ?_); unfold x; rotate_left; clear_value x)
    | with_reducible apply Frame.app (rowWrite_frame _ _ _ _)

theorem execFwuActivate_frame (src : Party) (v : Word) (s : State) :
    ∀ out, execFwuActivate src v s = .next out → Frame [.clk, .regs, .mwin, .arr, .tbl, .mem, .lnk, .pip, .upd, .epc, .tod, .cas, .hif, .prt, .err, .drc, .rst, .pwr, .fwu, .vbt] s out := by
  delta execFwuActivate
  intro out h
  injection h with h
  subst h
  repeat' first
    | with_reducible apply Frame.refl
    | with_reducible assumption
    | apply Eq.refl
    | lift_lets -underBinder -merge -useContext
    | (intro x; refine Frame.cut (cs := [.clk, .regs, .mwin, .arr, .tbl, .mem, .lnk, .pip, .upd, .epc, .tod, .cas, .hif, .prt, .err, .drc, .rst, .pwr, .fwu, .vbt]) (s0 := s) (x := x) ?_ (fun hx => ?_); unfold x; rotate_left; clear_value x)
    | with_reducible apply Frame.app (rowWrite_frame _ _ _ _)

theorem execFwuConfirm_frame (src : Party) (v : Word) (s : State) :
    ∀ out, execFwuConfirm src v s = .next out → Frame [.clk, .regs, .mwin, .arr, .tbl, .mem, .lnk, .pip, .upd, .epc, .tod, .cas, .hif, .prt, .err, .drc, .rst, .pwr, .fwu, .vbt] s out := by
  delta execFwuConfirm
  intro out h
  injection h with h
  subst h
  repeat' first
    | with_reducible apply Frame.refl
    | with_reducible assumption
    | apply Eq.refl
    | lift_lets -underBinder -merge -useContext
    | (intro x; refine Frame.cut (cs := [.clk, .regs, .mwin, .arr, .tbl, .mem, .lnk, .pip, .upd, .epc, .tod, .cas, .hif, .prt, .err, .drc, .rst, .pwr, .fwu, .vbt]) (s0 := s) (x := x) ?_ (fun hx => ?_); unfold x; rotate_left; clear_value x)
    | with_reducible apply Frame.app (rowWrite_frame _ _ _ _)

theorem execVbtWordWrite_frame (src : Party) (n : Fin 64) (v : Word) (s : State) :
    ∀ out, execVbtWordWrite src n v s = .next out → Frame [.regs, .hif, .prt, .err, .fwu, .vbt] s out := by
  intro out h
  injection h with h
  subst h
  refine rowWrite_effect src (Reg.vbtWord n.val) v s rfl (by have := n.isLt; rw [inFam_iff]; exact decide_eq_false (by unfold pfMsix Reg.vbtWord; omega)) fun src v t => ?_
  rw [regEffect_vbtWord]
  exact Frame.mono (wrVbtWord_frame src n.val v t) rfl

theorem regEffect_prtGroup (src : Party) (off : Nat) (v : Word) (s : State) (h : prtGroup off = true) :
    regEffect src off v s = wrProtect src off v s := by
  have hr : 1310720 ≤ off ∧ off < 1376256 := by
    simp only [prtGroup, inFam_iff, Bool.or_eq_true, decide_eq_true_iff, beq_iff_eq, Reg.prtLock, Reg.prtBankOwn, Reg.prtFnRights, Reg.prtRgnA,
      Reg.prtTgrant] at h
    omega
  have h20 : off / 65536 = 20 := by omega
  simp only [regEffect, h20, wrPrt, h, if_true]

theorem execProposalStage_frame (src : Party) (off : Nat) (v : Word) (s : State) :
    ∀ out, execProposalStage src off v s = .next out → Frame [.regs, .hif, .prt, .err, .fwu] s out := by
  intro out h
  injection h with h
  subst h
  split
  · rename_i h
    have h1 : inFam pfMsix 8192 off = false := by
      simp only [prtGroup, inFam_iff, Bool.or_eq_true, decide_eq_true_iff, beq_iff_eq, Reg.prtLock, Reg.prtBankOwn, Reg.prtFnRights, Reg.prtRgnA,
        Reg.prtTgrant] at h
      rw [inFam_iff]; exact decide_eq_false (by unfold pfMsix; omega)
    refine rowWrite_effect src off v s rfl h1 fun src v t => ?_
    rw [regEffect_prtGroup _ _ _ _ h]
    exact Frame.mono (wrProtect_frame src off v t) rfl
  · exact Frame.refl _ s

theorem execRegisterWrite_frame (a : Access) (v : W64) (s : State) :
    ∀ out, execRegisterWrite a v s = .next out → Frame [.clk, .regs, .mwin, .arr, .tbl, .mem, .lnk, .pip, .upd, .epc, .tod, .cas, .hif, .prt, .err, .drc, .rst, .pwr, .fwu, .vbt] s out := by
  delta execRegisterWrite
  intro out h
  injection h with h
  subst h
  repeat' first
    | with_reducible apply Frame.refl
    | with_reducible assumption
    | apply Eq.refl
    | lift_lets -underBinder -merge -useContext
    | (intro x; refine Frame.cut (cs := [.clk, .regs, .mwin, .arr, .tbl, .mem, .lnk, .pip, .upd, .epc, .tod, .cas, .hif, .prt, .err, .drc, .rst, .pwr, .fwu, .vbt]) (s0 := s) (x := x) ?_ (fun hx => ?_); unfold x; rotate_left; clear_value x)
    | with_reducible apply Frame.app (accessWrite_frame _ _ _)

theorem execRegisterRead_frame (a : Access) (s : State) :
    ∀ out, execRegisterRead a s = .next out → Frame [.clk, .regs, .tbl, .upd, .cas, .hif, .prt, .err] s out := by
  delta execRegisterRead
  intro out h
  injection h with h
  subst h
  repeat' first
    | with_reducible apply Frame.refl
    | with_reducible assumption
    | apply Eq.refl
    | lift_lets -underBinder -merge -useContext
    | (intro x; refine Frame.cut (cs := [.clk, .regs, .tbl, .upd, .cas, .hif, .prt, .err]) (s0 := s) (x := x) ?_ (fun hx => ?_); unfold x; rotate_left; clear_value x)
    | with_reducible apply Frame.app (accessRead_frame _ _)

theorem smbRead_frame (off : Nat) (s : State) :
    Frame [.clk, .regs, .prt, .err] s (smbRead off s) := by
  delta smbRead
  repeat' first
    | with_reducible apply Frame.refl
    | with_reducible assumption
    | apply Eq.refl
    | lift_lets -underBinder -merge -useContext
    | (intro x; refine Frame.cut (cs := [.clk, .regs, .prt, .err]) (s0 := s) (x := x) ?_ (fun hx => ?_); unfold x; rotate_left; clear_value x)
    | (intro x; refine Frame.cut (cs := [.clk, .regs, .prt, .err]) (s0 := s) (x := x.2) ?_ (fun hx => ?_); unfold x; rotate_left; clear_value x)
    | (intro x; clear_value x)
    | intro x
    | with_reducible apply Frame.app (smbAnswer_frame _ _)
    | with_reducible apply Frame.app (refuseRead_frame _ _ _ _)
    | with_reducible apply Frame.app (read32_frame _ _ _)
    | with_reducible apply Frame.ite

theorem execRegRead_frame (off : BitVec 24) (s : State) :
    ∀ out, execRegRead off s = .next out → Frame [.clk, .regs, .prt, .err] s out := by
  delta execRegRead
  intro out h
  injection h with h
  subst h
  repeat' first
    | with_reducible apply Frame.refl
    | with_reducible assumption
    | apply Eq.refl
    | lift_lets -underBinder -merge -useContext
    | (intro x; refine Frame.cut (cs := [.clk, .regs, .prt, .err]) (s0 := s) (x := x) ?_ (fun hx => ?_); unfold x; rotate_left; clear_value x)
    | with_reducible apply Frame.app (smbRead_frame _ _)
    | with_reducible apply Frame.ite

theorem smbWrite_frame (off : Nat) (v : Word) (s : State) :
    Frame [.clk, .regs, .mwin, .arr, .tbl, .mem, .lnk, .pip, .upd, .epc, .tod, .cas, .hif, .prt, .err, .drc, .rst, .pwr, .fwu, .vbt] s (smbWrite off v s) := by
  delta smbWrite
  repeat' first
    | with_reducible apply Frame.refl
    | with_reducible assumption
    | apply Eq.refl
    | lift_lets -underBinder -merge -useContext
    | (intro x; refine Frame.cut (cs := [.clk, .regs, .mwin, .arr, .tbl, .mem, .lnk, .pip, .upd, .epc, .tod, .cas, .hif, .prt, .err, .drc, .rst, .pwr, .fwu, .vbt]) (s0 := s) (x := x) ?_ (fun hx => ?_); unfold x; rotate_left; clear_value x)
    | (intro x; clear_value x)
    | intro x
    | with_reducible apply Frame.app (refuseReg_frame _ _ _ _ _)
    | with_reducible apply Frame.app (smbAnswer_frame _ _)
    | with_reducible apply Frame.app (write32_frame _ _ _ _)
    | with_reducible apply Frame.ite

theorem execRegWrite_frame (off : BitVec 24) (v : Word) (s : State) :
    ∀ out, execRegWrite off v s = .next out → Frame [.clk, .regs, .mwin, .arr, .tbl, .mem, .lnk, .pip, .upd, .epc, .tod, .cas, .hif, .prt, .err, .drc, .rst, .pwr, .fwu, .vbt] s out := by
  delta execRegWrite
  intro out h
  injection h with h
  subst h
  repeat' first
    | with_reducible apply Frame.refl
    | with_reducible assumption
    | apply Eq.refl
    | lift_lets -underBinder -merge -useContext
    | (intro x; refine Frame.cut (cs := [.clk, .regs, .mwin, .arr, .tbl, .mem, .lnk, .pip, .upd, .epc, .tod, .cas, .hif, .prt, .err, .drc, .rst, .pwr, .fwu, .vbt]) (s0 := s) (x := x) ?_ (fun hx => ?_); unfold x; rotate_left; clear_value x)
    | with_reducible apply Frame.app (smbWrite_frame _ _ _)
    | with_reducible apply Frame.ite

theorem ctrlAccess_frame (words : List W64) (s : State) :
    Frame [.clk, .regs, .mwin, .arr, .tbl, .mem, .lnk, .pip, .upd, .epc, .tod, .cas, .hif, .prt, .err, .drc, .rst, .pwr, .fwu, .vbt] s (ctrlAccess words s) := by
  delta ctrlAccess
  repeat' first
    | with_reducible apply Frame.refl
    | with_reducible assumption
    | apply Eq.refl
    | lift_lets -underBinder -merge -useContext
    | (intro x; refine Frame.cut (cs := [.clk, .regs, .mwin, .arr, .tbl, .mem, .lnk, .pip, .upd, .epc, .tod, .cas, .hif, .prt, .err, .drc, .rst, .pwr, .fwu, .vbt]) (s0 := s) (x := x) ?_ (fun hx => ?_); unfold x; rotate_left; clear_value x)
    | (intro x; refine Frame.cut (cs := [.clk, .regs, .mwin, .arr, .tbl, .mem, .lnk, .pip, .upd, .epc, .tod, .cas, .hif, .prt, .err, .drc, .rst, .pwr, .fwu, .vbt]) (s0 := s) (x := x.2) ?_ (fun hx => ?_); unfold x; rotate_left; clear_value x)
    | (intro x; clear_value x)
    | intro x
    | with_reducible apply Frame.app (vbtPut_frame _ _ _)
    | with_reducible apply Frame.app (sendAck_frame _ _ _ _)
    | with_reducible apply Frame.app (write32_frame _ _ _ _)
    | with_reducible apply Frame.app (read32_frame _ _ _)
    | with_reducible apply Frame.ite

theorem enterOrdered_frame (st : Nat) (s : State) :
    Frame [.clk, .regs, .pip, .cas, .err, .pwr] s (enterOrdered st s) := by
  delta enterOrdered
  repeat' first
    | with_reducible apply Frame.refl
    | with_reducible assumption
    | apply Eq.refl
    | lift_lets -underBinder -merge -useContext
    | (intro x; refine Frame.cut (cs := [.clk, .regs, .pip, .cas, .err, .pwr]) (s0 := s) (x := x) ?_ (fun hx => ?_); unfold x; rotate_left; clear_value x)
    | with_reducible apply Frame.app (startEntry_frame _ _)
    | with_reducible apply Frame.ite

theorem execCtrlFrame_frame (words : List W64) (order : Option (Fin 5)) (s : State) :
    ∀ out, execCtrlFrame words order s = .next out → Frame [.clk, .regs, .mwin, .arr, .tbl, .mem, .lnk, .pip, .upd, .epc, .tod, .cas, .hif, .prt, .err, .drc, .rst, .pwr, .fwu, .vbt] s out := by
  delta execCtrlFrame
  intro out h
  injection h with h
  subst h
  repeat' first
    | with_reducible apply Frame.refl
    | with_reducible assumption
    | apply Eq.refl
    | lift_lets -underBinder -merge -useContext
    | (intro x; refine Frame.cut (cs := [.clk, .regs, .mwin, .arr, .tbl, .mem, .lnk, .pip, .upd, .epc, .tod, .cas, .hif, .prt, .err, .drc, .rst, .pwr, .fwu, .vbt]) (s0 := s) (x := x) ?_ (fun hx => ?_); unfold x; rotate_left; clear_value x)
    | with_reducible refine ctlReceive_frame (by decide) (fun _ _ => ?_) ?_
    | with_reducible apply Frame.app (sendAck_frame _ _ _ _)
    | with_reducible apply Frame.app (ctrlAccess_frame _ _)
    | with_reducible apply Frame.app (enterOrdered_frame _ _)
    | with_reducible apply Frame.ite
    | split

end Sys2Proof.Machine
end

