-- ==== Sys2Proof/Laws/FrameReceive.lean ====
section
/-! SUPPORT. What each operation of Machine/Receive.lean changes at most, and that it keeps the invariant. -/

namespace Sys2Proof.Machine

set_option linter.all false

open Sys2Proof

theorem fclFrame_frame (ws : List W64) (s : State) :
    Frame [.clk, .regs, .mwin, .arr, .tbl, .mem, .lnk, .pip, .upd, .epc, .tod, .cas, .hif, .prt, .err, .drc, .rst, .pwr, .fwu, .vbt] s (fclFrame ws s) := by
  delta fclFrame
  repeat' first
    | with_reducible apply Frame.refl
    | with_reducible assumption
    | apply Eq.refl
    | lift_lets -underBinder -merge -useContext
    | (intro x; refine Frame.cut (cs := [.clk, .regs, .mwin, .arr, .tbl, .mem, .lnk, .pip, .upd, .epc, .tod, .cas, .hif, .prt, .err, .drc, .rst, .pwr, .fwu, .vbt]) (s0 := s) (x := x) ?_ (fun hx => ?_); unfold x; rotate_left; clear_value x)
    | with_reducible apply Frame.app (fclCrc_frame _)
    | with_reducible apply Frame.app (fclStray_frame _)
    | with_reducible apply Frame.app (after_frame _ _)
    | with_reducible apply after_frame
    | with_reducible apply FrameN.app (execTimeFrame_frame _ _)
    | with_reducible apply FrameN.app (execCasDecide_frame _ _)
    | with_reducible apply FrameN.app (execRelayFrame_frame _ _)
    | with_reducible apply FrameN.app (execDiscoverReturn_frame _ _)
    | with_reducible apply FrameN.app (execCasAck_frame _ _)
    | with_reducible apply FrameN.app (execStateFrame_frame _ _)
    | with_reducible apply FrameN.app (execCsearch_frame _ _)
    | with_reducible apply FrameN.app (execDiscoverFrame_frame _ _)
    | with_reducible apply FrameN.app (execImgFrame_frame _ _)
    | with_reducible apply FrameN.app (execCtrlFrame_frame _ _ _)
    | with_reducible apply FrameN.app (execCand_frame _ _)
    | with_reducible apply FrameN.app (execCasPrepare_frame _ _)
    | with_reducible apply Frame.ite
    | split

theorem fclWord_frame (mw : Bool × W64) (s : State) :
    Frame [.clk, .regs, .mwin, .arr, .tbl, .mem, .lnk, .pip, .upd, .epc, .tod, .cas, .hif, .prt, .err, .drc, .rst, .pwr, .fwu, .vbt] s (fclWord mw s) := by
  delta fclWord
  repeat' first
    | with_reducible apply Frame.refl
    | with_reducible assumption
    | apply Eq.refl
    | lift_lets -underBinder -merge -useContext
    | (intro x; refine Frame.cut (cs := [.clk, .regs, .mwin, .arr, .tbl, .mem, .lnk, .pip, .upd, .epc, .tod, .cas, .hif, .prt, .err, .drc, .rst, .pwr, .fwu, .vbt]) (s0 := s) (x := x) ?_ (fun hx => ?_); unfold x; rotate_left; clear_value x)
    | (intro x; refine Frame.cutF (cs := [.clk, .regs, .mwin, .arr, .tbl, .mem, .lnk, .pip, .upd, .epc, .tod, .cas, .hif, .prt, .err, .drc, .rst, .pwr, .fwu, .vbt]) (s0 := s) (x := x) (fun _ _ => ?_) (fun hx => ?_); unfold x; rotate_left; clear_value x)
    | (intro x; refine Frame.cutS (cs := [.clk, .regs, .mwin, .arr, .tbl, .mem, .lnk, .pip, .upd, .epc, .tod, .cas, .hif, .prt, .err, .drc, .rst, .pwr, .fwu, .vbt]) (s0 := s) (x := x) (fun _ _ _ => ?_) (fun hx => ?_); unfold x; rotate_left; clear_value x)
    | (intro x; refine Frame.cutH (cs := [.clk, .regs, .mwin, .arr, .tbl, .mem, .lnk, .pip, .upd, .epc, .tod, .cas, .hif, .prt, .err, .drc, .rst, .pwr, .fwu, .vbt]) (s0 := s) (x := x) (fun _ _ _ _ => ?_) (fun hx => ?_); unfold x; rotate_left; clear_value x)
    | (intro x; refine Frame.cutG (cs := [.clk, .regs, .mwin, .arr, .tbl, .mem, .lnk, .pip, .upd, .epc, .tod, .cas, .hif, .prt, .err, .drc, .rst, .pwr, .fwu, .vbt]) (s0 := s) (x := x) (fun _ _ _ => ?_) (fun hx => ?_); unfold x; rotate_left; clear_value x)
    | (intro x; refine Frame.cutK (cs := [.clk, .regs, .mwin, .arr, .tbl, .mem, .lnk, .pip, .upd, .epc, .tod, .cas, .hif, .prt, .err, .drc, .rst, .pwr, .fwu, .vbt]) (s0 := s) (x := x) (fun _ => ?_) (fun hx => ?_); unfold x; rotate_left; clear_value x)
    | (intro x; refine Frame.cutK2 (cs := [.clk, .regs, .mwin, .arr, .tbl, .mem, .lnk, .pip, .upd, .epc, .tod, .cas, .hif, .prt, .err, .drc, .rst, .pwr, .fwu, .vbt]) (s0 := s) (x := x) (fun _ _ => ?_) (fun hx => ?_); unfold x; rotate_left; clear_value x)
    | (intro x; clear_value x)
    | intro x
    | with_reducible apply Frame.app (updGrp_frame _ _ _)
    | with_reducible apply Frame.app (fclStray_frame _)
    | with_reducible apply Frame.app (fclFrame_frame _ _)
    | with_reducible apply Frame.ite
    | with_reducible apply_assumption

theorem fclReceive_frame (blocks : List LaneBlock) (s : State) :
    Frame [.clk, .regs, .mwin, .arr, .tbl, .mem, .lnk, .pip, .upd, .epc, .tod, .cas, .hif, .prt, .err, .drc, .rst, .pwr, .fwu, .vbt] s (fclReceive blocks s) := by
  delta fclReceive
  repeat' first
    | with_reducible apply Frame.refl
    | with_reducible assumption
    | apply Eq.refl
    | lift_lets -underBinder -merge -useContext
    | (intro x; refine Frame.cut (cs := [.clk, .regs, .mwin, .arr, .tbl, .mem, .lnk, .pip, .upd, .epc, .tod, .cas, .hif, .prt, .err, .drc, .rst, .pwr, .fwu, .vbt]) (s0 := s) (x := x) ?_ (fun hx => ?_); unfold x; rotate_left; clear_value x)
    | (intro x; refine Frame.cut (cs := [.clk, .regs, .mwin, .arr, .tbl, .mem, .lnk, .pip, .upd, .epc, .tod, .cas, .hif, .prt, .err, .drc, .rst, .pwr, .fwu, .vbt]) (s0 := s) (x := x.2) ?_ (fun hx => ?_); unfold x; rotate_left; clear_value x)
    | (intro x; clear_value x)
    | intro x
    | with_reducible apply Frame.app (rxBlock_frame _ _ _)
    | with_reducible apply Frame.app (fclWord_frame _ _)
    | with_reducible refine Frame.foldl ?_ (fun _ _ _ => ?_)
    | with_reducible apply Frame.ite
    | with_reducible apply_assumption
    | with_reducible refine Frame.app (Frame.ofPair (rxBlock_frame _ _ _) (by assumption)) ?_ ?_

theorem execFrameReceive_frame (l : LinkId) (blocks : List LaneBlock) (corrected : List Nat) (s : State) :
    ∀ out, execFrameReceive l blocks corrected s = .next out → Frame [.clk, .regs, .mwin, .arr, .tbl, .mem, .lnk, .pip, .upd, .epc, .tod, .cas, .hif, .prt, .err, .drc, .rst, .pwr, .fwu, .vbt] s out := by
  delta execFrameReceive
  intro out h
  injection h with h
  subst h
  repeat' first
    | with_reducible apply Frame.refl
    | with_reducible assumption
    | apply Eq.refl
    | lift_lets -underBinder -merge -useContext
    | (intro x; refine Frame.cut (cs := [.clk, .regs, .mwin, .arr, .tbl, .mem, .lnk, .pip, .upd, .epc, .tod, .cas, .hif, .prt, .err, .drc, .rst, .pwr, .fwu, .vbt]) (s0 := s) (x := x) ?_ (fun hx => ?_); unfold x; rotate_left; clear_value x)
    | with_reducible apply Frame.app (cntAdd_frame _ _ _)
    | with_reducible apply Frame.app (fecCorrected_frame _ _ _)
    | with_reducible apply Frame.app (fllReceive_frame _ _ _)
    | with_reducible apply Frame.app (fclReceive_frame _ _)
    | with_reducible apply Frame.ite
    | split

/-- What FRAME_RECEIVE on an FLL link changes at most. -/
theorem execFrameReceive_fll_frame (g : Fin 4) (blocks : List LaneBlock) (corrected : List Nat) (s : State) :
    ∀ out, execFrameReceive (.fll g) blocks corrected s = .next out → Frame [.regs, .lnk, .pip, .err, .pwr] s out := by
  intro out h
  injection h with h
  subst h
  exact Frame.app (fllReceive_frame _ _ _) (by decide) (Frame.mono (fecCorrected_frame _ _ _) (by decide))

end Sys2Proof.Machine
end

