-- ==== Sys2Proof/Laws/FrameTick.lean ====
section
/-! SUPPORT. What each operation of Machine/Tick.lean changes at most, and that it keeps the invariant. -/

namespace Sys2Proof.Machine

set_option linter.all false

open Sys2Proof

theorem pclkTick_frame (s : State) : Frame [.clk] s (pclkTick s) := by
  delta pclkTick
  apply Frame.ite
  · exact Frame.updClk rfl (fun _ _ => Nat.mod_lt _ (by decide)) (Frame.refl _ s)
  · exact Frame.refl _ s

theorem refclkTick_frame (s : State) :
    Frame [.clk, .tod] s (refclkTick s) := by
  delta refclkTick
  repeat' first
    | with_reducible apply Frame.refl
    | with_reducible assumption
    | apply Eq.refl
    | lift_lets -underBinder -merge -useContext
    | (intro x; refine Frame.cut (cs := [.clk, .tod]) (s0 := s) (x := x) ?_ (fun hx => ?_); unfold x; rotate_left; clear_value x)
    | (intro x; clear_value x)
    | intro x
    | with_reducible apply Frame.app (putTod_frame _ _)
    | (with_reducible refine Frame.updTod (by decide) (fun _ h => h) ?_ ?_; (intro _ h; exact h))
    | (with_reducible refine Frame.updTod (by decide) (fun _ h => h) ?_ ?_; (intro _ h; simp only [TodSt.sorted] at h ⊢; simp [h]; done))
    | (with_reducible refine Frame.updTod (by decide) (fun _ h => h) ?_ ?_; (intro _ h; simp only [TodSt.sorted] at h ⊢; and_intros <;> (try dsimp only) <;> (repeat' split) <;> first | (simp [h]; done) | exact tabFold_rising (fun _ _ g => by first | (simp [g]; done) | (split <;> simp [g]; done)) _ _ (by simp [h])))
    | (with_reducible refine Frame.updTod (by decide) (fun _ h => h) ?_ ?_; (intro _ h; simp only [TodSt.sorted] at h ⊢; and_intros <;> first | (simp [h]; done) | exact tabFold_rising (fun _ _ g => by first | (simp [g]; done) | (split <;> simp [g]; done) | exact tabFold_rising (fun _ _ k => by simp [k]) _ _ g) _ _ (by simp [h]) | (repeat' first | exact rfl | exact h | apply tabSet_rising)))
    | with_reducible apply Frame.ite

theorem timeTick_frame (s : State) :
    Frame [.clk, .tod] s (timeTick s) := by
  delta timeTick
  repeat' first
    | with_reducible apply Frame.refl
    | with_reducible assumption
    | apply Eq.refl
    | lift_lets -underBinder -merge -useContext
    | (intro x; refine Frame.cut (cs := [.clk, .tod]) (s0 := s) (x := x) ?_ (fun hx => ?_); unfold x; rotate_left; clear_value x)
    | with_reducible apply Frame.app (todTick_frame _)
    | with_reducible apply Frame.app (refclkTick_frame _)
    | with_reducible apply Frame.ite

theorem rtcTick_frame (s : State) :
    Frame [.vbt] s (rtcTick s) := by
  delta rtcTick
  repeat' first
    | with_reducible apply Frame.refl
    | with_reducible assumption
    | apply Eq.refl
    | lift_lets -underBinder -merge -useContext
    | (intro x; refine Frame.cut (cs := [.vbt]) (s0 := s) (x := x) ?_ (fun hx => ?_); unfold x; rotate_left; clear_value x)
    | (with_reducible refine Frame.updVbt (by decide) ?_ ?_; (intro _ h; exact h))
    | (with_reducible refine Frame.updVbt (by decide) ?_ ?_; (intro _ h; simp only [VbtSt.sorted] at h ⊢; simp [h]; done))
    | (with_reducible refine Frame.updVbt (by decide) ?_ ?_; (intro _ h; simp only [VbtSt.sorted] at h ⊢; and_intros <;> (try dsimp only) <;> (repeat' split) <;> first | (simp [h]; done) | exact tabFold_rising (fun _ _ g => by first | (simp [g]; done) | (split <;> simp [g]; done)) _ _ (by simp [h])))
    | (with_reducible refine Frame.updVbt (by decide) ?_ ?_; (intro _ h; simp only [VbtSt.sorted] at h ⊢; and_intros <;> first | (simp [h]; done) | exact tabFold_rising (fun _ _ g => by first | (simp [g]; done) | (split <;> simp [g]; done) | exact tabFold_rising (fun _ _ k => by simp [k]) _ _ g) _ _ (by simp [h]) | (repeat' first | exact rfl | exact h | apply tabSet_rising)))

theorem paceTick_frame (s : State) :
    Frame [.regs, .err] s (paceTick s) := by
  delta paceTick
  repeat' first
    | with_reducible apply Frame.refl
    | with_reducible assumption
    | apply Eq.refl
    | lift_lets -underBinder -merge -useContext
    | (intro x; refine Frame.cut (cs := [.regs, .err]) (s0 := s) (x := x) ?_ (fun hx => ?_); unfold x; rotate_left; clear_value x)
    | with_reducible apply Frame.app (setBehind_frame _ _)
    | with_reducible refine Frame.foldl ?_ (fun _ _ _ => ?_)
    | with_reducible apply Frame.ite
    | with_reducible apply_assumption

theorem tick_frame (s : State) :
    Frame [.clk, .regs, .pip, .tod, .cas, .err, .pwr, .vbt] s (tick s) := by
  delta tick
  repeat' first
    | with_reducible apply Frame.refl
    | with_reducible assumption
    | apply Eq.refl
    | lift_lets -underBinder -merge -useContext
    | (intro x; refine Frame.cut (cs := [.clk, .regs, .pip, .tod, .cas, .err, .pwr, .vbt]) (s0 := s) (x := x) ?_ (fun hx => ?_); unfold x; rotate_left; clear_value x)
    | with_reducible apply Frame.app (pulseTick_frame _)
    | with_reducible apply Frame.app (schedTick_frame _)
    | with_reducible apply Frame.app (ringEnable_frame _)
    | with_reducible apply Frame.app (expireCands_frame _)
    | with_reducible apply Frame.app (timerTick_frame _)
    | with_reducible apply Frame.app (entryTick_frame _)
    | with_reducible apply Frame.app (pclkTick_frame _)
    | with_reducible apply Frame.app (timeTick_frame _)
    | with_reducible apply Frame.app (rtcTick_frame _)
    | with_reducible apply Frame.app (paceTick_frame _)
    | with_reducible refine Frame.updClk (by decide) (fun _ h => by first | exact h | exact regsNil_ok) ?_

end Sys2Proof.Machine
end

