-- ==== Sys2Proof/Laws/Reg.lean ====
section
/-! SUPPORT. What registers read as after each operation: a register written, every other register as before, and a register
read through an update of another component. -/

namespace Sys2Proof.Machine

set_option linter.all false

open Sys2Proof

/-- With the registers kept in their form in s, they are so kept in t, and every register but those listed is the same. -/
structure RegF (offs : List Nat) (s t : State) : Prop where
  but : tabRising s.regs = true → RegsBut offs s t
  rise : tabRising s.regs = true → tabRising t.regs = true

theorem RegF.refl (offs : List Nat) (s : State) : RegF offs s s := ⟨fun _ _ _ => rfl, id⟩

/-- An operation that leaves the registers alone. -/
theorem RegF.same {offs : List Nat} {s t u : State} (h : RegF offs s t) (e : u.regs = t.regs) : RegF offs s u :=
  ⟨fun r off hn => by have := h.but r off hn; simp only [regGet, e] at this ⊢; exact this, fun r => by rw [e]; exact h.rise r⟩

/-- One more operation. -/
theorem RegF.app {offs ds : List Nat} {s x y : State} (g : RegF ds x y) (hs : ∀ d ∈ ds, d ∈ offs) (h : RegF offs s x) :
    RegF offs s y :=
  ⟨fun r off hn => (g.but (h.rise r) off fun hd => hn (hs off hd)).trans (h.but r off hn), fun r => g.rise (h.rise r)⟩

theorem RegF.ite {offs : List Nat} {s x y : State} {c : Prop} [Decidable c] (hx : RegF offs s x) (hy : RegF offs s y) :
    RegF offs s (if c then x else y) := by split <;> assumption

/-- An operation whose frame does not name the registers. -/
theorem RegF.frame {cs : List Comp} {offs : List Nat} {s x y : State} (g : Frame cs x y) (hc : Comp.regs ∉ cs)
    (h : RegF offs s x) : RegF offs s y := h.same (g.only .regs hc)

/-! An update of another component. -/

theorem RegF.updClk {offs : List Nat} {s t : State} {f : ClkSt → ClkSt} (h : RegF offs s t) : RegF offs s (t.updClk f) := h.same rfl
theorem RegF.updArr {offs : List Nat} {s t : State} {f : ArrSt → ArrSt} (h : RegF offs s t) : RegF offs s (t.updArr f) := h.same rfl
theorem RegF.updTbl {offs : List Nat} {s t : State} {f : TblSt → TblSt} (h : RegF offs s t) : RegF offs s (t.updTbl f) := h.same rfl
theorem RegF.updMem {offs : List Nat} {s t : State} {f : MemSt → MemSt} (h : RegF offs s t) : RegF offs s (t.updMem f) := h.same rfl
theorem RegF.updLnk {offs : List Nat} {s t : State} {f : LnkSt → LnkSt} (h : RegF offs s t) : RegF offs s (t.updLnk f) := h.same rfl
theorem RegF.updPip {offs : List Nat} {s t : State} {f : PipSt → PipSt} (h : RegF offs s t) : RegF offs s (t.updPip f) := h.same rfl
theorem RegF.updUpd {offs : List Nat} {s t : State} {f : UpdSt → UpdSt} (h : RegF offs s t) : RegF offs s (t.updUpd f) := h.same rfl
theorem RegF.updEpc {offs : List Nat} {s t : State} {f : EpcSt → EpcSt} (h : RegF offs s t) : RegF offs s (t.updEpc f) := h.same rfl
theorem RegF.updTod {offs : List Nat} {s t : State} {f : TodSt → TodSt} (h : RegF offs s t) : RegF offs s (t.updTod f) := h.same rfl
theorem RegF.updCas {offs : List Nat} {s t : State} {f : CasSt → CasSt} (h : RegF offs s t) : RegF offs s (t.updCas f) := h.same rfl
theorem RegF.updHif {offs : List Nat} {s t : State} {f : HifSt → HifSt} (h : RegF offs s t) : RegF offs s (t.updHif f) := h.same rfl
theorem RegF.updPrt {offs : List Nat} {s t : State} {f : PrtSt → PrtSt} (h : RegF offs s t) : RegF offs s (t.updPrt f) := h.same rfl
theorem RegF.updErr {offs : List Nat} {s t : State} {f : ErrSt → ErrSt} (h : RegF offs s t) : RegF offs s (t.updErr f) := h.same rfl
theorem RegF.updDrc {offs : List Nat} {s t : State} {f : DrcSt → DrcSt} (h : RegF offs s t) : RegF offs s (t.updDrc f) := h.same rfl
theorem RegF.updRst {offs : List Nat} {s t : State} {f : RstSt → RstSt} (h : RegF offs s t) : RegF offs s (t.updRst f) := h.same rfl
theorem RegF.updPwr {offs : List Nat} {s t : State} {f : PwrSt → PwrSt} (h : RegF offs s t) : RegF offs s (t.updPwr f) := h.same rfl
theorem RegF.updFwu {offs : List Nat} {s t : State} {f : FwuSt → FwuSt} (h : RegF offs s t) : RegF offs s (t.updFwu f) := h.same rfl
theorem RegF.updVbt {offs : List Nat} {s t : State} {f : VbtSt → VbtSt} (h : RegF offs s t) : RegF offs s (t.updVbt f) := h.same rfl
theorem RegF.updMwin {offs : List Nat} {s t : State} {f : Tab Word → Tab Word} (h : RegF offs s t) : RegF offs s (t.updMwin f) := h.same rfl

theorem regPut_regF (off : Nat) (v : Word) (s : State) : RegF [off] s (regPut off v s) :=
  ⟨fun r n hn => by rw [regGet_put _ _ _ _ r, if_neg]; simpa using hn, fun r => tabSet_rising _ _ _ _ r⟩

theorem fieldPut_regF (off hi lo v : Nat) (s : State) : RegF [off] s (fieldPut off hi lo v s) := regPut_regF _ _ _
theorem flagPut_regF (off i : Nat) (b : Bool) (s : State) : RegF [off] s (flagPut off i b s) := regPut_regF _ _ _
theorem cntAdd_regF (off n : Nat) (s : State) : RegF [off] s (cntAdd off n s) := regPut_regF _ _ _
theorem cntWrap_regF (off n : Nat) (s : State) : RegF [off] s (cntWrap off n s) := regPut_regF _ _ _
theorem cntMax_regF (off n : Nat) (s : State) : RegF [off] s (cntMax off n s) := regPut_regF _ _ _

/-- A register just written. -/
theorem regGet_put_self (off : Nat) (v : Word) (s : State) (h : tabRising s.regs = true) :
    regGet off (regPut off v s) = v &&& regLive off := by rw [regGet_put _ _ _ _ h, if_pos rfl]

/-- Another register. -/
theorem regGet_put_ne (off n : Nat) (v : Word) (s : State) (h : tabRising s.regs = true) (hn : n ≠ off) :
    regGet n (regPut off v s) = regGet n s := by rw [regGet_put _ _ _ _ h, if_neg hn]

theorem regPut_rising (off : Nat) (v : Word) (s : State) (h : tabRising s.regs = true) :
    tabRising (regPut off v s).regs = true := tabSet_rising _ _ _ _ h

/-- The invariant's registers rise. -/
theorem Inv.rising {s : State} (h : Inv s) : tabRising s.regs = true := by
  have := h.regs
  simp only [regsOk, Bool.and_eq_true] at this
  exact this.1

/-- No register reads a reserved bit. -/
theorem Inv.live {s : State} (h : Inv s) (off : Nat) : regGet off s &&& ~~~(regLive off) = 0 := regGet_live off s h.regs



/-! Interrupts, events and error records. -/

theorem errRise_regs (blk : Nat) (stat : Word) (s : State) : (errRise blk stat s).regs = s.regs := by
  unfold errRise; simp only; split <;> rfl

/-- What raising status bits does to the registers: the status register alone. -/
theorem raiseInt_regs {blk st en : Nat} (h : intPair blk = some (st, en)) (m : Word) (s : State) :
    (raiseInt blk m s).regs = (regPut st (regGet st s ||| m) s).regs := by
  simp only [raiseInt, h]
  split
  · rfl
  · split
    · rfl
    · rw [errRise_regs]; rfl

theorem raiseInt_regF {blk st en : Nat} (h : intPair blk = some (st, en)) (m : Word) (s : State) : RegF [st] s (raiseInt blk m s) := by
  exact (regPut_regF _ _ _).same (raiseInt_regs h m s)

/-- The status bits raised join those that stand. -/
theorem regGet_raiseInt {blk st en : Nat} (h : intPair blk = some (st, en)) (m : Word) (s : State) (r : tabRising s.regs = true) :
    regGet st (raiseInt blk m s) = (regGet st s ||| m) &&& regLive st := by
  rw [show regGet st (raiseInt blk m s) = regGet st (regPut st (regGet st s ||| m) s) from by
    simp only [regGet, raiseInt_regs h m s]]
  exact regGet_put_self _ _ _ r

theorem lnkAdd_regF (g k n : Nat) (s : State) : RegF [Reg.lnkCnt (16 * g + k)] s (lnkAdd g k n s) := by
  unfold lnkAdd
  exact RegF.ite (regPut_regF _ _ _) (regPut_regF _ _ _)

theorem lnkEvent_regF (g k : Nat) (s : State) : RegF [Reg.lnkCnt (16 * g + k), Reg.lnkIntStat] s (lnkEvent g k s) := by
  unfold lnkEvent
  have h : RegF [Reg.lnkCnt (16 * g + k), Reg.lnkIntStat] s (lnkAdd g k 1 s) :=
    RegF.app (lnkAdd_regF g k 1 s) (by simp) (RegF.refl _ s)
  simp only
  split
  · exact RegF.app (raiseInt_regF (en := Reg.lnkIntEn) rfl _ _) (by simp) h
  · exact h

theorem intCount_regF (k : Nat) (s : State) : RegF [Reg.intCnt k] s (intCount k s) := by
  unfold intCount
  exact RegF.ite (regPut_regF _ _ _) (regPut_regF _ _ _)

theorem intEvent_regF (b : Nat) (s : State) : RegF [Reg.intIntStat] s (intEvent b s) :=
  raiseInt_regF (en := Reg.intIntEn) rfl _ s

theorem errWrite_regF (r : ErrRec) (s : State) : RegF [Reg.intErrPtr] s (errWrite r s) := by
  unfold errWrite
  extract_lets tail base w s1 wrap s2 s3
  have h1 : RegF [Reg.intErrPtr] s s1 := RegF.updHif (RegF.updHif (RegF.updHif (RegF.updHif (RegF.refl _ s))))
  clear_value s1
  exact RegF.frame (errMessage_frame _) (by decide) (RegF.updErr (RegF.app (fieldPut_regF _ _ _ _ _) (fun _ hd => hd) h1))

theorem errDrop_regF (s : State) : RegF [Reg.intErrLost] s (errDrop s) :=
  RegF.app (cntAdd_regF _ _ _) (fun _ hd => hd) ((RegF.refl _ s).same rfl)

theorem errLostRecord_regF (s : State) : RegF [Reg.intErrPtr] s (errLostRecord s) := by
  unfold errLostRecord
  exact RegF.ite (RegF.app (errWrite_regF _ _) (fun _ hd => hd) ((RegF.refl _ s).same rfl)) (RegF.refl _ s)

/-- The registers that a record may write: the ring's pointer and the count of those lost. -/
theorem errPut_regF (r : ErrRec) (s : State) : RegF [Reg.intErrPtr, Reg.intErrLost] s (errPut r s) := by
  unfold errPut
  exact RegF.ite (RegF.ite (RegF.app (errWrite_regF _ _) (by simp) ((RegF.refl _ s).same rfl))
      (RegF.app (errDrop_regF _) (by simp) (RegF.refl _ s)))
    (RegF.ite ((RegF.refl _ s).same rfl) (RegF.app (errDrop_regF _) (by simp) (RegF.refl _ s)))

theorem errPuts_regF (l : List ErrRec) : ∀ s, RegF [Reg.intErrPtr, Reg.intErrLost] s
    (l.foldl (fun s r => errPut r (errLostRecord s)) s) := by
  induction l with
  | nil => exact fun s => RegF.refl _ s
  | cons r l ih =>
    intro s
    have h : RegF [Reg.intErrPtr, Reg.intErrLost] s (errLostRecord s) := RegF.app (errLostRecord_regF s) (by simp) (RegF.refl _ s)
    exact RegF.app (ih _) (fun _ hd => hd) (RegF.app (errPut_regF r _) (fun _ hd => hd) h)

theorem errBlocks_regF (s : State) : RegF [Reg.intErrPtr, Reg.intErrLost] s (errBlocks s) := by
  unfold errBlocks
  exact RegF.app (errLostRecord_regF _) (by simp) (RegF.app (errPuts_regF _ _) (fun _ hd => hd) ((RegF.refl _ s).same rfl))

/-- A record writes the ring's pointer or the count of those lost. -/
theorem errRecord_regF (cls code outcome detail loc : Nat) (s : State) :
    RegF [Reg.intErrPtr, Reg.intErrLost] s (errRecord cls code outcome detail loc s) := by
  have h := errBlocks_regF s
  unfold errRecord
  exact RegF.ite (h.same rfl) (RegF.app (errPut_regF _ _) (fun _ hd => hd) (h.same rfl))

/-- A refusal counts in PRT_REF_CNT_c and PRT_REF_TOTAL and sets REFUSED. -/
theorem refuse_regF (cause : Nat) (src : Party) (space : Nat) (write : Bool) (off data : Nat) (s : State) :
    RegF [Reg.prtRefCnt cause, Reg.prtRefTotal, Reg.prtIntStat] s (refuse cause src space write off data s) := by
  unfold refuse
  extract_lets s1 a b
  have h1 : RegF [Reg.prtRefCnt cause, Reg.prtRefTotal, Reg.prtIntStat] s s1 :=
    RegF.app (cntAdd_regF _ _ _) (by simp) (RegF.app (cntWrap_regF _ _ _) (by simp) (RegF.refl _ s))
  clear_value s1
  exact RegF.app (raiseInt_regF (en := Reg.prtIntEn) rfl _ _) (by simp) (RegF.updPrt h1)

/-! Words without reserved bits. -/

theorem and_full (w : Word) : w &&& 0xffffffff = w := by
  rw [show (0xffffffff : Word) = BitVec.allOnes 32 from rfl, BitVec.and_allOnes]

theorem keep_live (w l : Word) (h : w &&& ~~~l = 0) : w &&& l = w := by
  ext j hj
  have := congrArg (fun x => x.getLsbD j) h
  simp [hj] at this ⊢
  exact this

theorem or_live (w m l : Word) (hw : w &&& ~~~l = 0) (hm : m &&& ~~~l = 0) : (w ||| m) &&& l = w ||| m := by
  rw [show (w ||| m) &&& l = (w &&& l) ||| (m &&& l) from by ext j hj; simp; cases w[j] <;> cases m[j] <;> cases l[j] <;> rfl,
    keep_live w l hw, keep_live m l hm]

/-- The bits raised join those that stand, where none is reserved. -/
theorem regGet_raiseInt_or {blk st en : Nat} (h : intPair blk = some (st, en)) (m : Word) (s : State) (i : Inv s)
    (hm : m &&& ~~~(regLive st) = 0) : regGet st (raiseInt blk m s) = regGet st s ||| m := by
  rw [regGet_raiseInt h m s i.rising, or_live _ _ _ (i.live st) hm]

/-! Where registers stand. -/

/-- No register stands in the windows of the MSI-X table and of its pending bits. -/
theorem regDesc_windows (off : Nat) (h : (regDesc off).isSome = true) : inFam pfMsix 8192 off = false ∧ inFam pfPba 64 off = false := by
  constructor
  all_goals
    rw [Bool.eq_false_iff]
    intro hw
    rw [inFam_iff, decide_eq_true_eq] at hw
    simp only [pfMsix, pfPba] at hw
    have hb : off / 65536 = 13 := by omega
    simp only [regDesc, hb, blockRegs, regsHif, List.find?_isSome, List.mem_cons, List.not_mem_nil, or_false] at h
    obtain ⟨x, hx, hc⟩ := h
    rcases hx with rfl | rfl | rfl <;> simp at hc <;> omega

theorem blockRegs_stride (b : Nat) : ∀ d ∈ blockRegs b, d.base % 4 = 0 ∧ d.stride % 4 = 0 := by
  unfold blockRegs
  split <;> decide

/-- Every register stands at a multiple of 4 (R10). -/
theorem regDesc_aligned (off : Nat) (d : RegDesc) (h : regDesc off = some d) : off % 4 = 0 := by
  have hm := blockRegs_stride _ d (List.mem_of_find?_eq_some h)
  have hc := List.find?_some h
  simp only [Bool.and_eq_true, decide_eq_true_eq, beq_iff_eq] at hc
  have : 4 ∣ off - d.base := Nat.dvd_trans (Nat.dvd_of_mod_eq_zero hm.2) (Nat.dvd_of_mod_eq_zero hc.2)
  omega

/-- A write at a register's offset by a party other than a VF. -/
theorem write32_reg (src : Party) (off : Nat) (v : Word) (s : State) (hz : (Party.fn src).val = 0) (hd : (regDesc off).isSome = true) :
    write32 src off v s = regWrite src off v s := by
  simp only [write32, hz, ne_eq, not_true_eq_false, if_false, hd, if_true]

/-- A read at a register's offset by a party other than a VF. -/
theorem read32_reg (src : Party) (off : Nat) (s : State) (hz : (Party.fn src).val = 0) (hd : (regDesc off).isSome = true) :
    read32 src off s = regRead src off s := by
  obtain ⟨h1, h2⟩ := regDesc_windows off hd
  have h3 : (regDesc off).isNone = false := by cases h : regDesc off <;> simp_all
  simp only [read32, hz, ne_eq, not_true_eq_false, if_false, h1, h2, h3, Bool.false_eq_true]

theorem blockRegs_masks (b : Nat) : ∀ d ∈ blockRegs b, d.rw &&& ~~~d.live = 0 ∧ d.w1c &&& ~~~d.live = 0 ∧ d.w1s &&& ~~~d.live = 0 ∧
    d.rc &&& ~~~d.live = 0 ∧ d.rw &&& (d.w1c ||| d.w1s) = 0 ∧ d.w1c &&& d.w1s = 0 := by
  unfold blockRegs
  split <;> decide

/-- The access masks of a register are of bits that are not reserved, and a bit is in one of them at most. -/
theorem regDesc_masks (off : Nat) (d : RegDesc) (h : regDesc off = some d) : d.rw &&& ~~~d.live = 0 ∧ d.w1c &&& ~~~d.live = 0 ∧
    d.w1s &&& ~~~d.live = 0 ∧ d.rc &&& ~~~d.live = 0 ∧ d.rw &&& (d.w1c ||| d.w1s) = 0 ∧ d.w1c &&& d.w1s = 0 :=
  blockRegs_masks _ d (List.mem_of_find?_eq_some h)

/-! A write that is accepted. -/

theorem afterSmb_elsewhere (src : Party) (off : Nat) (s : State) (h : off / 65536 ≠ 18) : afterSmb src off s = s := by
  unfold afterSmb smbOwed
  cases s.prt.smbWrote with
  | none => rfl
  | some x => simp [beq_eq_false_iff_ne.2 h]

theorem noteWrite_elsewhere (src : Party) (off : Nat) (v : Word) (s : State) (h : off / 65536 ≠ 18) : noteWrite src off v s = s := by
  unfold noteWrite; rw [if_pos h]

/-- An accepted write outside the FWU block: the register's effect, and the note that a setting changed. -/
theorem regWrite_accepted {src : Party} {off : Nat} {v : Word} {s : State} (h : Accepts src off v s) (hb : off / 65536 ≠ 18) :
    regWrite src off v s = noteSetting off s (regEffect src off v s) := by
  obtain ⟨a, b, c, d⟩ := h
  simp only [regWrite, c, d, Bool.false_eq_true, if_false, afterSmb_elsewhere _ _ _ hb, noteWrite_elsewhere _ _ _ _ hb]

/-- What its register's own command does with an accepted write: the register's effect, and the note that a setting changed. -/
theorem rowWrite_accepted {src : Party} {off : Nat} {v : Word} {s : State} (h : Accepts src off v s)
    (hd : (regDesc off).isSome = true) (hb : off / 65536 ≠ 18) : rowWrite src off v s = noteSetting off s (regEffect src off v s) := by
  rw [← regWrite_accepted h hb, rowWrite, h.2.1, if_pos rfl, write32_reg _ _ _ _ h.1 hd]

/-- The note changes nothing but FwuSt. -/
theorem noteSetting_frame' (off : Nat) (s t : State) : Frame [.fwu] t (noteSetting off s t) := by
  unfold noteSetting
  split
  · exact Frame.ite (Frame.refl _ t) (markDirty_frame t)
  · exact Frame.refl _ t

/-! The windows (R412). -/

theorem isWorker_of {s t : State} (h : regGet Reg.casStat t = regGet Reg.casStat s) : isWorker t = isWorker s := by
  simp only [isWorker, casRole, fieldGet, h]

theorem isWorker_put (src : Party) (off : Nat) (v : Word) (s : State) (i : Inv s) (h : off ≠ Reg.casStat) :
    isWorker (winPut src off v s) = isWorker s := by
  apply isWorker_of
  unfold winPut; split
  · rfl
  · rw [regGet_put_ne _ _ _ _ i.rising (Ne.symm h)]

/-- A window register written, read through any party's copy. -/
theorem winGet_put (src q : Party) (off n : Nat) (v : Word) (s : State) (i : Inv s) (h : off ≠ Reg.casStat) :
    winGet q n (winPut src off v s) = if n = off ∧ ownWindow q s = ownWindow src s then v &&& regLive off else winGet q n s := by
  have hw := isWorker_put src off v s i h
  have ho : ∀ p, ownWindow p (winPut src off v s) = ownWindow p s := fun p => by simp only [ownWindow, hw]
  have im : tabRising s.mwin = true := by
    have := i.mwin; simp only [regsOk, Bool.and_eq_true] at this; exact this.1
  unfold winGet; rw [ho]
  by_cases h1 : ownWindow q s = true <;> by_cases h2 : ownWindow src s = true <;> simp only [h1, h2, winPut, if_true, Bool.false_eq_true, if_false, State.updMwin_mwin]
  · simp only [tabGet, tabSet]
    by_cases hn : n = off
    · subst hn; simp only [if_true, and_self]
      have := tabGet_set (regReset n) s.mwin n n (v &&& regLive n) im
      simp only [tabGet, tabSet, if_true] at this; exact this
    · simp only [hn, false_and, if_false]
      split
      · rw [tabFind_erase _ _ _ im, if_neg hn]
      · rw [tabFind_insert _ _ _ _ im, if_neg hn]
  · simp [regPut]
  · simp [regGet]
  · simp [regGet_put _ _ _ _ i.rising]

/-- Several registers of a window written. -/
theorem winFold (src : Party) (L : List (Nat × Word)) : ∀ s, Inv s → (∀ x ∈ L, x.1 ≠ Reg.casStat) → (L.map Prod.fst).Nodup →
    let t := L.foldl (fun s x => winPut src x.1 x.2 s) s
    (∀ x ∈ L, winGet src x.1 t = x.2 &&& regLive x.1) ∧ (∀ off, off ∉ L.map Prod.fst → winGet src off t = winGet src off s) ∧
        (∀ q off, ownWindow q s ≠ ownWindow src s → winGet q off t = winGet q off s) ∧ (∀ q, ownWindow q t = ownWindow q s) ∧ Only [.regs, .mwin] s t := by
  induction L with
  | nil => intro s i _ _; exact ⟨by simp, by simp, by simp, by simp, (Frame.refl _ _).only⟩
  | cons a L ih =>
    intro s i hne hnd
    have i2 : Inv (winPut src a.1 a.2 s) := (winPut_frame _ _ _ _).inv i
    have hc := hne a (by simp)
    obtain ⟨h1, h2, h3, h4, h5⟩ := ih (winPut src a.1 a.2 s) i2 (fun x hx => hne x (by simp [hx])) (by simp at hnd; exact hnd.2)
    have ho : ∀ q, ownWindow q (winPut src a.1 a.2 s) = ownWindow q s := fun q => (by unfold ownWindow; rw [isWorker_put src a.1 a.2 s i hc])
    have hna : a.1 ∉ L.map Prod.fst := by simp only [List.map_cons, List.nodup_cons] at hnd; exact hnd.1
    refine ⟨?_, ?_, ?_, fun q => (h4 q).trans (ho q), fun c hc => Comp.same_trans ((Frame.mono (winPut_frame src a.1 a.2 s) (by decide)).only c hc) (h5 c hc)⟩
    · intro x hx
      rcases List.mem_cons.1 hx with rfl | hx
      · refine (h2 _ hna).trans ?_
        rw [winGet_put _ _ _ _ _ _ i hc]; simp
      · exact h1 x hx
    · intro off ho'
      simp only [List.map_cons, List.mem_cons, not_or] at ho'
      refine (h2 off ho'.2).trans ?_
      rw [winGet_put _ _ _ _ _ _ i hc]; simp [ho'.1]
    · intro q off hq
      refine (h3 q off (by rw [ho, ho]; exact hq)).trans ?_
      rw [winGet_put _ _ _ _ _ _ i hc]; simp [hq]

/-- A register without settings has nothing to note. -/
theorem note_none (off : Nat) (s t : State) (h : (regDesc off).all fun d => d.m == 0) : noteSetting off s t = t := by
  unfold noteSetting
  cases h1 : regDesc off with
  | none => rfl
  | some d => rw [h1] at h; simp at h; simp [h]

theorem masked (v l : Word) : (v &&& l) &&& l = v &&& l := by ext j hj; simp

end Sys2Proof.Machine
end

