-- ==== Sys2Proof/WellFormed.lean ====
section
/-! DEFINITION. Which terms of Instr are commands that can arrive: the sizes and ranges of the operands whose types are
wider than what a bus, a link, a sensor or a pin can carry. -/

namespace Sys2Proof

/-- Lanes of a link (R92, R206). -/
def LinkId.width : LinkId → Nat
  | .fll _ => 8
  | .fcl => 16

/-- A frame of the cascade link: 2 to 66 words (Table 8.4). -/
def wfFrame (ws : List W64) : Bool := decide (2 ≤ ws.length) && decide (ws.length ≤ 66)

/-- A byte range of one host request: 1 to 4,096 bytes (R259). -/
def wfBytes (n : Nat) : Bool := decide (1 ≤ n) && decide (n ≤ 4096)

/-- Operands in range. -/
def Instr.wf : Instr → Bool
  | .lifeMinute temp _ => decide (-512 ≤ temp) && decide (temp ≤ 511)
  | .agingSample margins => margins.length == 272
  | .dramUncorrectable line _ => decide (line < 2 ^ 28)
  | .deskew l skews => skews.length == l.width
  | .groupUp _ path => decide (path < 65536)
  | .laneResume l path skews => decide (path < 65536) && skews.length == l.width
  | .frameReceive _ blocks corrected => !blocks.isEmpty && decide (corrected.length ≤ 16)
  | .doorbellSqTail _ _ size _ _ _ => wfBytes size
  | .doorbellCqHead _ _ size _ _ _ => wfBytes size
  | .descriptorArrive _ (some ws) => ws.length % 8 == 0 && !ws.isEmpty
  | .fwBlock _ data => decide ((data.getD []).length ≤ 4096)
  | .discoverFrame ws => wfFrame ws
  | .discoverReturn ws => wfFrame ws
  | .csearch ws => wfFrame ws
  | .cand ws => wfFrame ws
  | .casPrepare ws => wfFrame ws
  | .casAck ws => wfFrame ws
  | .casDecide ws => wfFrame ws
  | .timeFrame ws => wfFrame ws
  | .stateFrame ws => wfFrame ws
  | .ctrlFrame ws _ => wfFrame ws
  | .relayFrame ws => wfFrame ws
  | .imgFrame ws => wfFrame ws
  | .casRaDone ws => wfFrame ws
  | .bar4Read _ _ be _ => wfBytes be.length
  | .bar4Write _ _ data _ _ => wfBytes data.length
  | .aliasSetWrite _ _ data _ _ => wfBytes data.length
  | .aliasClearWrite _ _ data _ _ => wfBytes data.length
  | .activityClear _ _ data _ => wfBytes data.length
  | .vfDisable _ n => decide (n ≤ 63)
  | .proposalStage _ off _ => off % 4 == 0
  | .coldReset cause => decide (1 ≤ cause) && decide (cause ≤ 3)
  | .warmReset cause => decide (4 ≤ cause) && decide (cause ≤ 6)
  | .powerTimerExpire st _ => decide (1 ≤ st) && decide (st ≤ 4)
  | .registerWrite a _ => wfBytes a.len
  | .registerRead a => wfBytes a.len
  | .dispatch .. => true
  | .arraySearch .. => true
  | .verify .. => true
  | .responseLeave .. => true
  | .sieveWordRewrite .. => true
  | .descriptorWordRewrite .. => true
  | .maintSlot .. => true
  | .scrubCompare .. => true
  | .repair .. => true
  | .divergenceCheck => true
  | .reuseHoldEnd => true
  | .spatulaMove .. => true
  | .rebalance .. => true
  | .goldenWriteDone => true
  | .intRemapGo .. => true
  | .remapStart .. => true
  | .remapCopyDone .. => true
  | .remapVerifyDone .. => true
  | .remapRecordWritten .. => true
  | .remapSwitch .. => true
  | .remapRetire .. => true
  | .migrationStart .. => true
  | .migrateEntry .. => true
  | .strandedRetry .. => true
  | .lifeSave => true
  | .intErrHeadWrite .. => true
  | .intErrCfgWrite .. => true
  | .intSumMessage => true
  | .groupEnable .. => true
  | .adaptDone .. => true
  | .codewordLock .. => true
  | .trainingTimeout .. => true
  | .linkFault .. => true
  | .retrain .. => true
  | .groupDisable .. => true
  | .drainDone .. => true
  | .autoRetrain .. => true
  | .alignmentBlock .. => true
  | .codewordUncorrectable .. => true
  | .poisonBoundaryDrop .. => true
  | .fifoPtrReset .. => true
  | .creditFrame .. => true
  | .lnkGrpMapWrite .. => true
  | .schedSwitch .. => true
  | .schedSwitchBoundary .. => true
  | .prfInstall .. => true
  | .prfFetch .. => true
  | .prfInvalidate .. => true
  | .profileSwitch .. => true
  | .tblSelWrite .. => true
  | .sveMapSelWrite .. => true
  | .updRingSelWrite .. => true
  | .ringApply .. => true
  | .ringStart .. => true
  | .ringStop .. => true
  | .ringStopDone .. => true
  | .intentSchedule .. => true
  | .descriptorArrive _ none => true
  | .ringInterrupt .. => true
  | .heldCommandRelease .. => true
  | .tableCreate .. => true
  | .tableDestroy .. => true
  | .tableRelease .. => true
  | .insert .. => true
  | .delete .. => true
  | .modifyData .. => true
  | .modifyRank .. => true
  | .read .. => true
  | .batchBegin .. => true
  | .batchEnd .. => true
  | .commit .. => true
  | .commitAt .. => true
  | .fence .. => true
  | .fenceComplete .. => true
  | .snapshot .. => true
  | .fwConfirm .. => true
  | .scheduledFlip .. => true
  | .epochRetire .. => true
  | .reconciliationDone .. => true
  | .discardDone .. => true
  | .todSet .. => true
  | .todStep .. => true
  | .todAdjustApply => true
  | .todSlew .. => true
  | .slewDone => true
  | .ppsOutRise => true
  | .ppsOutFall => true
  | .pulseEdge .. => true
  | .pulseRearm .. => true
  | .stampRealign => true
  | .todSnapSelWrite .. => true
  | .epcSelWrite .. => true
  | .casEnable .. => true
  | .ringLinksUp => true
  | .discoverTimeout => true
  | .ringLoadDone => true
  | .ringAlignDone => true
  | .casReform .. => true
  | .casAdmit .. => true
  | .workerAdmit .. => true
  | .prepareTimeout => true
  | .timeFrameSend seen => seen.all fun w => decide (1 ≤ w.dev.val)
  | .casRaRead .. => true
  | .casRaWrite .. => true
  | .vfFlr .. => true
  | .pfFlr => true
  | .busMasterEnable .. => true
  | .msixPendingSend .. => true
  | .propSubmit .. => true
  | .propCancel .. => true
  | .propRead => true
  | .confirm .. => true
  | .reject .. => true
  | .propExpire => true
  | .status => true
  | .regRead .. => true
  | .regWrite .. => true
  | .refRead => true
  | .alertResponse => true
  | .smbPecError .. => true
  | .smbSclTimeout => true
  | .prtRefSelWrite .. => true
  | .settingsWrite => true
  | .glbMemModeWrite .. => true
  | .bankOwnWrite .. => true
  | .bankHandoverDone .. => true
  | .bistDone .. => true
  | .loaderDone .. => true
  | .refreshTick .. => true
  | .refreshPoll .. => true
  | .refreshOpportunistic .. => true
  | .ratWindowReset => true
  | .arbDecision .. => true
  | .arbPrioWrite .. => true
  | .statsFlush => true
  | .pllUnlock .. => true
  | .pllRelock .. => true
  | .cdcTimeout .. => true
  | .crossingReset .. => true
  | .pcieReset => true
  | .islandReset .. => true
  | .mpWatchdog => true
  | .startUpPhase .. => true
  | .goldenReload => true
  | .reloadDone => true
  | .vddAuxRise => true
  | .supplyFall .. => true
  | .unitRefuse .. => true
  | .entryCommit .. => true
  | .wakeN => true
  | .pwrWake .. => true
  | .laneActivity .. => true
  | .knownEventWake => true
  | .wakeDone .. => true
  | .resumeTimeout .. => true
  | .oppGo .. => true
  | .oppVoltageConfirm .. => true
  | .oppPllLock => true
  | .oppSwitch => true
  | .pwrQuiesce .. => true
  | .pmbAlert .. => true
  | .thermalTrip => true
  | .fwuWinOfsWrite .. => true
  | .fwuWinDataWrite .. => true
  | .fwuPush .. => true
  | .fwuAbort .. => true
  | .fwuActivate .. => true
  | .fwuConfirm .. => true
  | .sessionIdleTimeout => true
  | .imageVerifyDone => true
  | .programmingDone .. => true
  | .schemaFallback => true
  | .vbatMeasure .. => true
  | .todSave => true
  | .vbtWordWrite .. => true
  | .resetNRelease .. => true
  | .completionTimeout .. => true
  | .completionWriteRefused .. => true
  | .snapshotDone .. => true
  | .vbatDomainPowerUp => true

end Sys2Proof
end

