-- ==== Sys2Proof/Tests/Slice0.lean ====
section
/-! SUPPORT. Tests: ill-formed operands refused, values of the spec's worked examples, and for every obligation with hypotheses a witness:
states and operands that meet the hypotheses of its clauses, each at a boundary value where the clause has one. A witness that rests on
a constant the model leaves open (log entries 13 and 14) takes what it needs of that constant as a hypothesis. -/

namespace Sys2Proof.Tests

open Sys2Proof Sys2Proof.Machine

set_option Elab.async false

/-- The checks of Inv, as a Bool. -/
def invB (s : State) : Bool :=
  Memory.wf s.mem.pantry && Memory.wf s.mem.scratch && Memory.wf s.mem.dram && regsOk s.regs && regsOk s.mwin &&
  decide (s.clk.slot < 64) && decide (s.tod.value < 2 ^ 48 * secUnits) &&
  (tabRising s.hif.fns && tabRising s.hif.msix && tabRising s.hif.msixPend) &&
  (tabRising s.err.last && tabRising s.err.suppressed) &&
  (tabRising s.arr.slices && tabRising s.arr.ranks && tabRising s.arr.act && tabRising s.arr.actBad &&
    tabRising s.arr.goldRec && tabRising s.arr.goldCnt && tabRising s.arr.maintAt && tabRising s.arr.scrubPos &&
    tabRising s.arr.scrubAt && tabRising s.arr.goldAt) &&
  (tabRising s.tbl.masks && tabRising s.tbl.maskDir && tabRising s.tbl.tblBad && tabRising s.tbl.prfBad) &&
  (tabRising s.mem.pantrySyn && tabRising s.mem.scratchSyn && tabRising s.mem.dramBad && tabRising s.mem.dramSoft &&
    tabRising s.mem.dramSet && tabRising s.mem.rotate) &&
  (tabRising s.lnk.grps && tabRising s.lnk.lanes) &&
  (tabRising s.pip.nextDec && tabRising s.pip.nextIssue && tabRising s.pip.lastAlign && tabRising s.pip.lastGap &&
    tabRising s.pip.schedActive && tabRising s.pip.schedShadow && tabRising s.pip.schedKept) &&
  (tabRising s.upd.rings && tabRising s.upd.lastServed) && tabRising s.epc.doms &&
  (tabRising s.tod.copies && tabRising s.tod.pulses) && (tabRising s.cas.workers && tabRising s.cas.img && tabRising s.cas.goLog) &&
  (tabRising s.drc.interval && tabRising s.drc.prio && tabRising s.drc.waits && tabRising s.drc.won &&
    tabRising s.drc.handTo) &&
  tabRising s.pwr.timers &&
  (tabRising s.fwu.dirs && tabRising s.fwu.recs && tabRising s.fwu.slots && tabRising s.fwu.store) &&
  tabRising s.vbt.words

theorem inv_of (s : State) (h : invB s = true) : Machine.Inv s := by
  simp only [invB, Bool.and_eq_true, decide_eq_true_eq] at h
  constructor <;> (try simp only [HifSt.sorted, ErrSt.sorted, ArrSt.sorted, TblSt.sorted, MemSt.sorted, LnkSt.sorted, PipSt.sorted,
    UpdSt.sorted, EpcSt.sorted, TodSt.sorted, CasSt.sorted, DrcSt.sorted, PwrSt.sorted, FwuSt.sorted, VbtSt.sorted]) <;>
    simp_all

/-- Registers listed with values. -/
def regsSet (rs : List (Nat × Word)) (s : State) : State :=
  rs.foldl (fun s x => s.updRegs fun t => tabInsert t x.1 x.2) s

/-- A block that has started: RESET_N high, PHASE 8, and registers set. -/
def up (rs : List (Nat × Word)) : State :=
  regsSet ((Reg.glbBootStat, 0x80000000) :: rs) { State.reset with rst := { RstSt.reset with low := false } }

/-- The PF, as a party. -/
def pf : Party := .pcie 0

theorem inv_all (l : List State) (h : l.all invB = true) : ∀ s ∈ l, Machine.Inv s :=
  fun s hs => inv_of s (List.all_eq_true.mp h s hs)

/-- An entry of table 0 with every key bit compared, live in both epochs. -/
def ent (k : Nat) : Entry := ⟨0, BitVec.ofNat 640 k, BitVec.ofNat 640 (2 ^ 640 - 1), 7, [0], true, true⟩

/-- A table of one width over pan 0, with one data unit a record. -/
def tbl (width : Nat) : TableDesc := ⟨.exists_, width, 0, false, 1, 0, 24, 0, [], 0, 0, 0, 0⟩

/-- A profile of one lookup in table 0, of one key word, that pipeline A may use. -/
def prof : Profile := ⟨0x00410100, [0], []⟩

/-- The header of a SEARCH with tag 1 and profile 5. -/
def hdr : W64 := pack64 [(60, 1), (48, 1), (40, 5), (36, 1)]

/-- A search of that header in a stage. -/
def srch (st : SStage) (ks : List LkState) : Search :=
  { pipe := .a, stage := st, grp := 0, hdr := hdr, key := [0], stamp := 0, vec := 0, profNo := 5, prof := prof, reject := 0,
    prfBad := false, disp := 0, issue := 28, leave := 145, gap := 1, lks := ks, casc := false, sent := false, candIn := none }

/-- The array clock runs, every slot is an M slot, and table 0 of a width lies over pan 0. -/
def tabled (width : Nat) : State :=
  let s := up [(Reg.glbMemMode, 1), (Reg.clkStat, 0x3ff), (Reg.hobLmap 0, regReset (Reg.hobLmap 0) ||| BitVec.ofNat 32 (0x10000 + width * 0x4000))]
  { s with
    clk := { s.clk with pclk := 1000, now := 1000 }
    tbl := { s.tbl with tables := [(0, tbl width)] }
    pip := { s.pip with schedActive := [(0, 0xffffffff), (1, 0xffffffff), (2, 0xffffffff), (3, 0xffffffff)] } }

/-! WellFormed: an ill-formed term for each check, which the check refuses. -/

theorem test_ill_formed_operands_are_refused :
    [Instr.lifeMinute (-513) 0, .lifeMinute 512 0, .agingSample [], .dramUncorrectable (2 ^ 28) none, .deskew (.fll 0) [], .deskew .fcl (List.replicate 8 0),
     .groupUp (.fll 0) 65536, .laneResume .fcl 65536 (List.replicate 16 0), .laneResume .fcl 0 [], .frameReceive (.fll 0) [] [], .doorbellSqTail 0 0 0 true 0 false, .doorbellCqHead 0 0 4097 true 0 false,
     .descriptorArrive 0 (some []), .descriptorArrive 0 (some [0]), .fwBlock 0 (some (List.replicate 4097 0)), .timeFrameSend [⟨0, .running, 0, true⟩], .vfDisable true 64, .proposalStage .mp 1 0,
     .coldReset 0, .coldReset 4, .warmReset 3, .warmReset 7, .powerTimerExpire 0 true, .powerTimerExpire 5 true].all (fun i => !i.wf) = true := by
  decide +kernel

theorem test_ill_formed_frames_are_refused :
    [Instr.discoverFrame [0], .discoverReturn [], .csearch [0], .cand [0], .casPrepare [0], .casAck [0], .casDecide [0], .timeFrame [0], .stateFrame [0],
     .ctrlFrame [0] none, .relayFrame [0], .imgFrame (List.replicate 67 0), .casRaDone [0]].all (fun i => !i.wf) = true := by
  decide +kernel

theorem test_ill_formed_ranges_are_refused :
    [Instr.bar4Read (.host 0) 0 [] [], .bar4Write (.mp 0) 0 [] false [], .aliasSetWrite (.host 0) 0 [] false [], .aliasClearWrite (.host 0) 0 [] false [],
     .activityClear 0 0 [] false, .bar4Read (.host 0) 0 (List.replicate 4097 true) []].all (fun i => !i.wf) = true := by
  decide +kernel

theorem test_well_formed_operands_pass :
    [Instr.lifeMinute (-512) 0, .lifeMinute 511 0, .fwBlock 0 none, .vfDisable true 63, .coldReset 1, .warmReset 6, .powerTimerExpire 4 true, .imgFrame (List.replicate 66 0),
     .bar4Read (.mp 3) 0 (List.replicate 4096 true) [], .timeFrameSend [⟨15, .cold, 0, true⟩], .descriptorArrive 0 (some (List.replicate 8 0))].all Instr.wf = true := by
  decide +kernel

/-! Values that the spec's worked examples give. -/

/-- The check value of the CRC of R107 over the ASCII string 123456789, as catalogues of CRCs give it for this polynomial, start value and
complement with bits entered most significant first. -/
theorem test_crc_of_the_check_string : crcOut (crcBits 0x313233343536373839 72 0xffffffff) = 0xfc891918 := by decide +kernel

/-- 02_ternary_array.md, the example of table 9: X, Y, E cells and parity of 192.0.2.0/24 in VRF 3. -/
theorem test_slice_of_the_ipv4_example :
    entrySlice ⟨9, BitVec.ofNat 640 (0x0003c00002 * 2 ^ 600), BitVec.ofNat 640 (0xffffffffff * 2 ^ 600), 8, [], true, true⟩ 0 =
      ⟨0x0003c000020000000000, 0xfffc3ffffd0000000000, false, false, true, true⟩ := by decide +kernel

/-- The same example: its rank word, and its Sieve bucket from subkey bits 16 to 25. -/
theorem test_rank_and_bucket_of_the_ipv4_example :
    rankWord 8 = 0x10008 ∧ bucketKey { tbl 0 with nbits := 10, pos := List.range' 16 10 } (BitVec.ofNat 640 (0x0003c00002 * 2 ^ 600))
      (BitVec.ofNat 640 (0xffffffffff * 2 ^ 600)) = 768 := by decide +kernel

/-- 05_slot_schedule.md, Table 5.4: 185.06 ns with G = 4 at OPP0, in units of 10 ps. -/
theorem test_latency_of_the_split_schedule : bits (pipLat 4 0) 15 0 = 18506 := by decide

/-- 10_host_interface.md, Table 10.8, and 16_register_index.md: the offsets and the header word of the proposal. -/
theorem test_proposal_of_the_vf_example :
    Reg.prtFnRights 5 = 0x140114 ∧ Reg.prtTgrant (4 * 5) = 0x140450 ∧
      (proposalWords 0x41 [(Reg.prtFnRights 5, 1), (Reg.prtTgrant 20, 0x40000000)]).headD 0 = 0x0041020000000000 := by decide

/-- 04_lookup_link.md, the example of G0: the request header of tag 0x2A5, profile 12 and 6 key words. -/
theorem test_request_header_fields :
    let h : W64 := 0x12a50c6000000000
    bits h 63 60 = 1 ∧ bits h 59 48 = 0x2a5 ∧ bits h 47 40 = 12 ∧ bits h 39 36 = 6 := by decide

/-- 11_memories_dram.md: unit 1,048,583 of the Pantry is at BAR4 offset 0x00400018. -/
theorem test_pantry_unit_offset :
    let s := up []
    unitRead 1048583 (s.updMem fun m => { m with pantry := [(0x400018, 2)] }) = 2 := by decide +kernel

theorem witness_StepRunsTheFrontCommand :
    ({ State.reset with pending := [.pfFlr, .status] } : State).pending = .pfFlr :: [.status] := rfl

theorem witness_AnEmptyQueueLetsOneNanosecondPass :
    (up []).pending = [] ∧ powerState (up []) ≤ 1 ∧ (up [(Reg.pwrStat, 0x20000000)]).pending = [] ∧
    powerState (up [(Reg.pwrStat, 0x20000000)]) ≤ 1 ∧ (up [(Reg.pwrStat, 0x40000000)]).pending = [] ∧
    2 ≤ powerState (up [(Reg.pwrStat, 0x40000000)]) := by decide +kernel

theorem witness_EveryStepKeepsTheInvariant : ∃ t, Machine.Inv State.reset ∧ step State.reset = .next t :=
  ⟨_, inv_of _ (by decide +kernel), rfl⟩

theorem witness_EveryCommandChangesOnlyItsComponents : ∃ t, exec (.doorbellSqTail 0 0 4 true 0 false) (up []) = .next t := ⟨_, rfl⟩

theorem witness_EveryCommandCompletesInTheOrderQueued :
    ({ State.reset with pending := [.pfFlr, .status, .refRead] } : State).pending = .pfFlr :: .status :: [.refRead] := rfl

theorem witness_RegisterWritesFollowTheAccessCodes : (∀ s ∈ [up []], Machine.Inv s) ∧
    (∀ off ∈ [Reg.lnkIntStat, Reg.todTrim, Reg.prtRefTotal],
      let a : Access := ⟨pf, .bar0, off, 4, true, false⟩
      a.space = .bar0 ∧ a.full = true ∧ a.len = 4 ∧ a.poisoned = false ∧ a.off ∈ plainOffsets ∧ (regDesc a.off).isSome = true ∧
        Accepts a.src a.off (BitVec.ofNat 32 (0xffffffff : W64).toNat) (up []) ∧ smbOwed a.src a.off (up []) = none) ∧
    let s := (up []).updPrt fun r => { r with smbWrote := some (0, Reg.fwuIntEn, 1) }
    Machine.Inv s ∧ smbOwed pf Reg.fwuIntEn s = some 1 ∧ Accepts pf Reg.fwuIntEn 2 s :=
  ⟨inv_all _ (by decide +kernel), by unfold Accepts; decide +kernel, inv_of _ (by decide +kernel), by decide +kernel, by unfold Accepts; decide +kernel⟩

theorem witness_RefusedRegisterWritesAreOnlyRecorded : (∀ s ∈ [up [], up [(Reg.glbBootStat, 0x40000000)]], Machine.Inv s) ∧
    ∀ x ∈ [(Reg.glbMemMode, (3 : Word), up []), (Reg.updSlack, 0, up []), (Reg.lnkIntEn, 0, up [(Reg.glbBootStat, 0x40000000)])],
      let a : Access := ⟨.mp, .bar0, x.1, 4, true, false⟩
      a.space = .bar0 ∧ a.full = true ∧ a.len = 4 ∧ a.off % 4 = 0 ∧ (Party.fn a.src).val = 0 ∧ a.src ≠ .smbus ∧ partyReaches a.src a.off x.2.2 = true ∧
        (regDesc a.off).isSome = true ∧ accessLost a.src a.off x.2.2 = false ∧ writeRefusal a.src a.off x.2.1 x.2.2 ≠ 0 :=
  ⟨inv_all _ (by decide +kernel), by decide +kernel⟩

theorem witness_AccessesOfOtherFormsAreSplitOrNotPerformed : (∀ s ∈ [up []], Machine.Inv s) ∧
    (let a : Access := ⟨pf, .bar0, Reg.todSetSecLo, 8, true, false⟩
     a.space = .bar0 ∧ a.full = true ∧ a.len = 8 ∧ a.off % 8 = 0 ∧ a.poisoned = false ∧ partyReaches a.src a.off (up []) = true ∧
        ∃ t, exec (.registerWrite { a with len := 4 } 0) (up []) = .next t ∧ partyReaches a.src (a.off + 4) t = true) ∧
    ∀ a ∈ [(⟨pf, .bar0, Reg.todTrim, 1, true, false⟩ : Access), ⟨.mp, .bar0, Reg.updSlack, 8, true, false⟩, ⟨.pcie 0, .bar0, 0x00ffffff, 4096, true, false⟩,
        ⟨pf, .bar0, Reg.todTrim, 4, false, false⟩],
      a.space = .bar0 ∧ a.len ≠ 0 ∧ accessForm a = 0 ∧ a.src ≠ .smbus ∧ a.off < 2 ^ 32 ∧ partyReaches a.src a.off (up []) = true :=
  ⟨inv_all _ (by decide +kernel), ⟨by decide +kernel, by decide +kernel, by decide +kernel, by decide +kernel, by decide +kernel, by decide +kernel,
    _, rfl, by decide +kernel⟩, by decide +kernel⟩

theorem witness_RegisterReadsAnswerAndClear : (∀ s ∈ [up [], up [(Reg.glbBootStat, 0x40000000)]], Machine.Inv s) ∧
    (∀ s ∈ [up [], up [(Reg.glbBootStat, 0x40000000)]], ∀ off ∈ [Reg.glbId, Reg.lnkCnt 0, Reg.updInflight, Reg.vbtWord 63],
      let a : Access := ⟨pf, .bar0, off, 4, true, false⟩
      a.space = .bar0 ∧ a.full = true ∧ a.len = 4 ∧ a.off % 4 = 0 ∧ (Party.fn a.src).val = 0 ∧ a.src ≠ .smbus ∧ partyReaches a.src a.off s = true ∧
        (regDesc a.off).isSome = true ∧ accessLost a.src a.off s = false ∧ a.off ≠ Reg.todSlewAmt) ∧
    startPhase (up [(Reg.glbBootStat, 0x40000000)]) < 5 ∧ 5 ≤ startPhase (up []) ∧ powerState (up []) ≠ 2 ∧ powerState (up []) ≠ 3 ∧
    (let s := up [(Reg.pwrStat, 0x40000000)]
     invB s = true ∧ powerState s = 2 ∧ servedAsleep (Reg.lnkCnt 0) = false ∧ partyReaches pf (Reg.lnkCnt 0) s = true ∧
       accessLost pf (Reg.lnkCnt 0) s = false) :=
  ⟨inv_all _ (by decide +kernel), by decide +kernel⟩

theorem witness_AWrittenEntryIsWhatIsSearched : (∀ s ∈ [up []], Machine.Inv s) ∧
    (∀ x ∈ [(0, 4194303), (1, 4194302), (2, 4194300)], x.1 < 3 ∧ idxAligned x.1 x.2 = true) ∧
    0 ∉ entrySlots 2 4194300 ∧ (∀ r ∈ (up []).arr.remaps, r.pan ≠ 4194300 / 16384) ∧
    slotKey 0 (up []) ∉ (entrySlots 2 4194300).map (slotKey · (up [])) :=
  ⟨inv_all _ (by decide +kernel), by decide +kernel⟩

theorem witness_TournamentPicksTheBestReport :
    (∀ r ∈ [Report.miss], r.hit = false) ∧ (∃ r ∈ [⟨true, false, 9, 3⟩, ⟨true, false, 4, 3⟩, Report.miss], r.hit = true) ∧
    [⟨true, false, 4, 3⟩, Report.miss, ⟨true, false, 9, 3⟩].Perm [⟨true, false, 9, 3⟩, ⟨true, false, 4, 3⟩, Report.miss] ∧
    (∀ a ∈ [⟨true, false, 9, 3⟩, ⟨true, false, 4, 3⟩, Report.miss], ∀ b ∈ [⟨true, false, 9, 3⟩, ⟨true, false, 4, 3⟩, Report.miss],
      a.hit = true → b.hit = true → a.index = b.index → a = b) := by decide +kernel

theorem witness_APanReportsItsLowestMatch :
    (∀ s ∈ [up [], writeEntrySlots 2 4 (some (ent 5)) (up [])], Machine.Inv s) ∧
    (let s := writeEntrySlots 2 4 (some (ent (5 * 2 ^ 320))) (up [])
     let holds (pos : Nat) : Prop := idxAligned 2 (0 * 16384 + pos) = true ∧ entryMatches 2 0 pos (BitVec.ofNat 640 (5 * 2 ^ 320)) false s = true
     holds 4 ∧ ∀ q, q < 4 → ¬ holds q) ∧
    ∀ pos, pos < 16384 → ¬ (idxAligned 2 (0 * 16384 + pos) = true ∧ entryMatches 2 0 pos 0 false (up []) = true) := by
  refine ⟨inv_all _ (by decide +kernel), by decide +kernel, ?_⟩
  have h : (up []).arr.slices = [] := by decide +kernel
  intro pos _ hm
  simp [entryMatches, sliceAt, h, tabGet, tabFind, Slice.matches, Slice.free, entrySlots, panSlices, List.range_succ] at hm

/-- A search visible to pipeline A. -/
def seen (mask : Word) : State :=
  let s := up [(Reg.glbMemMode, 1), (Reg.clkStat, 1)]
  { s with
    clk := { s.clk with pclk := 100, slot := 36 }
    tbl := { s.tbl with profiles := [(5, prof)], tables := [(0, tbl 0)] }
    pip := { s.pip with schedActive := if mask = 0 then [] else [(64, mask), (65, mask)] }
    lnk := { s.lnk with grps := [(0, { GrpSt.idle with cores := [⟨coreData (sealFrame [hdr, 0] 0), true, 24, 0, 5⟩], wp := 1, cp := 1 })] } }

theorem witness_DispatchDecidesOnTheFirstVisibleSearch :
    let v : Visible := ⟨0, 5, 0, [⟨coreData (sealFrame [hdr, 0] 0), true, 24, 0, 5⟩]⟩
    let busy := { seen 1 with pip := { (seen 1).pip with flight := [srch .dispatched []] } }
    let stop := flagPut Reg.clkStat 0 false (seen 1)
    (∀ s ∈ [seen 0xffffffff, busy, stop, seen 0], Machine.Inv s ∧ firstVisible (Pipe.idx .a) s = some v) ∧
    (∀ s ∈ [seen 0xffffffff, busy, stop, seen 0], max (tabGet 0 s.pip.nextDec (Pipe.idx .a)) v.visAt ≤ s.clk.pclk) ∧
    dispatchStopped (seen 0xffffffff) = false ∧ decideSearch .a v 5 (seen 0xffffffff) = .accept 0 0 ∧
    dispatchStopped busy = false ∧ decideSearch .a v 5 busy = .busy ∧
    dispatchStopped stop = true ∧ dispatchStopped (seen 0) = false ∧ decideSearch .a v 5 (seen 0) = .hold false false ∧
    (let s := seen 0xffffffff
     s.pip.flight = [] ∧ s.pip.switchAt = none ∧ isManager s = false ∧ tabGet 0 s.pip.lastAlign 0 + tabGet 0 s.pip.lastGap 0 < 33 ∧
       tabGet 0 s.pip.nextIssue 0 ≤ 33 ∧ inMask s.pip.schedActive 0 (slotAt 33 s) = true ∧ tabFind s.tbl.profiles 5 = some prof ∧
       bits ((frameWords v.cores).headD 0) 47 40 = 5 ∧ prfWordBad 5 0 s = false ∧ prof.enables 0 = true ∧
       prof.keyWords = bits ((frameWords v.cores).headD 0) 39 36 ∧ (grpAt 0 s).txHeld = [] ∧
       ∀ k, k < profWords prof s + 2 → alignPos (grpAt 0 s) (txPos (5 + 144 + maskGap s.pip.schedActive 0) s + k) = false) := by
  refine ⟨?_, by decide +kernel⟩
  intro s hs
  exact ⟨inv_all [seen 0xffffffff, { seen 1 with pip := { (seen 1).pip with flight := [srch .dispatched []] } },
      flagPut Reg.clkStat 0 false (seen 1), seen 0] (by decide +kernel) s hs, by revert s; decide +kernel⟩

/-- A block with one search in a stage. -/
def inFlight (f : Search) (rank : BitVec 17) (rs : List (Nat × Word)) : State :=
  let s := seen 1
  let s := regsSet rs { s with clk := { s.clk with pclk := 300 }, pip := { s.pip with flight := [f] } }
  { s with arr := { s.arr with ranks := tabSet 0 s.arr.ranks (slotKey 0 s) rank } }

theorem witness_SearchesPassTheirStages :
    let lk (hit : Bool) : LkState := ⟨0, false, ⟨hit, false, 0, 0⟩, Report.miss, LkRes.none⟩
    let a := inFlight (srch .dispatched []) 0 []
    let miss := inFlight (srch .searched [lk false]) 0 []
    let hit := inFlight (srch .searched [lk true]) 0 []
    let bad := inFlight (srch .searched [lk true]) 1 []
    let out (st : Word) (ty status : Nat) := inFlight { srch .verified [⟨0, false, Report.miss, Report.miss, ⟨status, 0, 0, 0, []⟩⟩] with
      hdr := pack64 [(60, ty), (40, 5), (36, 1)] } 0 [(Reg.lnkGrpStat 0, st)]
    (∀ s ∈ [a, miss, hit, bad, out 0 2 0, out 0xa0000000 1 0, out 0xc0000000 2 1, out 0 1 0], Machine.Inv s) ∧
    (stageSearch .a .dispatched a = some (0, srch .dispatched []) ∧ 28 + 12 ≤ a.clk.pclk ∧
      let outs := (List.range prof.nlook).map fun l => sieveLookup (srch .dispatched []) l a
      outs ≠ [] ∧ (∀ o ∈ outs, o.fail = 0) ∧ (outs.map fun o => o.prim.length + o.mirr.length).sum ≤ 24) ∧
    (∀ x ∈ [(miss, lk false), (hit, lk true), (bad, lk true)], stageSearch .a .searched x.1 = some (0, srch .searched [x.2]) ∧
      0 + 122 + 1 ≤ x.1.clk.pclk ∧ x.2.retry = false ∧ tableAt x.2.table x.1 = some (tbl 0) ∧ (tbl 0).guarded = false ∧ x.2.prim.bad = false) ∧
    (lk false).prim.hit = false ∧ (lk true).prim.hit = true ∧
    (let good (s : State) : Prop := (∀ x ∈ entrySlots 0 0, (sliceAt x s).okX = true ∧ (sliceAt x s).okY = true) ∧ rankOk (rankAt 0 s) = true ∧
       ∀ w ∈ unitWords (recordUnit (tbl 0) 0 false) (resultUnits (tbl 0)), (pantryRead w s).kind ≠ 2
     good hit ∧ ¬ good bad) ∧
    (∀ s ∈ [out 0 2 0, out 0xa0000000 1 0, out 0xc0000000 2 1, out 0 1 0],
      (stageSearch .a .verified s).any (fun x => decide (x.2.leave ≤ s.clk.pclk ∧ x.2.grp < 4 ∧ x.2.casc = false)) = true) ∧
    fieldGet (Reg.lnkGrpStat 0) 31 29 (out 0xa0000000 1 0) = 5 ∧ fieldGet (Reg.lnkGrpStat 0) 31 29 (out 0xc0000000 2 1) = 6 := by
  refine ⟨?_, by decide +kernel⟩
  intro s hs
  exact inv_of s (by revert s; decide +kernel)

theorem witness_BadWordsAreRewrittenFromTheirCopies :
    let bad (w : Nat) := (up []).updTbl fun t => { t with
      masks := [(maskKey 127 1023, ⟨1, false, false⟩), (maskKey 127 1024, ⟨1, false, false⟩)], prfBad := [(prfWord 255 w, true)],
      prfDram := [(255, prof)], profiles := [(255, prof)], tblBad := [(127, true)], tblDram := [(127, tbl 0)], tables := [(127, tbl 1)] }
    (∀ w ∈ [0, 1, 8, 9, 72], Machine.Inv (bad w)) ∧ (∀ w ∈ [0, 1, 8, 9, 72], prfWordBad 255 w (bad w) = true ∧ awake (bad w) = true) ∧
    (maskAt 127 1023 (bad 0)).ok = false ∧ (maskAt 127 1024 (bad 0)).ok = false ∧ tabFind (bad 0).tbl.prfDram 255 = some prof ∧
    tabFind (bad 0).tbl.profiles 255 = some prof ∧ tabGet false (bad 0).tbl.tblBad 127 = true ∧
    tabFind (bad 0).tbl.tblDram 127 = some (tbl 0) ∧ tableAt 127 (bad 0) = some (tbl 1) :=
  ⟨fun w hw => inv_of _ (by revert w; decide +kernel), by decide +kernel⟩

theorem witness_DramErrorsAreCountedAndHandledByRegion :
    let s := (tabled 2).updArr fun a => { a with gold := [(4, ent 1)], dir := [(4, ent 1)] }
    let gold := regsSet [(Reg.drcArea 0, 0x00010010)] s
    let two := regsSet [(Reg.drcArea 0, 0x00010010)] ((tabled 0).updTbl fun t => { t with tables := [(0, { tbl 0 with stride := 1 })] })
    let dir := regsSet [(Reg.drcArea 1, 0x00010010)] s
    let lost := writeRank 7 1 gold
    (∀ x ∈ [s, gold, two, dir, lost], Machine.Inv x) ∧ (∀ x ∈ [s, gold, two, dir, lost], awake x = true) ∧
    (inArea 0 (64 * 5) s = false ∧ inArea 1 (64 * 5) s = false ∧ inArea 2 (64 * 5) s = false ∧ (inArea 3 (64 * 5) s && isManager s) = false) ∧
    (∀ x ∈ [gold, two, lost], inArea 0 (64 * 0x40000) x = true) ∧ itemLost (.row 0 1) gold = [] ∧
    itemEntries (.row 0 1) gold = [(0, tbl 2, 4)] ∧ tabFind gold.arr.gold 4 = some (ent 1) ∧
    itemLost (.word 4095) two = [] ∧ (unitOwner 8190 two).isSome = true ∧
    itemLost (.row 0 1) lost = [(0, tbl 2, 4)] ∧ dirAt 4 lost = some (ent 1) ∧
    inArea 0 (64 * 0x40000) dir = false ∧ inArea 1 (64 * 0x40000) dir = true ∧ dir.arr.golds = [] := by
  refine ⟨fun s hs => inv_of s (by revert s; decide +kernel), by decide +kernel⟩

theorem witness_AnMSlotServesTheFirstRequester :
    let s := tabled 0
    let r (ph : Nat) : Repair := ⟨0, 0, 4095, ph⟩
    let q (e : Option Entry) (tag : MTag) : MReq := ⟨0, 937, 16383, 16383, 0, e, none, none, true, none, tag⟩
    let back := s.updArr fun a => { a with repairs := [r 1, r 2] }
    let next := s.updArr fun a => { a with repairs := [r 0, r 1] }
    let div := s.updArr fun a => { a with divs := [⟨16383, 4194303, 0, [16383, 4194303]⟩] }
    let row (e : Option Entry) (tag : MTag) := s.updArr fun a => { a with mreqs := [q e tag], scrubPos := [(0, 65534)] }
    let late := { row none (.plan 9) with clk := { s.clk with now := 12000001 } }
    let copy := s.updArr fun a => { a with remaps := [⟨0, 4, 0, 16, 1, 4095, [], 0, 0⟩], scrubPos := [(0, 65534)] }
    let rows := [(none, .plan 9), (some (ent 1), .plan 9), (none, .free)]
    (∀ x ∈ [s, back, next, div, late, copy] ++ rows.map fun x => row x.1 x.2, Machine.Inv x) ∧
    (∀ x ∈ [s, back, next, div, late, copy] ++ rows.map fun x => row x.1 x.2, slotsRun x = true ∧ xingDead 26 x = false ∧
      nextMSlot 0 x = some 937 ∧ searchesDone 937 x = true) ∧
    back.arr.repairs.find? (fun r => r.hob == 0 && r.phase == 2) = some (r 2) ∧
    next.arr.repairs.find? (fun r => r.hob == 0 && r.phase == 2) = none ∧
    next.arr.repairs.find? (fun r => r.hob == 0 && r.phase == 1) = some (r 1) ∧ rowPending 0 4095 next = false ∧ inService next = true ∧
    (∀ x ∈ [s, div, late, copy] ++ rows.map fun x => row x.1 x.2, x.arr.repairs = []) ∧
    (∀ x ∈ [s, late, copy] ++ rows.map fun x => row x.1 x.2, x.arr.divs = []) ∧
    div.arr.divs = ⟨16383, 4194303, 0, [16383, 4194303]⟩ :: [] ∧ [16383, 4194303].find? (fun i => hobOf i == 0) = some 16383 ∧
    s.arr.mreqs = [] ∧ hobRemap 0 s = none ∧ tabGet 0 s.arr.scrubPos 0 < 65536 ∧
    behindPace 0 late = true ∧ tabGet 0 late.arr.scrubPos 0 < 65536 ∧
    (∀ x ∈ rows, behindPace 0 (row x.1 x.2) = false ∧ (row x.1 x.2).arr.mreqs.findIdx? (fun q => q.hob == 0 && q.notBefore ≤ 937 &&
      !(q.tag.planNo.isNone && midMove q.prim (row x.1 x.2))) = some 0 ∧ (row x.1 x.2).arr.mreqs[0]? = some (q x.1 x.2)) ∧
    tableAt 0 (row none (.plan 9)) = some (tbl 0) ∧
    behindPace 0 copy = false ∧ copy.arr.mreqs = [] ∧ hobRemap 0 copy = some ⟨0, 4, 0, 16, 1, 4095, [], 0, 0⟩ ∧ rowPending 0 4095 copy = false := by
  refine ⟨fun s hs => inv_of s (by revert s; decide +kernel), by decide +kernel⟩

/-- Row 4095 of pan 0 has been read and is not compared. -/
def scanned : State := (tabled 0).updArr fun a => { a with scrubbed := [.row 0 4095] }

/-- Pantry word 4095, of a table with records, has been read and is not compared. -/
def scannedWord : State :=
  ((tabled 0).updTbl fun t => { t with tables := [(0, { tbl 0 with stride := 1 })] }).updArr fun a => { a with scrubbed := [.word 4095] }

theorem no_repairs (s : State) (h : Nat) (e : s.arr.repairs = []) : repairCount h s = 0 := by simp [repairCount, e]

theorem witness_TheScourerFindsAndQueues :
    let s := scanned
    let pend := s.updArr fun a => { a with golds := [⟨16383, 0, none, none⟩] }
    let diff := writeRank 16383 1 s
    let last := s.updArr fun a => { a with scrubPos := [(0, 65536)] }
    let two := scannedWord
    let wd := two.updArr fun a => { a with goldRec := [(8190, 7)] }
    let rep := s.updArr fun a => { a with repairs := [⟨15, 255, 4095, 0⟩] }
    let dv := s.updArr fun a => { a with divs := [⟨4194303, 16384, 0, []⟩] }
    (∀ x ∈ [s, pend, diff, last, two, wd, rep, dv], Machine.Inv x) ∧ (∀ h, repairCount h dv < 60) ∧
    (∀ x ∈ [s, pend, diff, last], ScrubItem.row 0 4095 ∈ x.arr.scrubbed ∧ awake x = true) ∧
    rowPending 0 4095 pend = true ∧ rowPending 0 4095 s = false ∧ (rowDiff 0 4095 (physPan 0 s) s).first = none ∧
    tabGet 0 s.arr.scrubPos 0 < 65536 ∧
    rowPending 0 4095 last = false ∧ (rowDiff 0 4095 (physPan 0 last) last).first = none ∧ 65536 ≤ tabGet 0 last.arr.scrubPos 0 ∧
    last.arr.scrubbed.filter (· != .row 0 4095) = [] ∧
    rowPending 0 4095 diff = false ∧ (rowDiff 0 4095 (physPan 0 diff) diff).first.isSome = true ∧ repairCount 0 diff < 64 ∧
    (∀ x ∈ [two, wd], ScrubItem.word 4095 ∈ x.arr.scrubbed ∧ awake x = true ∧ inService x = true ∧
      unitOwner (2 * 4095) x = some (0, { tbl 0 with stride := 1 }, false, 4095) ∧
      unitOwner (2 * 4095 + 1) x = some (0, { tbl 0 with stride := 1 }, false, 4095) ∧ slotPending 4095 x = false ∧
      repairCount (4095 / 16384 / 16) x < 64 ∧ tabGet 0 x.arr.scrubPos 0 < 65536 ∧ (pantryRead 4095 x).kind = 0) ∧
    ({ tbl 0 with stride := 1 } : TableDesc).width < 3 ∧
    (bits (pantryRead 4095 two).val 63 32 = (tabGet 0 two.arr.goldRec (2 * 4095)).toNat ∧
      bits (pantryRead 4095 two).val 31 0 = (tabGet 0 two.arr.goldRec (2 * 4095 + 1)).toNat) ∧
    bits (pantryRead 4095 wd).val 63 32 ≠ (tabGet 0 wd.arr.goldRec (2 * 4095)).toNat ∧
    rep.arr.repairs.findIdx? (fun r => r.hob == 15 && r.phase == 0 && !rowPending r.pan r.row rep) = some 0 ∧
    dv.arr.divs = ⟨4194303, 16384, 0, []⟩ :: [] ∧ tableAt 0 dv = some (tbl 0) := by
  refine ⟨fun s hs => inv_of s (by revert s; decide +kernel), fun h => ?_, by decide +kernel, by decide +kernel, by decide +kernel, by decide +kernel,
    by decide +kernel, by decide +kernel, by decide +kernel, by decide +kernel, by decide +kernel⟩
  rw [no_repairs _ h (by decide +kernel)]; omega

theorem witness_TheSpatulaMovesHoldsAndMirrors :
    let s := tabled 0
    let s2 := tabled 2
    let h : Hold := ⟨1000, 16380, 0, true, some 0, none⟩
    let held := s2.updArr fun a => { a with holds := [{ h with till := 1001 }, h] }
    let pl (slack : Bool) : Plan := ⟨9, none, slack, 0, [.move 0 16380 none], false, false, 0, 0⟩
    let mv (slack : Bool) := (s2.updUpd fun u => { u with plans := [pl slack] }).updArr fun a => { a with dir := [(0, ent 1)] }
    let run := (s.updArr fun a => { a with dir := (List.range 10).map fun i => (i, ent i) }).updUpd fun u => { u with plans := [] }
    let run := regsSet [(Reg.updSlack, 0x00010008)] run
    let fin : Plan := ⟨9, some 4, false, 0, [], false, true, 3, 0⟩
    let g : GoldJob := ⟨16383, 0, some (ent 1), some 9⟩
    let gold := (s.updArr fun a => { a with golds := [g] }).updUpd fun u => { u with plans := [fin] }
    let freed := (s.updArr fun a => { a with golds := [⟨16383, 0, none, none⟩], gold := [(16383, ent 1)] })
    (∀ x ∈ [held, mv false, mv true, run, gold, freed], Machine.Inv x) ∧
    held.arr.holds.findIdx? (fun h => h.till ≤ held.clk.pclk && searchesDone h.till held) = some 1 ∧ held.arr.holds[1]? = some h ∧ tableAt h.table held = some (tbl 2) ∧
    (∀ x ∈ entrySlots 2 0, x ∉ entrySlots 2 16380) ∧
    (∀ x ∈ entrySlots 2 16380 ++ entrySlots 2 0, tabGet false held.arr.actBad (x / 32) = false) ∧
    (∀ b ∈ [false, true], planAt 9 (mv b) = some (pl b) ∧ tableAt 0 (mv b) = some (tbl 2) ∧ slotClear (tbl 2) 16380 (mv b) = true ∧
      slotClear (tbl 2) 0 (mv b) = true ∧ (∀ h ∈ (mv b).arr.holds, h.movedTo ≠ some 0) ∧ dirAt 0 (mv b) = some (ent 1) ∧
      canWrite (mv b) = true ∧ intentWaits (mv b) = false) ∧ (tbl 2).width < 3 ∧ (tbl 2).stride = 0 ∧ (tbl 2).guarded = false ∧
    panDesc 0 run = some (0, tbl 0) ∧ flagGet Reg.updSlack 16 run = true ∧ intentWaits run = false ∧ run.upd.plans = [] ∧ run.arr.mreqs = [] ∧
    (let p := homePan (tbl 0) 0 run
     let qs := (panEntries 0 p run).map fun x => posOf (tbl 0) x.1
     panBusy (tbl 0) p run = false ∧ longRun (fieldGet Reg.updSlack 12 0 run) qs (qs.headD 0) 0 = some (0, 10) ∧ 0 + 10 < panSize (tbl 0).width) ∧
    gold.arr.golds = g :: [] ∧ tableAt g.table gold = some (tbl 0) ∧ (tbl 0).guarded = false ∧ planAt 9 gold = some fin ∧
    (∀ x ∈ ([] : List GoldJob), x.plan ≠ some fin.no) ∧
    freed.arr.golds = ⟨16383, 0, none, none⟩ :: [] ∧ tabRising freed.arr.gold = true ∧
    planAt 9 ((s.updArr fun a => { a with golds := [g] })) = none := by
  refine ⟨fun s hs => inv_of s (by revert s; decide +kernel), by decide +kernel, by decide +kernel, by decide +kernel, by decide +kernel,
    by decide +kernel, by decide +kernel, by decide +kernel, by decide +kernel, by decide +kernel⟩

theorem witness_ARemapGoesThroughItsPhases :
    let s := up []
    let job (st row : Nat) (again : List Nat) (fails : Nat) : Remap := ⟨255, 4, 15, 16, st, row, again, fails, 0⟩
    let bank (r : Remap) := s.updArr fun a => { a with remaps := [r] }
    let jobs := [job 1 4096 [] 0, job 1 4095 [] 0, job 1 4096 [7] 0, job 2 4096 [] 1, job 2 4095 [] 1, job 2 5 [] 2, job 3 0 [] 0, job 4 0 [] 0, job 5 0 [] 0, job 6 0 [] 0]
    let asked := s.updArr fun a => { a with remapReqs := [(3, 4), (255, 4)] }
    (∀ x ∈ s :: asked :: jobs.map bank, Machine.Inv x) ∧
    Accepts pf Reg.intRemapCtl 0x1ff s ∧ bit (0x1ff : Word) 8 = true ∧ (∀ r ∈ s.arr.remapReqs, r.1 ≠ 255) ∧
    (∀ r ∈ s.arr.remaps, r.pan ≠ 255) ∧ 255 ∉ s.arr.migrating ∧
    asked.arr.remapReqs.find? (fun r => r.1 / 16 == 255 / 16) = some (255, 4) ∧ hobRemap 15 asked = none ∧ sparePhys 15 asked ≠ 0x1f ∧
    (∀ r ∈ jobs, hobRemap 15 (bank r) = some r ∧ r.new < 17 ∧ r.old < 17 ∧ r.pan < 256 ∧ r.due ≤ (bank r).clk.frame ∧
      r.due ≤ (bank r).clk.pclk) := by
  unfold Accepts
  refine ⟨fun s hs => inv_of s (by revert s; decide +kernel), by decide +kernel⟩

theorem witness_AMigrationEmptiesAPan :
    let full (d : List (Nat × Entry)) := (tabled 0).updArr fun a => { a with dir := d }
    let s := regsSet [(Reg.hobStat 0, 0x1f000000)] (full [(16383, ent 1)])
    let ask := s.updArr fun a => { a with remapReqs := [(0, 4)] }
    let mig := s.updArr fun a => { a with migrating := [0] }
    let gone := (up []).updArr fun a => { a with migrating := [0] }
    let none_ := (tabled 0).updArr fun a => { a with migrating := [0] }
    let held := mig.updEpc fun e => { e with doms := [(0, { Domain.idle with recon := true })] }
    let busy := mig.updArr fun a => { a with dir := [(5, ent 1)], stranded := [5] }
    let two := regsSet [(Reg.hobLmap 1, regReset (Reg.hobLmap 1) ||| 0x10000)] (mig.updTbl fun t => { t with tables := [(0, { tbl 0 with panset := 3 })] })
    let back := two.updArr fun a => { a with stranded := [16383, 5 * 16384] }
    (∀ x ∈ [s, ask, mig, gone, none_, held, busy, two, back], Machine.Inv x) ∧
    (0, 4) ∈ ask.arr.remapReqs ∧ sparePhys 0 ask = 0x1f ∧ hobRemap 0 ask = none ∧ ask.arr.migrating = [] ∧ panLost 0 ask = false ∧
    0 ∈ gone.arr.migrating ∧ panDesc 0 gone = none ∧ 0 ∈ none_.arr.migrating ∧ panDesc 0 none_ = some (0, tbl 0) ∧
    homeEntries 0 none_ = [] ∧ panBusy (tbl 0) (homePan (tbl 0) 0 none_) none_ = false ∧ 0 ∈ held.arr.migrating ∧
    panDesc 0 held = some (0, tbl 0) ∧ (homeEntries 0 held).find? (fun x => !held.arr.stranded.contains x.1) = some (16383, ent 1) ∧
    (moveAway 0 (tbl 0) 16383 (ent 1) held).isNone = true ∧ 0 ∈ mig.arr.migrating ∧ panDesc 0 mig = some (0, tbl 0) ∧
    (homeEntries 0 mig).find? (fun x => !mig.arr.stranded.contains x.1) = some (16383, ent 1) ∧
    (moveAway 0 (tbl 0) 16383 (ent 1) mig).map (·.1) = some false ∧ homeEntries 0 busy ≠ [] ∧
    (∀ x ∈ homeEntries 0 busy, x.1 ∈ busy.arr.stranded) ∧ 0 ∈ busy.arr.migrating ∧ panDesc 0 busy = some (0, tbl 0) ∧ busy.arr.told ≠ busy.arr.stranded.length ∧
    (∀ x ∈ homeEntries 0 mig, x.1 ∉ mig.arr.stranded) ∧
    0 ∈ two.arr.migrating ∧ panDesc 0 two = some (0, { tbl 0 with panset := 3 }) ∧
    (homeEntries 0 two).find? (fun x => !two.arr.stranded.contains x.1) = some (16383, ent 1) ∧
    (let d : TableDesc := { tbl 0 with panset := 3 }
     (domAt 0 two).recon = false ∧ (domAt 0 two).discarding = false ∧ panBusy d (panOf d.width 16383) two = false ∧
       (choosePan d 0 (ent 1).key (ent 1).mask (skipPans d 0 two) two).toOption = some 1 ∧ panBusy d 1 two = false ∧
       (placeAt d 0 1 (ent 1).rank two).isSome = true ∧ ∀ x ∈ two.upd.plans, x.no ≠ two.upd.nextId) ∧
    panDesc 0 back = some (0, { tbl 0 with panset := 3 }) ∧ homeEntries 0 back = [(16383, ent 1)] ∧ 16383 ∈ back.arr.stranded ∧
    (∀ j ∈ back.arr.stranded, j ≠ 16383 → j / 16384 ≠ homePan { tbl 0 with panset := 3 } 0 back) ∧
    (moveAway 0 { tbl 0 with panset := 3 } 16383 (ent 1) (showStranded back)).map (·.1) = some true := by
  refine ⟨fun s hs => inv_of s (by revert s; decide +kernel), by decide +kernel, by decide +kernel, by decide +kernel, by decide +kernel, by decide +kernel, by decide +kernel, by decide +kernel,
    by decide +kernel, by decide +kernel, by decide +kernel, by decide +kernel, by decide +kernel, by decide +kernel, by decide +kernel,
    by decide +kernel, by decide +kernel, by decide +kernel, by decide +kernel⟩

theorem witness_AgeIsSampledAndCounted :
    let m : List Byte := List.replicate 272 0xff
    let off := up [(Reg.pwrStat, 0x80000000)]
    (∀ x ∈ [up [], up [(Reg.pwrStat, 0x40000000)], off], Machine.Inv x) ∧ awake (up []) = true ∧ m.length = 272 ∧
    (∀ n, n < 272 → fieldGet Reg.intAgeCfg 15 8 (up []) < (m.getD n 0).toNat ∧ fieldGet Reg.intAgeCfg 7 0 (up []) < (m.getD n 0).toNat) ∧
    powerState (up [(Reg.pwrStat, 0x40000000)]) ≤ 2 ∧ 2 < powerState off ∧ (up []).clk.now < (up []).vbt.lifeAt + 86400000000000 ∧
    (let day := { up [] with clk := { (up []).clk with now := 86400000000000 } }
     invB day = true ∧ awake day = true ∧ day.vbt.lifeAt + 86400000000000 ≤ day.clk.now) := by
  refine ⟨fun s hs => inv_of s (by revert s; decide +kernel), by decide +kernel⟩

theorem witness_TheErrorRingIsConfiguredAndReported :
    let on := up [(Reg.intErrCfg, 0xc0000000), (Reg.intSumCfg, 0x80000000)]
    let bus (s : State) : State := s.updHif fun h => { h with fns := [(0, ⟨true, false, true, false, 0, 2, 0⟩)], msix := [(0, ⟨0x1000, 7, false⟩)] }
    let rung (x : Option Nat) (now : Nat) := { (bus on).updErr fun e => { e with sumOwed := true, sumAt := x } with clk := { on.clk with now := now } }
    let lost := bus (up [(Reg.intErrCfg, 0xc0000000), (Reg.intErrPtr, 255), (Reg.intErrHead, 0)])
    let lost := lost.updErr fun e => { e with dropped := 3 }
    let r : ErrRec := ⟨0x40, 12, 0, 0, 0, 0, 0, 0, 0⟩
    let one := (bus on).updErr fun e => { e with rose := [r] }
    let shut := (rung none 0).updHif fun h => { h with fns := [] }
    (∀ x ∈ [up [], bus (up []), on, lost, rung none 0, rung (some 500) 1500, rung (some 500) 1499, one, shut], Machine.Inv x) ∧
    Accepts pf Reg.intErrHead 255 (up []) ∧ (up []).err.dropped = 0 ∧
    Accepts pf Reg.intErrHead 200 lost ∧ 0 < lost.err.dropped ∧ errOn lost = true ∧
    errRoom (fieldPut Reg.intErrHead 15 0 (bits (200 : Word) 15 0) lost) = true ∧ fieldGet Reg.intErrPtr 15 0 lost < errRingSize lost ∧
    Accepts pf Reg.intErrCfg 0x80000008 (up []) ∧ flagGet Reg.intErrCfg 31 (up []) = false ∧ bit (0x80000008 : Word) 31 = true ∧
    mayRequest 0 (up []) = false ∧ Accepts pf Reg.intErrCfg 0x80000008 (bus (up [])) ∧ flagGet Reg.intErrCfg 31 (bus (up [])) = false ∧
    mayRequest 0 (bus (up [])) = true ∧ (bus (up [])).err.held = [] ∧ (bus (up [])).err.dropped = 0 ∧
    Accepts pf Reg.intErrCfg 0x80000008 on ∧ pf ≠ .smbus ∧ flagGet Reg.intErrCfg 31 on = true ∧
    bits (0x80000008 : Word) 3 0 ≠ fieldGet Reg.intErrCfg 3 0 on ∧
    (∀ s ∈ [rung none 0, rung (some 500) 1500, rung (some 500) 1499, shut], s.err.rose = [] ∧ s.err.dropped = 0 ∧ s.err.sumOwed = true ∧ s.err.errOwed = false ∧ flagGet Reg.intSumCfg 31 s = true) ∧
    (rung none 0).err.sumAt = none ∧ (rung (some 500) 1500).err.sumAt = some 500 ∧ 500 + 1000 ≤ (rung (some 500) 1500).clk.now ∧
    (rung (some 500) 1499).err.sumAt = some 500 ∧ (rung (some 500) 1499).clk.now < 500 + 1000 ∧
    (∀ x ∈ [rung none 0, rung (some 500) 1500, rung (some 500) 1499, one, shut], awake x = true) ∧
    vecOpen (fieldGet Reg.intSumCfg 10 0 (rung none 0)) (rung none 0) = true ∧
    tabGet false (rung none 0).hif.msixPend (fieldGet Reg.intSumCfg 10 0 (rung none 0)) = false ∧ shut.err.sumAt = none ∧
    vecOpen (fieldGet Reg.intSumCfg 10 0 shut) shut = false ∧ one.err.rose = [r] ∧ one.err.dropped = 0 ∧ one.err.errOwed = false ∧
    errOn one = true ∧ errRoom one = true := by
  unfold Accepts
  refine ⟨fun s hs => inv_of s (by revert s; decide +kernel), by decide +kernel, by decide +kernel, by decide +kernel, by decide +kernel, by decide +kernel, by decide +kernel,
    by decide +kernel, by decide +kernel, by decide +kernel, by decide +kernel, by decide +kernel, by decide +kernel, by decide +kernel, by decide +kernel⟩

theorem witness_RepeatedRecordsAreSuppressed :
    let s := (up [(Reg.intErrCfg, 0x80000640)]).updHif fun h => { h with fns := [(0, ⟨true, false, true, false, 0, 2, 0⟩)] }
    let s := { s.updErr fun e => { e with last := [(0x1001, 1)] } with clk := { s.clk with now := 99999 } }
    let full := regsSet [(Reg.intErrPtr, 255)] s
    let held (n : Nat) := (up []).updErr fun e => { e with held := List.replicate n ⟨1, 1, 0, 0, 0, 0, 0, 0, 0⟩ }
    let late := { s with clk := { s.clk with now := 100000 } }
    (∀ x ∈ [s, late, full, held 63, held 64], Machine.Inv x ∧ x.err.rose = [] ∧ x.err.dropped = 0) ∧
    (let last := tabGet 0 s.err.last (256 * 0x10 + 1)
     0 < last ∧ s.clk.now < last - 1 + fieldGet Reg.intErrCfg 11 4 s * 1000) ∧
    ¬ late.clk.now < tabGet 0 late.err.last (256 * 0x10 + 1) - 1 + fieldGet Reg.intErrCfg 11 4 late * 1000 ∧
    errOn s = true ∧ errRoom s = true ∧ errOn late = true ∧ errRoom late = true ∧ errOn full = true ∧ errRoom full = false ∧
    errOn (held 63) = false ∧ (held 63).err.held.length < 64 ∧ errOn (held 64) = false ∧ 64 ≤ (held 64).err.held.length := by
  refine ⟨fun s hs => ⟨inv_of s (by revert s; decide +kernel), by revert s; decide +kernel⟩, by decide +kernel⟩

/-- Group 3 in a state, with its lanes as a good link shows them. -/
def grp3 (st : Nat) (rs : List (Nat × Word)) : State :=
  let lanes := (List.range 8).map fun i => (Reg.lnkLaneStat (24 + i), BitVec.ofNat 32 (2 ^ 29 + i * 2 ^ 26 + 3 * 2 ^ 24))
  let s := up ((Reg.lnkGrpStat 3, BitVec.ofNat 32 (st * 2 ^ 29)) :: lanes ++ rs)
  { s with
    clk := { s.clk with now := 30000000, pclk := 51000000 }
    lnk := { s.lnk with
      grps := [(3, { GrpSt.idle with limitAt := some 30000000, retryAt := some 30000000 })]
      lanes := (List.range 8).map fun i => (24 + i, { scram := 0, seq := 0, found := 3, missed := 0, ready := 2, notReady := 2, remote := true, ident := 0, changed := true }) } }

theorem witness_ALinkTrainsAndFallsAsItsTableSays :
    let l := LinkId.fll 3
    (∀ s ∈ [grp3 0 [], grp3 1 [], grp3 2 [], grp3 3 [], grp3 4 [], grp3 5 []], Machine.Inv s ∧ awake s = true ∧ (grpAt l.key s).limitAt = some 30000000 ∧
      (grpAt l.key s).retryAt = some 30000000 ∧ 30000000 ≤ s.clk.now) ∧
    (∀ st ∈ [1, 2, 3, 4, 5], linkState l (grp3 st []) = st) ∧ allFound l (grp3 2 []) = true ∧ identityOk l (grp3 3 []) = true ∧
    skewSpan [40, 0, 1, 2, 3, 4, 5, 6] ≤ l.skewMax ∧ l.skewMax < skewSpan [41, 0, 1, 2, 3, 4, 5, 6] ∧
    (∀ st ∈ [3, 5], identityOk l (grp3 st [(Reg.lnkLaneStat 31, 0x3b000000)]) = false ∧ linkState l (grp3 st [(Reg.lnkLaneStat 31, 0x3b000000)]) = st ∧
      awake (grp3 st [(Reg.lnkLaneStat 31, 0x3b000000)]) = true) ∧
    (let p := (grp3 5 []).updLnk fun x => { x with grps := [(3, { GrpSt.idle with parked := true })] }
     invB p = true ∧ linkState l p = 5 ∧ (grpAt l.key p).parked = true) ∧
    (∀ n ∈ l.laneList, 2 ≤ (laneAt n (grp3 4 [])).ready) ∧ (grpAt l.key (grp3 5 [])).parked = false ∧
    (∃ n ∈ l.laneList, 2 ≤ (laneAt n (grp3 5 [])).notReady) ∧ (∃ n ∈ l.laneList, (laneAt n (grp3 5 [])).changed = true) ∧
    (let ring := up [(Reg.casStat, 0x41400000), (Reg.casLinkStat, 0xa0000000)]
     invB ring = true ∧ linkState .fcl ring = 5 ∧ isManager ring = true ∧ ringState ring = 5) ∧
    linkState l (grp3 0 [(Reg.lnkGrpCtl 3, 3)]) = 0 ∧ awake (grp3 0 [(Reg.lnkGrpCtl 3, 3)]) = true ∧ linkTrains l (grp3 0 [(Reg.lnkGrpCtl 3, 3)]) = true ∧
    linkAuto l (grp3 0 [(Reg.lnkGrpCtl 3, 3)]) = true ∧ (grpAt l.key (grp3 0 [(Reg.lnkGrpCtl 3, 3)])).retryAt = some 30000000 := by
  refine ⟨fun s hs => ⟨inv_of s (by revert s; decide +kernel), by revert s; decide +kernel⟩, by decide +kernel⟩

theorem witness_GroupControlMovesGroups :
    let l := LinkId.fll 3
    (∀ s ∈ [grp3 0 [], grp3 1 [], grp3 4 [], grp3 5 [], grp3 6 []], Machine.Inv s ∧ isWorker s = false ∧ grpBinding 3 s < 2) ∧
    (∀ x ∈ [(0, (1 : Word)), (0, 5), (5, 5), (6, 5), (0, 0), (1, 0), (4, 0), (5, 0), (6, 0)], linkState l (grp3 x.1 []) = x.1 ∧
      Accepts pf (Reg.lnkGrpCtl 3) x.2 (grp3 x.1 [])) ∧
    flagGet (Reg.lnkGrpCtl 3) 0 (grp3 0 []) = false ∧ (grpAt 3 (grp3 6 [])).cp = (grpAt 3 (grp3 6 [])).rp ∧
    (∀ f ∈ (grp3 6 []).pip.flight, f.grp ≠ 3) ∧
    Accepts pf Reg.lnkGrpMap 0x90 (grp3 0 []) ∧ (∀ k, k < 4 → fieldGet (Reg.lnkGrpStat k) 31 29 (grp3 0 []) = 0) ∧
    Accepts pf Reg.lnkGrpMap 0x90 (grp3 5 []) ∧ pf ≠ .smbus ∧ bits (0x90 : Word) (2 * 3 + 1) (2 * 3) ≠ fieldGet Reg.lnkGrpMap (2 * 3 + 1) (2 * 3) (grp3 5 []) ∧
    fieldGet (Reg.lnkGrpStat 3) 31 29 (grp3 5 []) ≠ 0 := by
  unfold Accepts
  refine ⟨fun s hs => ⟨inv_of s (by revert s; decide +kernel), by revert s; decide +kernel⟩, by decide +kernel⟩

/-- Group 3 in a state, receiving a search frame of one key word. -/
def rxs (st : Nat) (poisoned : Bool) (ws : List W64) : State :=
  (grp3 st []).updLnk fun x => { x with grps := [(3, { GrpSt.idle with inFrame := true, open_ := ws, poisoned := poisoned, damaged := poisoned })] }

theorem witness_AGroupReceivesFrames :
    let l := LinkId.fll 3
    let w : W64 := 0x022144b800000000
    let b : LaneBlock := ⟨false, 0xf022144b81e044149f86d268512e08833116c6054de00d404f2a4149f89d0491⟩
    let chg := (grp3 5 []).updLnk fun x => { x with grps := [(3, { GrpSt.idle with lastCum := 5 })] }
    (∀ s ∈ [rxs 0 false [], rxs 5 false [hdr, 0], rxs 5 true [hdr, 0], rxs 5 false [hdr, 1], rxs 5 false [hdr], grp3 2 [], chg], Machine.Inv s) ∧
    awake (grp3 2 []) = true ∧ 1 < linkState (laneLink 31) (grp3 2 []) ∧ alignOk 31 0x5ac3e7fc0003fffc00000000000000000000000000000000000000000000000 = true ∧
    (alignOk 31 0 && true) = false ∧ linkState l (rxs 0 false []) ≠ 5 ∧ linkState l (rxs 0 false []) ≠ 6 ∧
    (∀ x ∈ [(false, [hdr, 0]), (true, [hdr, 0]), (false, [hdr, 1]), (false, [hdr])], let s := rxs 5 x.1 x.2
      linkState l s = 5 ∧ (rxBlock l b s).1 = (true, w) :: List.replicate 3 (true, 0) ∧ (grpAt 3 s).parked = false ∧ (grpAt 3 s).lost = false ∧ (grpAt 3 s).inFrame = true ∧ (grpAt 3 s).open_ ≠ [] ∧
      (grpAt 3 s).open_.length < 8 ∧ (grpAt 3 s).wp = (grpAt 3 s).mark ∧ (grpAt 3 s).wp < 2048 ∧
      (grpAt 3 s).cores.length = ptrDist (grpAt 3 s).wp (grpAt 3 s).rp ∧ (grpAt 3 s).cores.length < 1024 ∧ grpBinding 3 s < 2 ∧
      isSearchType ((grpAt 3 s).open_.headD 0) = true) ∧
    (grpAt 3 (rxs 5 false [hdr, 0])).poisoned = false ∧ crcGood ([hdr, 0] ++ [w]) = true ∧ searchForm ([hdr, 0] ++ [w]) = true ∧
    pipeOcc 1 (rxs 5 false [hdr, 0]) < 1024 ∧ grpBinding 3 (rxs 5 false [hdr, 0]) = 1 ∧ (grpAt 3 (rxs 5 true [hdr, 0])).poisoned = true ∧
    crcGood ([hdr, 1] ++ [w]) = false ∧ searchForm ([hdr] ++ [w]) = false ∧ (grpAt 3 (rxs 5 true [hdr, 0])).damaged = true ∧
    linkState l chg = 5 ∧ reportedCum 1 chg ≠ (grpAt 3 chg).lastCum ∧ (grpAt 3 chg).parked = false ∧
    (grpAt 3 chg).txSent ≤ txPos chg.clk.pclk chg ∧ txOpen (grpAt 3 chg) (txPos chg.clk.pclk chg) 2 = true := by
  refine ⟨fun s hs => inv_of s (by revert s; decide +kernel), by decide +kernel⟩

/-- A valid shadow schedule. -/
def shadowed : State :=
  (up []).updPip fun p => { p with schedShadow := (List.range 16).map (fun h => (4 * h, (0xf : Word))) ++ [(64, 1), (67, 0x80000000)] }

theorem witness_SchedulesAndProfilesSwitchWhole :
    let busy (s : State) := flagPut Reg.pipSchedStat 31 true s
    let at_ (b : Nat) := shadowed.updPip fun p => { p with switchAt := some b }
    let wk := ((busy shadowed).updPip fun p => { p with schedReady := true }).updRegs fun t => tabInsert t Reg.casStat 0x80000000
    let o (k c : Nat) : PrfOp := ⟨k, 255, c, 7, 7, prof, false, 0⟩
    let op (k c : Nat) := (tabled 0).updTbl fun t => { t with prfOp := some (o k c), profiles := [(255, prof)] }
    let wop := (op 1 0).updRegs fun t => tabInsert t Reg.casStat 0x80000000
    let held := (op 1 0).updPip fun p => { p with switchAt := some 0 }
    (∀ s ∈ [up [], shadowed, busy (up []), busy shadowed, at_ 0, at_ 1, wk, op 1 8, op 1 0, op 2 0, op 3 0, wop, held], Machine.Inv s) ∧
    (∀ s ∈ [up [], shadowed], Accepts pf Reg.pipSchedCtl 1 s ∧ schedBusy s = false ∧ isWorker s = false) ∧
    bit (1 : Word) 0 = true ∧ Accepts pf Reg.pipSchedCtl 1 (busy shadowed) ∧ pf ≠ .smbus ∧ (op 1 0).tbl.prfOp.isSome = true ∧
    (∀ s ∈ [busy (up []), busy shadowed], schedBusy s = true ∧ schedRuns s = false ∧ s.tbl.prfOp = none ∧ ringPeers s = [] ∧ isWorker s = false) ∧
    (schedFault (busy (up [])).pip.schedShadow (busy (up []))).isSome = true ∧
    schedFault (busy shadowed).pip.schedShadow (busy shadowed) = none ∧
    (∀ b ∈ [0, 1], (at_ b).pip.switchAt = some b ∧ (at_ b).pip.schedReady = false) ∧ 0 ≤ (at_ 0).clk.pclk ∧ (at_ 1).clk.pclk < 1 ∧
    wk.pip.switchAt = none ∧ isWorker wk = true ∧ isManager wk = false ∧ wk.pip.schedReady = true ∧
    Accepts pf Reg.prfCtl 0x1ff (up []) ∧ Accepts pf Reg.prfCtl 0x2ff (up []) ∧ Accepts pf Reg.prfCtl 0x300 (up []) ∧
    prfBusy (up []) = false ∧ isManager (up []) = false ∧ isWorker (up []) = false ∧ tiedDestroys (stagedProfile (up [])) (up []) = [] ∧
    bits (0x1ff : Word) 9 8 = 1 ∧ bits (0x2ff : Word) 9 8 = 2 ∧ bits (0x300 : Word) 9 8 = 3 ∧
    held.tbl.prfOp = some (o 1 0) ∧ schedRuns held = true ∧
    (∀ x ∈ [(o 1 8, op 1 8), (o 1 0, op 1 0), (o 2 0, op 2 0), (o 3 0, op 3 0), (o 1 0, wop)], x.2.tbl.prfOp = some x.1 ∧ schedRuns x.2 = false ∧
      (∀ j ∈ x.2.cas.jobs, j.kind ≠ 0) ∧ ringOp x.1 x.2 = false ∧ x.1.due ≤ x.2.clk.pclk ∧ (ownCode x.1 x.2).1 = x.1.code) ∧
    isWorker (op 1 0) = false ∧ isWorker wop = true ∧ tabRising (op 3 0).tbl.profiles = true := by
  unfold Accepts
  refine ⟨fun s hs => inv_of s (by revert s; decide +kernel), by decide +kernel, by decide +kernel, by decide +kernel, by decide +kernel, by decide +kernel, by decide +kernel, by decide +kernel, by decide +kernel,
    by decide +kernel, by decide +kernel, by decide +kernel, by decide +kernel, by decide +kernel, by decide +kernel, by decide +kernel, by decide +kernel,
    by decide +kernel, by decide +kernel, by decide +kernel, by decide +kernel, by decide +kernel, by decide +kernel⟩

theorem witness_SelectWritesLatchTheWritersWindow :
    let w := up [(Reg.casStat, 0x80000000)]
    (∀ s ∈ [up [], w], Machine.Inv s) ∧
    (∀ x ∈ [(Reg.tblSel, (127 : Word)), (Reg.sveMapSel, 0x00ff03ff), (Reg.updRingSel, 16383), (Reg.epcSel, 7), (Reg.todSnapSel, 3), (Reg.prtRefSel, 31)],
      Accepts pf x.1 x.2 (up [])) ∧
    (∀ x ∈ [(Reg.tblSel, (127 : Word)), (Reg.sveMapSel, 0x00ff03ff), (Reg.updRingSel, 16383), (Reg.epcSel, 7), (Reg.todSnapSel, 0)],
      Accepts .manager x.1 x.2 w ∧ Accepts pf x.1 x.2 w) ∧ ownWindow pf w ≠ ownWindow .manager w := by
  unfold Accepts
  refine ⟨fun s hs => inv_of s (by revert s; decide +kernel), by decide +kernel⟩

/-- A block with commands in flight, whose PF may send requests, and ring 5 as given. -/
def ringed (q : Ring) (cs : List Cmd) (rs : List (Nat × Word)) : State :=
  let s := up ((Reg.updRingSel, 5) :: rs)
  { s with
    hif := { s.hif with fns := [(0, ⟨true, false, true, false, 0, 2, 0⟩)], msix := [(0, ⟨0x1000, 7, false⟩)] }
    upd := { s.upd with rings := [(5, q)], cmds := cs } }

/-- Ring 5 in a state: 64 slots, priority 1, rights 7, interrupts on, tail 4 and head 0. -/
def ring5 (st : Nat) : Ring := { Ring.off with st := st, tail := 4, phase := true, cfg := 0x78000080 }

/-- A command of ring 5 in a stage. -/
def cmd5 (ws : List W64) (st : CStage) : Cmd :=
  { id := 9, ring := 5, pos := 0, slots := 1, barrier := false, words := ws, reads := [], seq := 0, stage := st, accepted := false,
    mark := 0, count := 0 }

/-- Ring 5 in RUN, with commands in flight, in a state whose PF may send requests. -/
def cmdTab (s : State) (cs : List Cmd) : State :=
  { s with
    upd := { s.upd with rings := [(5, ring5 1)], cmds := cs }
    hif := { s.hif with fns := [(0, ⟨true, false, true, false, 0, 2, 0⟩)] } }

/-- The header of a command of an opcode that names table 0. -/
def opHdr (o : Nat) : W64 := BitVec.ofNat 64 (o * 2 ^ 56)

theorem witness_RingControlActsOnTheSelectedRing :
    let cfg := [(Reg.updRingCfg, (0x78000080 : Word))]
    (∀ s ∈ [ringed Ring.off [] cfg, ringed (ring5 1) [] cfg, ringed (ring5 3) [] []], Machine.Inv s ∧ selRing pf s = 5) ∧
    Accepts pf Reg.updRingCtl 4 (ringed Ring.off [] cfg) ∧ Accepts pf Reg.updRingCtl 1 (ringed Ring.off [] cfg) ∧
    Accepts pf Reg.updRingCtl 5 (ringed Ring.off [] cfg) ∧ Accepts pf Reg.updRingCtl 4 (ringed (ring5 1) [] cfg) ∧
    Accepts pf Reg.updRingCtl 2 (ringed (ring5 1) [] cfg) ∧ Accepts pf Reg.updRingCtl 2 (ringed (ring5 3) [] []) ∧
    (∀ s ∈ [ringed Ring.off [] cfg, ringed (ring5 1) [] cfg], stagedForbidden (stagedRing pf (ringAt 5 s) s) s = false) ∧
    fnEnabled (stagedRing pf (ringAt 5 (ringed Ring.off [] cfg)) (ringed Ring.off [] cfg)).func (ringed Ring.off [] cfg) = true ∧
    (let s := ringed (ring5 1) [] cfg
     let q := ringAt 5 s
     let n := stagedRing pf q s
     n.sqb = q.sqb ∧ n.cqb = q.cqb ∧ bits n.cfg 3 0 = bits q.cfg 3 0 ∧ n.func = q.func) := by
  unfold Accepts
  refine ⟨fun s hs => ⟨inv_of s (by revert s; decide +kernel), by revert s; decide +kernel⟩, by decide +kernel⟩

theorem witness_DoorbellsMoveTailsAndHeads :
    let fn : Fin 64 := 0
    let off : Nat := 20
    (∀ s ∈ [ringed (ring5 0) [] [], ringed (ring5 1) [] [], ringed (ring5 2) [] [], ringed (ring5 3) [] []],
      Machine.Inv s ∧ xingDead 53 s = false ∧ linkUp s = true ∧ fnEnabled fn.val s = true ∧ s.pwr.entering = none ∧ powerState s < 2) ∧
    (∀ st ∈ [1, 3], (ring5 st).func = fn.val ∧ (ring5 st).st = st ∧
      (∀ k ∈ [63, 4], let v : W64 := BitVec.ofNat 64 k; bits v 31 30 = 0 ∧ bits v 15 0 < (ring5 st).size ∧
        (ring5 st).unfetched ≤ (bits v 15 0 + (ring5 st).size - (ring5 st).head) % (ring5 st).size) ∧
      (let v : W64 := 0x40000000; bits v 31 30 = 1 ∧ bits v 15 0 < (ring5 st).size ∧
        ((ring5 st).ctail + (ring5 st).size - bits v 15 0) % (ring5 st).size ≤ (ring5 st).unconsumed)) ∧
    ((1 : Fin 64).val ≠ (ring5 1).func ∧ (ring5 0).st = 0 ∧ (ring5 2).st = 2 ∧ off / 4 = 5 ∧ off % 4 = 0 ∧ off < 65536) ∧
    (∀ x ∈ [(4, false), (2, true), (8, true)], x.1 ≠ 0 ∧ (x.2 = false ∨ (x.1 ≠ 4 ∧ x.1 ≠ 8) ∨ off % x.1 ≠ 0)) := by
  refine ⟨fun s hs => ⟨inv_of s (by revert s; decide +kernel), by revert s; decide +kernel⟩, by decide +kernel⟩

theorem witness_RingEventsFollowTheRingStates :
    let q := { ring5 1 with owed := 1, oldest := 0 }
    let c := { cmd5 [opHdr 0x10, 0] .held with ring := 4 }
    let own := ((ringed (ring5 2) [c] [(Reg.fwuStat, 0x04000000)]).updEpc fun e => { e with doms := [(0, { Domain.idle with st := .open_, owner := 5 })] }).updFwu
      fun f => { f with session := some ⟨1, 5, 0, 8, [], 0, none⟩ }
    let due := { (ringed q [] []) with clk := { ClkSt.reset with now := 1000 } }
    let shut := due.updHif fun h => { h with msix := [] }
    (∀ s ∈ [ringed (ring5 2) [c] [], own, due, shut, ringed (ring5 1) [c] []], Machine.Inv s) ∧
    (∀ s ∈ [ringed (ring5 2) [c] [], own], (ringAt 5 s).st = 2 ∧ ∀ c ∈ s.upd.cmds, c.ring ≠ 5) ∧
    (domAt 0 own).owner = 5 ∧ (domAt 0 own).st = .open_ ∧ fieldGet Reg.fwuStat 28 26 own = 1 ∧ own.fwu.session.map (·.ring) = some 5 ∧
    (∀ d, d < 8 → (domAt d (ringed (ring5 2) [c] [])).owner ≠ 5) ∧ (ringed (ring5 2) [c] []).fwu.session = none ∧
    q.intEn = true ∧ 0 < q.owed ∧ q.oldest + 1000 * max 1 (bits q.coal 7 0) ≤ due.clk.now ∧ max 1 (bits q.coal 15 8) ≤ q.owed ∧
    tabGet false due.hif.msixPend q.vector = false ∧ vecOpen q.vector due = true ∧ vecOpen q.vector shut = false ∧ awake due = true ∧ awake shut = true ∧
    (let s := ringed (ring5 1) [c] []
     (domAt 0 s).recon = false ∧ c ∈ s.upd.cmds ∧ c.stage = .held ∧ cmdDomain c s = 0 ∧ (ringAt 5 s).st = 1) := by
  refine ⟨fun s hs => inv_of s (by revert s; decide +kernel), by decide +kernel⟩

theorem witness_CommandsAreFetchedAndParsed :
    let rd : Cmd := { cmd5 [opHdr 0x40] .ready with ring := 6, reads := List.range 512 }
    let s := ringed (ring5 1) [] []
    let busy := ringed (ring5 1) [rd] []
    let wrap := ringed { ring5 1 with head := 63, tail := 1 } [] []
    let heads := [((5 : Fin 16384), [opHdr 0x10, opHdr 0x11])]
    let f := cmdTab (tabled 0) [cmd5 [] .fetched]
    let fw := cmdTab (tabled 0) [{ cmd5 [opHdr 0x40] .ready with reads := [1] }]
    let good := [opHdr 0x10, 0, 0, 0, 0, 0, 0, 0]
    let bad := [opHdr 0xff, 0, 0, 0, 0, 0, 0, 0]
    let arr (ws : List W64) : Cmd := { cmd5 [] .fetched with words := ws, stage := .arrived, reads := [], barrier := opBarrier (opOf (ws.getD 0 0)) }
    let reads (s : State) : Nat :=
      let q := ringAt 5 s
      let n := ((turnSlots [opHdr 0x10, opHdr 0x11] q.unfetched 8 (4096 - s.upd.cmds.length)).map slotsTaken).sum
      let first := min n (q.size - q.head)
      (first + maxRead s / 64 - 1) / (maxRead s / 64) + (n - first + maxRead s / 64 - 1) / (maxRead s / 64)
    (∀ x ∈ [s, busy, wrap, f, fw], Machine.Inv x) ∧
    (∀ x ∈ [s, busy, wrap], isWorker x = false ∧ pickRing heads x = some (5, [opHdr 0x10, opHdr 0x11])) ∧ reads s = 1 ∧ reads wrap = 2 ∧
    512 < readsOut busy + reads busy ∧ readsOut s + reads s ≤ 512 ∧ readsOut wrap + reads wrap ≤ 512 ∧ 64 * 2 ≤ maxRead s ∧
    f.upd.cmds = [cmd5 [] .fetched] ∧ f.upd.due = [] ∧ (ringAt 5 f).st = 1 ∧ relayWorker 5 f = none ∧
    parseCheck (arr good) f = none ∧ (domAt (cmdDomain (arr good) f) f).recon = false ∧ parseCheck (arr bad) f = some (9, 0) ∧
    cmdAt 9 f = some (cmd5 [] .fetched) ∧ (cmdAt 9 fw).any Cmd.fwReading = true := by
  refine ⟨fun s hs => inv_of s (by revert s; decide +kernel), by decide +kernel⟩

theorem witness_CompletionsAreWrittenAtTheTail :
    let c := cmd5 [opHdr 0x10, 0] .running
    let s := ringed (ring5 1) [c] []
    let wrap := ringed { ring5 1 with ctail := 63, chead := 5 } [c] []
    let full := ringed { ring5 1 with ctail := 63 } [c] []
    let mute := s.updHif fun h => { h with fns := [] }
    let make := cmdTab ((tabled 0).updTbl fun t => { t with tables := [(0, { tbl 0 with life := .created })] }) [cmd5 [opHdr 1, 0] .running]
    let free := cmdTab ((tabled 0).updTbl fun t => { t with tables := [(0, { tbl 0 with life := .released })] }) [cmd5 [opHdr 2, 0] .running]
    (∀ x ∈ [s, wrap, full, mute, make, free], Machine.Inv x ∧ x.upd.due = [] ∧ (∀ e ∈ x.upd.cmds, e.stage ≠ .arrived) ∧
      (ringAt 5 x).quiet = false ∧ isWorker x = false) ∧
    mayRequest 0 mute = false ∧ cmdAt 9 mute = some c ∧
    (∀ x ∈ [make, free], mayRequest (ringAt 5 x).func x = true ∧ (ringAt 5 x).room = true) ∧ (tableAt 0 make).isSome = true ∧
    (cmdAt 9 make).map (opOf ·.hdr) = some 1 ∧ (cmdAt 9 free).map (opOf ·.hdr) = some 2 ∧
    (∀ x ∈ [s, wrap, full], cmdAt 9 x = some c ∧ opOf c.hdr ≠ 1 ∧ mayRequest (ringAt 5 x).func x = true) ∧
    (ringAt 5 s).room = true ∧ (ringAt 5 wrap).room = true ∧ (ringAt 5 wrap).ctail + 1 = (ringAt 5 wrap).size ∧ (ringAt 5 full).room = false := by
  refine ⟨fun s hs => ⟨inv_of s (by revert s; decide +kernel), by revert s; decide +kernel⟩, by decide +kernel⟩

/-- The entry that a command of zeros names in table 0. -/
def ent0 : Entry := ⟨0, 0, 0, 0, [0], true, true⟩

theorem witness_TablesAreCreatedAndDestroyed :
    let mk (t p base : Nat) := cmd5 [opHdr 1 ||| BitVec.ofNat 64 (2 ^ 54 + t * 2 ^ 40), BitVec.ofNat 64 (24 * 2 ^ 49 + base * 2 ^ 22), 0, 0, BitVec.ofNat 64 (2 ^ p)] .ready
    let s (c : Cmd) := cmdTab (tabled 0) [c]
    let del := cmd5 [opHdr 2] .ready
    let open_ := (s del).updEpc fun e => { e with doms := [(0, { Domain.idle with st := .open_ })] }
    let rel := { cmd5 [opHdr 2] .running with count := 1, mark := 1000 }
    let gone := cmdTab ((tabled 0).updTbl fun t => { t with tables := [] }) [del]
    let run (m : Nat) := { cmd5 [opHdr 2] .running with mark := m }
    (∀ x ∈ [s (mk 0 1 16384), s (mk 1 0 16384), s (mk 1 1 16384), s del, open_, s rel, gone, s (run 1000), s (run 999)], Machine.Inv x ∧ canWrite x = true) ∧
    readyCmd 9 [2] gone = some del ∧ tableLive 0 gone = none ∧
    (∀ m ∈ [1000, 999], runningCmd 9 [2] (s (run m)) = some (run m) ∧ tableAt 0 (s (run m)) = some (tbl 0) ∧ (run m).count = 0) ∧
    (s (run 1000)).clk.now ≤ (run 1000).mark ∧ (run 999).mark < (s (run 999)).clk.now ∧ tableWriting 0 (s (run 999)) = false ∧
    (∀ q ∈ (s (run 999)).arr.mreqs, q.table ≠ 0) ∧ naming (run 999) (s (run 999)) = [] ∧ (∀ q ∈ (s rel).arr.mreqs, q.table ≠ 0) ∧
    readyCmd 9 [1] (s (mk 0 1 16384)) = some (mk 0 1 16384) ∧ (tableAt (tableOf (mk 0 1 16384).hdr) (s (mk 0 1 16384))).isSome = true ∧
    readyCmd 9 [1] (s (mk 1 0 16384)) = some (mk 1 0 16384) ∧ tableAt (tableOf (mk 1 0 16384).hdr) (s (mk 1 0 16384)) = none ∧
    (∃ p ∈ (mk 1 0 16384).tableDesc.pans, panTable p (s (mk 1 0 16384)) ≠ none ∨ panLost p (s (mk 1 0 16384)) = true) ∧
    (let c := mk 1 1 16384
     readyCmd 9 [1] (s c) = some c ∧ tableAt (tableOf c.hdr) (s c) = none ∧ (s c).upd.plans = [] ∧ c.tableDesc.pans = [1] ∧
     (∀ p ∈ c.tableDesc.pans, panTable p (s c) = none ∧ panLost p (s c) = false) ∧
     (∀ o ∈ (s c).tbl.tables, ∀ r ∈ o.2.regions, ∀ q ∈ c.tableDesc.regions, overlap r.1 r.2 q.1 q.2 = false)) ∧
    readyCmd 9 [2] (s del) = some del ∧ tableLive (tableOf del.hdr) (s del) = some (tbl 0) ∧ tableLive 0 open_ = some (tbl 0) ∧
    readyCmd 9 [2] open_ = some del ∧ (domAt (tbl 0).domain open_).st ≠ .idle ∧ tableProfiled 0 (s del) = false ∧
    (domAt 0 (s del)).st = .idle ∧ (domAt 0 (s del)).recon = false ∧ (s del).upd.plans = [] ∧ (s del).upd.cmds = [del] ∧ del.count = 0 ∧
    (s rel).upd.cmds.find? (fun c => decide (c.stage = .running) && opOf c.hdr == 2 && tableOf c.hdr == (0 : Fin 128).val &&
        c.count == 1 && c.mark ≤ (s rel).clk.pclk) = some rel ∧
    tableAt 0 (s rel) = some (tbl 0) ∧ (∀ h ∈ (s rel).arr.holds, h.table ≠ 0) ∧ tabRising (s rel).tbl.tables = true := by
  refine ⟨fun s hs => ⟨inv_of s (by revert s; decide +kernel), by revert s; decide +kernel⟩, by decide +kernel, by decide +kernel, by decide +kernel, by decide +kernel, by decide +kernel, by decide +kernel, by decide +kernel, by decide +kernel,
    by decide +kernel, by decide +kernel, by decide +kernel, by decide +kernel, by decide +kernel, by decide +kernel, by decide +kernel, by decide +kernel⟩

theorem witness_InsertPlacesAnEntry :
    let c := { cmd5 [opHdr 0x10] .ready with seq := 1 }
    let s := cmdTab (tabled 0) [c]
    let shut := s.updEpc fun e => { e with doms := [(0, { Domain.idle with st := .open_ })] }
    let wait := s.updEpc fun e => { e with doms := [(0, { Domain.idle with recon := true })] }
    let live := s.updArr fun a => { a with dir := [(7, ent0)] }
    let d := tbl 0
    let dead := cmdTab ((tabled 0).updTbl fun t => { t with tables := [(0, { tbl 0 with life := .destroyed })] }) [c, { cmd5 [opHdr 2] .running with id := 8 }]
    (∀ x ∈ [s, shut, wait, live], Machine.Inv x ∧ doomed c x = false ∧ canWrite x = true ∧ readyCmd 9 [0x10] x = some c ∧ tableAt (tableOf c.hdr) x = some d) ∧
    c.accepted = false ∧ readyCmd 9 [0x10] dead = some c ∧ (tableAt 0 dead).isSome = true ∧ dead.upd.plans = [] ∧ doomed c dead = true ∧ invB dead = true ∧
    epochOpen c d shut = false ∧ epochOpen c d wait = true ∧ updateWaits c d wait = true ∧ epochOpen c d live = true ∧
    updateWaits c d live = false ∧ findLive 0 (c.key d) (c.mask d) (updEpoch c d live) live = some (7, ent0) ∧
    batchBit c.hdr = false ∧ epochOpen c d s = true ∧ updateWaits c d s = false ∧
    findLive 0 (c.key d) (c.mask d) (updEpoch c d s) s = none ∧ (choosePan d 0 (c.key d &&& c.mask d) (c.mask d) (skipPans d 0 s) s).toOption = some 0 ∧
    panBusy d 0 s = false ∧ (placeAt d 0 0 0 s).any (fun p => p.moves.isEmpty && slotClear d p.pos s && panBits d (panOf d.width p.pos) < 2 ^ 64) = true ∧
    d.guarded = false ∧ s.upd.plans = [] := by
  refine ⟨fun s hs => ⟨inv_of s (by revert s; decide +kernel), by revert s; decide +kernel⟩, by decide +kernel⟩

theorem witness_EntriesAreDeletedAndModified :
    let c (o : Nat) := cmd5 [opHdr o ||| 0x3000000] .ready
    let s (o : Nat) := cmdTab (tabled 0) [c o]
    let live (o : Nat) := (s o).updArr fun a => { a with dir := [(7, ent0)] }
    let d := tbl 0
    (∀ o ∈ [0x11, 0x12, 0x13], Machine.Inv (s o) ∧ Machine.Inv (live o)) ∧
    (∀ o ∈ [0x11, 0x12, 0x13], ∀ x ∈ [s o, live o], readyCmd 9 [o] x = some (c o) ∧ tableAt (tableOf (c o).hdr) x = some d ∧
      epochOpen (c o) d x = true ∧ updateWaits (c o) d x = false ∧ x.upd.plans = [] ∧ (c o).accepted = false ∧ doomed (c o) x = false ∧ canWrite x = true) ∧
    (∀ o ∈ [0x11, 0x12, 0x13], findLive 0 ((c o).key d) ((c o).mask d) (updEpoch (c o) d (s o)) (s o) = none ∧
      findLive 0 ((c o).key d) ((c o).mask d) (updEpoch (c o) d (live o)) (live o) = some (7, ent0) ∧ batchBit (c o).hdr = false ∧
      panBusy d (panOf d.width 7) (live o) = false ∧ dirAt 7 (live o) = some ent0 ∧ rankFits d 0 7 (rankOf (c o).hdr) (live o) = true) ∧
    rankOf (c 0x13).hdr = 3 ∧ d.guarded = false ∧ d.width < 3 := by
  refine ⟨fun o ho => ⟨inv_of _ (by revert o; decide +kernel), inv_of _ (by revert o; decide +kernel)⟩, by decide +kernel⟩

theorem witness_EntriesAreReadAndOrdered :
    let rd := cmd5 [opHdr 0x14] .ready
    let ri (i : Nat) := cmd5 [opHdr 0x14 ||| BitVec.ofNat 64 (2 ^ 51), BitVec.ofNat 64 i] .ready
    let sn (st : CStage) := { cmd5 [opHdr 0x31, 0, 5] st with mark := 2, count := 1 }
    let fe (st : CStage) := { cmd5 [opHdr 0x30] st with seq := 1 }
    let s (w : Nat) (cs : List Cmd) := (cmdTab (tabled w) cs).updArr fun a => { a with dir := [(7, ent0)] }
    let none_ := cmdTab (tabled 0) [rd]
    let busy := (s 0 [sn .ready]).updUpd fun u => { u with snaps := [(0, 8)] }
    let late := { cmd5 [opHdr 0x10] .ready with id := 8 }
    (∀ x ∈ [s 0 [rd], none_, s 0 [ri 7], s 2 [ri 1], s 0 [ri 8], s 0 [sn .ready], s 0 [sn .running], busy, s 0 [fe .ready], s 0 [fe .ready, late], s 0 [fe .running]],
      Machine.Inv x) ∧
    (∀ x ∈ [s 0 [rd], none_], readyCmd 9 [0x14] x = some rd ∧ tableAt 0 x = some (tbl 0) ∧ doomed rd x = false ∧ ringSends rd x = true ∧ optBit rd.hdr 51 = false ∧
      entryBusy rd (tbl 0) x = false) ∧
    findLive 0 (rd.key (tbl 0)) (rd.mask (tbl 0)) (readEpoch rd (tbl 0) (s 0 [rd])) (s 0 [rd]) = some (7, ent0) ∧
    findLive 0 (rd.key (tbl 0)) (rd.mask (tbl 0)) (readEpoch rd (tbl 0) none_) none_ = none ∧
    (∀ i ∈ [1, 7, 8], optBit (ri i).hdr 51 = true ∧ bits ((ri i).word 1) 21 0 = i ∧ readyCmd 9 [0x14] (s 0 [ri i]) = some (ri i) ∧ doomed (ri i) (s 0 [ri i]) = false ∧
      ringSends (ri i) (s 0 [ri i]) = true) ∧
    readyCmd 9 [0x14] (s 2 [ri 1]) = some (ri 1) ∧ tableAt 0 (s 2 [ri 1]) = some (tbl 2) ∧ ringSends (ri 1) (s 2 [ri 1]) = true ∧ doomed (ri 1) (s 2 [ri 1]) = false ∧ 64 * widthSlots 0 ≤ maxPayload (s 0 [rd]) ∧
    idxAligned 2 1 = false ∧ idxAligned 0 7 = true ∧ primaryIndex (tbl 0) 7 = some 7 ∧ dirAt 7 (s 0 [ri 7]) = some ent0 ∧ ent0.table = 0 ∧
    primaryIndex (tbl 0) 8 = some 8 ∧ dirAt 8 (s 0 [ri 8]) = none ∧
    (∀ x ∈ [s 0 [sn .ready], busy], readyCmd 9 [0x31] x = some (sn .ready) ∧ tableAt 0 x = some (tbl 0) ∧ doomed (sn .ready) x = false ∧ tableWriting 0 x = false ∧
      ringSends (sn .ready) x = true) ∧ snapping 0 busy = true ∧ snapping 0 (s 0 [sn .ready]) = false ∧
    runningCmd 9 [0x31] (s 0 [sn .running]) = some (sn .running) ∧ readyCmd 9 [0x30] (s 0 [fe .ready]) = some (fe .ready) ∧
    fenceCovered (fe .ready) (s 0 [fe .ready]) = true ∧ readyCmd 9 [0x30] (s 0 [fe .ready, late]) = some (fe .ready) ∧
    fenceCovered (fe .ready) (s 0 [fe .ready, late]) = false ∧ runningCmd 9 [0x30] (s 0 [fe .running]) = some (fe .running) ∧
    optBit (fe .running).hdr 50 = false ∧ drained (fe .running).mark (s 0 [fe .running]) = true := by
  refine ⟨fun s hs => inv_of s (by revert s; decide +kernel), by decide +kernel, by decide +kernel, by decide +kernel, by decide +kernel, by decide +kernel, by decide +kernel, by decide +kernel, by decide +kernel,
    by decide +kernel, by decide +kernel, by decide +kernel, by decide +kernel, by decide +kernel, by decide +kernel, by decide +kernel, by decide +kernel⟩

theorem witness_EntriesAreReadAndOrdered_image :
    let e : Entry := ⟨127, BitVec.ofNat 640 (5 * 2 ^ 560), BitVec.ofNat 640 (2 ^ 640 - 2 ^ 560), 65535, [7], true, false⟩
    let d := tbl 0
    let low := 640 - 8 * widthBytes d.width
    d.width < 4 ∧ d.stride ≤ 3 ∧ e.table < 128 ∧ e.rank < 65536 ∧ e.record.length = strideUnits d ∧
    e.key &&& e.mask = (e.key &&& e.mask) >>> low <<< low ∧ e.mask = e.mask >>> low <<< low ∧
    (cmd5 (entryImage d 127 9 e) .ready).words = entryImage d 127 9 e := by
  decide +kernel

/-- A block in SERVICE with both DRAM channels fitted, whose host and MP regions cover every space; `rs` is set over that. -/
def barred (rs : List (Nat × Word)) : State :=
  up ([(Reg.glbMemMode, (1 : Word)), (Reg.drcStat, 0x1010)] ++ ([0, 8].flatMap fun m => [(Reg.prtRgnA m, 0x98000000), (Reg.prtRgnB m, 0x7fffff),
    (Reg.prtRgnA (m + 1), 0xb8000000), (Reg.prtRgnB (m + 1), 0x7fffff), (Reg.prtRgnA (m + 2), 0xf8000000), (Reg.prtRgnB (m + 2), 0x7fffff),
    (Reg.prtRgnA (m + 3), 0xd8000000), (Reg.prtRgnB (m + 3), 0x7fffff)]) ++ rs)

/-- `barred` with a Pantry word whose check bits do not match. -/
def barredBad : State := (barred []).updMem fun m => { m with pantrySyn := [(0, 3)] }

/-- The last conjunct asks that the SECDED code, whose matrix the spec leaves open, names no bit for syndrome 3. -/
theorem witness_HostMemoryAccessesReadAndWriteBytes (h : Config.secdedBit 3 = none) :
    let s := barred []
    let shut := barred [(Reg.prtRgnA 0, 0), (Reg.prtRgnA 8, 0)]
    let dead := barred [(Reg.clkXingDead 1, 0x600000)]
    let w4 : List (Option Byte) := [some 1, some 2, some 3, some 4]
    let mp (sp byte al : Nat) : MemAcc := ⟨.mp 0, sp, byte, 4, al⟩
    (∀ x ∈ [s, shut, dead, barredBad], Machine.Inv x ∧ linkUp x = true ∧ mpRuns x = true) ∧
    (∃ y, bar4Access 0 0 4 dead = some y ∧ memDead y dead = true) ∧
    (∀ x ∈ [s, shut, barredBad], ∀ off ∈ [0, 0x1000000, 0x1800000, 0x4000000, 0x8000000, 0xc000000], (bar4Access 0 off 4 x).all (fun y => !memDead y x) = true) ∧
    bar4Refusal 0 0 4 false true false shut ≠ 0 ∧ bar4Refusal 0 0x3ffffc0 4 false true false s = 0 ∧ bar4Access 0 0x3ffffc0 4 s = none ∧
    (∀ x ∈ [(0, 0), (0xfffffc, 0), (0x1000000, 1), (0x107fffc, 1), (0x1800000, 3), (0x187fffc, 3), (0xc000000, 2), (0xffffffc, 2)],
      bar4Refusal 0 x.1 4 false true false s = 0 ∧ (bar4Access 0 x.1 4 s).map (·.space) = some x.2 ∧ x.1 + 4 ≤ 0x10000000) ∧
    (∀ w, (pantryRead w s).kind = 0) ∧ (∀ w, (scratchRead w s).kind = 0) ∧ (∀ i, tabGet false s.arr.actBad i = false) ∧
    (∀ l, tabGet false s.mem.dramBad l = false ∧ tabGet false s.mem.dramSoft l = false) ∧ flagGet Reg.arbStat 26 s = false ∧
    (∀ x ∈ [(0, 0, 0), (0x1000000, 1, 1), (0xffffffc, 5, 5), (0x4000000, 3, 0), (0x5000000, 3, 1), (0x8000000, 4, 0), (0x9000000, 4, 1), (0x9800000, 4, 2)],
      bar4Row x.1 = x.2.1 ∧ bar4Row (plainOff x.1) = x.2.2 ∧ bar4Refusal 0 x.1 w4.length true (aliasShaped x.1 w4) false s = 0 ∧
      bar4Refusal 0 x.1 w4.length true (aliasShaped x.1 w4) true s = 13) ∧
    (let c := bar4Refusal 0 0x1800000 4 true true false s
     c ≠ 0 ∧ c ≠ 13) ∧
    (∀ sp ∈ [0, 1, 2, 3], memDead (mp sp 0 0) s = false ∧ mpRefusal (mp sp 0 0) false true s = 0) ∧
    (∀ x ∈ [(0, 0), (1, 0), (2, 0), (0, 1), (1, 1), (0, 2), (1, 2), (3, 2)], mpRefusal (mp x.1 0 x.2) true (aliasShaped 0 w4) s = 0) ∧
    memDead (mp 2 0 0) dead = true ∧ memDead (mp 0 0 0) shut = false ∧ mpRefusal (mp 0 0 0) false true shut ≠ 0 ∧
    mpRefusal (mp 0 0 0) true true shut ≠ 0 ∧
    flagGet Reg.glbMpFault 31 s = false ∧ flagGet Reg.glbMpFault 31 (busError 0 1 0 s) = true ∧
    (∀ i, i < 4 → 0x3fffffc + i < dramBytes s ∧ inAreas (0x3fffffc + i) s = false) ∧
    (bar4Access 0 0 4 barredBad).map (·.space) = some 0 ∧ bar4Refusal 0 0 4 false true false barredBad = 0 ∧ (pantryRead 0 barredBad).kind = 2 := by
  refine ⟨fun s hs => ⟨inv_of s (by revert s; decide +kernel), by revert s; decide +kernel⟩, ⟨_, rfl, by decide +kernel⟩, by decide +kernel, by decide +kernel,
    by decide +kernel, by decide +kernel, by decide +kernel, fun _ => rfl, fun _ => rfl, fun _ => rfl, fun _ => ⟨rfl, rfl⟩, by decide +kernel,
    by decide +kernel, by decide +kernel, by decide +kernel, by decide +kernel, by decide +kernel, by decide +kernel, by decide +kernel,
    by decide +kernel, by decide +kernel, by decide +kernel, by decide +kernel, by decide +kernel, by decide +kernel, ?_⟩
  have f : tabGet 0 barredBad.mem.pantrySyn 0 = 3 := by decide +kernel
  unfold pantryRead
  rw [f, secded, if_neg (by decide), h]

/-- Domain 7 as given, with commands in flight. -/
def dom7 (m : Domain) (cs : List Cmd) : State := (cmdTab (tabled 0) cs).updEpc fun e => { e with doms := [(7, m)] }

/-- Domain 7 in a state, owned by ring 5. -/
def dm (st : DomState) (t : Option Nat) : Domain := { Domain.idle with cnt := 5, st := st, owner := 5, t := t, journal := [(16383, 0)], old := [(16383, 0)] }

theorem witness_BatchesOpenCloseAndCommit :
    let c (o : Nat) (ws : List W64) := cmd5 ((opHdr o ||| 0x70000) :: ws) .ready
    let drop := cmd5 [opHdr 0x21 ||| 0x8000000070000] .ready
    let rec_ (m : Domain) := { m with recon := true }
    let thrown := { dm .open_ none with discarding := true }
    let day (k : Nat) := dom7 (dm .closed none) [c 0x23 [BitVec.ofNat 64 (k * 65536), 0]]
    let early := dom7 (dm .closed none) [c 0x23 [0, BitVec.ofNat 64 (999 * 2 ^ 32 + 65535 * 65536)]]
    let due := dom7 (dm .closed none) [c 0x23 [0, BitVec.ofNat 64 (1000 * 2 ^ 32)]]
    let man (s : State) := regsSet [(Reg.casStat, 0x40000000)] s
    let taken := (man (dom7 (dm .closed none) [c 0x22 []])).updCas fun x => { x with commit := some ⟨8, 0, 0, 0, [], 0⟩ }
    (∀ x ∈ [man (dom7 (dm .closed none) [c 0x22 []]), taken, man (day 86400)], Machine.Inv x) ∧
    (∀ x ∈ [man (dom7 (dm .closed none) [c 0x22 []]), taken], readyCmd 9 [0x22] x = some (c 0x22 []) ∧ isWorker x = false ∧
      (domAt 7 x).st = .closed ∧ owns (c 0x22 []) (domAt 7 x) = true ∧ cascadeCommits x = true) ∧
    (man (dom7 (dm .closed none) [c 0x22 []])).cas.commit = none ∧ taken.cas.commit.isSome = true ∧
    (readyCmd 9 [0x23] (man (day 86400))).any (fun c => owns c (domAt 7 (man (day 86400)))) = true ∧ (domAt 7 (man (day 86400))).st = .closed ∧
    (man (day 86400)).cas.commit = none ∧ cascadeCommits (man (day 86400)) = true ∧ isWorker (man (day 86400)) = false ∧ todFrac (man (day 86400)) + casLead (man (day 86400)) ≤ 86400 * 1000000000 * 65536 ∧
    (∀ x ∈ [dom7 (dm .idle none) [c 0x20 []], dom7 (rec_ (dm .open_ none)) [c 0x20 []], dom7 (dm .closed none) [c 0x21 []],
        dom7 thrown [c 0x21 []], dom7 (dm .open_ none) [c 0x21 []], dom7 (rec_ (dm .open_ none)) [c 0x21 []], dom7 (dm .open_ none) [drop],
        dom7 (dm .open_ none) [c 0x22 []], dom7 (dm .closed none) [c 0x22 []], early, due, day 86400, day 86401], Machine.Inv x) ∧
    (∀ x ∈ [dom7 (dm .idle none) [c 0x20 []], dom7 (rec_ (dm .open_ none)) [c 0x20 []]], readyCmd 9 [0x20] x = some (c 0x20 []) ∧
      domOf (c 0x20 []).hdr = 7) ∧
    (∀ x ∈ [dom7 (dm .closed none) [c 0x21 []], dom7 thrown [c 0x21 []], dom7 (dm .open_ none) [c 0x21 []],
      dom7 (rec_ (dm .open_ none)) [c 0x21 []]], readyCmd 9 [0x21] x = some (c 0x21 []) ∧ domOf (c 0x21 []).hdr = 7 ∧
        optBit (c 0x21 []).hdr 51 = false) ∧
    readyCmd 9 [0x21] (dom7 (dm .open_ none) [drop]) = some drop ∧ optBit drop.hdr 51 = true ∧ domOf drop.hdr = 7 ∧
    (∀ x ∈ [dom7 (dm .open_ none) [c 0x22 []], dom7 (dm .closed none) [c 0x22 []]], readyCmd 9 [0x22] x = some (c 0x22 []) ∧
      domOf (c 0x22 []).hdr = 7 ∧ isWorker x = false ∧ x.cas.commit = none ∧ cascadeCommits x = false ∧ x.pwr.entering = none ∧ owns (c 0x22 []) (domAt 7 x) = true) ∧
    (∀ x ∈ [early, due, day 86400, day 86401], (readyCmd 9 [0x23] x).isSome = true ∧ (domAt 7 x).st = .closed ∧ isWorker x = false ∧
      x.cas.commit = none ∧ cascadeCommits x = false ∧ todFrac x = 0 ∧ (readyCmd 9 [0x23] x).any (fun c => owns c (domAt 7 x)) = true) ∧
    (∀ x ∈ [(early, 1000 * 65536 - 1), (due, 1000 * 65536), (day 86400, 86400 * 1000000000 * 65536), (day 86401, 86401 * 1000000000 * 65536)],
      (readyCmd 9 [0x23] x.1).map (fun c => (bits (c.word 1) 63 16 * 1000000000 + bits (c.word 2) 63 32) * 65536 + bits (c.word 2) 31 16) = some x.2) := by
  refine ⟨fun s hs => inv_of s (by revert s; decide +kernel), by decide +kernel, by decide +kernel, by decide +kernel, by decide +kernel, by decide +kernel, by decide +kernel, by decide +kernel, by decide +kernel, by decide +kernel,
    fun s hs => inv_of s (by revert s; decide +kernel), by decide +kernel⟩

theorem witness_EpochsFlipRetireAndReconcile :
    let fl (t : Option Nat) (r : Bool) := dom7 { dm .idle t with flipped := true, recon := r } []
    let old := (fl (some 65536) true).updArr fun a => { a with dir := [(16383, { ent 1 with e0 := false })] }
    let seen := old.updPip fun p => { p with flight := [srch .searched []] }
    let drop := cmd5 [opHdr 0x21 ||| 0x8000000070000] .running
    let disc (cs : List Cmd) := dom7 { dm .open_ none with discarding := true } cs
    (∀ x ∈ [dom7 (dm .pending (some 0)) [], dom7 (dm .pending (some 1)) [], old, seen, fl none true, disc [], disc [drop]], Machine.Inv x) ∧
    (domAt 7 (fl none true)).t = none ∧ (domAt 7 (dom7 (dm .pending (some 0)) [])).flipped = false ∧ 0 < (domAt 7 old).cnt ∧
    (let s := dom7 (dm .pending (some 0)) []
     (domAt 7 s).t = some 0 ∧ (domAt 7 s).st = .pending ∧ 0 ≤ todFrac s ∧ xingDead 43 s = false ∧ powerState s ≤ 1 ∧ s.pwr.entering = none) ∧
    (let s := dom7 (dm .pending (some 1)) []
     (domAt 7 s).t = some 1 ∧ (domAt 7 s).st = .pending ∧ todFrac s < 1) ∧
    (domAt 7 old).t = some 65536 ∧ (domAt 7 old).flipped = true ∧ noneBefore 65536 old = true ∧
    (16383, 0) ∈ (domAt 7 old).old ∧ tableAt 0 old = some (tbl 0) ∧ dirAt 16383 old = some { ent 1 with e0 := false } ∧
    (domAt 7 seen).t = some 65536 ∧ noneBefore 65536 seen = false ∧
    (domAt 7 (fl none true)).recon = true ∧ (∀ q ∈ (fl none true).arr.mreqs, q.tag ≠ .recon 7) ∧
    (∀ s ∈ [disc [], disc [drop]], (domAt 7 s).discarding = true ∧ ∀ q ∈ s.arr.mreqs, q.tag ≠ .discard 7) ∧
    (∀ c ∈ (disc []).upd.cmds, c.stage ≠ .running) ∧
    (disc [drop]).upd.cmds.find? (fun c => decide (c.stage = .running) && opOf c.hdr == 0x21 && domOf c.hdr == (7 : Fin 8).val) = some drop := by
  refine ⟨fun s hs => inv_of s (by revert s; decide +kernel), by decide +kernel⟩

/-- Two VFs enabled, with Bus Master Enable and MSI-X on. -/
def vfs (rs : List (Nat × Word)) : State :=
  (up rs).updHif fun h => { h with fns := (List.range 3).map fun f => (f, ⟨true, false, true, false, 0, 2, 0⟩), vfEnable := true, numVFs := 2 }

theorem witness_FunctionResetsReachRingsVectorsAndConfiguration :
    let s := vfs [(Reg.hifVfVec 2, 0x00010002)]
    let r := s.updUpd fun u => { u with rings := [(5, { ring5 1 with cfg := 0x78000880 })] }
    let pend (m : Bool) := r.updHif fun h => { h with msix := [(2, ⟨0x1000, 7, m⟩)], msixPend := [(2, true)] }
    (∀ x ∈ [r, pend false, pend true], Machine.Inv x) ∧
    r.upd.cmds = [] ∧ (∀ d, d < 8 → (domAt d r).st ≠ .open_ ∧ (domAt d r).st ≠ .closed) ∧ fieldGet Reg.fwuStat 28 26 r ≠ 1 ∧
    (2 : Fin 64).val ≠ 0 ∧ fnEnabled 2 r = true ∧ (ringAt 5 r).func = 2 ∧ vecOwner 2 r = 2 ∧ fnEnabled 0 r = true ∧
    flagGet Reg.intErrCfg 31 r = false ∧ tabGet false (pend false).hif.msixPend 2 = true ∧ vecOpen 2 (pend false) = true ∧
    vecOpen 2 (pend true) = false ∧ tabGet false r.hif.msixPend 2 = false := by
  refine ⟨fun s hs => inv_of s (by revert s; decide +kernel), by decide +kernel⟩

/-- A proposal of two entries in a state, with SEQ 7 and DIGEST 9. -/
def proposed (st : Nat) (es : List (Nat × Word)) (rs : List (Nat × Word)) : State :=
  let s := up ([(Reg.prtPropStat, BitVec.ofNat 32 (st * 2 ^ 30 + es.length * 2 ^ 17 + 7)), (Reg.prtPropDigest, 9)] ++ rs)
  let s := s.updPrt fun p => { p with props := es, deadline := if st = 2 then some 1000 else none, alert := st == 2 }
  { s with clk := { s.clk with now := 999 } }

theorem witness_ProposalsNeedTwoParties :
    let es := [(Reg.prtFnRights 1, (5 : Word)), (Reg.prtTgrant 4, 1), (Reg.prtFnRights 1, 1)]
    let full := List.replicate 16 (Reg.prtFnRights 1, (5 : Word))
    let late := { proposed 2 es [] with clk := { ClkSt.reset with now := 1000 } }
    let lock := proposed 2 ((Reg.prtLock, 1) :: es) [(Reg.vbtStat, 0x20000000)]
    let taken := { proposed 2 es [] with pending := [.status, .propCancel pf 2] }
    (∀ x ∈ [proposed 1 es [], proposed 1 full [], proposed 2 es [], proposed 0 [] [], late, lock, taken], Machine.Inv x) ∧
    (∀ x ∈ [proposed 1 es [], proposed 1 full [], proposed 2 es [], proposed 0 [] []], propLate x = false ∧ x.prt.props.length ≤ 16) ∧
    (propState taken = 2 ∧ taken.prt.deadline = some 1000 ∧ smbReady taken = true ∧ taken.clk.now < 1000 ∧ taken.pending.any isCancel = true ∧
      (7 : BitVec 16).toNat = propSeq taken) ∧
    (prtGroup (Reg.prtFnRights 1) = true ∧ prtGroup Reg.prtLock = true ∧ Accepts pf (Reg.prtFnRights 1) 5 (proposed 1 es [])) ∧
    (propState (proposed 1 es []) ≠ 2 ∧ (proposed 1 es []).prt.props.length < 16 ∧ Accepts pf (Reg.prtFnRights 1) 5 (proposed 1 full []) ∧
    16 ≤ (proposed 1 full []).prt.props.length ∧ Accepts pf (Reg.prtFnRights 1) 5 (proposed 2 es []) ∧ propState (proposed 2 es []) = 2 ∧
    Accepts .mp (Reg.prtFnRights 1) 5 (proposed 1 es []) ∧
    Accepts pf Reg.prtPropCtl 1 (proposed 2 es []) ∧ Accepts pf Reg.prtPropCtl 1 (proposed 0 [] []) ∧ Accepts pf Reg.prtPropCtl 1 (proposed 1 es []) ∧
    Accepts pf Reg.prtPropCtl 2 (proposed 2 es []) ∧ Accepts pf Reg.prtPropCtl 2 (proposed 1 es []) ∧ propState (proposed 1 es []) = 1 ∧
    bits (1 : Word) 1 0 = 1 ∧ bits (2 : Word) 1 0 = 2 ∧ submitFault (proposed 0 [] []) = some 0 ∧ submitFault (proposed 1 es []) = none ∧
    Accepts .mp Reg.prtPropCtl 1 (proposed 1 es [])) ∧
    ((∀ x ∈ [proposed 2 es [], late, lock], propState x = 2 ∧ x.prt.deadline = some 1000 ∧ smbReady x = true ∧ x.pending.any isCancel = false) ∧ 1000 ≤ late.clk.now ∧
    (proposed 2 es []).clk.now < 1000 ∧ lock.clk.now < 1000 ∧ (6 : BitVec 16).toNat ≠ propSeq (proposed 2 es []) ∧
    (7 : BitVec 16).toNat = propSeq (proposed 2 es []) ∧ (8 : Word) ≠ regGet Reg.prtPropDigest (proposed 2 es []) ∧
    (9 : Word) = regGet Reg.prtPropDigest (proposed 2 es []) ∧ (∀ e ∈ es, prtGroup e.1 = true) ∧
    (es.any fun e => e.1 == Reg.prtLock) = false ∧ (lock.prt.props.any fun e => e.1 == Reg.prtLock) = true ∧
    flagGet Reg.vbtStat 29 lock = true) := by
  unfold Accepts
  refine ⟨fun s hs => inv_of s (by revert s; decide +kernel), by decide +kernel, by decide +kernel, by decide +kernel, by decide +kernel, by decide +kernel⟩

theorem witness_SMBusCommandsAreAnswered :
    let s := up []
    let a := s.updPrt fun p => { p with alert := true }
    (∀ x ∈ [s, a], Machine.Inv x ∧ smbReady x = true ∧ propLate x = false) ∧ s.prt.alert = false ∧ a.prt.alert = true ∧ (0x30 : Byte).toNat ∈ [0x10, 0x11, 0x12, 0x18, 0x20, 0x21, 0x30] ∧
    (0xff : Byte).toNat ∉ [0x10, 0x11, 0x12, 0x18, 0x20, 0x21, 0x30] ∧ (0xffffff : BitVec 24).toNat % 4 ≠ 0 ∧
    (BitVec.ofNat 24 Reg.prtPropStat).toNat % 4 = 0 ∧
    regGet Reg.prtRefTotal (read32 .smbus (BitVec.ofNat 24 Reg.prtPropStat).toNat s).2 = regGet Reg.prtRefTotal s ∧
    regGet Reg.prtRefTotal (read32 .smbus 0xfffffc s).2 ≠ regGet Reg.prtRefTotal s ∧ (0xfffffc : BitVec 24).toNat % 4 = 0 ∧
    (let off := (BitVec.ofNat 24 Reg.todTrim).toNat
     off % 4 = 0 ∧ (regDesc off).isSome = true ∧ off / 65536 ≠ 18 ∧ accessLost .smbus off s = false ∧ reservedWrite off 5 s = false ∧ isWorker s = false) := by
  refine ⟨fun s hs => ⟨inv_of s (by revert s; decide +kernel), by revert s; decide +kernel⟩, by decide +kernel⟩

/-- Time-of-day at a value and a remainder, with registers set. -/
def timed (v : Nat) (slew : Int) (rs : List (Nat × Word)) : State :=
  (up rs).updTod fun t => { t with value := v, slewLeft := slew, slewRate := 100000 }

theorem witness_TimeOfDayAdvancesAndIsAdjusted :
    let trim := [(Reg.todTrim, (0xffbe76c9 : Word))]
    let v := 5 * secUnits
    let req (b : Word) (rs : List (Nat × Word)) := timed v 0 ((Reg.todCtl, b) :: rs)
    let held (b : Word) (rs : List (Nat × Word)) := (req b rs).updEpc fun e => { e with doms := [(7, { Domain.idle with recon := true, t := some 0 })] }
    (∀ x ∈ [timed v 0 trim, timed v 3 trim, timed v (-3) trim, req 1 [], req 1 [(Reg.todSetSecLo, 6)], held 1 [], req 2 [], req 2 [(Reg.todStepHi, 0xffffffff)]],
      Machine.Inv x) ∧
    (∀ x ∈ [timed v 0 trim, timed v 3 trim, timed v (-3) trim], signed32 (regGet Reg.todTrim x) = -4294967 ∧
      (v : Int) + 4294967296 + 4294967 + 100000 * 5 + 1 < (2 ^ 48 * secUnits : Nat)) ∧
    Accepts pf Reg.todCtl 1 (up []) ∧ Accepts pf Reg.todCtl 2 (up []) ∧ Accepts pf Reg.todCtl 4 (up []) ∧ flagGet Reg.todCtl 0 (up []) = false ∧
    flagGet Reg.todCtl 1 (up []) = false ∧ Accepts pf Reg.todCtl 1 (req 2 []) ∧ flagGet Reg.todCtl 1 (req 2 []) = true ∧ pf ≠ .smbus ∧
    flagGet Reg.todCtl 0 (req 1 []) = true ∧ setValue (req 1 []) < 2 ^ 48 * secUnits ∧ backwardHeld (req 1 []) = false ∧
    (req 1 [(Reg.todSetSecLo, 6)]).tod.value ≤ setValue (req 1 [(Reg.todSetSecLo, 6)]) ∧
    setValue (held 1 []) < (held 1 []).tod.value ∧ backwardHeld (held 1 []) = true ∧ flagGet Reg.todCtl 0 (held 1 []) = true ∧
    (let s := req 2 [(Reg.todStepHi, 0xffffffff)]
     flagGet Reg.todCtl 0 s = false ∧ flagGet Reg.todCtl 1 s = true ∧ stepValue s < 0 ∧ 0 ≤ s.tod.value + stepValue s ∧
     s.tod.value + stepValue s < (2 ^ 48 * secUnits : Nat) ∧ backwardHeld s = false) ∧
    (up []).tod.slewLeft = 0 := by
  unfold Accepts
  refine ⟨fun s hs => inv_of s (by revert s; decide +kernel), by decide +kernel⟩

theorem witness_PulsesAreTimestampedOrCounted :
    let s := up [(Reg.todPpsOutCfg, 0x80000001), (Reg.todPulseCfg, 0x15)]
    let tick := s.updTod fun t => { t with prev := secUnits - 1, value := secUnits }
    let high := s.updTod fun t => { t with ppsHigh := true }
    let busy := s.updTod fun t => { t with pulses := [(0, ⟨true, none, 0, 1⟩)] }
    let open_ (rs : List (Nat × Word)) := (regsSet ((Reg.todStat, 0x10000000) :: rs) s).updTod fun t => { t with pulses := [(2, ⟨true, some (7, 0), 0, 1⟩)] }
    let gone := open_ [(Reg.clkXingDead 1, 0x00100000)]
    let dead := regsSet [(Reg.clkXingDead 1, 0x00100000)] s
    (∀ x ∈ [s, tick, high, busy, dead, open_ [], gone], Machine.Inv x ∧ awake x = true ∧ powerState x ≠ 4) ∧
    (pulseAt 0 busy).edge = none ∧ (pulseAt 2 (open_ [])).edge = some (7, 0) ∧ xingDead (50 + 2) (open_ []) = false ∧
    flagGet Reg.todStat 28 (open_ []) = true ∧ (pulseAt 2 gone).edge ≠ none ∧ xingDead (50 + 2) gone = true ∧
    flagGet Reg.todPpsOutCfg 31 tick = true ∧ ppsCrossed (fieldGet Reg.todPpsOutOfs 29 0 tick) tick = true ∧
    high.tod.ppsHigh = true ∧ high.tod.ppsFall ≤ high.clk.now ∧ (∀ i : Fin 3, flagGet Reg.todPulseCfg (2 * i.val) s = true) ∧
    (∀ i : Fin 3, (pulseAt i.val s).waiting = false ∧ xingDead (50 + i.val) s = false) ∧ (pulseAt 0 busy).waiting = true ∧
    flagGet Reg.todPulseCfg 0 busy = true ∧ xingDead (50 + 2) dead = true ∧ flagGet Reg.todPulseCfg 4 dead = true := by
  refine ⟨fun s hs => ⟨inv_of s (by revert s; decide +kernel), by revert s; decide +kernel⟩, by decide +kernel⟩

/-- A cascaded device of a ring of 2 workers whose link is UP: role, DEV_ID and ring state. -/
def casc (role dev st : Nat) (rs : List (Nat × Word)) : State :=
  up ([(Reg.casCfg, 0x21), (Reg.casStat, BitVec.ofNat 32 (role * 2 ^ 30 + dev * 2 ^ 26 + st * 2 ^ 22)), (LinkId.fcl.stat, 0xa0000000)] ++ rs)

/-- The facts of two workers. -/
def facts (a b : WkFacts) (s : State) : State := s.updCas fun c => { c with workers := [(1, a), (2, b)] }

theorem witness_TheRingFormsAndAdmitsItsWorkers :
    let m (st : Nat) := casc 1 0 st []
    let found (b : W64) := ctlFrame 9 31 0 0 [b] (m 2)
    let ok : WkFacts := ⟨true, false, false, false, false, 0, [0, 1, 2, 3, 4, 5, 6, 7], true, false, false⟩
    let no : WkFacts := { WkFacts.none with refused := true }
    let late := (m 2).updCas fun c => { c with discoverDue := some 0 }
    let busy := casc 1 0 5 [(Reg.lnkGrpStat 0, 0xa0000000)]
    let bound := casc 1 0 5 [(Reg.casCfg, 0x23), (Reg.lnkGrpStat 0, 0xa0000000)]
    let load := facts ok no (m 3)
    let rep := facts ok no (casc 1 0 4 [(Reg.casWk 1, 0x40000000), (Reg.casWk 2, 0x40000000)])
    let w := casc 2 2 0 []
    let wait := w.updCas fun c => { c with aligned := true, withheld := true, slotBad := false, timeBad := false }
    (∀ x ∈ [m 0, m 1, m 2, m 3, m 4, m 5, m 6, m 7, load, late, busy, bound, rep, w, wait], Machine.Inv x) ∧
    (∀ st ∈ [0, 1, 2, 3, 4, 5, 6, 7], isManager (m st) = true ∧ ringState (m st) = st) ∧
    (Accepts pf Reg.casCfg 0x21 (m 0) ∧ Accepts pf Reg.casCfg 0x20 (m 5) ∧ bits (0x20 : Word) 2 1 = fieldGet Reg.casCfg 2 1 (m 5) ∧
      bits (0x20 : Word) 7 4 = fieldGet Reg.casCfg 7 4 (m 5) ∧ Accepts pf Reg.casCfg 0x23 busy ∧ pf ≠ .smbus ∧
      bit (0x23 : Word) 1 ≠ flagGet Reg.casCfg 1 busy ∧ pipeDown 0 busy = false ∧ Accepts pf Reg.casCtl 1 (m 5) ∧ Accepts pf Reg.casCtl 1 (m 7) ∧
      Accepts pf Reg.casCtl 0xf2 (m 5) ∧ Accepts pf Reg.casCtl 0x12 (m 5) ∧ Accepts pf Reg.casCfg 0x33 bound ∧
      bits (0x33 : Word) 7 4 ≠ fieldGet Reg.casCfg 7 4 bound ∧ isManager bound = true ∧ flagGet Reg.casCfg 1 bound = true ∧ pipeDown 0 bound = false) ∧
    (fclUp (m 1) = true ∧ fclUp (m 2) = true ∧ (∀ b ∈ [0x2120000000000000, 0, 0x1100000000000000, 0x2210000000000000],
        crcGood (found (BitVec.ofNat 64 b)) = true ∧ ctlForm 9 [1] (found (BitVec.ofNat 64 b)) = true) ∧ ringWorkers (m 2) = 2 ∧
      (∀ i, i < 2 → bits (0x2120000000000000 : W64) (59 - 4 * i) (56 - 4 * i) = i + 1) ∧ late.cas.discoverDue = some 0 ∧ 0 ≤ late.clk.now) ∧
    ((∀ k ∈ ringList load, (wkAt k load).firmware = true ∨ (wkAt k load).refused = true) ∧ ringState load = 3) ∧
    ((1 : Fin 16).val ∈ ringList rep ∧ fieldGet (Reg.casWk 1) 31 29 rep = 2 ∧ wkAt 1 rep = ok ∧
      firstCause { ok with tables := ok.tables || (true && !ok.hold) } = 0 ∧ firstCause { no with tables := no.tables || (true && !no.hold) } ≠ 0 ∧
      isWorker w = true ∧ fclUp w = true ∧ (2 : Fin 16).val = devId wait ∧ isWorker wait = true ∧ wait.cas.aligned = true ∧
      wait.cas.slotBad = false ∧ wait.cas.timeBad = false ∧ wait.cas.imgRefused = false ∧ wait.cas.withheld = true) ∧
    (∀ d < 8, (domAt d wait).st ≠ .prepared) := by
  unfold Accepts
  refine ⟨fun s hs => inv_of s (by revert s; decide +kernel), by decide +kernel, by decide +kernel, by decide +kernel,
    by decide +kernel, by decide +kernel, by decide +kernel⟩

/-- A cascaded device whose tables and profile 5 are there, at PCLK cycle 1000, with searches in flight. -/
def cascFly (role dev : Nat) (fs : List Search) : State :=
  let s := tabled 0
  let s := regsSet [(Reg.casCfg, 0x21), (Reg.casStat, BitVec.ofNat 32 (role * 2 ^ 30 + dev * 2 ^ 26 + 5 * 2 ^ 22)), (LinkId.fcl.stat, 0xa0000000)] s
  { s with tbl := { s.tbl with profiles := [(5, prof)] }, pip := { s.pip with flight := fs, schedActive := [(64, 1)] } }

theorem witness_CascadedSearchesTravelTheRing :
    let cs (slot key : Nat) := sealFrame [pack64 [(60, 1), (48, 1), (40, 5), (36, 1), (29, slot), (4, 5)], BitVec.ofNat 64 key] 0
    let cw (n : Nat) := sealFrame [pack64 [(60, 1), (48, 1), (40, n), (36, 1), (4, 5)], 7] 0
    let w := cascFly 2 1 []
    let off := w.updCas fun c => { c with withheld := true }
    let f := { srch .verified [] with disp := 877, casc := true, sent := true }
    let old := { f with disp := 800 }
    let dead := { f with reject := 15 }
    let cand := sealFrame [pack64 [(60, 2), (48, 1), (40, 5), (35, 2), (14, 1)], 0, 0] 0
    (∀ x ∈ [w, cascFly 2 2 [], off, cascFly 2 1 [f], cascFly 2 1 [dead], cascFly 2 1 [old], cascFly 2 1 [{ old with reject := 15 }], cascFly 1 0 [f]],
      Machine.Inv x ∧ fclUp x = true ∧ x.pwr.entering = none ∧ powerState x = 0) ∧
    (isWorker w = true ∧ isWorker off = true ∧ w.pip.flight = [] ∧ workerOff off = true ∧ workerOff w = false ∧ crcGood ((cs 0 7).set 1 8) = false ∧
      crcGood (sealFrame [0] 0) = true ∧ csearchForm (sealFrame [0] 0) = false ∧ candForm (sealFrame [0] 0) = false ∧ devId (cascFly 2 2 []) = ringWorkers (cascFly 2 2 [])) ∧
    (crcGood (cs 0 7) = true ∧ csearchForm (cs 0 7) = true ∧
      profileFor (bits ((cs 0 7).headD 0) 47 40) w = some prof ∧ profileBad (bits ((cs 0 7).headD 0) 47 40) prof w = false ∧
      searchReason (bits ((cs 0 7).headD 0) 47 40) (Pipe.idx .a) (bits ((cs 0 7).headD 0) 39 36) w = 0 ∧
      slotWait .a 0 w = some 36 ∧ slotWait .a 28 w = none ∧ crcGood (cs 28 7) = true ∧ csearchForm (cs 28 7) = true ∧
      crcGood (cw 6) = true ∧ csearchForm (cw 6) = true ∧ searchReason (bits ((cw 6).headD 0) 47 40) (Pipe.idx .a) (bits ((cw 6).headD 0) 39 36) w ≠ 0) ∧
    (f.casc = true ∧ f.sent = true ∧ f.candIn = none ∧ 1000 ≤ candDue f + 2 ∧ candDue f ≤ 1000 ∧ (cascFly 1 0 [f]).clk.pclk = 1000 ∧
      crcGood cand = true ∧ candForm cand = true ∧ candMatches (cand.headD 0) f = true ∧ f.reject = 0 ∧ dead.reject ≠ 0 ∧ f.stage = .verified ∧
      crcGood (cand.set 1 8) = false ∧ isManager (cascFly 1 0 [f]) = true) ∧
    (isWorker (cascFly 2 1 [old]) = true ∧ candDue old + 2 < (cascFly 2 1 [old]).clk.pclk ∧ f.profNo < 256 ∧
      ∀ p, tabFind (cascFly 2 1 [old]).tbl.profiles f.profNo = some p → p.nlook ≤ 8 ∧ candWords p (cascFly 2 1 [{ old with reject := 15 }]) < 32) := by
  refine ⟨fun s hs => ⟨inv_of s (by revert s; decide +kernel), by revert s; decide +kernel⟩, by decide +kernel, by decide +kernel, by decide +kernel,
    by decide +kernel, by decide +kernel, by decide +kernel, ?_⟩
  intro p hp
  obtain rfl : prof = p := Option.some.inj ((show _ = some prof by decide +kernel).symm.trans hp)
  decide +kernel

theorem witness_CommitsAreDecidedThroughTheRing :
    let w (m : Domain) := (casc 2 1 5 []).updEpc fun e => { e with doms := [(7, m)] }
    let prep := ctlFrame 4 31 3 (7 * 2 ^ 29) [5 * 2 ^ 32, 0, BitVec.ofNat 64 (1000 * 2 ^ 32)] (casc 1 0 5 [])
    let dec := ctlFrame 6 1 3 (7 * 2 ^ 29 + 2 ^ 28) [] (casc 1 0 5 [])
    let ack (ty r : Nat) := ctlFrame 5 0 3 (ty * 2 ^ 28 + r * 2 ^ 24) [] (casc 2 1 5 [])
    let c (a : List Nat) : CasCommit := ⟨9, 7, 65536000, 3, a, 100⟩
    let mg (a : List Nat) := (casc 1 0 5 []).updCas fun x => { x with commit := some (c a) }
    let late := { mg [1] with clk := { ClkSt.reset with now := 100 } }
    let early := casc 1 0 3 []
    let far := (mg []).updCas fun x => { x with workers := [(1, { WkFacts.none with replay := 4 })] }
    (∀ x ∈ [w (dm .idle none), w (dm .open_ none), w { dm .idle none with recon := true }, w { dm .closed none with cnt := 6 }, w (dm .pending (some 0)),
      w (dm .prepared (some 0)), mg [], mg [2], late, early], Machine.Inv x) ∧
    (∀ x ∈ [w (dm .idle none), w (dm .open_ none), w { dm .idle none with recon := true }, w { dm .closed none with cnt := 6 }, w (dm .pending (some 0)),
      w (dm .prepared (some 0))], isWorker x = true ∧ fclUp x = true ∧ devId x = 1) ∧
    (crcGood prep = true ∧ ctlForm 4 [3] prep = true ∧ ctlDst (prep.headD 0) = 31 ∧ bits (prep.headD 0) 31 29 = 7 ∧
      crcGood dec = true ∧ ctlForm 6 [0] dec = true ∧ ctlDst (dec.headD 0) = 1) ∧
    (∀ x ∈ [(4, 5), (4, 0), (0xb, 0), (0xb, 7), (0xd, 0)], crcGood (ack x.1 x.2) = true ∧ ctlForm 5 [0, 1] (ack x.1 x.2) = true ∧
      ctlDst ((ack x.1 x.2).headD 0) = 0 ∧ ctlOrig ((ack x.1 x.2).headD 0) = 1 ∧ ctlSeq ((ack x.1 x.2).headD 0) = 3 ∧
      bits ((ack x.1 x.2).headD 0) 31 28 = x.1 ∧ bits ((ack x.1 x.2).headD 0) 27 24 = x.2) ∧
    (isManager (mg []) = true ∧ fclUp (mg []) = true ∧ ringList (mg []) = [1, 2] ∧ (mg [2]).cas.commit = some (c [2]) ∧
      (∀ j ∈ ringList (mg [2]), j = 1 ∨ j ∈ (c [2]).acks) ∧ (∃ j ∈ ringList (mg []), j ≠ 1 ∧ j ∉ (c []).acks) ∧ 1 ∉ (c []).acks ∧ (c []).dom < 8 ∧
      (mg []).clk.now < (c []).due ∧ late.cas.commit = some (c [1]) ∧ (c [1]).due ≤ late.clk.now ∧
      (ringList late).find? (fun j => !(c [1]).acks.contains j) = some 2) ∧
    (ringState early < 4 ∧ isManager early = true ∧ fclUp early = true ∧ 1 ∈ ringList early ∧ 4 ≤ ringState (mg []) ∧
      (3 + 4096 - (wkAt 1 (mg [])).replay % 4096) % 4096 < 8 ∧
      Machine.Inv far ∧ 8 ≤ (3 + 4096 - (wkAt 1 far).replay % 4096) % 4096) := by
  refine ⟨fun s hs => inv_of s (by revert s; decide +kernel), by decide +kernel, by decide +kernel, by decide +kernel, by decide +kernel,
    by decide +kernel, by decide +kernel, by decide +kernel, by decide +kernel, by decide +kernel, by decide +kernel, inv_of _ (by decide +kernel), by decide +kernel⟩

/-- A field of an image whose bytes are there. -/
def imgFld (im : List Byte) (off n : Nat) : Nat := bytesNat ((im.drop off).take n)

theorem imgNat_eq (im : List Byte) (off n : Nat) (h : 512 ≤ (im.take 512).length) (hn : off + n ≤ 512) : imgNat im off n = imgFld im off n := by
  have hl : 512 ≤ im.length := by rw [List.length_take] at h; omega
  refine congrArg bytesNat (List.ext_getElem (by simp [imgBytes]; omega) fun i h1 h2 => ?_)
  simp only [imgBytes, List.length_map, List.length_range] at h1
  simp [imgBytes, List.getD_eq_getElem?_getD, List.getElem?_eq_getElem (show off + i < im.length by omega)]

/-- The checks of an image that its header alone decides. -/
def headerOk (im : List Byte) (s : State) : Bool :=
  512 ≤ (im.take 512).length && imgFld im 0 4 == 0x46583634 && imgFld im 4 2 == 0x6400 && imgFld im 6 1 ≤ fieldGet Reg.glbId 15 8 s &&
  fieldGet Reg.glbId 15 8 s ≤ imgFld im 7 1 && 4096 ≤ imgFld im 16 4 && imgFld im 16 4 ≤ 16776704 && imgFld im 20 1 ≤ imgFld im 22 1 &&
  imgFld im 22 1 ≤ imgFld im 21 1 && imgFld im 24 8 == 0 && imgFld im 272 240 == 0 && imgFld im 23 1 == 0 && (vbtGet 2 s).toNat ≤ imgFld im 12 4

/-- What SHA-384, ECDSA and the fuses must say of an image for it to be accepted; the model leaves them open (log entry 14). -/
structure Trusted (im : List Byte) : Prop where
  key : Config.sha384 (imgBytes im 80 96) = Config.keyHash 0
  kept : Config.keyRevoked 0 = false
  sig : Config.ecdsaVerify (imgBytes im 80 96) (Config.sha384 (imgBytes im 0 176)) (imgBytes im 176 96) = true
  digest : digestOk im = true

theorem headerCode_trusted (im : List Byte) (s : State) (h : headerOk im s = true) (t : Trusted im) : headerCode im s = 0 := by
  obtain ⟨k, r, g, _⟩ := t
  simp only [headerOk, Bool.and_eq_true, beq_iff_eq, decide_eq_true_eq] at h
  obtain ⟨⟨⟨⟨⟨⟨⟨⟨⟨⟨⟨⟨hl, h0⟩, h1⟩, h2⟩, h3⟩, h4⟩, h5⟩, h6⟩, h7⟩, h8⟩, h9⟩, h10⟩, h11⟩ := h
  have e (off n : Nat) (hn : off + n ≤ 512) := imgNat_eq im off n hl hn
  simp only [headerCode, imgArb, e 0 4 (by decide), e 4 2 (by decide), e 6 1 (by decide), e 7 1 (by decide), e 16 4 (by decide), e 20 1 (by decide),
    e 21 1 (by decide), e 22 1 (by decide), e 24 8 (by decide), e 272 240 (by decide), e 23 1 (by decide), e 12 4 (by decide), h0, h1, h8, h9, h10, k, r, g]
  simp only [ne_eq, not_true_eq_false, or_false, if_false, Bool.false_eq_true, Bool.not_true, Nat.not_lt.mpr h2, Nat.not_lt.mpr h3,
    Nat.not_lt.mpr h4, Nat.not_lt.mpr h5, Nat.not_lt.mpr h6, Nat.not_lt.mpr h7, Nat.not_lt.mpr h11]
  decide

theorem imageCode_trusted (im : List Byte) (s : State) (h : headerOk im s = true) (t : Trusted im) : imageCode im s = 0 := by
  simp [imageCode, headerCode_trusted im s h t, t.digest]

/-- The words of a header of an image of 4,608 bytes with no signature. -/
def imgHeader : List W64 :=
  [0x46583634640000ff, 0x100000000, 0x0000100000ff0000] ++ List.replicate 61 0

/-- An image of 4,608 bytes with no signature. -/
def plainImg : List Byte := wordsBytes imgHeader ++ List.replicate 4096 0

/-- A worker whose image has come but for its last portion. -/
def imgWait : State :=
  (casc 2 1 5 []).updCas fun c => { c with img := (List.range 8).map fun i => (i, if i = 0 then imgHeader else List.replicate 64 0) }

/-- The image clause asks that the image of `imgWait` is one that the open functions and fuses accept; the clauses on a device that is aligned, that its flight of the ring (log entry 24) is at most 1 ns. -/
theorem witness_RingFramesServeTimeStateAndAccess
    (h : Trusted (gatheredImage 8 (imgWait.updCas fun c => { c with img := tabSet [] c.img 8 (List.replicate 64 0) })))
    (hf : Config.ringFlight 1 ≤ 2 ^ 32) :
    let m := casc 1 0 5 []
    let w (rs : List (Nat × Word)) := casc 2 1 5 rs
    let fr (ty arg : Nat) (body : List W64) := ctlFrame ty 31 3 arg body m
    let dom (x : Domain) := (w []).updEpc fun e => { e with doms := [(7, x)] }
    let on (q : Nat) := (w []).updUpd fun u => { u with rings := [(relayRing, ring5 q)] }
    let rel := m.updUpd fun u => { u with cmds := [{ cmd5 [opHdr 0x10] .relayed with mark := 3 }] }
    let ra (x : Bool) := m.updCas fun c => { c with remote := some (3, x) }
    let ack := ctlFrame 5 0 3 (0xa * 2 ^ 28) [7] (w [])
    let back := ctlFrame 0xc 0 3 0 [0, 0] (w [])
    let told := m.updCas fun c => { c with timeDue := 5 }
    let off (n : Nat) := { ((w []).updCas fun c => { c with aligned := true }) with tod := { TodSt.reset with value := n * 2 ^ 32 } }
    let offBy (s : State) : Int := (s.tod.value : Int) - ((0 : Nat) + 1 * 26 * 2 ^ 32 + Config.ringFlight 1 : Nat)
    let alone := casc 0 0 0 []
    let used := (w []).updCas fun c => { c with aligned := true, timeBad := true }
    (∀ x ∈ [m, w [], dom (dm .prepared (some 0)), dom (dm .pending (some 0)), dom (dm .idle none), on 0, on 1, on 2, on 3, rel, ra true, ra false, used, told,
      off 26, off 56, off 100, alone, imgWait], Machine.Inv x) ∧
    (awake m = true ∧ awake told = true ∧ isManager m = true ∧ ringState m = 5 ∧ m.cas.timeDue ≤ m.clk.now ∧ xingDead 48 m = false ∧ isManager told = true ∧ ringState told = 5 ∧
      told.clk.now < told.cas.timeDue ∧ (1 : Fin 16).val ∈ ringList told ∧ isManager alone = false ∧ Accepts pf Reg.casRaCtl 1 alone ∧
      flagGet Reg.casRaCtl 31 alone = false ∧
      (∀ x ∈ [w [], dom (dm .prepared (some 0)), dom (dm .pending (some 0)), dom (dm .idle none), on 0, on 1, used, imgWait], isWorker x = true ∧ fclUp x = true)) ∧
    (∀ x ∈ [(7, 2, [2]), (0xd, 3, [3]), (0xa, 1, [1]), (0xc, 8, [2, 8, 16, 32])], crcGood (fr x.1 0xe0000000 (List.replicate x.2.1 0)) = true ∧
      ctlForm x.1 x.2.2 (fr x.1 0xe0000000 (List.replicate x.2.1 0)) = true ∧ ctlDst ((fr x.1 0xe0000000 (List.replicate x.2.1 0)).headD 0) = 31 ∧
      bit ((fr x.1 0xe0000000 (List.replicate x.2.1 0)).headD 0) 31 = true) ∧
    (used.cas.aligned = true ∧ (w []).cas.aligned = false ∧ bits ((fr 0xd 0xe0000000 [0, 0, 0]).headD 0) 31 29 = 7 ∧
      (domAt 7 (dom (dm .prepared (some 0)))).st = .prepared ∧ (domAt 7 (dom (dm .pending (some 0)))).st = .pending ∧
      (domAt 7 (dom (dm .idle none))).st = .idle ∧ bits ((fr 0xa 0xe0000000 [0]).headD 0) 23 2 * 4 ≠ Reg.vbtWord 2 ∧
      bit ((fr 0xa 0 [0]).headD 0) 31 = false ∧ (ringAt relayRing (on 0)).st = 0 ∧ (ringAt relayRing (on 1)).st = 1 ∧ (ringAt relayRing (on 2)).st = 2 ∧ (ringAt relayRing (on 3)).st = 3 ∧
      isManager rel = true ∧ fclUp rel = true ∧ crcGood back = true ∧ ctlForm 0xc [2, 8, 16, 32] back = true ∧ ctlDst (back.headD 0) = 0 ∧
      (rel.upd.cmds.find? (fun c => decide (c.stage = .relayed) && c.mark == ctlSeq (back.headD 0))).isSome = true) ∧
    (∀ arg ∈ [2 ^ 10, 0, 8 * 2 ^ 10 + 1], crcGood (fr 0xb arg (List.replicate 64 0)) = true ∧ ctlForm 0xb [64] (fr 0xb arg (List.replicate 64 0)) = true) ∧
    headerCode (wordsBytes (List.replicate 64 0)) (w []) ≠ 0 ∧ (gathered 8 (imgWait.updCas fun c => { c with img := tabSet [] c.img 8 (List.replicate 64 0) })) = true ∧
    imageCode (gatheredImage 8 (imgWait.updCas fun c => { c with img := tabSet [] c.img 8 (List.replicate 64 0) })) imgWait = 0 ∧
    (Accepts pf Reg.casRaCtl 1 m ∧ Accepts pf Reg.casRaCtl 2 m ∧ Accepts pf Reg.casRaCtl 1 (casc 1 0 5 [(Reg.casRaCtl, 0x80000000)]) ∧ pf ≠ .smbus ∧
      flagGet Reg.casRaCtl 31 m = false ∧ flagGet Reg.casRaCtl 31 (casc 1 0 5 [(Reg.casRaCtl, 0x80000000)]) = true ∧
      crcGood ack = true ∧ ctlForm 5 [0, 1] ack = true ∧ ctlDst (ack.headD 0) = 0 ∧ bits (ack.headD 0) 31 28 = 0xa ∧ (ra true).cas.remote = some (ctlSeq (ack.headD 0), true) ∧
      (ra false).cas.remote = some (ctlSeq (ack.headD 0), false) ∧ (ra true).cas.jobs = [] ∧
      (ra true).pip.schedReady = false ∧ (ra false).cas.jobs = [] ∧ (ra false).pip.schedReady = false) ∧
    ((offBy (off 26)).natAbs ≤ 3 * 2 ^ 32 ∧ 3 * 2 ^ 32 < (offBy (off 56)).natAbs ∧ (offBy (off 56)).natAbs ≤ 40 * 2 ^ 32 ∧
      40 * 2 ^ 32 < (offBy (off 100)).natAbs ∧ (off 26).cas.aligned = true ∧ isWorker (off 26) = true ∧ fclUp (off 26) = true ∧ devId (off 26) = 1) ∧
    (let rdy := w [(Reg.glbBootStat, 0x80000000)]
      let s1 := coutSend (fr 0xa 0 [0]) rdy
      let bad := rdy.updArr fun a => { a with repairs := [⟨0, 0, 0, 0⟩] }
      invB rdy = true ∧ invB bad = true ∧ startPhase rdy = 8 ∧ powerState rdy = 0 ∧ rdy.pwr.entering = none ∧ rdy.pwr.waking = none ∧ oppBusy rdy = false ∧
      firstRefusal 2 s1 = none ∧ firstRefusal 2 (coutSend (fr 0xa 0 [0]) bad) = some 6) := by
  unfold Accepts
  refine ⟨fun s hs => inv_of s (by revert s; decide +kernel), by decide +kernel, by decide +kernel, by decide +kernel, by decide +kernel, by decide +kernel,
    by decide +kernel, imageCode_trusted _ _ (by decide +kernel) h, by decide +kernel,
    ⟨?_, ?_, ?_, ?_, by decide +kernel⟩, by decide +kernel⟩
  all_goals simp only
  · simp; omega
  · simp; omega
  · simp; omega
  · simp; omega

theorem witness_MemoryModesAndBanksChangeHands :
    let s := up []
    let busy := up [(Reg.glbBankOwn 71, 0x80000000)]
    let serv := up [(Reg.glbMemMode, 1)]
    let quiet := serv.updPip fun p => { p with quiesce := true }
    let own (o : Nat) := up [(Reg.glbBankOwn 71, BitVec.ofNat 32 (o * 2 ^ 16 + 2 ^ 24)), (Reg.glbBankOwn 63, BitVec.ofNat 32 (o * 2 ^ 16 + 2 ^ 24))]
    let host := ((up [(Reg.glbBootStat, 0x40000000), (Reg.glbBankOwn 68, 0x10000), (Reg.glbBankOwn 69, 0x10000), (Reg.glbBankOwn 70, 0x10000),
      (Reg.glbBankOwn 71, 0x80020000)]).updRst fun r => { r with bootSel := 1 }).updDrc fun d => { d with handTo := [(71, 1)] }
    let hand := busy.updDrc fun d => { d with handTo := [(71, 4)] }
    (∀ x ∈ [s, busy, serv, quiet, own 0, own 1, own 2, own 3, own 4, hand, host], Machine.Inv x) ∧
    (flagGet (Reg.glbBankOwn 71) 31 s = false ∧ Accepts pf Reg.glbMemMode 1 s ∧ Accepts .mp Reg.glbMemMode 0 s ∧ Accepts .mp Reg.glbMemMode 1 s ∧ Accepts .mp Reg.glbMemMode 1 busy ∧
      Accepts .mp Reg.glbMemMode 2 quiet ∧ Accepts .mp Reg.glbMemMode 2 serv ∧ Accepts .mp Reg.glbMemMode 0 serv) ∧
    (memMode s = 0 ∧ memMode serv = 1 ∧ quiesced quiet = true ∧ quiesced serv = false ∧ bankBusy 71 busy = true ∧
      (∀ k, k < 72 → bankBusy k s = false ∧ bankOwner k s < 3)) ∧
    (Accepts .mp (Reg.glbBankOwn 71) 0x01030000 (own 0) ∧ Accepts .mp (Reg.glbBankOwn 71) 0x01030000 (own 1) ∧
      Accepts pf (Reg.glbBankOwn 71) 0x01030000 (own 2) ∧ Accepts pf (Reg.glbBankOwn 71) 0x01030000 (own 1) ∧
      Accepts .mp (Reg.glbBankOwn 71) 0x01030000 busy ∧ Accepts .mp (Reg.glbBankOwn 71) 0x01030000 serv) ∧
    (∀ o ∈ [0, 1, 2, 3, 4], bankOwner 71 (own o) = o ∧ bankBusy 71 (own o) = false ∧ memMode (own o) ≠ 1 ∧ bankOwner 63 (own o) = o) ∧
    (bankOwner 71 serv = 0 ∨ bankOwner 71 serv = 1) ∧ bankOwner 71 busy = 0 ∧ bankBusy 71 hand = true ∧ tabGet 0 hand.drc.handTo 71 < 8 ∧
    hostBoots hand = false ∧ bankBusy 71 host = true ∧ hostBoots host = true ∧ mailboxFull host = false ∧ tabGet 0 host.drc.handTo 71 = 1 ∧
    (∀ k ∈ [68, 69, 70, 71], k ≠ 71 → bankOwner k host = 1 ∧ bankBusy k host = false) := by
  unfold Accepts
  refine ⟨fun s hs => inv_of s (by revert s; decide +kernel), by decide +kernel, by decide +kernel, by decide +kernel, by decide +kernel⟩

theorem witness_RefreshAndArbitrationFollowTheirRules :
    let at_ (now : Nat) (rs : List (Nat × Word)) : State := { up ((Reg.drcStat, 0x80001010) :: rs) with clk := { ClkSt.reset with now := now } }
    let hot := at_ 1000 [(Reg.drcRefCfg, 0x104), (Reg.drcRefStat 3, 0x80000003)]
    let held (d : Option (List (Option Byte))) := (at_ 100 [(Reg.arbStat, 0x90000000)]).updDrc fun x =>
      { x with waiting := [⟨.host 0, 4096, [true, true], d⟩], queue := [(4, 1)] }
    let arb (cs : List (Nat × Nat × Nat)) (rs : List (Nat × Word)) := (at_ 100 rs).updDrc fun d => { d with change := cs, req := [7, 0], decided := 40 }
    (∀ x ∈ [at_ 3900 [(Reg.drcRefStat 3, 14)], at_ 3899 [], at_ 1949 [(Reg.drcRefCfg, 0x104), (Reg.drcRefStat 3, 4)], at_ 1950 [(Reg.drcRefCfg, 0x104), (Reg.drcRefStat 3, 4)], hot, at_ 1000000 [(Reg.drcRatCfg, 0x100)], arb [] [],
      arb [(3, 5, 1)] [], arb [(3, 5, 2)] [], held none, held (some [some 7, none])], Machine.Inv x ∧ dramLive x = true ∧ fieldGet Reg.drcRefCfg 2 0 x ≤ 4) ∧
    (fieldGet (Reg.drcRefStat 3) 3 0 (at_ 3900 [(Reg.drcRefStat 3, 14)]) = 14 ∧ flagGet (Reg.drcRefStat 3) 31 (at_ 3900 [(Reg.drcRefStat 3, 14)]) = false ∧
      tabGet 0 (at_ 0 []).drc.interval 3 = 0 ∧ (at_ 3899 []).clk.now < 0 + 3900 ∧ fieldGet (Reg.drcRefStat 3) 3 0 (at_ 1950 [(Reg.drcRefCfg, 0x104), (Reg.drcRefStat 3, 4)]) = 4 ∧
      flagGet (Reg.drcRefStat 3) 31 (at_ 1950 [(Reg.drcRefCfg, 0x104), (Reg.drcRefStat 3, 4)]) = false ∧ fieldGet (Reg.drcRefStat 3) 3 0 (at_ 1949 [(Reg.drcRefCfg, 0x104), (Reg.drcRefStat 3, 4)]) = 4 ∧
      pollDue 3 (at_ 1949 [(Reg.drcRefCfg, 0x104), (Reg.drcRefStat 3, 4)]) = true ∧ pollDue 3 (at_ 1950 [(Reg.drcRefCfg, 0x104), (Reg.drcRefStat 3, 4)]) = true ∧ pollDue 3 hot = true ∧
      pollDue 3 (at_ 3899 []) = false ∧ flagGet (Reg.drcRefStat 3) 31 hot = true ∧ 0 < fieldGet (Reg.drcRefStat 3) 3 0 hot ∧ hot.drc.queue = [] ∧
      (∃ q ∈ (held none).drc.queue, ∃ i, i < q.2 ∧ lineSub (q.1 + i) = 0)) ∧
    (∀ d ∈ [none, some [some (7 : Byte), none]], arbOwner (held d) = some 1 ∧ flagGet Reg.arbStat 17 (held d) = false ∧
      (held d).mem.dramBad = [] ∧ (held d).mem.dramSoft = [] ∧ (held d).drc.waiting = [⟨.host 0, 4096, [true, true], d⟩]) ∧
    (let x := at_ 1000000 [(Reg.drcRatCfg, 0x100)]; x.drc.window + 1000000 * fieldGet Reg.drcRatCfg 15 8 x ≤ x.clk.now) ∧
    (∀ x ∈ [arb [] [], arb [(3, 5, 1)] [], arb [(3, 5, 2)] []], fieldGet Reg.arbStat 23 16 x = 0 ∧ flagGet Reg.arbStat 26 x = false ∧
      flagGet Reg.arbCtl 0 x = false ∧ regGet Reg.drcRatStat x = 0 ∧ arbOwner x = none ∧ x.drc.waiting = [] ∧ x.drc.req.Nodup ∧ 7 ∈ x.drc.req ∧ 0 ∈ x.drc.req) ∧
    (∀ q ∈ [(0 : Fin 8), 7], tabGet q.val (arb [] []).drc.prio q.val < tabGet 7 (arb [] []).drc.prio 7 ∨
      (tabGet q.val (arb [] []).drc.prio q.val = tabGet 7 (arb [] []).drc.prio 7 ∧ q.val ≤ 7)) ∧
    (let full := (at_ 100 []).updDrc fun d => { d with rat := (List.range 64).map fun k => (3, k, k + 4095) }
      let thr := (arb [] [(Reg.drcRatStat, 1)]).updDrc fun d => { d with won := [(0, 100)] }
      (∀ x ∈ [full, thr], invB x = true) ∧ dramLive full = true ∧ (full.drc.rat.find? fun e => e.1 == 3 && e.2.1 == 0) = some (3, 0, 4095) ∧
      fieldGet Reg.drcRatCfg 31 16 full = 4096 ∧ (full.drc.rat.find? fun e => e.1 == 3 && e.2.1 == 64) = none ∧
      (full.drc.rat.find? fun e => e.1 == 2 && e.2.1 == 0) = none ∧ 64 ≤ (full.drc.rat.filter fun e => e.1 == 3).length ∧
      (full.drc.rat.filter fun e => e.1 == 2).length < 64 ∧ flagGet Reg.drcRatStat 0 thr = true ∧ tabGet 0 thr.drc.won 0 = 99 + 1 ∧
      thr.clk.now < 99 + 1000 * fieldGet Reg.drcRatCfg 7 0 thr) ∧
    (let srf := (arb [] [(Reg.arbStat, 0x04000000)]).updPwr fun p => { p with entering := some 2 }
     invB srf = true ∧ flagGet Reg.arbStat 26 srf = true ∧ srf.pwr.entering = some 2 ∧ srf.drc.waiting = [] ∧ (∀ r ∈ [(0 : Fin 8)], r.val ∈ srf.drc.req) ∧
      (∃ r ∈ [(1 : Fin 8)], r.val ∉ srf.drc.req ∧ flagGet Reg.arbStat (16 + r.val) srf = false)) ∧
    Accepts pf Reg.arbPrio 0x00fac681 (arb [] []) ∧ (arb [] []).drc.change = [] ∧ Accepts pf Reg.arbPrio 0x00fac681 (arb [(3, 5, 2)] []) ∧
    (arb [(3, 5, 2)] []).drc.change ≠ [] ∧ pf ≠ .smbus := by
  unfold Accepts
  refine ⟨fun s hs => ⟨inv_of s (by revert s; decide +kernel), by revert s; decide +kernel⟩, by decide +kernel, by decide +kernel, by decide +kernel, by decide +kernel, by decide +kernel, by decide +kernel, by decide +kernel, by decide +kernel⟩

theorem witness_SettingsAndTheVbatDomainAreKept :
    let s := up []
    let dirty := s.updFwu fun f => { f with dirty := true }
    let busy := s.updVbt fun v => { v with busyTill := 1 }
    (∀ x ∈ [s, dirty, busy], Machine.Inv x) ∧ awake s = true ∧ awake dirty = true ∧ dirty.fwu.dirty = true ∧ isWorker dirty = false ∧ s.fwu.dirty = false ∧ s.vbt.rtc < 2 ^ 64 ∧
    Accepts pf (Reg.vbtWord 63) 5 s ∧ Accepts pf (Reg.vbtWord 56) 5 s ∧ Accepts pf (Reg.vbtWord 55) 5 s ∧ s.vbt.busyTill ≤ s.clk.now ∧
    Accepts pf (Reg.vbtWord 63) 5 busy ∧ busy.clk.now < busy.vbt.busyTill ∧ pf ≠ .smbus := by
  unfold Accepts
  refine ⟨fun s hs => inv_of s (by revert s; decide +kernel), by decide +kernel⟩

theorem witness_ResetsReachWhatTheirTablesSay :
    let s := up []
    let warm := up [(Reg.glbRstCtl, 0x100)]
    let pll := up [(Reg.clkStat, 0x3ff), (Reg.lnkGrpStat 3, 0xa0000000), (Reg.casLinkStat, 0xa0000000)]
    let hold := up [(Reg.clkXingTo, 4)]
    let again := s.updRst fun r => { r with mpAt := [0] }
    let late := s.updTod fun t => { t with value := secUnits }
    let low := State.reset
    let off := s.updRst fun r => { r with aux := false }
    let slept := up [(Reg.pwrStat, 0x40000000)]
    (∀ x ∈ [s, again, warm, pll, hold, late, low, off, slept], Machine.Inv x) ∧
    (warmCan s = true ∧ warmCan again = true ∧ (∃ x ∈ again.rst.mpAt, again.clk.now < x + 1000000000) ∧ Accepts pf Reg.glbRstCtl 0x100 s ∧ warmCan warm = false ∧ warmCan pll = true ∧ flagGet Reg.clkStat 2 pll = true ∧ s.rst.low = false ∧ s.rst.aux = true ∧
      off.rst.aux = false ∧ low.rst.low = true ∧ s.rst.therm = false ∧ low.rst.aux = true ∧ powerState low ≠ 4 ∧
      (∀ x ∈ [s, again, warm, hold], awake x = true) ∧ 5 ≤ startPhase warm ∧ warm.rst.low = false ∧ warm.rst.mpAt = []) ∧
    ((∀ x : Fin 59, parkedXing x.val s = false ∧ parkedXing x.val hold = false) ∧ parkedXing 26 slept = true) ∧
    (s.arr.mreqs = [] ∧ s.arr.golds = [] ∧ s.arr.holds = [] ∧ s.upd.plans = [] ∧ s.arr.remaps = [] ∧ s.pwr.waking = none ∧
      (∀ x ∈ s.tbl.tables, x.2.life = .exists_) ∧ ∀ d, d < 8 → (domAt d s).st = .idle ∧ (domAt d s).recon = false ∧ (domAt d s).t = none) ∧
    (Accepts pf Reg.glbRstCtl 0x80 warm ∧ flagGet Reg.glbRstCtl 8 warm = true ∧ pf ≠ .smbus ∧ Accepts pf Reg.glbRstCtl 0x80 s ∧ Accepts pf Reg.glbRstCtl 0x93 late ∧
      Accepts pf Reg.glbRstCtl 0x94 s ∧ Accepts pf Reg.glbRstCtl 0x96 late ∧ flagGet Reg.glbRstCtl 8 s = false ∧
      1000 * 2 ^ 32 ≤ late.tod.value ∧ late.tod.value + 1000 * 2 ^ 32 < 2 ^ 48 * secUnits) ∧
    (5 ≤ startPhase s ∧ s.rst.mpAt = [] ∧ flagGet Reg.clkXingTo 31 s = true ∧ flagGet Reg.clkXingTo 31 hold = false ∧
      (∀ x : Fin 59, flagGet (Reg.clkXingDead (x.val / 32)) (x.val % 32) s = false ∧ flagGet (Reg.clkXingDead (x.val / 32)) (x.val % 32) hold = false)) ∧
    ((∀ p ∈ [Pll.system, .array, .time, .fll 3, .fcl, .pcie], flagGet Reg.clkStat (pllBit p) pll = true) ∧ grpBinding 3 pll < 2 ∧
      linkState (.fll 3) pll ≠ 0 ∧ linkState .fcl pll ≠ 0 ∧ 2 ≤ startPhase s) := by
  unfold Accepts
  refine ⟨fun s hs => inv_of s (by revert s; decide +kernel), by decide +kernel, by decide +kernel, by decide +kernel, by decide +kernel, by decide +kernel, by decide +kernel⟩

/-- Start-up in a phase. -/
def boot (p : Nat) (rs : List (Nat × Word)) : State := regsSet ((Reg.glbBootStat, BitVec.ofNat 32 (p * 2 ^ 28)) :: rs) (up [])

/-- Start-up in PHASE 4 with a valid VBAT domain. -/
def boot4 (sel : Nat) (slots : Tab (List Byte)) : State :=
  (((boot 4 []).updRst fun r => { r with bootSel := sel }).updVbt fun v => { v with words := [(0, 0xf1c50b47)] }).updFwu fun f => { f with slots := slots }

/-- The clauses on an accepted image ask that the open functions and fuses accept this one. -/
theorem witness_StartUpRunsPhaseByPhase (h : Trusted plainImg) :
    let b4 (sel : Nat) := boot4 sel []
    let box (im : List Byte) := (b4 1).updFwu fun f => { f with mailbox := im }
    let lent := (boot 3 []).updRst fun r => { r with bootSel := 1 }
    let inSlot := boot4 0 [(0, plainImg)]
    let kept := boot 7 [(Reg.glbBootStat, 0x70800000)]
    let one := (kept.updArr fun a => { a with gold := [(16383, ent 1)] }).updTbl fun t => { t with tblDram := [(0, tbl 0)] }
    let done := kept.updTbl fun t => { t with tables := [(0, tbl 0)], tblDram := [(0, tbl 0)] }
    let set (m : Nat) : Settings := ⟨1, m, [], false, 0, [], 0, 0, 0⟩
    let wk (im : List Byte) := ((boot4 0 []).updFwu fun f => { f with running := im }).updRegs fun r => tabInsert r Reg.casStat 0x84000000
    let load := { one with regs := tabInsert one.regs (Reg.glbBankOwn 0) 0x00040004 }
    let rec_ (m : Nat) := (up [(Reg.fwuBoot, 0x80000000)]).updFwu fun f => { f with recs := [(1, set m)], running := plainImg }
    (∀ x ∈ [boot 0 [], boot 1 [], boot 2 [], boot 3 [], b4 0, b4 1, b4 2, boot 5 [], boot 6 [], boot 7 [], kept, one, done, load, wk [], wk [0], State.reset, lent, box plainImg, box (List.replicate 512 0)], Machine.Inv x) ∧
    (∀ p ∈ [0, 1, 2, 3, 5, 6, 7], starting (boot p []) = true ∧ startPhase (boot p []) = p) ∧
    (∀ sel ∈ [0, 1, 2], starting (b4 sel) = true ∧ startPhase (b4 sel) = 4 ∧ isWorker (b4 sel) = false ∧ vbtValid (b4 sel) = true ∧ (b4 sel).rst.bootSel = sel) ∧
    (let im (s : State) := s.fwu.mailbox.take (mailboxSize s);
      imageCode (im (box (List.replicate 512 0))) (box (List.replicate 512 0)) ≠ 0 ∧ imageCode (im (box plainImg)) (box plainImg) = 0) ∧
    ((∀ im ∈ [plainImg, List.replicate 512 0], starting (box im) = true ∧ startPhase (box im) = 4 ∧ isWorker (box im) = false ∧ vbtValid (box im) = true ∧
        (box im).rst.bootSel = 1 ∧ mailboxFull (box im) = true) ∧ mailboxFull (b4 1) = false ∧
      starting lent = true ∧ startPhase lent = 3 ∧ lent.rst.bootSel = 1 ∧ isWorker lent = false) ∧
    ((chooseSlot (fun n => tabGet [] (b4 0).fwu.slots n) (b4 0)).1 = none ∧ starting inSlot = true ∧ startPhase inSlot = 4 ∧ isWorker inSlot = false ∧
      vbtValid inSlot = true ∧ inSlot.rst.bootSel = 0) ∧
    (State.reset.rst.low = true ∧ reloadDue kept = true ∧ reloadDue (boot 7 []) = false ∧ memMode kept = 0 ∧ starting kept = true ∧ startPhase kept = 7 ∧ kept.arr.gold = []) ∧
    (reloadDue one = true ∧ memMode one = 0 ∧ one.arr.gold = [(16383, ent 1)] ∧ one.tbl.prfDram = [] ∧ tabFind one.tbl.tblDram (ent 1).table = some (tbl 0) ∧
      (tbl 0).guarded = false ∧ (tbl 0).width < 3 ∧ (ent 1).live (tabGet 0 one.arr.goldCnt (tbl 0).domain) = true ∧ reloadDue done = true ∧
      memMode done = 0 ∧ done.tbl.tables.length = done.tbl.tblDram.length) ∧
    (∀ im ∈ [[], [0]], starting (wk im) = true ∧ startPhase (wk im) = 4 ∧ isWorker (wk im) = true ∧ (wk im).fwu.running = im) ∧
    (reloadDue load = true ∧ memMode load = 0 ∧ (∃ x ∈ load.tbl.tblDram, ∃ r ∈ x.2.regions, r.1 ≤ 0 ∧ 0 < r.1 + r.2) ∧
      pantryBank (0 / 2) = 0 ∧ bankOwner 0 load = 4 ∧ bankBusy 0 load = false) ∧
    (∀ m ∈ [255, 256], currentSettings (rec_ m) = some (1, set m) ∧ runTrial (rec_ m) = true ∧ readsMajor m (rec_ m) = decide (m < 256) ∧ warmCan (rec_ m) = true) ∧
    (chooseSlot (fun n => tabGet [] inSlot.fwu.slots n) inSlot).1 = some (0, false) := by
  refine ⟨fun s hs => inv_of s (by revert s; decide +kernel), by decide +kernel, by decide +kernel, ⟨by decide +kernel, ?_⟩, by decide +kernel,
    by decide +kernel, by decide +kernel, by decide +kernel, by decide +kernel, by decide +kernel, by decide +kernel, ?_⟩
  · have e : mailboxSize ((boot4 1 []).updFwu fun f => { f with mailbox := plainImg }) = plainImg.length := by decide +kernel
    have k : plainImg.take (mailboxSize ((boot4 1 []).updFwu fun f => { f with mailbox := plainImg })) = plainImg := by rw [e, List.take_length]
    exact (congrArg (fun x => imageCode x _) k).trans (imageCode_trusted _ _ (by decide +kernel) h)
  have k : slotOk (fun n => tabGet [] (boot4 0 [(0, plainImg)]).fwu.slots n) (confSlot (boot4 0 [(0, plainImg)])) (boot4 0 [(0, plainImg)]) = true := by
    rw [slotOk, show tabGet [] (boot4 0 [(0, plainImg)]).fwu.slots (confSlot (boot4 0 [(0, plainImg)])) = plainImg by rfl,
      imageCode_trusted _ _ (by decide +kernel) h]
    decide +kernel
  have n : trialValid (boot4 0 [(0, plainImg)]) = false := by decide +kernel
  have c : confSlot (boot4 0 [(0, plainImg)]) = 0 := by decide +kernel
  rw [c] at k
  simp only [chooseSlot, n, Bool.false_eq_true, false_and, if_false, k, if_true, c]

/-- An instant, with registers set, in a power state, an entry or a wake. -/
def power (now : Nat) (rs : List (Nat × Word)) (e w : Option Nat) : State :=
  let s := up rs
  { s with clk := { s.clk with now := now }, pwr := { s.pwr with entering := e, waking := w, sources := 63 } }

theorem witness_PowerStatesAreEnteredAndLeft :
    let idle (m : Word) := power (10 ^ 12) [(Reg.pwrCfg, m), (Reg.pwrPmbAddr, 0x01010101)] none none
    let busy := (idle 4).updFwu fun f => { f with dirty := true }
    let ent (st : Nat) := power 0 [] (some st) none
    let no (st : Nat) := (ent st).updPip fun p => { p with flight := [srch .searched []] }
    let st (k : Nat) := power 0 [(Reg.pwrStat, BitVec.ofNat 32 (k * 2 ^ 29)), (Reg.lnkGrpStat 3, 0xa0000000)] none none
    let soon := power 999999999 [(Reg.pwrStat, 0x40000000)] none none
    let wk (k : Nat) := power 0 [] none (some k)
    let park (x : Nat) := (grp3 5 []).updLnk fun l => { l with
      grps := [(3, { GrpSt.idle with parked := true, resumeAt := some x })]
      lanes := l.lanes.map fun y => (y.1, { y.2 with changed := false }) }
    let ring (x : State) := regsSet [(Reg.casCfg, 0x21), (Reg.casStat, 0x41400000), (LinkId.fcl.stat, 0xa0000000)] x
    let dark := power 0 [(Reg.pwrStat, 0x40000000), (Reg.lnkGrpStat 3, 0xa0000000), (Reg.lnkGrpCtl 3, 3), (Reg.drcStat, 0xc0000000)] none none
    let lost := (park 20000).updLnk fun l => { l with lanes := [] }
    (∀ x ∈ [ring (idle 4), ring busy, ring (ent 4), ring (wk 1), lost, dark], Machine.Inv x) ∧
    (∀ x ∈ [idle 1, idle 4, busy, ent 1, ent 4, no 1, no 4, st 0, st 2, st 3, st 4, soon, wk 1, wk 3, park 20000, park 30000001], Machine.Inv x) ∧
    (∀ x ∈ [(idle 1, 1), (idle 4, 4), (busy, 4)], isWorker x.1 = false ∧ startPhase x.1 = 8 ∧ x.1.pwr.entering = none ∧ x.1.pwr.waking = none ∧ oppBusy x.1 = false ∧
      timerOut 1 true x.1 = true ∧ powerState x.1 = 0 ∧ x.2 ≤ maxState x.1 ∧ timerOut x.2 true x.1 = true ∧ stateFits x.2 x.1 = true) ∧
    (maxState (idle 1) = 1 ∧ firstRefusal 1 (idle 1) = none ∧ firstRefusal 4 (idle 4) = none ∧ firstRefusal 4 busy = some 8 ∧
    (∀ k ∈ [1, 4], (ent k).pwr.entering = some k ∧ (entryUnits k).length = (if k = 1 then 2 else 9) ∧ (firstRefusal k (no k)).isSome = true ∧
      (no k).pwr.entering = some k ∧ firstRefusal k (ent k) = none ∧ flagGet Reg.pwrCtl 0 (ent k) = false)) ∧
    (∀ k ∈ [0, 2, 3, 4], (st k).pwr.entering = none ∧ (st k).pwr.waking = none ∧ powerState (st k) = k ∧ linkState (.fll 3) (st k) ≠ 0 ∧
      flagGet Reg.pwrCtl 1 (st k) = false) ∧
    (Accepts pf Reg.pwrCtl 1 (st 0) ∧ Accepts pf Reg.pwrCtl 1 (st 2) ∧ Accepts pf Reg.pwrCtl 1 (st 3) ∧ Accepts .mp Reg.pwrCtl 2 (st 0) ∧
      Accepts pf Reg.pwrCtl 2 (st 0) ∧ pf ≠ .mp ∧ pf ≠ .smbus ∧ (st 0).lnk.frozen = none) ∧
    (powerState soon = 2 ∧ (nextEvent 2 soon).any (fun x => x.1 ≤ 20000) = true ∧ (nextEvent 2 (st 2)).any (fun x => 20000 < x.1) = true ∧
      (∀ k ∈ [1, 3], (wk k).pwr.waking = some k ∧ (wk k).pwr.sources < 64)) ∧
    ((∀ x ∈ [20000, 30000001], (grpAt 3 (park x)).parked = true ∧ (grpAt 3 (park x)).resumeAt = some x ∧
      (∀ n ∈ (LinkId.fll 3).laneList, 0 < (laneAt n (park x)).found ∧ (laneAt n (park x)).changed = false ∧ 2 ≤ (laneAt n (park x)).ready)) ∧ 20000 ≤ (park 20000).clk.now ∧ (park 30000001).clk.now < 30000001 ∧
      (grpAt 3 lost).resumeAt = some 20000 ∧ 20000 ≤ lost.clk.now ∧ (∃ n ∈ (LinkId.fll 3).laneList, (laneAt n lost).found = 0) ∧
      (∀ x ∈ [20000, 30000001], (∀ n ∈ (LinkId.fll 3).laneList, skewMoved [2, 0] (.fll 3) n (park x) = false) ∧
        ∃ n ∈ (LinkId.fll 3).laneList, skewMoved [3, 0] (.fll 3) n (park x) = true)) ∧
    (dark.rst.aux = true ∧ dark.rst.low = false ∧ dark.rst.therm = false ∧ powerState dark = 2 ∧ linkTrains (.fll 3) dark = true ∧
      linkState (.fll 3) dark ≠ 0 ∧ flagGet Reg.drcStat 30 dark = true ∧ awake dark = false) ∧
    (ringPeers (idle 4) = [] ∧ (∀ x ∈ [(idle 4, none), (busy, some 8)], isWorker (ring x.1) = false ∧ timerOut 1 true (ring x.1) = true ∧ maxState (ring x.1) = 4 ∧
        timerOut 4 true (ring x.1) = true ∧ stateFits 4 (ring x.1) = true ∧ firstRefusal 4 (ring x.1) = x.2 ∧ ringPeers (ring x.1) = [1, 2]) ∧
      (ring (ent 4)).pwr.entering = some 4 ∧ firstRefusal 4 (ring (ent 4)) = none ∧ (wkAt 1 (ring (ent 4))).asleep = false ∧
      1 ∈ ringPeers (ring (ent 4)) ∧ (∀ k ∈ ringPeers (ring (ent 4)), ∃ w ∈ [(1 : Fin 16), 2], w.val = k) ∧
      isManager (ring (wk 1)) = true ∧ ringState (ring (wk 1)) = 5 ∧ (ring (wk 1)).pwr.waking = some 1 ∧ (ring (wk 1)).pwr.oppLater = false) := by
  unfold Accepts
  refine ⟨fun s hs => inv_of s (by revert s; decide +kernel), fun s hs => inv_of s (by revert s; decide +kernel), by decide +kernel, by decide +kernel,
    by decide +kernel, by decide +kernel, by decide +kernel, by decide +kernel, by decide +kernel, by decide +kernel⟩

/-- An operating-point change: current point, goal, step and tries. -/
def opp (cur goal step tries : Nat) : State :=
  (up [(Reg.pwrOppStat, BitVec.ofNat 32 (b2n (step != 0) * 2 ^ 31 + cur * 2 ^ 26)), (Reg.pwrPmbCfg, 0x30000)]).updPwr fun p =>
    { p with oppTo := goal, oppStep := step, oppTries := tries }

theorem witness_OperatingPointsChangeInOrder :
    let deep := regsSet [(Reg.pwrStat, 0x40000000)] (opp 0 0 0 0)
    let fly := (opp 0 2 3 0).updPip fun p => { p with flight := [srch .searched []] }
    let ring := regsSet [(Reg.casCfg, 0x21), (Reg.casStat, 0x41400000), (LinkId.fcl.stat, 0xa0000000)] (opp 0 0 0 0)
    let adr := regsSet [(Reg.pwrPmbAddr, 0x01010000)] (opp 0 2 1 0)
    let early := regsSet [(Reg.pwrPmbCfg, 0x30100)] (opp 0 2 1 0)
    let mid : State := { opp 0 2 3 0 with clk := { ClkSt.reset with slot := 63 } }
    (∀ x ∈ [opp 0 0 0 0, opp 2 0 0 0, opp 0 2 1 0, opp 0 2 1 2, opp 2 0 4 0, opp 2 0 4 2, opp 0 2 2 0, opp 0 2 3 0, opp 2 0 3 0, deep, fly, mid, ring, adr, early], Machine.Inv x) ∧
    ((∀ x ∈ [opp 0 2 1 0, opp 0 2 1 2, opp 2 0 4 0, opp 2 0 4 2, adr], x.pwr.oppAt + 1000 * fieldGet Reg.pwrPmbCfg 15 8 x ≤ x.clk.now ∧
        (x.pwr.oppStep = 1 ∨ x.pwr.oppStep = 4)) ∧ (∀ x ∈ [opp 0 2 1 0, opp 2 0 4 0], railAddr 0 x = 0 ∧ railAddr 1 x = 0) ∧
      railAddr 0 adr ≠ 0 ∧ adr.pwr.oppTries + 1 < fieldGet Reg.pwrPmbCfg 17 16 adr ∧
      ¬ early.pwr.oppAt + 1000 * fieldGet Reg.pwrPmbCfg 15 8 early ≤ early.clk.now ∧ early.pwr.oppStep = 1) ∧
    (Accepts pf Reg.pwrOppCtl 4 (opp 0 0 0 0) ∧ Accepts pf Reg.pwrOppCtl 6 (opp 0 0 0 0) ∧ Accepts pf Reg.pwrOppCtl 4 (opp 2 0 0 0) ∧
      Accepts pf Reg.pwrOppCtl 4 (opp 0 2 1 0) ∧ Accepts pf Reg.pwrOppCtl 6 deep ∧ pf ≠ .smbus) ∧
    (∀ x ∈ [opp 0 0 0 0, opp 2 0 0 0, deep], oppBusy x = false ∧ x.pwr.oppLater = false ∧ x.pwr.entering = none ∧
      (isManager x && ringState x == 5) = false) ∧
    (oppBusy (opp 0 2 1 0) = true ∧ 2 ≤ powerState deep ∧ powerState (opp 0 0 0 0) < 2 ∧ oppCur (opp 0 0 0 0) = 0 ∧ oppCur (opp 2 0 0 0) = 2 ∧
      (∀ x ∈ [opp 0 2 1 0, opp 2 0 4 0], x.pwr.oppTries + 1 < fieldGet Reg.pwrPmbCfg 17 16 x) ∧
      (∀ x ∈ [opp 0 2 1 2, opp 2 0 4 2], fieldGet Reg.pwrPmbCfg 17 16 x ≤ x.pwr.oppTries + 1) ∧ (opp 0 2 2 0).pwr.oppStep = 2 ∧
      (opp 0 2 2 0).lnk.frozen = none ∧ (∀ x ∈ [opp 0 2 3 0, opp 2 0 3 0], x.pwr.oppStep = 3 ∧ x.pip.flight = [] ∧ x.clk.slot = 0 ∧ x.pwr.oppTo < 4) ∧
      (opp 2 0 3 0).pwr.oppTo < oppCur (opp 2 0 3 0) ∧ oppCur (opp 0 2 3 0) ≤ (opp 0 2 3 0).pwr.oppTo ∧ fly.pip.flight ≠ [] ∧ mid.clk.slot ≠ 0 ∧
      Accepts pf Reg.pwrOppCtl 6 ring ∧ (isManager ring && ringState ring == 5) = true ∧ oppBusy ring = false ∧ powerState ring = 0) := by
  unfold Accepts
  refine ⟨fun s hs => inv_of s (by revert s; decide +kernel), by decide +kernel, by decide +kernel, by decide +kernel, by decide +kernel⟩

theorem imgBytes_given (g : List Byte) (len off n : Nat) (h : off + n ≤ len) :
    imgBytes ((List.range len).map fun i => g.getD i 0) off n = imgBytes g off n := by
  refine List.map_congr_left fun i hi => ?_
  rw [List.mem_range] at hi
  simp [List.getD_eq_getElem?_getD, List.getElem?_map, List.getElem?_range (show off + i < len by omega)]

theorem headerCode_given (g : List Byte) (len : Nat) (s : State) (h : 512 ≤ len) :
    headerCode ((List.range len).map fun i => g.getD i 0) s = headerCode g s := by
  have e (off n : Nat) (hn : off + n ≤ 512) := imgBytes_given g len off n (by omega)
  simp only [headerCode, imgArb, imgNat, e 0 4 (by decide), e 4 2 (by decide), e 6 1 (by decide), e 7 1 (by decide), e 16 4 (by decide), e 20 1 (by decide),
    e 21 1 (by decide), e 22 1 (by decide), e 24 8 (by decide), e 272 240 (by decide), e 23 1 (by decide), e 12 4 (by decide), e 80 96 (by decide),
    e 0 176 (by decide), e 176 96 (by decide)]
  rfl

/-- A firmware command of an opcode: offset, length and LAST. The read of its data is out. -/
def fwCmd (o ofs len : Nat) (last : Bool) : Cmd :=
  { cmd5 [opHdr o ||| BitVec.ofNat 64 (b2n last * 2 ^ 51), BitVec.ofNat 64 (len * 2 ^ 32 + ofs), 0] .ready with reads := [0] }

/-- A session of a source with its first block, in a state, with a command in flight and registers set. -/
def fw (st src size : Nat) (cs : List Cmd) (rs : List (Nat × Word)) : State :=
  (ringed (ring5 1) cs ((Reg.fwuStat, BitVec.ofNat 32 (st * 2 ^ 29 + src * 2 ^ 26)) :: rs)).updFwu fun f => { f with
    session := if src = 0 then none else some ⟨src, if src = 1 then 5 else 0, 1, size, [(0, plainImg.take 4096)], 0, none⟩ }

/-- A trial that runs and waits for its confirmation. -/
def onTrial (cs : List Cmd) (rs : List (Nat × Word)) : State :=
  (fw 0 0 0 cs ((Reg.fwuBoot, 0x80000000) :: rs)).updVbt fun v => { v with words := [(1, 2)] }

/-- The clauses on an accepted image ask that the open functions and fuses accept `plainImg`; the one on a wrong digest, that the
digest of no bytes is not 0; the one on the MP's restart, that it takes some time (log entry 91). -/
theorem witness_ImagesAreDeliveredInSessions (h : Trusted plainImg) (h0 : digestOk [] = false) (hm : 0 < Config.mpRestart.val) :
    let first := fwCmd 0x40 0 4096 false
    let tail := fwCmd 0x40 4096 512 true
    let mid := fwCmd 0x40 4096 4096 false
    let conf := fwCmd 0x41 0 0 false
    let lock := [(Reg.prtLock, (1 : Word))]
    let longer := fwCmd 0x40 0 4095 true
    let whole (st : Nat) (blk : List Byte) (c : Option Nat) (cs : List Cmd) := (fw st 1 4608 cs []).updFwu fun f => { f with
      session := some ⟨1, 5, 1, 4608, [(0, blk)], 0, c⟩ }
    let win (v : Nat) (rs : List (Nat × Word)) := up ((Reg.fwuStat, BitVec.ofNat 32 v) :: rs)
    let full := (win 0 [(Reg.fwuWinLen, 4)]).updFwu fun f => { f with buffer := [1, 2, 3, 4] }
    let push (size : Nat) := fw 1 2 size [] [(Reg.fwuWinOfs, 4096), (Reg.fwuWinLen, 4096)]
    let ask (k : Nat) := fw 0 0 0 [{ first with reads := [] }, { first with id := 8, reads := List.range k }] []
    let held := whole 2 [] (some 9) [first]
    let turn := whole 2 [] (some 8) [first, { first with id := 8, stage := .running }]
    let down := (fw 0 0 0 [first] []).updRst fun r => { r with mpAt := [0] }
    let mute := (ask 0).updHif fun h => { h with fns := [] }
    (∀ x ∈ [ask 0, ask 512, mute], Machine.Inv x ∧ readyCmd 9 [0x40] x = some { first with reads := [] }) ∧
    (ringSends first (ask 0) = true ∧ ringSends first (ask 512) = true ∧ ringSends first mute = false ∧ maxRead (ask 0) = 512 ∧ readsOut (ask 0) = 0 ∧
      512 < readsOut (ask 512) + 8 ∧ first.reads ≠ [] ∧ (ringAt 5 (fw 0 0 0 [first] [])).st = 1) ∧
    (Accepts pf Reg.fwuCtl 8 held ∧ fieldGet Reg.fwuStat 28 26 held = 1 ∧ fieldGet Reg.fwuStat 24 23 held = 0) ∧
    (invB turn = true ∧ readyCmd 9 [0x40] turn = some first ∧ fwRefusal false false turn = 0 ∧ isWorker turn = false ∧ sessionState turn = 2 ∧
      (turn.fwu.session.map fun y => (y.src, y.ring, y.cmd)) = some (1, 5, some 8) ∧ (cmdAt 8 turn).isSome = true ∧ tabRising turn.fwu.slots = true) ∧
    (invB down = true ∧ cmdAt 9 down = some first ∧ opOf first.hdr = 0x40 ∧ mpDown down = true) ∧
    (∀ x ∈ [fw 0 0 0 [first] [], fw 0 0 0 [first] lock, fw 1 2 4608 [first] [], fw 0 0 0 [longer] [], fw 0 0 0 [tail] [], fw 1 1 8192 [tail] [], fw 1 1 12288 [mid] [],
      fw 1 1 4608 [tail] [], whole 2 [] none [], whole 2 [] (some 9) [first], whole 3 [0] none [], win 0 [], full, push 12288, push 8192, onTrial [] [], onTrial [conf] []],
      Machine.Inv x) ∧
    ((∀ c ∈ [first, longer, tail, mid], readyCmd 9 [0x40] (fw 0 0 0 [c] []) = some c ∧ fwRefusal false false (fw 0 0 0 [c] []) = 0 ∧
        (fw 0 0 0 [c] []).fwu.session = none ∧ isWorker (fw 0 0 0 [c] []) = false) ∧
      fwRefusal false false (fw 0 0 0 [first] lock) = 3 ∧ readyCmd 9 [0x40] (fw 0 0 0 [first] lock) = some first ∧
      readyCmd 9 [0x40] (fw 1 2 4608 [first] []) = some first ∧ ((fw 1 2 4608 [first] []).fwu.session.map (·.src)) = some 2 ∧
      headerCode ((List.range 4096).map fun i => ([] : List Byte).getD i 0) (fw 0 0 0 [first] []) ≠ 0 ∧
      outside 4608 0 4096 (optBit first.hdr 51) = false ∧ outside 4608 0 4095 (optBit longer.hdr 51) = true ∧ imgSize plainImg = 4608) ∧
    (headerCode ((List.range 4096).map fun i => plainImg.getD i 0) (fw 0 0 0 [first] []) = 0 ∧
      headerCode ((List.range 4095).map fun i => plainImg.getD i 0) (fw 0 0 0 [longer] []) = 0) ∧
    ((∀ x ∈ [(8192, tail), (12288, mid), (4608, tail)], readyCmd 9 [0x40] (fw 1 1 x.1 [x.2] []) = some x.2 ∧ fwRefusal false false (fw 1 1 x.1 [x.2] []) = 0 ∧
        ((fw 1 1 x.1 [x.2] []).fwu.session.map fun y => (y.src, y.ring, y.size)) = some (1, 5, x.1) ∧ sessionState (fw 1 1 x.1 [x.2] []) = 1) ∧
      outside 8192 4096 512 true = true ∧ outside 12288 4096 4096 false = false ∧ outside 4608 4096 512 true = false) ∧
    ((∀ c ∈ [none, some 9], ((whole 2 [] c [first]).fwu.session.map (·.cmd)) = some c ∧ sessionState (whole 2 [] c [first]) = 2) ∧
      (cmdAt 9 (whole 2 [] (some 9) [first])).isSome = true ∧ sessionState (whole 3 [0] none []) = 3 ∧
      ((whole 3 [0] none []).fwu.session.map fun x => (sessionImage x, x.target)) = some ([0], 1)) ∧
    (digestOk (sessionImage ⟨1, 5, 1, 4608, [(0, plainImg)], 0, none⟩) = true ∧ digestOk (sessionImage ⟨1, 5, 1, 4608, [(0, [])], 0, none⟩) = false) ∧
    ((let x := fw 1 2 8192 [] [(Reg.fwuCfg, 1)]
      sessionState x = 1 ∧ x.clk.now < 0 + fieldGet Reg.fwuCfg 7 0 x * 1000000000) ∧
     (let x : State := { fw 1 2 8192 [] [(Reg.fwuCfg, 1)] with clk := { ClkSt.reset with now := 1000000000 } }
      sessionState x = 1 ∧ 0 + fieldGet Reg.fwuCfg 7 0 x * 1000000000 ≤ x.clk.now)) ∧
    (Accepts pf Reg.fwuWinOfs 4096 (win 0 []) ∧ Accepts pf Reg.fwuWinOfs 4096 (win 0x1000000 []) ∧ Accepts pf Reg.fwuWinOfs 4096 (win 0x2000000 []) ∧
      Accepts pf Reg.fwuWinOfs 4096 (win 0 lock) ∧ fieldGet Reg.fwuStat 24 23 (win 0x1000000 []) = 2 ∧ flagGet Reg.fwuStat 25 (win 0x2000000 []) = true ∧
      fieldGet Reg.fwuStat 24 23 (win 0 lock) = 0 ∧ flagGet Reg.fwuStat 25 (win 0 lock) = false ∧ flagGet Reg.prtLock 0 (win 0 lock) = true ∧ flagGet Reg.prtLock 0 (win 0 []) = false ∧
      Accepts pf Reg.fwuWinData 7 (win 0 [(Reg.fwuWinLen, 4)]) ∧ 0 < fieldGet Reg.fwuWinLen 12 0 (win 0 [(Reg.fwuWinLen, 4)]) ∧ Accepts pf Reg.fwuWinData 7 full ∧
      fieldGet Reg.fwuWinLen 12 0 full ≤ full.fwu.buffer.length ∧ pf ≠ .smbus) ∧
    ((∀ n ∈ [8192, 12288], Accepts pf Reg.fwuCtl 1 (push n) ∧ ((push n).fwu.session.map fun y => (y.src, y.ring, y.size)) = some (2, 0, n) ∧ sessionState (push n) = 1 ∧
        fwRefusal false false (push n) = 0 ∧ fieldGet Reg.fwuWinLen 12 0 (push n) = 4096 ∧ (regGet Reg.fwuWinOfs (push n)).toNat = 4096 ∧
        outside n 4096 4096 (flagGet Reg.fwuWinLen 31 (push n)) = false) ∧
      Accepts pf Reg.fwuCtl 8 (push 8192) ∧ fieldGet Reg.fwuStat 28 26 (push 8192) = 2 ∧ Accepts pf Reg.fwuCtl 8 (fw 1 3 8192 [] []) ∧
      fieldGet Reg.fwuStat 28 26 (fw 1 3 8192 [] []) = 3) ∧
    (Accepts pf Reg.fwuCtl 4 (win 0 lock) ∧ fwRefusal false false (win 0 lock) = 3 ∧ Accepts pf Reg.fwuCtl 4 (win 0 []) ∧ trialValid (win 0 []) = false ∧
      fwRefusal false false (win 0 []) = 0 ∧ Accepts pf Reg.fwuCtl 4 (onTrial [] []) ∧ trialValid (onTrial [] []) = true ∧ (onTrial [] []).fwu.session = none ∧
      isManager (onTrial [] []) = false ∧ warmCan (onTrial [] []) = true ∧ Accepts pf Reg.fwuCtl 2 (win 0 lock) ∧ fwRefusal false true (win 0 lock) = 3 ∧
      Accepts pf Reg.fwuCtl 2 (win 0 []) ∧ runTrial (win 0 []) = false ∧ Accepts pf Reg.fwuCtl 2 (onTrial [] []) ∧ runTrial (onTrial [] []) = true) ∧
    ((∀ x ∈ [fw 0 0 0 [conf] lock, fw 0 0 0 [conf] [], onTrial [conf] []], readyCmd 9 [0x41] x = some conf) ∧ fwRefusal false true (fw 0 0 0 [conf] lock) = 3 ∧
      fwRefusal false true (onTrial [conf] []) = 0 ∧ runTrial (onTrial [conf] []) = true ∧ trialValid (onTrial [conf] []) = true) := by
  unfold Accepts
  refine ⟨fun s hs => ⟨inv_of s (by revert s; decide +kernel), by revert s; decide +kernel⟩, by decide +kernel, by decide +kernel,
    by decide +kernel, ⟨by decide +kernel, by decide +kernel, by decide +kernel, ?_⟩, fun s hs => inv_of s (by revert s; decide +kernel), by decide +kernel, ⟨?_, ?_⟩, by decide +kernel, by decide +kernel, ⟨?_, ?_⟩, by decide +kernel,
    by decide +kernel, by decide +kernel, by decide +kernel, by decide +kernel⟩
  · simp [mpDown, State.updRst]; exact hm
  · rw [headerCode_given _ _ _ (by decide)]; exact headerCode_trusted _ _ (by decide +kernel) h
  · rw [headerCode_given _ _ _ (by decide)]; exact headerCode_trusted _ _ (by decide +kernel) h
  · simpa [sessionImage] using h.digest
  · simpa [sessionImage] using h0

end Sys2Proof.Tests
end

section
/-! The rank tournament (R48): the order of reports, and what the fold over them picks. -/

namespace Sys2Proof.Machine

open Sys2Proof

/-- A report that does not beat another, if it is a hit, comes no earlier in the order of rank and index. -/
theorem Report.beats_eq_false_iff (a b : Report) : a.beats b = false ↔
    (a.hit = true → b.hit = true ∧ (b.rank < a.rank ∨ (b.rank = a.rank ∧ b.index ≤ a.index))) := by
  simp only [Report.beats]
  cases a.hit <;> cases b.hit <;> simp
  omega

/-- Not beating is transitive. -/
theorem Report.beats_eq_false_trans {a b c : Report} (hab : a.beats b = false) (hbc : b.beats c = false) :
    a.beats c = false := by
  rw [Report.beats_eq_false_iff] at *
  intro ha
  obtain ⟨hb, hba⟩ := hab ha
  obtain ⟨hc, hcb⟩ := hbc hb
  exact ⟨hc, by omega⟩

theorem Report.hit_of_beats {a b : Report} (h : a.beats b = true) : a.hit = true := by
  simp only [Report.beats, Bool.and_eq_true] at h
  exact h.1

/-- Of two reports at most one beats the other. -/
theorem Report.beats_asymm {a b : Report} (h : a.beats b = true) : b.beats a = false := by
  rw [Report.beats_eq_false_iff]
  simp only [Report.beats, Bool.and_eq_true, Bool.or_eq_true, Bool.not_eq_true', decide_eq_true_eq, beq_iff_eq] at h
  obtain ⟨ha, (hb | hlt) | ⟨heq, hidx⟩⟩ := h
  · exact fun hb' => absurd hb' (by simp [hb])
  · exact fun _ => ⟨ha, .inl hlt⟩
  · exact fun _ => ⟨ha, .inr ⟨heq, Nat.le_of_lt hidx⟩⟩

theorem Report.beats_self (a : Report) : a.beats a = false :=
  (Report.beats_eq_false_iff a a).2 fun h => ⟨h, .inr ⟨rfl, Nat.le_refl _⟩⟩

/-- One round of the tournament: the next report a against the best so far b. -/
def tournamentRound (b a : Report) : Report := if a.beats b then a else b

theorem tournament_eq_foldl (rs : List Report) : tournament rs = rs.foldl tournamentRound Report.miss := rfl

/-- A round's winner is the best so far, or the next report and a hit. -/
theorem tournamentRound_cases (b a : Report) :
    tournamentRound b a = b ∨ (tournamentRound b a = a ∧ a.hit = true) := by
  unfold tournamentRound
  split
  next h => exact .inr ⟨rfl, Report.hit_of_beats h⟩
  next => exact .inl rfl

/-- Neither side of a round beats its winner. -/
theorem not_beats_tournamentRound (b a : Report) :
    b.beats (tournamentRound b a) = false ∧ a.beats (tournamentRound b a) = false := by
  unfold tournamentRound
  split
  next h => exact ⟨Report.beats_asymm h, Report.beats_self a⟩
  next h => exact ⟨Report.beats_self b, by simpa using h⟩

/-- The rounds end with the report they start from, or with a hit among the others. -/
theorem foldl_tournamentRound_cases (rs : List Report) (b : Report) :
    rs.foldl tournamentRound b = b ∨ (rs.foldl tournamentRound b ∈ rs ∧ (rs.foldl tournamentRound b).hit = true) := by
  induction rs generalizing b with
  | nil => exact .inl rfl
  | cons a rs ih =>
    rw [List.foldl_cons]
    rcases ih (tournamentRound b a) with hw | ⟨hmem, hhit⟩
    · rw [hw]
      rcases tournamentRound_cases b a with hb | ⟨ha, hhit⟩
      · exact .inl hb
      · exact .inr ⟨by simp [ha], by rwa [ha]⟩
    · exact .inr ⟨List.mem_cons_of_mem _ hmem, hhit⟩

/-- No report that enters the rounds beats the one they end with. -/
theorem not_beats_foldl_tournamentRound (rs : List Report) (b : Report) :
    ∀ r ∈ b :: rs, r.beats (rs.foldl tournamentRound b) = false := by
  induction rs generalizing b with
  | nil => simp [Report.beats_self]
  | cons a rs ih =>
    rw [List.foldl_cons]
    have hround := ih (tournamentRound b a) _ List.mem_cons_self
    obtain ⟨hb, ha⟩ := not_beats_tournamentRound b a
    intro r hr
    rcases List.mem_cons.1 hr with rfl | hr
    · exact Report.beats_eq_false_trans hb hround
    rcases List.mem_cons.1 hr with rfl | hr
    · exact Report.beats_eq_false_trans ha hround
    · exact ih _ r (List.mem_cons_of_mem _ hr)

theorem not_beats_tournament {rs : List Report} {r : Report} (hr : r ∈ rs) : r.beats (tournament rs) = false :=
  not_beats_foldl_tournamentRound rs Report.miss r (List.mem_cons_of_mem _ hr)

/-- Without a hit the tournament has no winner. -/
theorem tournament_eq_miss {rs : List Report} (h : ∀ r ∈ rs, r.hit = false) : tournament rs = Report.miss := by
  rcases foldl_tournamentRound_cases rs Report.miss with hw | ⟨hmem, hhit⟩
  · exact hw
  · exact absurd hhit (by simp [h _ hmem])

/-- With a hit among the reports, the winner is one of them, a hit, and no later in rank and index than any hit. -/
theorem tournament_spec {rs : List Report} (h : ∃ r ∈ rs, r.hit = true) :
    tournament rs ∈ rs ∧ (tournament rs).hit = true ∧ ∀ r ∈ rs, r.hit = true →
      (tournament rs).rank < r.rank ∨ ((tournament rs).rank = r.rank ∧ (tournament rs).index ≤ r.index) := by
  have best : ∀ r ∈ rs, r.hit = true → (tournament rs).hit = true ∧
      ((tournament rs).rank < r.rank ∨ ((tournament rs).rank = r.rank ∧ (tournament rs).index ≤ r.index)) :=
    fun r hr => (Report.beats_eq_false_iff _ _).1 (not_beats_tournament hr)
  obtain ⟨r, hr, hhit⟩ := h
  have hwin := (best r hr hhit).1
  refine ⟨?_, hwin, fun q hq hq' => (best q hq hq').2⟩
  rcases foldl_tournamentRound_cases rs Report.miss with hw | ⟨hmem, -⟩
  · rw [tournament_eq_foldl, hw] at hwin
    exact absurd hwin (by decide)
  · exact hmem

/-- Where hits differ in their indices, the order of the reports does not matter. -/
theorem tournament_perm {qs rs : List Report} (hp : qs.Perm rs)
    (hinj : ∀ a ∈ rs, ∀ b ∈ rs, a.hit = true → b.hit = true → a.index = b.index → a = b) :
    tournament qs = tournament rs := by
  by_cases h : ∃ r ∈ rs, r.hit = true
  · obtain ⟨hrm, hrh, hrbest⟩ := tournament_spec h
    obtain ⟨hqm, hqh, hqbest⟩ := tournament_spec (rs := qs) (by simpa only [hp.mem_iff] using h)
    have hrq := hrbest _ (hp.mem_iff.1 hqm) hqh
    have hqr := hqbest _ (hp.mem_iff.2 hrm) hrh
    exact hinj _ (hp.mem_iff.1 hqm) _ hrm hqh hrh (by omega)
  · have hmiss : ∀ r ∈ rs, r.hit = false := by simpa using h
    rw [tournament_eq_miss hmiss, tournament_eq_miss fun r hr => hmiss r (hp.mem_iff.1 hr)]

/-- Settles O13: the rounds keep the best report so far, and the best is unique where the indices differ. -/
theorem tournamentPicksTheBestReport : Obligations.TournamentPicksTheBestReport :=
  fun _ => ⟨tournament_eq_miss, tournament_spec, fun _ hp hinj => tournament_perm hp hinj⟩

end Sys2Proof.Machine
end

section
/-! Cells, slices and entries (R36 to R38, Table 2.2): the bits a slice compares. -/

namespace Sys2Proof.Machine

open Sys2Proof

/-- Table 2.2: what a cell of state (x, y) makes of a key bit. -/
def cellMatches (x y k : Bool) : Bool := match x, y with
  | false, false => true
  | true, false => k
  | false, true => !k
  | true, true => false

/-- A cell matches unless it holds a one against a key bit 0, or a zero against a key bit 1. -/
theorem cellMatches_eq (x y k : Bool) : cellMatches x y k = !(x && !k || y && k) := by
  cases x <;> cases y <;> simp [cellMatches]

/-- The epoch half of a slice's match is its epoch cell's. -/
theorem cellMatches_epoch (xe ye epoch : Bool) : cellMatches xe ye epoch = (if epoch then !ye else !xe) := by
  cases epoch <;> simp [cellMatches_eq]

/-- The mismatch bits of a slice are all 0 when every data cell matches its key bit. -/
theorem mismatch_eq_zero_iff (x y k : BitVec 80) : x &&& ~~~k ||| y &&& k = 0 ↔
    ∀ i, i < 80 → cellMatches (x.getLsbD i) (y.getLsbD i) (k.getLsbD i) = true := by
  have hbit : ∀ i, i < 80 → (cellMatches (x.getLsbD i) (y.getLsbD i) (k.getLsbD i) = true ↔
      (x &&& ~~~k ||| y &&& k).getLsbD i = (0 : BitVec 80).getLsbD i) := by
    intro i hi
    rw [cellMatches_eq, Bool.not_eq_true']
    simp [-Bool.or_eq_false_iff, hi]
  exact ⟨fun h i hi => (hbit i hi).2 (h ▸ rfl), fun h => BitVec.eq_of_getLsbD_eq fun i hi => (hbit i hi).1 (h i hi)⟩

/-- R38: a slice matches when all 80 data cells and the epoch cell match. -/
theorem Slice.matches_iff_cells (c : Slice) (k : BitVec 80) (epoch : Bool) : c.matches k epoch = true ↔
    (∀ i, i < 80 → cellMatches (c.x.getLsbD i) (c.y.getLsbD i) (k.getLsbD i) = true) ∧
      cellMatches c.xe c.ye epoch = true := by
  rw [← mismatch_eq_zero_iff, cellMatches_epoch, Slice.matches, Bool.and_eq_true, beq_iff_eq]

/-- The epoch cell of an entry's slice lets a search through whose epoch's E bit the entry has (Table 2.3). -/
theorem entrySlice_epoch (e : Entry) (i : Nat) (epoch : Bool) :
    cellMatches (entrySlice e i).xe (entrySlice e i).ye epoch = if epoch then e.e1 else e.e0 := by
  cases epoch <;> simp [cellMatches_epoch, entrySlice, Slice.sealed]

theorem entrySlice_okX (e : Entry) (i : Nat) : (entrySlice e i).okX = true := by
  simp [Slice.okX, entrySlice, Slice.sealed]

theorem entrySlice_okY (e : Entry) (i : Nat) : (entrySlice e i).okY = true := by
  simp [Slice.okY, entrySlice, Slice.sealed]

/-- A cell of an entry's slice matches where its mask bit is 0 or the bits agree. -/
theorem cellMatches_masked (k m j : Bool) : cellMatches (k && m) (!k && m) j = true ↔ (j && m) = (k && m) := by
  cases k <;> cases m <;> simp [cellMatches_eq]

/-- Key k agrees with an entry in the subkey bits of relative position i whose mask bit is 1. -/
theorem entrySlice_matches_iff (e : Entry) (i : Nat) (k : BitVec 80) (epoch : Bool) :
    (entrySlice e i).matches k epoch = true ↔
      ((if epoch then e.e1 else e.e0) = true ∧ k &&& keySlice e.mask i = keySlice e.key i &&& keySlice e.mask i) := by
  have hcell : ∀ j, j < 80 → (cellMatches ((entrySlice e i).x.getLsbD j) ((entrySlice e i).y.getLsbD j) (k.getLsbD j) = true ↔
      (k &&& keySlice e.mask i).getLsbD j = (keySlice e.key i &&& keySlice e.mask i).getLsbD j) := by
    intro j hj
    simpa [entrySlice, Slice.sealed, hj] using cellMatches_masked ((keySlice e.key i).getLsbD j) ((keySlice e.mask i).getLsbD j) (k.getLsbD j)
  rw [Slice.matches_iff_cells, entrySlice_epoch, and_comm]
  refine and_congr_right fun _ => ⟨fun h => ?_, fun h j hj => (hcell j hj).2 (h ▸ rfl)⟩
  exact BitVec.eq_of_getLsbD_eq fun j hj => (hcell j hj).1 (h j hj)

/-- A free slice matches nothing: its epoch cell is invalid (R39). -/
theorem Slice.free_matches (k : BitVec 80) (epoch : Bool) : Slice.free.matches k epoch = false := by
  cases epoch <;> simp [Slice.matches, Slice.free]

end Sys2Proof.Machine
end

section
/-! What row writes store (R28, R51): a slot written is read back from every physical pan it was written to, and the slots
of an entry do not disturb one another. -/

namespace Sys2Proof.Machine

open Sys2Proof

/-- A table with several keys written to one value. -/
theorem tabGet_foldl_tabSet {α : Type} [DecidableEq α] (d x : α) (keys : List Nat) (t : Tab α) (m : Nat)
    (h : tabRising t = true) :
    tabGet d (keys.foldl (fun t n => tabSet d t n x) t) m = if m ∈ keys then x else tabGet d t m := by
  induction keys generalizing t with
  | nil => rfl
  | cons n keys ih =>
    rw [List.foldl_cons, ih _ (tabSet_rising d t n x h), tabGet_set d t n m x h]
    grind

/-- The keys that a row write of a slot reaches: its position in each physical pan that serves its pan (R51). -/
def writeKeys (idx : Nat) (s : State) : List Nat :=
  (writePans (idx / 16384) s).map fun k => physKey (idx / 16384 / 16) k (idx % 16384)

theorem slotKey_mem_writeKeys (idx : Nat) (s : State) : slotKey idx s ∈ writeKeys idx s := by
  simp [writeKeys, writePans, slotKey]

/-- A key a slot is written to has the slot's position in its pan. -/
theorem mod_of_mem_writeKeys {idx m : Nat} {s : State} (h : m ∈ writeKeys idx s) : m % 16384 = idx % 16384 := by
  obtain ⟨k, -, rfl⟩ := List.mem_map.1 h
  simp only [physKey]
  omega

/-- Outside a remap only the pan that searches use is written. -/
theorem writeKeys_of_no_remap {idx : Nat} {s : State} (h : ∀ r ∈ s.arr.remaps, r.pan ≠ idx / 16384) :
    writeKeys idx s = [slotKey idx s] := by
  have hnone : (s.arr.remaps.filter fun r => r.pan == idx / 16384 && r.step ≤ 5) = [] := by
    simpa [List.filter_eq_nil_iff] using fun r hr hp => absurd hp (h r hr)
  simp [writeKeys, writePans, slotKey, hnone]

theorem foldl_putSlice (c : Slice) (keys : List Nat) (s : State) : keys.foldl (fun s k => putSlice k c s) s =
    s.updArr fun a => { a with slices := keys.foldl (fun t k => tabSet Slice.free t k c) a.slices } := by
  induction keys generalizing s with
  | nil => rfl
  | cons k keys ih => rw [List.foldl_cons, ih]; rfl

theorem writeSlot_eq (idx : Nat) (c : Slice) (s : State) : writeSlot idx c s =
    s.updArr fun a => { a with slices := (writeKeys idx s).foldl (fun t k => tabSet Slice.free t k c) a.slices } := by
  rw [← foldl_putSlice, writeKeys, List.foldl_map]
  rfl

@[simp] theorem slotKey_writeSlot (idx : Nat) (c : Slice) (s : State) (j : Nat) : slotKey j (writeSlot idx c s) = slotKey j s := by
  rw [writeSlot_eq]
  rfl

@[simp] theorem writeKeys_writeSlot (idx : Nat) (c : Slice) (s : State) (j : Nat) :
    writeKeys j (writeSlot idx c s) = writeKeys j s := by
  rw [writeSlot_eq]
  rfl

theorem writeSlot_rising (idx : Nat) (c : Slice) (s : State) (h : tabRising s.arr.slices = true) :
    tabRising (writeSlot idx c s).arr.slices = true := by
  rw [writeSlot_eq]
  exact tabFold_rising (fun t k => tabSet_rising Slice.free t k c) _ _ h

theorem tabGet_writeSlot (idx : Nat) (c : Slice) (s : State) (m : Nat) (h : tabRising s.arr.slices = true) :
    tabGet Slice.free (writeSlot idx c s).arr.slices m =
      if m ∈ writeKeys idx s then c else tabGet Slice.free s.arr.slices m := by
  rw [writeSlot_eq]
  exact tabGet_foldl_tabSet Slice.free c _ _ m h

/-- Slots written one after another, slot `idx i` with slice `c i`. -/
def writeSlots (idx : Nat → Nat) (c : Nat → Slice) (is : List Nat) (s : State) : State :=
  is.foldl (fun s i => writeSlot (idx i) (c i) s) s

@[simp] theorem slotKey_writeSlots (idx : Nat → Nat) (c : Nat → Slice) (is : List Nat) (s : State) (j : Nat) :
    slotKey j (writeSlots idx c is s) = slotKey j s := by
  induction is generalizing s with
  | nil => rfl
  | cons i is ih => exact (ih _).trans (slotKey_writeSlot _ _ _ _)

/-- A key holds the one slice that is written to it, or is as before where no slot reaches it. -/
theorem tabGet_writeSlots (idx : Nat → Nat) (c : Nat → Slice) (is : List Nat) (s : State) (m : Nat) (v : Slice)
    (h : tabRising s.arr.slices = true) (hv : ∀ i ∈ is, m ∈ writeKeys (idx i) s → c i = v) :
    tabGet Slice.free (writeSlots idx c is s).arr.slices m =
      if ∃ i ∈ is, m ∈ writeKeys (idx i) s then v else tabGet Slice.free s.arr.slices m := by
  induction is generalizing s with
  | nil => simp [writeSlots]
  | cons i is ih =>
    have htail := ih (writeSlot (idx i) (c i) s) (writeSlot_rising _ _ _ h) (by
      intro j hj hm
      rw [writeKeys_writeSlot] at hm
      exact hv j (List.mem_cons_of_mem _ hj) hm)
    rw [tabGet_writeSlot _ _ _ _ h] at htail
    simp only [writeKeys_writeSlot] at htail
    refine htail.trans ?_
    by_cases hi : m ∈ writeKeys (idx i) s
    · simp [hi, hv i List.mem_cons_self hi]
    · simp [hi]

end Sys2Proof.Machine
end

section
/-! The slots of an entry that lies in one pan (R44), written and searched. -/

namespace Sys2Proof.Machine

open Sys2Proof

theorem panSlices_pos (width : Nat) : 0 < panSlices width := by
  unfold panSlices
  split <;> omega

/-- The slots of an entry at an aligned index lie side by side in one pan. -/
theorem idxAligned_fits {width idx : Nat} (h : idxAligned width idx = true) :
    idx % 16384 + panSlices width ≤ 16384 := by
  simp only [idxAligned, Bool.and_eq_true, beq_iff_eq] at h
  have hmod := h.1
  unfold panSlices at *
  split at * <;> omega

theorem entrySlots_eq {width : Nat} (hw : width < 3) (idx : Nat) :
    entrySlots width idx = (List.range (panSlices width)).map (idx + ·) := by
  simp [entrySlots, Nat.ne_of_lt hw]

/-- The slice that a write of an entry, or of none, stores at relative position i. -/
def storedSlice (e : Option Entry) (i : Nat) : Slice := match e with
  | some e => entrySlice e i
  | none => Slice.free

theorem writeEntrySlots_eq {width : Nat} (hw : width < 3) (idx : Nat) (e : Option Entry) (s : State) :
    writeEntrySlots width idx e s = writeSlots (idx + ·) (storedSlice e) (List.range (panSlices width)) s := by
  simp only [writeEntrySlots, writeSlots, entrySlots_eq hw, List.length_map, List.length_range]
  refine List.foldl_rel (r := Eq) rfl fun i hi t _ ht => ?_
  subst ht
  have hget : ((List.range (panSlices width)).map (idx + ·)).getD i 0 = idx + i := by
    simp [List.getD, List.mem_range.1 hi]
  rw [hget]
  cases e <;> rfl

/-- A search of a slot of an entry just written finds the slice written for it. -/
theorem sliceAt_writeEntrySlots {width idx : Nat} (hw : width < 3) (ha : idxAligned width idx = true) (e : Option Entry)
    {s : State} (hs : Inv s) {i : Nat} (hi : i < panSlices width) :
    sliceAt (idx + i) (writeEntrySlots width idx e s) = storedSlice e i := by
  have hfit := idxAligned_fits ha
  have hkey := slotKey_mem_writeKeys (idx + i) s
  have honly : ∀ j ∈ List.range (panSlices width), slotKey (idx + i) s ∈ writeKeys (idx + j) s →
      storedSlice e j = storedSlice e i := by
    intro j hj hm
    have hpos := (mod_of_mem_writeKeys hm).symm.trans (mod_of_mem_writeKeys hkey)
    have hj := List.mem_range.1 hj
    rw [show j = i by omega]
  rw [writeEntrySlots_eq hw, sliceAt, slotKey_writeSlots, tabGet_writeSlots _ _ _ _ _ _ hs.arrTabs.1 honly]
  exact if_pos ⟨i, List.mem_range.2 hi, hkey⟩

/-- Outside a remap, a slot of no key of the entry keeps its slice. -/
theorem sliceAt_writeEntrySlots_frame {width idx x : Nat} (hw : width < 3) (ha : idxAligned width idx = true)
    (e : Option Entry) {s : State} (hs : Inv s) (hremap : ∀ r ∈ s.arr.remaps, r.pan ≠ idx / 16384)
    (hx : slotKey x s ∉ (entrySlots width idx).map (slotKey · s)) :
    sliceAt x (writeEntrySlots width idx e s) = sliceAt x s := by
  have hfit := idxAligned_fits ha
  have hmiss : ∀ i ∈ List.range (panSlices width), slotKey x s ∉ writeKeys (idx + i) s := by
    intro i hi hm
    have hpan : (idx + i) / 16384 = idx / 16384 := by have := List.mem_range.1 hi; omega
    rw [writeKeys_of_no_remap (by rwa [hpan]), List.mem_singleton] at hm
    exact hx (List.mem_map.2 ⟨idx + i, by simpa [entrySlots_eq hw] using hi, hm.symm⟩)
  rw [writeEntrySlots_eq hw, sliceAt, slotKey_writeSlots,
    tabGet_writeSlots _ _ _ _ _ Slice.free hs.arrTabs.1 fun i hi hm => absurd hm (hmiss i hi)]
  exact if_neg fun ⟨i, hi, hm⟩ => hmiss i hi hm

/-- An entry within one pan matches when each of its slices does. -/
theorem entryMatches_iff {width : Nat} (hw : width < 3) (idx : Nat) (k : BitVec 640) (epoch : Bool) (s : State) :
    entryMatches width (idx / 16384) (idx % 16384) k epoch s = true ↔
      ∀ i, i < panSlices width → (sliceAt (idx + i) s).matches (keySlice k i) epoch = true := by
  have hidx : idx / 16384 * 16384 + idx % 16384 = idx := Nat.div_add_mod' idx 16384
  simp only [entryMatches, hidx, entrySlots_eq hw, List.all_eq_true, List.length_map, List.length_range, List.mem_range]
  refine forall₂_congr fun i hi => ?_
  rw [show ((List.range (panSlices width)).map (idx + ·)).getD i 0 = idx + i by simp [List.getD, hi]]

/-- R38, R44: a search of the pan compares just the bits of the mask of the entry written there. -/
theorem entryMatches_written_iff {width idx : Nat} (hw : width < 3) (ha : idxAligned width idx = true) (e : Entry)
    (k : BitVec 640) (epoch : Bool) {s : State} (hs : Inv s) :
    entryMatches width (idx / 16384) (idx % 16384) k epoch (writeEntrySlots width idx (some e) s) = true ↔
      ((if epoch then e.e1 else e.e0) = true ∧ ∀ i, i < panSlices width →
        keySlice k i &&& keySlice e.mask i = keySlice e.key i &&& keySlice e.mask i) := by
  have hslice : ∀ i, i < panSlices width →
      ((sliceAt (idx + i) (writeEntrySlots width idx (some e) s)).matches (keySlice k i) epoch = true ↔
        ((if epoch then e.e1 else e.e0) = true ∧
          keySlice k i &&& keySlice e.mask i = keySlice e.key i &&& keySlice e.mask i)) := by
    intro i hi
    rw [sliceAt_writeEntrySlots hw ha (some e) hs hi]
    exact entrySlice_matches_iff e i (keySlice k i) epoch
  rw [entryMatches_iff hw, forall₂_congr hslice]
  exact ⟨fun h => ⟨(h 0 (panSlices_pos width)).1, fun i hi => (h i hi).2⟩, fun h i hi => ⟨h.1, h.2 i hi⟩⟩

/-- R39: an entry written as free matches no key. -/
theorem entryMatches_freed {width idx : Nat} (hw : width < 3) (ha : idxAligned width idx = true)
    (k : BitVec 640) (epoch : Bool) {s : State} (hs : Inv s) :
    entryMatches width (idx / 16384) (idx % 16384) k epoch (writeEntrySlots width idx none s) = false := by
  rw [Bool.eq_false_iff, Ne, entryMatches_iff hw]
  intro h
  have hfirst := h 0 (panSlices_pos width)
  rw [sliceAt_writeEntrySlots hw ha none hs (panSlices_pos width)] at hfirst
  exact absurd hfirst (by simp [storedSlice, Slice.free_matches])

/-- Settles O12: cell by cell for one slice, then slot by slot for an entry, whose slots have different positions. -/
theorem aWrittenEntryIsWhatIsSearched : Obligations.AWrittenEntryIsWhatIsSearched := by
  unfold Obligations.AWrittenEntryIsWhatIsSearched
  refine ⟨⟨Slice.matches_iff_cells, fun e i => ⟨rfl, rfl, entrySlice_okX e i, entrySlice_okY e i⟩, entrySlice_matches_iff⟩, ?_⟩
  intro width idx e k epoch s hs hw ha
  exact ⟨entryMatches_written_iff hw ha e k epoch hs, entryMatches_freed hw ha k epoch hs, fun x _ hremap hx =>
    ⟨sliceAt_writeEntrySlots_frame hw ha (some e) hs hremap hx, sliceAt_writeEntrySlots_frame hw ha none hs hremap hx⟩⟩

end Sys2Proof.Machine
end

section
/-! The epoch vector of a stamp (R22): which epoch of each domain a search selects. -/

namespace Sys2Proof.Machine

open Sys2Proof

/-- Single bits packed side by side are read back one by one. -/
theorem packNat_bits (f : Nat → Nat) (hf : ∀ i, f i < 2) (n : Nat) :
    packNat ((List.range n).map fun i => (i, f i)) < 2 ^ n ∧
      ∀ d, d < n → (packNat ((List.range n).map fun i => (i, f i))).testBit d = decide (f d = 1) := by
  induction n with
  | zero => simp [packNat]
  | succ n ih =>
    obtain ⟨hlt, hbit⟩ := ih
    have hcons : packNat ((List.range (n + 1)).map fun i => (i, f i)) =
        2 ^ n * f n + packNat ((List.range n).map fun i => (i, f i)) := by
      simp [packNat, List.range_succ, Nat.shiftLeft_eq, Nat.mul_comm, Nat.add_comm]
    have hn : f n = 0 ∨ f n = 1 := by have := hf n; omega
    rw [hcons]
    constructor
    · rcases hn with h | h <;> rw [h] <;> omega
    · intro d hd
      rw [Nat.testBit_two_pow_mul_add _ hlt]
      split
      next hdn => exact hbit d hdn
      next hdn =>
        obtain rfl : d = n := by omega
        rcases hn with h | h <;> simp [h]

/-- R22: bit d of the vector is the low bit of the epoch of domain d that is live at the stamp. -/
theorem epochVector_getLsbD (stamp : Nat) {d : Nat} (s : State) (hd : d < 8) :
    (epochVector stamp s).getLsbD d = decide (liveEpoch (domAt d s) stamp % 2 = 1) := by
  rw [epochVector, BitVec.getLsbD_ofNat, decide_eq_true hd, Bool.true_and]
  exact (packNat_bits (fun d => liveEpoch (domAt d s) stamp % 2) (fun _ => Nat.mod_lt _ (by decide)) 8).2 d hd

/-- R187: without a recorded T the domain's epoch is the one its counter shows, whatever the stamp. -/
theorem liveEpoch_of_no_time {m : Domain} (stamp : Nat) (ht : m.t = none) : liveEpoch m stamp = m.cnt := by
  simp [liveEpoch, ht]

/-- Before the flip, the next epoch is live from the recorded T on. -/
theorem liveEpoch_of_not_flipped {m : Domain} {t : Nat} (stamp : Nat) (ht : m.t = some t) (hf : m.flipped = false)
    (hst : m.st ≠ .prepared) : liveEpoch m stamp = if t ≤ stamp * 65536 then m.cnt + 1 else m.cnt := by
  simp [liveEpoch, ht, hf, hst]

/-- From the flip to the retirement, the epoch before the flip is still live before T. -/
theorem liveEpoch_mod_two_of_flipped {m : Domain} {t : Nat} (stamp : Nat) (ht : m.t = some t) (hf : m.flipped = true)
    (hpos : 0 < m.cnt) : liveEpoch m stamp % 2 = (if t ≤ stamp * 65536 then m.cnt else m.cnt - 1) % 2 := by
  simp only [liveEpoch, ht, hf, if_true, ← Nat.not_le, ite_not]
  split
  · rfl
  · omega

end Sys2Proof.Machine
end

section
/-! A domain changed and its event raised (Table 7.11): the one change, and all that stays. -/

namespace Sys2Proof.Machine

open Sys2Proof

theorem domAt_eq_of_epc {s u : State} (h : u.epc = s.epc) (k : Nat) : domAt k u = domAt k s := by rw [domAt, h, domAt]

/-- A domain just changed reads as changed, every other domain as before. -/
theorem domAt_updDom (d k : Nat) (f : Domain → Domain) {s : State} (hs : Inv s) :
    domAt k (updDom d f s) = if k = d then f (domAt d s) else domAt k s :=
  tabGet_set Domain.idle s.epc.doms d k (f (domAt d s)) hs.epcTabs

theorem bit_or_bitMask (w : Word) {i : Nat} (hi : i < 32) : bit (w ||| bitMask i) i = true := by
  change (w ||| bitMask i).getLsbD i = true
  simp [bitMask, BitVec.getLsbD_ofNat, hi]

/-- The 24 event bits of EPC_INT_STAT are not reserved. -/
theorem epcIntStat_live {i : Nat} (hi : i < 24) : bitMask i &&& ~~~(regLive Reg.epcIntStat) = 0 := by
  revert hi i
  decide

theorem bit_epcEvent {b d : Nat} {s : State} (hs : Inv s) (hbd : b + d < 24) :
    bit (regGet Reg.epcIntStat (epcEvent b d s)) (b + d) = true := by
  rw [epcEvent, regGet_raiseInt_or (en := Reg.epcIntEn) rfl _ s hs (epcIntStat_live hbd)]
  exact bit_or_bitMask _ (by omega)

/-- A change of one domain with its event: the domain is as changed, the event bit is set, and nothing else moves. -/
theorem epcEvent_updDom (b d : Nat) (f : Domain → Domain) {s : State} (hs : Inv s) (hbd : b + d < 24) :
    let u := epcEvent b d (updDom d f s)
    domAt d u = f (domAt d s) ∧ bit (regGet Reg.epcIntStat u) (b + d) = true ∧ (∀ k, k ≠ d → domAt k u = domAt k s) ∧
      RegsBut [Reg.epcIntStat] s u ∧ Only [.regs, .epc, .err] s u := by
  intro u
  have hdom := updDom_frame d f s
  have hevent := epcEvent_frame b d (updDom d f s)
  have hread : ∀ k, domAt k u = domAt k (updDom d f s) := domAt_eq_of_epc (hevent.only .epc (by decide))
  have hregs : RegF [Reg.epcIntStat] s u :=
    RegF.app (raiseInt_regF (en := Reg.epcIntEn) rfl _ _) (fun _ h => h) (RegF.frame hdom (by decide) (RegF.refl _ s))
  refine ⟨?_, bit_epcEvent (hdom.inv hs) hbd, ?_, hregs.but hs.rising, ?_⟩
  · rw [hread, domAt_updDom d d f hs, if_pos rfl]
  · intro k hk
    rw [hread, domAt_updDom d k f hs, if_neg hk]
  · exact (Frame.app hevent (by decide) (hdom.mono (by decide))).only

/-- The device enters no power state, so there is no agreement to withdraw (R343). -/
theorem withdraw_of_not_entering (unit : Nat) {s : State} (h : s.pwr.entering = none) : withdraw unit s = s := by
  simp [withdraw, h]

/-- What a flip at T does to its domain (R178, R184). -/
def Domain.flipAt (t : Nat) (m : Domain) : Domain :=
  { m with cnt := m.next, st := .idle, recon := true, owner := 0, t := some t, flipped := true, old := m.journal, journal := [] }

/-- While no entry to a power state is under way, a flip is the change of its domain with the FLIP event. -/
theorem flip_eq_of_not_entering (d t : Nat) {s : State} (h : s.pwr.entering = none) :
    flip d t s = epcEvent 0 d (updDom d (Domain.flipAt t) s) := by
  have hpwr : (epcEvent 0 d (updDom d (Domain.flipAt t) s)).pwr = s.pwr := (epcEvent_frame _ _ _).only .pwr (by decide)
  exact withdraw_of_not_entering 4 ((congrArg PwrSt.entering hpwr).trans h)

end Sys2Proof.Machine
end

section
/-! Row writes queued for the slots of a journal (R40, R187): what each slot gets, and that queueing changes nothing else. -/

namespace Sys2Proof.Machine

open Sys2Proof

/-- t is s with more row writes at the end of the queue. -/
def Queued (s t : State) : Prop := ∃ qs, t = s.updArr fun a => { a with mreqs := a.mreqs ++ qs }

theorem Queued.refl (s : State) : Queued s s := ⟨[], by simp [State.updArr]⟩

theorem Queued.trans {s t u : State} (hst : Queued s t) (htu : Queued t u) : Queued s u := by
  obtain ⟨ps, rfl⟩ := hst
  obtain ⟨qs, rfl⟩ := htu
  exact ⟨ps ++ qs, by simp [State.updArr]⟩

theorem Queued.foldl {α : Type} {g : State → α → State} (hg : ∀ s x, Queued s (g s x)) (l : List α) (s : State) :
    Queued s (l.foldl g s) := by
  induction l generalizing s with
  | nil => exact Queued.refl s
  | cons x l ih => exact (hg s x).trans (ih (g s x))

theorem Queued.mem {s t : State} (h : Queued s t) {q : MReq} (hq : q ∈ s.arr.mreqs) : q ∈ t.arr.mreqs := by
  obtain ⟨qs, rfl⟩ := h
  exact List.mem_append_left qs hq

theorem Queued.slices {s t : State} (h : Queued s t) : t.arr.slices = s.arr.slices := by obtain ⟨qs, rfl⟩ := h; rfl

theorem Queued.dir {s t : State} (h : Queued s t) : t.arr.dir = s.arr.dir := by obtain ⟨qs, rfl⟩ := h; rfl

theorem Queued.epc {s t : State} (h : Queued s t) : t.epc = s.epc := by obtain ⟨qs, rfl⟩ := h; rfl

theorem Queued.tableAt {s t : State} (h : Queued s t) (n : Nat) : tableAt n t = tableAt n s := by obtain ⟨qs, rfl⟩ := h; rfl

theorem Queued.dirAt {s t : State} (h : Queued s t) (idx : Nat) : dirAt idx t = dirAt idx s := by obtain ⟨qs, rfl⟩ := h; rfl

/-- A row write of the entry at an index, for a purpose, is queued. -/
def RowQueued (idx : Nat) (tag : MTag) (e : Option Entry) (s : State) : Prop :=
  ∃ q ∈ s.arr.mreqs, q.idx = idx ∧ q.tag = tag ∧ q.entry = e

theorem RowQueued.mono {idx : Nat} {tag : MTag} {e : Option Entry} {s t : State} (h : RowQueued idx tag e s)
    (hst : Queued s t) : RowQueued idx tag e t := by
  obtain ⟨q, hq, hspec⟩ := h
  exact ⟨q, hst.mem hq, hspec⟩

section
variable (d : TableDesc) (t idx : Nat) (e : Option Entry) (notBefore : Nat) (movedFrom movedTo : Option Nat) (kept : Bool)
  (bucket : Option Nat) (tag : MTag) (s : State)

theorem queueRows_queued : Queued s (queueRows d t idx e notBefore movedFrom movedTo kept bucket tag s) :=
  Queued.foldl (fun _ _ => ⟨[_], rfl⟩) _ s

/-- The primary copy comes first; the mirror copy of a guarded table joins it. -/
theorem queueRows_rowQueued : RowQueued idx tag e (queueRows d t idx e notBefore movedFrom movedTo kept bucket tag s) := by
  rw [queueRows, copies, List.foldl_cons]
  refine RowQueued.mono ?_ (Queued.foldl (fun _ _ => ⟨[_], rfl⟩) _ _)
  exact ⟨_, List.mem_concat_self, rfl, rfl, rfl⟩

end

theorem settleSlot_queued (n : Nat) (tag : MTag) (kept : Bool) (s : State) (x : Nat × Nat) :
    Queued s (settleSlot n tag kept s x) := by
  unfold settleSlot
  split
  · split
    · split
      · exact Queued.refl s
      · exact queueRows_queued ..
    · exact queueRows_queued ..
  · exact Queued.refl s

/-- R40: a slot live in the epoch that stays gets both E bits, unless it has them, and any other slot none. -/
theorem settleSlot_rowQueued {n : Nat} (tag : MTag) (kept : Bool) {s : State} {x : Nat × Nat} {td : TableDesc} {e : Entry}
    (htab : tableAt x.2 s = some td) (hdir : dirAt x.1 s = some e) (hneeds : e.live n = false ∨ (e.e0 && e.e1) = false) :
    RowQueued x.1 tag (if e.live n then some e.both else none) (settleSlot n tag kept s x) := by
  simp only [settleSlot, htab, hdir]
  by_cases hlive : e.live n = true
  · have hhalf : ¬(e.e0 && e.e1) = true := by simpa [hlive] using hneeds
    rw [if_pos hlive, if_pos hlive, if_neg hhalf]
    exact queueRows_rowQueued ..
  · rw [if_neg hlive, if_neg hlive]
    exact queueRows_rowQueued ..

/-- The slots of a journal settled one after another. -/
def settleSlots (n : Nat) (tag : MTag) (kept : Bool) (l : List (Nat × Nat)) (s : State) : State :=
  l.foldl (fun s x => settleSlot n tag kept s x) s

theorem settleSlots_queued (n : Nat) (tag : MTag) (kept : Bool) (l : List (Nat × Nat)) (s : State) :
    Queued s (settleSlots n tag kept l s) := Queued.foldl (settleSlot_queued n tag kept) l s

/-- Every slot of the journal gets its write: those before it leave its table and its entry alone, those after it the write. -/
theorem settleSlots_rowQueued {n : Nat} (tag : MTag) (kept : Bool) {l : List (Nat × Nat)} {s : State} {x : Nat × Nat}
    {td : TableDesc} {e : Entry} (hx : x ∈ l) (htab : tableAt x.2 s = some td) (hdir : dirAt x.1 s = some e)
    (hneeds : e.live n = false ∨ (e.e0 && e.e1) = false) :
    RowQueued x.1 tag (if e.live n then some e.both else none) (settleSlots n tag kept l s) := by
  obtain ⟨before, after, rfl⟩ := List.append_of_mem hx
  have hbefore := settleSlots_queued n tag kept before s
  rw [settleSlots, List.foldl_append, List.foldl_cons]
  refine RowQueued.mono ?_ (settleSlots_queued n tag kept after _)
  exact settleSlot_rowQueued tag kept ((hbefore.tableAt x.2).trans htab) ((hbefore.dirAt x.1).trans hdir) hneeds

end Sys2Proof.Machine
end

section
/-! What SCHEDULED_FLIP, EPOCH_RETIRE, RECONCILIATION_DONE and DISCARD_DONE do, each when its condition holds and when not
(R40, R182, R184, R187). -/

namespace Sys2Proof.Machine

open Sys2Proof

section
variable {d : Fin 8} {s : State}

theorem exec_scheduledFlip_due {t : Nat} (ht : (domAt d.val s).t = some t) (hst : (domAt d.val s).st = .pending)
    (hdue : t ≤ todFrac s) (hxing : xingDead 43 s = false) (hpow : powerState s ≤ 1) :
    exec (.scheduledFlip d) s = .next (flip d.val t s) := by
  simp [exec, execScheduledFlip, ht, hst, hdue, hxing, hpow]

theorem exec_scheduledFlip_early {t : Nat} (ht : (domAt d.val s).t = some t) (hearly : todFrac s < t) :
    exec (.scheduledFlip d) s = .next s := by
  simp [exec, execScheduledFlip, ht, Nat.not_le.2 hearly]

/-- The state after the retirement of the old epoch: T cleared, and the slots of the committed batch to be settled. -/
def retired (d : Nat) (s : State) : State :=
  settleSlots (domAt d s).cnt (.recon d) true (domAt d s).old (updDom d (fun m => { m with t := none, flipped := false }) s)

theorem exec_epochRetire_due {t : Nat} (ht : (domAt d.val s).t = some t) (hf : (domAt d.val s).flipped = true)
    (hnone : noneBefore t s = true) : exec (.epochRetire d) s = .next (retired d.val s) := by
  simp [exec, execEpochRetire, retired, settleSlots, ht, hf, hnone]

/-- R33: a search stamped before T keeps the old epoch. -/
theorem exec_epochRetire_waits {t : Nat} (ht : (domAt d.val s).t = some t) (hsome : noneBefore t s = false) :
    exec (.epochRetire d) s = .next s := by
  simp [exec, execEpochRetire, ht, hsome]

theorem domAt_retired (k d : Nat) {s : State} (hs : Inv s) :
    domAt k (retired d s) = if k = d then { domAt d s with t := none, flipped := false } else domAt k s :=
  (domAt_eq_of_epc (settleSlots_queued ..).epc k).trans (domAt_updDom d k _ hs)

/-- No row write of a purpose waits. -/
theorem not_any_tag {tag : MTag} (h : ∀ q ∈ s.arr.mreqs, q.tag ≠ tag) :
    (s.arr.mreqs.any fun q => decide (q.tag = tag)) = false := by
  simpa using h

theorem exec_reconciliationDone (hr : (domAt d.val s).recon = true) (ht : (domAt d.val s).t = none)
    (hq : ∀ q ∈ s.arr.mreqs, q.tag ≠ .recon d.val) : exec (.reconciliationDone d) s =
      .next (epcEvent 8 d.val (updDom d.val (fun m => { m with recon := false, hold := false, old := [] }) s)) := by
  simp [exec, execReconciliationDone, hr, ht, not_any_tag hq]

/-- The state after a discard, but for the completion of the BATCH_END that asked for it. -/
def discarded (d : Nat) (s : State) : State :=
  epcEvent 16 d (updDom d (fun m => { m with st := .idle, owner := 0, journal := [], discarding := false }) s)

/-- A running BATCH_END of a domain. -/
def endsBatchOf (d : Nat) (c : Cmd) : Bool := decide (c.stage = .running) && opOf c.hdr == 0x21 && domOf c.hdr == d

/-- The completion of the BATCH_END that asked for a discard, where one did. -/
def completeDiscard (o : Option Cmd) (u : State) : State := match o with
  | some c => complete c.id 0 0 0 0 u
  | none => u

theorem exec_discardDone (hd : (domAt d.val s).discarding = true) (hq : ∀ q ∈ s.arr.mreqs, q.tag ≠ .discard d.val) :
    exec (.discardDone d) s =
      .next (completeDiscard (s.upd.cmds.find? (endsBatchOf d.val)) (discarded d.val s)) := by
  have hcmds : (discarded d.val s).upd = s.upd := (epcEvent_frame _ _ _).only .upd (by decide)
  rw [← hcmds]
  simp only [exec, execDiscardDone, hd, not_any_tag hq, Bool.not_false, Bool.and_self, if_true]
  rfl

theorem find_endsBatchOf_eq_none {cs : List Cmd} (d : Nat) (h : ∀ c ∈ cs, c.stage ≠ .running) :
    cs.find? (endsBatchOf d) = none := by
  simpa [endsBatchOf] using fun c hc hrun => absurd hrun (h c hc)

end

end Sys2Proof.Machine
end

section
/-! The epochs of a domain from the flip to the end of its reconciliation or discard. -/

namespace Sys2Proof.Machine

open Sys2Proof

/-- R22, R187: what the epoch vector selects, without a recorded T, before the flip and after it. -/
theorem epochVector_follows_time (stamp d : Nat) (s : State) (hd : d < 8) :
    let m := domAt d s
    let odd := (epochVector stamp s).getLsbD d
    (m.t = none → odd = decide (m.cnt % 2 = 1)) ∧
    (∀ t, m.t = some t → m.flipped = false → m.st ≠ .prepared →
      odd = decide ((if t ≤ stamp * 65536 then m.cnt + 1 else m.cnt) % 2 = 1)) ∧
    (∀ t, m.t = some t → m.flipped = true → 0 < m.cnt →
      odd = decide ((if t ≤ stamp * 65536 then m.cnt else m.cnt - 1) % 2 = 1)) := by
  simp only [epochVector_getLsbD stamp s hd]
  refine ⟨fun ht => ?_, fun t ht hf hst => ?_, fun t ht hf hpos => ?_⟩
  · rw [liveEpoch_of_no_time stamp ht]
  · rw [liveEpoch_of_not_flipped stamp ht hf hst]
  · rw [liveEpoch_mod_two_of_flipped stamp ht hf hpos]

/-- Settles O17: the epoch vector by the three phases of a recorded T, and each of the four events by what it does to its
domain, its status bit and the queue of row writes. -/
theorem epochsFlipRetireAndReconcile : Obligations.EpochsFlipRetireAndReconcile := by
  unfold Obligations.EpochsFlipRetireAndReconcile
  refine ⟨epochVector_follows_time, fun d s hs => ?_⟩
  intro m others
  have hd := d.isLt
  refine ⟨?flips, fun t ht _ => exec_scheduledFlip_early ht, ?retires, fun t => exec_epochRetire_waits, ?reconciles, ?discards⟩
  case flips =>
    intro t ht hst hdue hxing hpow hentering
    have hflip := epcEvent_updDom 0 d.val (Domain.flipAt t) hs (by omega)
    have hm : Domain.flipAt t m = { m with cnt := (m.cnt + 1) % 2 ^ 32, st := .idle, recon := true, owner := 0, flipped := true, old := m.journal, journal := [] } := by
      rw [Domain.flipAt, ← ht]
      rfl
    rw [Nat.zero_add, ← flip_eq_of_not_entering d.val t hentering] at hflip
    obtain ⟨hdom, hrest⟩ := hflip
    exact ⟨_, exec_scheduledFlip_due ht hst hdue hxing hpow, hdom.trans hm, hrest⟩
  case retires =>
    intro t ht hf hnone
    have hexec := exec_epochRetire_due ht hf hnone
    have hqueued : Queued (updDom d.val (fun m => { m with t := none, flipped := false }) s) (retired d.val s) := settleSlots_queued ..
    refine ⟨_, hexec, ?_, fun k hk => ?_, fun x td e hx htab hdir hneeds => ?_, hqueued.slices, hqueued.dir,
      (execEpochRetire_frame d s _ hexec).only⟩
    · rw [domAt_retired d.val d.val hs, if_pos rfl]
    · rw [domAt_retired k d.val hs, if_neg hk]
    · exact settleSlots_rowQueued _ true hx htab hdir hneeds
  case reconciles =>
    intro hr ht hq
    exact ⟨_, exec_reconciliationDone hr ht hq, epcEvent_updDom 8 d.val _ hs (by omega)⟩
  case discards =>
    intro hdisc hq
    obtain ⟨hdom, hbit, hothers, -, honly⟩ := epcEvent_updDom 16 d.val
      (fun m => { m with st := .idle, owner := 0, journal := [], discarding := false }) hs (by omega)
    refine ⟨_, discarded d.val s, exec_discardDone hdisc hq, hdom, hbit, hothers, honly, fun hidle => ?_, fun c hc => ?_⟩
    · rw [find_endsBatchOf_eq_none d.val hidle]
      rfl
    · rw [show s.upd.cmds.find? (endsBatchOf d.val) = some c from hc]
      rfl

end Sys2Proof.Machine
end
